-- ==== Sys2Proof/Word.lean ====
section
/-! DEFINITION. The word types of the Torlis 3200: bytes, 64-bit scalars, 96-bit instruction words (spec/04 R70). -/

namespace Sys2Proof

/-- One byte of memory. -/
abbrev Byte := BitVec 8

/-- A scalar register (spec/03 R53). -/
abbrev Word := BitVec 64

/-- An instruction word (spec/04 R70). -/
abbrev IWord := BitVec 96

/-- A run of bytes, lowest address first. A view element or a latch holds 256 of them (spec/23 R371). -/
abbrev Bytes := List Byte

end Sys2Proof
end

