-- ==== Sys2Proof/Syntax.lean ====
section
/-! DEFINITION. The instructions of the Cherad instruction set and the events of the device: one constructor of
`Instr` for each row of spec/opcode_table.json. The first 130 are instruction words (spec/20 to 23); the others are
the events and parts of instructions that the table lists as whole steps of their own (spec/95). -/

namespace Sys2Proof

/-- The three hardware contexts of a core (spec/03 R53). A hub core runs its code in `C`. -/
inductive Ctx where
  | L | C | S
  deriving DecidableEq, Repr

/-- The four command chains (spec/08 R153), named by their timeline counters (spec/04 R95). -/
inductive ChainId where
  | tci | tmx | tco | tsx
  deriving DecidableEq, Repr

/-- The guard field G of a word (spec/04 R71, R73). -/
structure Guard where
  neg : Bool
  reg : BitVec 5
  bit : BitVec 6
  deriving DecidableEq, Repr

/-- A scalar source: register or latch (spec/04 R72). -/
inductive Src where
  | reg (n : BitVec 5)
  | latch (n : BitVec 4)
  deriving DecidableEq, Repr

/-- A scalar destination with write-back suppress and latch capture (spec/04 R71). -/
structure Dst where
  reg : BitVec 5
  wbs : Bool
  lt : BitVec 4
  deriving DecidableEq, Repr

/-- A view element wv.i (spec/04 R72). -/
structure VEl where
  view : BitVec 3
  idx : BitVec 8
  deriving DecidableEq, Repr

/-- A vector source: view element or latch. -/
inductive VSrc where
  | el (e : VEl)
  | latch (n : BitVec 4)
  deriving DecidableEq, Repr

/-- A vector destination. -/
structure VDst where
  el : VEl
  wbs : Bool
  lt : BitVec 4
  deriving DecidableEq, Repr

/-- The format codes 0 to 14 (spec/04 R81). -/
inductive Fmt where
  | fp32 | bf16 | fp16 | e4m3 | e5m2 | e3m2 | e2m3 | e2m1 | lns8 | lns6 | int8 | int4 | int32 | int16 | int64
  deriving DecidableEq, Repr

/-- The rounding field RND: modes 0 to 5, and 7 for dynamic (spec/04 R79, spec/06 R124). -/
inductive Rnd where
  | rne | rtz | rdn | rup | rna | sr | dyn
  deriving DecidableEq, Repr

/-- SCOPE (spec/04 R77, spec/10 R174). -/
inductive Scope where
  | core | gang | die | device | system
  deriving DecidableEq, Repr

/-- ORDER (spec/04 R77). -/
inductive Order where
  | relaxed | acquire | release | acqRel
  deriving DecidableEq, Repr

/-- SIZE (spec/04 R77). -/
inductive Size where
  | b8 | b16 | b32 | b64
  deriving DecidableEq, Repr

/-- SPACE of an M-class word (spec/04 R77). -/
inductive Space where
  | global | scratch
  deriving DecidableEq, Repr

/-- Conditions of CMP and of integer VCMP (spec/20 R301, spec/23 R378). -/
inductive Cond where
  | eq | ne | lt | ge | ltu | geu
  deriving DecidableEq, Repr

/-- Conditions of FCMP and of floating VCMP (spec/21 R309, spec/23 R378). -/
inductive FCond where
  | eq | lt | le | un
  deriving DecidableEq, Repr

/-- The condition of VCMP, by the kind of its format. -/
inductive VCond where
  | int (c : Cond)
  | flt (c : FCond)
  deriving DecidableEq, Repr

/-- ATOM operations (spec/20 R290). -/
inductive AtomOp where
  | add | xchg | and | or | min | max | smin | smax | xor
  deriving DecidableEq, Repr

/-- BSYNC reductions (spec/20 R295). -/
inductive BsyncOp where
  | or | and | min | max | add
  deriving DecidableEq, Repr

/-- VRED operations (spec/23 R394). -/
inductive VredOp where
  | add | min | max | and | or | xor
  deriving DecidableEq, Repr

/-- View kinds that VIEW can set (spec/23 R383). -/
inductive ViewKind where
  | vec | tile | acc
  deriving DecidableEq, Repr

/-- Class S, register form with two sources (spec/20 R279). -/
structure AluRR where
  g : Guard
  d : Dst
  a : Src
  b : Src
  deriving DecidableEq, Repr

/-- Class S, register-immediate form (spec/04 R75). -/
structure AluRI where
  g : Guard
  d : Dst
  a : Src
  imm : BitVec 32
  deriving DecidableEq, Repr

/-- One scalar source, one scalar destination: CLZ, POPC, LIFE, MSTAT and the like. -/
structure OpDA where
  g : Guard
  d : Dst
  a : Src
  deriving DecidableEq, Repr

/-- A scalar destination only. -/
structure OpD where
  g : Guard
  d : Dst
  deriving DecidableEq, Repr

/-- A scalar source only. -/
structure OpA where
  g : Guard
  a : Src
  deriving DecidableEq, Repr

/-- Two scalar sources, no destination. -/
structure OpAB where
  g : Guard
  a : Src
  b : Src
  deriving DecidableEq, Repr

/-- D used as a third source (COPY, SEND). -/
structure OpSrc3 where
  g : Guard
  d : BitVec 5
  a : Src
  b : Src
  deriving DecidableEq, Repr

/-- LDI (spec/21 R321). -/
structure OpDImm where
  g : Guard
  d : Dst
  imm : BitVec 32
  deriving DecidableEq, Repr

/-- ADDPC (spec/20 R284). -/
structure OpPc where
  g : Guard
  d : Dst
  imm : BitVec 20
  deriving DecidableEq, Repr

/-- Class C words with an immediate only. -/
structure OpImm where
  g : Guard
  imm : BitVec 32
  deriving DecidableEq, Repr

/-- Class F arithmetic (spec/04 R76, spec/21 R309). -/
structure FOp where
  g : Guard
  d : Dst
  a : Src
  b : Src
  fmt : Fmt
  rnd : Rnd
  deriving DecidableEq, Repr

/-- FCVT (spec/21 R312). -/
structure FCvtOp where
  g : Guard
  d : Dst
  a : Src
  fmt : Fmt
  fmt2 : Fmt
  rnd : Rnd
  deriving DecidableEq, Repr

/-- LD and LDA (spec/21 R318). -/
structure LoadOp where
  g : Guard
  d : Dst
  a : Src
  size : Size
  space : Space
  off : BitVec 12
  sx : Bool
  deriving DecidableEq, Repr

/-- ST and STL (spec/22 R356). -/
structure StoreOp where
  g : Guard
  a : Src
  b : Src
  size : Size
  space : Space
  off : BitVec 12
  deriving DecidableEq, Repr

/-- ATOM and CAS (spec/20 R289, R298). -/
structure AtomOpF where
  g : Guard
  d : Dst
  a : Src
  b : Src
  scope : Scope
  order : Order
  size : Size
  space : Space
  off : BitVec 12
  deriving DecidableEq, Repr

/-- Element-wise vector words (spec/04 R79, spec/23 R372). -/
structure VOp1 where
  g : Guard
  d : VDst
  a : VSrc
  mask : BitVec 5
  fmt : Fmt
  rnd : Rnd
  deriving DecidableEq, Repr

structure VOp2 where
  g : Guard
  d : VDst
  a : VSrc
  b : VSrc
  mask : BitVec 5
  fmt : Fmt
  rnd : Rnd
  deriving DecidableEq, Repr

structure VOp3 where
  g : Guard
  d : VDst
  a : VSrc
  b : VSrc
  c : VSrc
  mask : BitVec 5
  fmt : Fmt
  rnd : Rnd
  deriving DecidableEq, Repr

/-- A queue that the resident system creates (spec/12 R204): its descriptor, and whether its ring lies in host memory. -/
structure QueueMade where
  num : Nat
  root : BitVec 64
  tenant : Nat
  prio : Nat
  size : Nat
  base : BitVec 64
  inHost : Bool
  deriving DecidableEq, Repr

/-- What boot stage work found (spec/18 R269); the outside world's part of a POWER_UP event. `ok` is the verdict of
stages 1 and 7 with the REASON of a failure, `linksDown`, `diesOut` and `coresOut` what stages 2 to 5 take out. -/
structure StageReport where
  ok : Bool
  reason : BitVec 8
  linksDown : BitVec 64
  diesOut : BitVec 32
  coresOut : List Nat
  portsUp : BitVec 8
  ptpLocked : Bool
  number : BitVec 6
  /-- The queues that the resident system creates in stage 7. -/
  queues : List QueueMade
  deriving DecidableEq, Repr

/-- The slices that Xiene makes of a kernel written as plain statements (spec/05 R111): where they go, in the form of a slice block. -/
structure MadeSlices where
  at' : BitVec 64
  block : List (BitVec 8)
  deriving DecidableEq, Repr

/-- A kernel of a code object: its symbol, where its image descriptor goes, whether it asks for merged execution, and Xiene's slices
of one written as plain statements that does not. -/
structure ObjectKernel where
  sym : Nat
  desc : BitVec 64
  merged : Bool
  slices : Option MadeSlices
  deriving DecidableEq, Repr

/-- A code object to be loaded (spec/05 R105 to R111): its base, what its symbols resolve to where they are externs, and its
kernels. -/
structure CodeObject where
  base : BitVec 64
  externs : List (Option (BitVec 64))
  kernels : List ObjectKernel
  deriving DecidableEq, Repr

/-- What the loader is given at an address: the descriptor of an image that stands in memory (spec/04 R91, R93), or the file of a code
object. -/
inductive LoadStep where
  | image (merged : Bool)
  | object (o : CodeObject)
  deriving DecidableEq, Repr

/-- A value that a logpoint lists (spec/16 R257): a system register, a scalar register, or `life` of the pointer in one. -/
inductive LogItem where
  | sys (n : BitVec 12)
  | reg (n : BitVec 5)
  | life (n : BitVec 5)
  deriving DecidableEq, Repr

/-- A logpoint in the code of a context, with the values it lists (spec/16 R257). -/
structure LogPoint where
  ctx : Ctx
  items : List LogItem
  deriving DecidableEq, Repr

/-- An allocation that a stopped task has left in place (spec/15 R249): its id and the task. -/
structure ParkedAlloc where
  id : BitVec 8
  task : Nat
  deriving DecidableEq, Repr

/-- A SEND that arrives from another module (spec/08 R169). -/
structure RemoteSend where
  root : BitVec 64
  dst : BitVec 64
  flag : BitVec 64
  addend : BitVec 64
  payload : Bytes
  deriving DecidableEq, Repr

/-- The instructions and events: one constructor per row of spec/opcode_table.json, in its order. -/
inductive Instr where
  -- class S
  | add (f : AluRR) | addImmediate (f : AluRI)
  | sub (f : AluRR) | subImmediate (f : AluRI)
  | mul (f : AluRR) | mulImmediate (f : AluRI)
  | mulh (sgn : Bool) (f : AluRR) | mulhImmediate (sgn : Bool) (f : AluRI)
  | div (sgn : Bool) (f : AluRR) | divImmediate (sgn : Bool) (f : AluRI)
  | rem (sgn : Bool) (f : AluRR) | remImmediate (sgn : Bool) (f : AluRI)
  | and (f : AluRR) | andImmediate (f : AluRI)
  | andn (f : AluRR) | andnImmediate (f : AluRI)
  | or (f : AluRR) | orImmediate (f : AluRI)
  | xor (f : AluRR) | xorImmediate (f : AluRI)
  | shl (f : AluRR) | shlImmediate (f : AluRI)
  | shr (arith : Bool) (f : AluRR) | shrImmediate (arith : Bool) (f : AluRI)
  | rot (f : AluRR) | rotImmediate (f : AluRI)
  | clz (f : OpDA) | popc (f : OpDA)
  | bext (f : AluRR) | bextImmediate (f : AluRI)
  | bins (f : AluRR) | binsImmediate (f : AluRI)
  | cmp (c : Cond) (f : AluRR) | cmpImmediate (c : Cond) (f : AluRI)
  | sel (f : AluRR)
  | min (sgn : Bool) (f : AluRR) | minImmediate (sgn : Bool) (f : AluRI)
  | max (sgn : Bool) (f : AluRR) | maxImmediate (sgn : Bool) (f : AluRI)
  | ldi (f : OpDImm) | addpc (f : OpPc)
  -- class F
  | fadd (f : FOp) | fmul (f : FOp) | ffma (c : BitVec 5) (f : FOp)
  | fcmp (c : FCond) (f : FOp) | fcvt (f : FCvtOp)
  -- class M
  | ld (f : LoadOp) | lda (scope : Scope) (f : LoadOp)
  | st (f : StoreOp) | stl (scope : Scope) (f : StoreOp)
  | atom (op : AtomOp) (f : AtomOpF) | cas (c : BitVec 5) (f : AtomOpF)
  | fence (g : Guard) (order : Order) (scope : Scope)
  | monitor (f : OpA) (off : BitVec 12)
  | mwait (g : Guard) (d : Dst) (b : Src)
  | bsync (op : BsyncOp) (f : OpDA)
  | send (f : OpSrc3)
  | waitc (ch : ChainId) (f : OpA)
  | tlrd (ch : ChainId) (ap : Bool) (f : OpD)
  | ringi (f : AluRR)
  | awaitf (n : BitVec 3) (f : OpD)
  | rels (g : Guard) (n : BitVec 3)
  | mput (g : Guard) (d : Dst) (a : Src) (b : BitVec 5)
  | mtake (f : OpDA) | mstat (f : OpDA) | mctl (f : AluRR)
  | tagset (f : OpAB) (space : Space) (off : BitVec 12) (n : BitVec 12)
  | tagget (f : OpDA) (space : Space) (off : BitVec 12)
  | ptrtag (f : AluRR)
  | cflush (f : OpA) (space : Space) (off : BitVec 12) (inv : Bool)
  -- class C
  | jmp (f : OpImm) | jmpr (f : OpA) | call (f : OpDImm) | ret (f : OpA)
  | exit (g : Guard) | abort (f : OpImm) | nop (f : OpImm)
  | tstep (d : BitVec 5) (wbs : Bool) (b : Src) (mask : BitVec 32)
  | trap (f : OpImm) | svc (f : OpImm) | eret (g : Guard) (skip : Bool) | bkpt (f : OpImm)
  | sread (f : OpD) (num : BitVec 12) | swrite (f : OpA) (num : BitVec 12)
  | tlbi (f : OpAB) (n : BitVec 32)
  -- class V
  | vabs (f : VOp1) | vadd (f : VOp2) | vand (f : VOp2)
  | vbcast (g : Guard) (d : VDst) (a : Src) (mask : BitVec 5) (fmt : Fmt)
  | vcmp (c : VCond) (f : VOp2)
  | vcvt (part : BitVec 3) (fmt2 : Fmt) (f : VOp1)
  | vexp2 (f : VOp1) | vfma (f : VOp3)
  | vgath (g : Guard) (d : VDst) (a : Src) (b : VSrc) (mask : BitVec 5) (fmt : Fmt)
  | vld (g : Guard) (d : VDst) (a : Src) (off : BitVec 6) (mask : BitVec 5) (fmt : Fmt)
  | vlog2 (f : VOp1)
  | vmax (sgn : Bool) (f : VOp2) | vmin (sgn : Bool) (f : VOp2)
  | vmov (f : VOp1) | vmul (f : VOp2) | vneg (f : VOp1) | vor (f : VOp2) | vperm (f : VOp2) | vrcp (f : VOp1)
  | vred (op : VredOp) (sgn : Bool) (g : Guard) (d : Dst) (a : VSrc) (mask : BitVec 5) (fmt : Fmt) (rnd : Rnd)
  | vrsq (f : VOp1) | vscale (f : VOp2)
  | vscat (g : Guard) (a : Src) (b : VSrc) (c : VSrc) (mask : BitVec 5) (fmt : Fmt)
  | vsel (f : VOp3) | vshl (f : VOp2) | vshr (arith : Bool) (f : VOp2)
  | vst (g : Guard) (a : Src) (b : VSrc) (off : BitVec 6) (mask : BitVec 5) (fmt : Fmt)
  | vsub (f : VOp2) | vxor (f : VOp2)
  | view (g : Guard) (v : BitVec 3) (a : Src) (kind : ViewKind) (fmt : Fmt)
  | ttrn (g : Guard) (d : VEl) (wbs : Bool) (a : VEl) (fmt : Fmt)
  -- class E
  | copy (f : OpSrc3)
  | wbld (f : OpAB) (len : BitVec 32)
  | mma (f : OpAB)
  | aclr (g : Guard) (a : VEl) (n : BitVec 3)
  | adrain (g : Guard) (d : VEl) (a : VEl) (fmt : Fmt) (rnd : Rnd)
  | salloc (g : Guard) (d : BitVec 5) (wbs : Bool) (units : BitVec 20) (bk : Bool) (z : Bool)
  | sfree (f : OpA) | wind (f : OpAB)
  | life (g : Guard) (d : BitVec 5) (wbs : Bool) (a : Src)
  | smap (f : OpAB) (len : BitVec 32)
  | sunmap (f : OpA) | lock (f : AluRR) | unlock (f : OpAB)
  -- class X
  | emulationTrap (rest : BitVec 93)
  -- sequencer events
  | resultLanding | externalResultArrival | contextUnblock (c : Ctx)
  | sectionHeaderCheck (c : Ctx) | stringWaitSatisfied (c : Ctx) | sectionRetire (c : Ctx) | stallWatchdog (c : Ctx)
  | preciseFaultRebuild | mergedReplay | handlerEntry | earlyEngineFault (ch : ChainId)
  | inPlaceTrap (c : Ctx) | hazardStop (c : Ctx) (hz : BitVec 4)
  | debugLogicalStop (c : Ctx) | watchpointStop (c : Ctx) | logpoint (l : LogPoint)
  -- engine events
  | engineEntryBegin (ch : ChainId) (num : Nat)
  | copyChunk (ch : ChainId) (num : Nat) (k : Nat)
  | engineEntryCompletion (ch : ChainId) (num : Nat)
  | wbldChunk (num : Nat) (k : Nat)
  | mmaPass (num : Nat) | aclrExecute (num : Nat) | adrainExecute (num : Nat)
  | sendPayload (num : Nat) | sendFlagAdd (num : Nat) | sendCompletion (num : Nat)
  -- memory events
  | translationMissWalk (va : BitVec 64)
  | chainExtension (ch : ChainId) (seg : Option (BitVec 48))
  | copyOnWriteFirstWrite (va : BitVec 64) (frame : Option (BitVec 48))
  | fadeTick | allocationExpiry (id : BitVec 8) | zeroPendingClear (id : BitVec 8) (row : Nat)
  | stashLineFill (id : BitVec 8) (line : Nat) (own : Bool)
  | stashDirtyWriteback (id : BitVec 8) (line : Nat) | stashRowWind (id : BitVec 8) (row : Nat)
  | stashCleanExpiry (id : BitVec 8) (line : Nat) | stashHomeInvalidate (id : BitVec 8) (line : Nat)
  | stashHomeRecall (id : BitVec 8) (line : Nat) | stashWritebackAck (id : BitVec 8) (line : Nat)
  -- scheduling events
  | notifyWrite (off : Nat) (size : Nat) (value : BitVec 64)
  | queueSlotGrant (q : Nat) | queueIdleEviction (q : Nat) | queuePriorityEviction (q : Nat)
  | queueStarvationTakeover (q : Nat)
  | launch (q : Nat) | graph (q : Nat) | wait (q : Nat) | waitConditionMet (q : Nat) | signal (q : Nat)
  | barrier (q : Nat) | packetCompletion (q : Nat) (idx : Nat)
  | nodeReady (n : Nat) | nodeDispatch (n : Nat) (cores : List Nat) | readyPoolAging | headNodeHold
  | nodeCompletion (n : Nat) | tenantInstant (start : Nat) | stepBudgetExpiry (core : Nat)
  | nodeBoundaryStop (core : Nat) | allocationSave (core : Nat) | taskRestore (task : Nat) (cores : List Nat)
  | parkSweeperWind (core : Nat) (id : BitVec 8) | parkedEviction (core : Nat) (a : ParkedAlloc)
  | pipelineErrorRollback (unit : BitVec 8) | dieFailure (die : Nat)
  -- pool events
  | poolPutInsertion (req : Nat) | queuedPutInsertion (pool : Nat) (shard : Nat)
  | loweringNoticeArrival (pool : Nat) (src : Nat) (dst : Nat)
  | loweringNoticeAcknowledged (pool : Nat) (shard : Nat)
  | poolTakeArrival (req : Nat) | synchronousTake (req : Nat)
  | poolSummary (pool : Nat) (shard : Nat) | rollingMove (pool : Nat) (src : Nat) (dst : Nat)
  | pollRound (req : Nat) | mctlCompletion (req : Nat)
  -- services
  | svcRepairQueue | svcCreatePool | svcDestroyPool | svcLaunchRecord | svcAttestation
  -- system registers and observing
  | perfRedRead | perfSelWrite (v : BitVec 64) | fflagsWrite (v : BitVec 5) | roundSeedWrite (v : BitVec 64)
  | dutyRegisterWrite (v : BitVec 64)
  | counterSample | traceGapRecord | coreDump | replayDivergence
  -- power, links, outside
  | powerUp (r : StageReport) | ptpLockTimeout | ptpLockChange (locked : Bool) | pcieTraining (rate : Nat) (width : Nat)
  | kernelImageLoad (at' root : BitVec 64) (l : LoadStep)
  | clockThrottling (die : Nat) | clockThrottlingEnd (die : Nat)
  | remoteSendArrival (r : RemoteSend) | hostWrite (pa : Nat) (data : Bytes)
  | packetError (q : Nat)
  | stopRequest (core : Nat) (prio : Nat) (incoming : Option Nat)
  | debuggerResume | poisonMapUpdate (frame : Nat) (poisoned : Bool) | linkRetraining (link : Nat)
  deriving DecidableEq, Repr

end Sys2Proof
end

