-- ==== Sys2Proof/Config.lean ====
section
/-! DEFINITION. What the part fixes, and the free values: the values the spec leaves open. A free value is an opaque
constant with no body, so nothing can be proved about which value it is. -/

namespace Sys2Proof.Config

/-- A byte the spec leaves unspecified (scratch without .Z, 07 R141; weight buffer, 07 R151, R152; overlapping chunk
bytes, 08 R157): `freeByte gen off` for contents of generation `gen` at offset `off`. DESIGN CHOICE, log 4. -/
opaque freeByte : Nat → Nat → BitVec 8

/-- A 64-bit value the spec leaves open, drawn by the counter `Module.free` (DESIGN CHOICE, log 4): an address that the
scheduler or the resident system assigns, a tag that SALLOC picks, a pool generation, a reported time. -/
opaque freeWord : Nat → BitVec 64

/-- Where a hub core continues on an entry to the firmware or to the resident system: the spec gives no vector
(02 R85, 04 R89, 21 R361). The argument is the code that enters (R240, or 0x100 for SVC and 0x101 for TRAP). DESIGN CHOICE, log 12. -/
opaque hubVector : Nat → BitVec 64

/-- The translation root of a hub core's own code and data. The spec names a root for tasks only (07 R134). DESIGN CHOICE, log 13. -/
opaque hubRoot : Nat → BitVec 64

/-- What an attestation report begins with: the module identity, the fused version floor, and the digests of the three images (18
R274). DESIGN CHOICE, log 14. -/
opaque attestHead : List (BitVec 8)

/-- Its two signatures over everything before them. DESIGN CHOICE, log 14. -/
opaque attestSign : List (BitVec 8) → List (BitVec 8)

/-- PROCESS (low half) and THREAD of a trace record (17 R258), which the resident system names: by core, SEQ and TIME of the
record. DESIGN CHOICE, log 4. -/
opaque processThread : Nat → Nat → Nat → BitVec 64

/-- The IEEE 1588 time of the module, in ns, at the start of its fade clock (12 R215): the source it is disciplined to decides
it. DESIGN CHOICE, log 4. -/
opaque ptpStart : Nat

/-- Does the result that a core awaits from outside arrive in a cycle (03 R64)? By core, by `Module.wall`: link retries and
the memory decide it. DESIGN CHOICE, log 4. -/
opaque linkArrives : Nat → Nat → Bool

/-- REASON of the address fault for a write to a stash window from L or C (07 R133 scratch step 3): 15 R242 lists none for
it. DESIGN CHOICE, log 4. -/
opaque sliceWriteReason : BitVec 8

/-- SPACE of the record of a double-bit error in the weight buffer (15 R251): 15 R242 lists none for it. DESIGN CHOICE, log 81. -/
opaque weightSpace : BitVec 8

/-- What the work on a packet holds in a nanosecond after its start and the module's state does not show (17 R266): bit 0 fault service on
hub cores, bit 1 a storage or network wait. By queue, packet index and nanosecond. DESIGN CHOICE, log 4. -/
opaque packetWork : Nat → Nat → Nat → BitVec 2

/-- Cores of a compute die (01 R10). -/
abbrev coresPerDie : Nat := 24
/-- Compute cores of the module (01 R10). -/
abbrev computeCores : Nat := 768
/-- Dies (01). -/
abbrev dies : Nat := 32
/-- Hub cores of one hub die (01 R13). -/
abbrev hubCoresPerHub : Nat := 16
/-- Bytes of the register space (03 R57). -/
abbrev regSpace : Nat := 524288
/-- Bytes of the weight buffer (07 R151). -/
abbrev weightBuffer : Nat := 1048576
/-- Bytes of scratch (07 R140). -/
abbrev scratchBytes : Nat := 12582912
/-- Populated bytes of one HBM stack: 48 GiB (07 R136). -/
abbrev stackBytes : Nat := 51539607552
/-- Retention in ticks (07 R142). -/
abbrev retention : Nat := 1600
/-- Results in flight of one context (03 R63). -/
abbrev inFlightMax : Nat := 24
/-- Entries of the step journal (02 R40). -/
abbrev journalMax : Nat := 256
/-- SENDs whose source pointers the core keeps (22 R350). -/
abbrev sendStoreMax : Nat := 4096
/-- Open steps of a core (02 R34). -/
abbrev windowMax : Nat := 4
/-- Entries of a forwarding table (08 R167). -/
abbrev forwardMax : Nat := 64
/-- Lines a context may pin (07 R150). -/
abbrev pinQuota : Nat := 16384
/-- Entries of an order cache (10 R194). -/
abbrev orderCacheMax : Nat := 32
/-- Entries, granule tags and snapshots, of a die's race tag store: 8 MiB (10 R194, R195) at 64 bytes each (DESIGN CHOICE,
log 78). -/
abbrev raceStore : Nat := 131072
/-- Pending nodes of the tracker (12 R211). -/
abbrev trackerMax : Nat := 16384
/-- Queues, and active slots (01 R14). -/
abbrev queues : Nat := 4096
abbrev activeSlots : Nat := 64
/-- Pools (13 R219), and pool-SRAM entries of a die (01 R10). -/
abbrev pools : Nat := 256
abbrev poolSram : Nat := 262144
/-- Ticks of 100 ns (07 R142) in 100 µs, 1 ms and 8 ms (12 R206, R212). -/
abbrev ticks100us : Nat := 1000
abbrev ticks1ms : Nat := 10000
abbrev ticks8ms : Nat := 80000
/-- All ones: the task-wide "none" and the prologue's tile-step index (02 R32). -/
abbrev allOnes : BitVec 64 := 0xFFFFFFFFFFFFFFFF

end Sys2Proof.Config
end

