-- ==== Sys2Proof/WellFormed.lean ====
section
/-! DEFINITION. The static checks of an instruction word that its constructor does not already rule out: R83 step 5
and the operand ranges of the reference entries. `Instr.check` names the first check that fails. -/

namespace Sys2Proof

/-- The named static checks (spec/04 R83 step 5). -/
inductive IllFormed where
  /-- A guard of x0 with a nonzero bit index (04 R73). -/
  | guard
  /-- A latch select with latch number 0 (04 R72). -/
  | latchZero
  /-- A format the word does not accept (04 R79, R81). -/
  | format
  /-- A rounding mode in a word that does not round (04 R79). -/
  | rounding
  /-- A destination register outside its range (TSTEP, MTAKE, MSTAT). -/
  | destination
  /-- MPUT's b odd or zero (13 R235). -/
  | pair
  /-- FENCE with ORDER 0 (04 R77). -/
  | order
  /-- Bits 1:0 of imm32 of JMP or CALL (04 R78), bit 0 of a TSTEP mask (02 R32). -/
  | immediate
  /-- A granule count in TAGSET.SCR (22 R364). -/
  | count
  /-- UNITS of SALLOC (22 R346), len of SMAP (22 R354). -/
  | size
  /-- A condition of the wrong kind for the format, or `.S` where the table does not allow it (23 R372, R378, R394). -/
  | modifier
  /-- part of VCVT (23 R379). -/
  | part
  /-- An event: it has no instruction word. -/
  | event
  deriving DecidableEq, Repr

namespace Fmt

/-- The 4-bit code (04 R81). -/
def code : Fmt → BitVec 4
  | .fp32 => 0 | .bf16 => 1 | .fp16 => 2 | .e4m3 => 3 | .e5m2 => 4 | .e3m2 => 5 | .e2m3 => 6 | .e2m1 => 7
  | .lns8 => 8 | .lns6 => 9 | .int8 => 10 | .int4 => 11 | .int32 => 12 | .int16 => 13 | .int64 => 14

/-- Bits of one element (04 R81). -/
def bits : Fmt → Nat
  | .fp32 => 32 | .bf16 => 16 | .fp16 => 16 | .e4m3 => 8 | .e5m2 => 8 | .e3m2 => 6 | .e2m3 => 6 | .e2m1 => 4
  | .lns8 => 8 | .lns6 => 6 | .int8 => 8 | .int4 => 4 | .int32 => 32 | .int16 => 16 | .int64 => 64

/-- The floating lane formats (23 R371). -/
def floatLane : Fmt → Bool
  | .fp32 | .bf16 | .fp16 => true
  | _ => false

/-- The integer lane formats (23 R371). -/
def intLane : Fmt → Bool
  | .int32 | .int16 => true
  | _ => false

def lane (f : Fmt) : Bool := f.floatLane || f.intLane

/-- Formats of FCVT (04 R76). -/
def fcvt : Fmt → Bool
  | .fp32 | .bf16 | .fp16 | .int32 | .int64 => true
  | _ => false

/-- Formats 0 to 13 (views, VCVT). -/
def view : Fmt → Bool
  | .int64 => false
  | _ => true

/-- Formats 0 to 12 (ADRAIN, 20 R285). -/
def drain : Fmt → Bool
  | .int64 | .int16 => false
  | _ => true

/-- ESIZE of a lane width: 0 for 32 bits, 1 for 16 bits (04 R79). -/
def esize (f : Fmt) : BitVec 2 := if f.bits = 16 then 1 else 0

end Fmt

def Guard.ok (g : Guard) : Bool := g.reg != 0 || g.bit == 0

def Src.ok : Src → Bool
  | .reg _ => true
  | .latch n => n != 0

def VSrc.ok : VSrc → Bool
  | .el _ => true
  | .latch n => n != 0

/-- Lane width in bits of a VCVT: that of the wider format (23 R379). -/
def vcvtWide (f f2 : Fmt) : Nat := max f.bits f2.bits

/-- Lanes of a word whose lane width is w bits (23 R371). -/
def lanesOf (w : Nat) : Nat := 2048 / w

/-- The first check of a list that fails. -/
def firstBad : List (IllFormed × Bool) → Option IllFormed
  | [] => none
  | (e, ok) :: r => if ok then firstBad r else some e

namespace Instr

def chkRR (f : AluRR) : Option IllFormed := firstBad [(.guard, f.g.ok), (.latchZero, f.a.ok && f.b.ok)]
def chkRI (f : AluRI) : Option IllFormed := firstBad [(.guard, f.g.ok), (.latchZero, f.a.ok)]
def chkDA (f : OpDA) : Option IllFormed := firstBad [(.guard, f.g.ok), (.latchZero, f.a.ok)]
def chkA (g : Guard) (a : Src) : Option IllFormed := firstBad [(.guard, g.ok), (.latchZero, a.ok)]
def chkAB (g : Guard) (a b : Src) : Option IllFormed := firstBad [(.guard, g.ok), (.latchZero, a.ok && b.ok)]
def chkG (g : Guard) : Option IllFormed := firstBad [(.guard, g.ok)]
def chkF (f : FOp) (rounds : Bool) : Option IllFormed :=
  firstBad [(.guard, f.g.ok), (.latchZero, f.a.ok && f.b.ok), (.format, f.fmt.floatLane),
    (.rounding, rounds || f.rnd == .rne)]
/-- Element-wise words: `fok` is the format row, `rounds` whether the word rounds in this format (23 R372). -/
def chkV1 (f : VOp1) (fok rounds : Fmt → Bool) : Option IllFormed :=
  firstBad [(.guard, f.g.ok), (.latchZero, f.a.ok), (.format, fok f.fmt), (.rounding, rounds f.fmt || f.rnd == .rne)]
def chkV2 (f : VOp2) (fok rounds : Fmt → Bool) : Option IllFormed :=
  firstBad [(.guard, f.g.ok), (.latchZero, f.a.ok && f.b.ok), (.format, fok f.fmt),
    (.rounding, rounds f.fmt || f.rnd == .rne)]
def chkV3 (f : VOp3) (fok rounds : Fmt → Bool) : Option IllFormed :=
  firstBad [(.guard, f.g.ok), (.latchZero, f.a.ok && f.b.ok && f.c.ok), (.format, fok f.fmt),
    (.rounding, rounds f.fmt || f.rnd == .rne)]
def never (_ : Fmt) : Bool := false

/-- `.S` of VMAX and VMIN only on integer formats (23 R372). -/
def chkMinMax (sgn : Bool) (f : VOp2) : Option IllFormed :=
  (chkV2 f Fmt.lane never).or (firstBad [(.modifier, !sgn || f.fmt.intLane)])

def chkVcmp (c : VCond) (f : VOp2) : Option IllFormed :=
  (chkV2 f Fmt.lane never).or (firstBad [(.modifier, match c with | .int _ => f.fmt.intLane | .flt _ => f.fmt.floatLane)])

/-- R379: at least one lane format; part·n below E; part 0 when the widths are equal. -/
def chkVcvt (part : BitVec 3) (f2 : Fmt) (f : VOp1) : Option IllFormed :=
  let n := lanesOf (vcvtWide f.fmt f2)
  let e := 2048 / Nat.min f.fmt.bits f2.bits
  (chkV1 f (fun a => a.view && f2.view && (a.lane || f2.lane)) (fun _ => true)).or
    (firstBad [(.part, part.toNat * n < e && (f.fmt.bits != f2.bits || part == 0))])

def chkVred (op : VredOp) (sgn : Bool) (g : Guard) (a : VSrc) (fmt : Fmt) (rnd : Rnd) : Option IllFormed :=
  firstBad [(.guard, g.ok), (.latchZero, a.ok), (.format, fmt.lane),
    (.rounding, (op == .add && fmt.floatLane) || rnd == .rne),
    (.modifier, (fmt.intLane || op == .add || op == .min || op == .max) &&
      (!sgn || (fmt.intLane && (op == .min || op == .max))))]

/-- The first static check an instruction fails; none when it is well formed. -/
def check : Instr → Option IllFormed
  | .add f | .sub f | .mul f | .mulh _ f | .div _ f | .rem _ f | .and f | .andn f | .or f | .xor f | .shl f
  | .shr _ f | .rot f | .bext f | .bins f | .cmp _ f | .sel f | .min _ f | .max _ f => chkRR f
  | .addImmediate f | .subImmediate f | .mulImmediate f | .mulhImmediate _ f | .divImmediate _ f
  | .remImmediate _ f | .andImmediate f | .andnImmediate f | .orImmediate f | .xorImmediate f | .shlImmediate f
  | .shrImmediate _ f | .rotImmediate f | .bextImmediate f | .binsImmediate f | .cmpImmediate _ f
  | .minImmediate _ f | .maxImmediate _ f => chkRI f
  | .clz f | .popc f => chkDA f
  | .ldi f => chkG f.g
  | .addpc f => chkG f.g
  | .fadd f | .fmul f | .ffma _ f => chkF f true
  | .fcmp _ f => chkF f false
  | .fcvt f => firstBad [(.guard, f.g.ok), (.latchZero, f.a.ok), (.format, f.fmt.fcvt && f.fmt2.fcvt)]
  | .ld f | .lda _ f => chkA f.g f.a
  | .st f | .stl _ f => chkAB f.g f.a f.b
  | .atom _ f | .cas _ f => chkAB f.g f.a f.b
  | .fence g o _ => firstBad [(.guard, g.ok), (.order, o != .relaxed)]
  | .monitor f _ => chkA f.g f.a
  | .mwait g _ b => chkA g b
  | .bsync _ f => chkDA f
  | .send f | .copy f => chkAB f.g f.a f.b
  | .waitc _ f => chkA f.g f.a
  | .tlrd _ _ f | .awaitf _ f | .sread f _ => chkG f.g
  | .ringi f | .mctl f | .ptrtag f | .lock f => chkRR f
  | .rels g _ => chkG g
  | .mput g _ a b => firstBad [(.guard, g.ok), (.latchZero, a.ok), (.pair, b != 0 && b.toNat % 2 == 0)]
  | .mtake f => (chkDA f).or (firstBad [(.destination, 1 ≤ f.d.reg.toNat && f.d.reg.toNat ≤ 29)])
  | .mstat f => (chkDA f).or (firstBad [(.destination, 1 ≤ f.d.reg.toNat && f.d.reg.toNat ≤ 30)])
  | .tagset f sp _ n => (chkAB f.g f.a f.b).or (firstBad [(.count, sp == .global || n == 0)])
  | .tagget f _ _ => chkDA f
  | .cflush f _ _ _ => chkA f.g f.a
  | .jmp f => firstBad [(.guard, f.g.ok), (.immediate, f.imm.toNat % 4 == 0)]
  | .jmpr f | .ret f => chkA f.g f.a
  | .call f => firstBad [(.guard, f.g.ok), (.immediate, f.imm.toNat % 4 == 0)]
  | .exit g => chkG g
  | .abort f | .nop f | .trap f | .svc f | .bkpt f => chkG f.g
  | .tstep d _ b m => firstBad [(.latchZero, b.ok), (.destination, 1 ≤ d.toNat && d.toNat ≤ 26),
      (.immediate, m.toNat % 2 == 0)]
  | .eret g _ => chkG g
  | .swrite f _ => chkA f.g f.a
  | .tlbi f _ => chkAB f.g f.a f.b
  | .vabs f | .vmov f | .vneg f => chkV1 f Fmt.lane never
  | .vadd f | .vsub f | .vmul f => chkV2 f Fmt.lane Fmt.floatLane
  | .vand f | .vor f | .vperm f | .vxor f => chkV2 f Fmt.lane never
  | .vbcast g _ a _ fmt => firstBad [(.guard, g.ok), (.latchZero, a.ok), (.format, fmt.lane)]
  | .vcmp c f => chkVcmp c f
  | .vcvt p f2 f => chkVcvt p f2 f
  | .vexp2 f | .vlog2 f | .vrcp f | .vrsq f => chkV1 f Fmt.floatLane Fmt.floatLane
  | .vfma f => chkV3 f Fmt.floatLane Fmt.floatLane
  | .vgath g _ a b _ fmt => firstBad [(.guard, g.ok), (.latchZero, a.ok && b.ok), (.format, fmt.lane)]
  | .vld g _ a _ _ fmt => firstBad [(.guard, g.ok), (.latchZero, a.ok), (.format, fmt.lane)]
  | .vmax s f | .vmin s f => chkMinMax s f
  | .vred op s g _ a _ fmt rnd => chkVred op s g a fmt rnd
  | .vscale f => chkV2 f Fmt.floatLane Fmt.floatLane
  | .vscat g a b c _ fmt => firstBad [(.guard, g.ok), (.latchZero, a.ok && b.ok && c.ok), (.format, fmt.lane)]
  | .vsel f => chkV3 f Fmt.lane never
  | .vshl f | .vshr _ f => chkV2 f Fmt.intLane never
  | .vst g a b _ _ fmt => firstBad [(.guard, g.ok), (.latchZero, a.ok && b.ok), (.format, fmt.lane)]
  | .view g _ a _ fmt => firstBad [(.guard, g.ok), (.latchZero, a.ok), (.format, fmt.view)]
  | .ttrn g _ _ _ fmt => firstBad [(.guard, g.ok), (.format, fmt.lane)]
  | .wbld f _ | .mma f | .wind f | .unlock f => chkAB f.g f.a f.b
  | .aclr g _ _ => chkG g
  | .adrain g _ _ fmt _ => firstBad [(.guard, g.ok), (.format, fmt.drain)]
  | .salloc g _ _ u _ _ => firstBad [(.guard, g.ok), (.size, 1 ≤ u.toNat && u.toNat ≤ 3072)]
  | .sfree f | .sunmap f => chkA f.g f.a
  | .life g _ _ a => chkA g a
  | .smap f len => (chkAB f.g f.a f.b).or (firstBad [(.size, len.toNat % 256 == 0 && len.toNat ≤ 16777216)])
  | .emulationTrap _ => none
  | .resultLanding | .externalResultArrival | .contextUnblock _ | .sectionHeaderCheck _ | .stringWaitSatisfied _
  | .sectionRetire _ | .stallWatchdog _ | .preciseFaultRebuild | .mergedReplay | .handlerEntry | .earlyEngineFault _
  | .inPlaceTrap _ | .hazardStop _ _ | .debugLogicalStop _ | .watchpointStop _ | .logpoint _
  | .engineEntryBegin _ _ | .copyChunk _ _ _ | .engineEntryCompletion _ _ | .wbldChunk _ _ | .mmaPass _
  | .aclrExecute _ | .adrainExecute _ | .sendPayload _ | .sendFlagAdd _ | .sendCompletion _
  | .translationMissWalk _ | .chainExtension _ _ | .copyOnWriteFirstWrite _ _ | .fadeTick | .allocationExpiry _
  | .zeroPendingClear _ _ | .stashLineFill _ _ _ | .stashDirtyWriteback _ _ | .stashRowWind _ _
  | .stashCleanExpiry _ _ | .stashHomeInvalidate _ _ | .stashHomeRecall _ _ | .stashWritebackAck _ _
  | .notifyWrite _ _ _ | .queueSlotGrant _ | .queueIdleEviction _ | .queuePriorityEviction _
  | .queueStarvationTakeover _ | .launch _ | .graph _ | .wait _ | .waitConditionMet _ | .signal _ | .barrier _
  | .packetCompletion _ _ | .nodeReady _ | .nodeDispatch _ _ | .readyPoolAging | .headNodeHold | .nodeCompletion _
  | .tenantInstant _ | .stepBudgetExpiry _ | .nodeBoundaryStop _ | .allocationSave _ | .taskRestore _ _
  | .parkSweeperWind _ _ | .parkedEviction _ _ | .pipelineErrorRollback _ | .dieFailure _
  | .poolPutInsertion _ | .queuedPutInsertion _ _ | .loweringNoticeArrival _ _ _ | .loweringNoticeAcknowledged _ _
  | .poolTakeArrival _ | .synchronousTake _ | .poolSummary _ _ | .rollingMove _ _ _ | .pollRound _
  | .mctlCompletion _ | .svcRepairQueue | .svcCreatePool | .svcDestroyPool | .svcLaunchRecord | .svcAttestation
  | .perfRedRead | .perfSelWrite _ | .fflagsWrite _ | .roundSeedWrite _ | .dutyRegisterWrite _ | .counterSample
  | .traceGapRecord | .coreDump | .replayDivergence | .powerUp _ | .ptpLockTimeout | .ptpLockChange _
  | .pcieTraining _ _ | .kernelImageLoad _ _ _ | .clockThrottling _ | .clockThrottlingEnd _ | .remoteSendArrival _
  | .hostWrite _ _ | .packetError _ | .stopRequest _ _ _ | .debuggerResume | .poisonMapUpdate _ _
  | .linkRetraining _ => some .event

/-- Well formed: an instruction word the part accepts (04 R83 step 5). -/
def wf (i : Instr) : Bool := i.check.isNone

end Instr

end Sys2Proof
end

