-- ==== Sys2Proof/Decode.lean ====
section
/-! DEFINITION. Decoding a 96-bit instruction word (spec/04 R70 to R84 and the encodings of spec/20 to 23), and the
encoder. Decoding is total: a word that is no instruction is rejected by name. -/

namespace Sys2Proof

/-- Why a word is rejected, in the order of R83. -/
inductive DecodeError where
  /-- CLS 7 (R83 step 1). -/
  | reservedClass
  /-- OP unassigned in its class (R83 step 4). -/
  | unassignedOp
  /-- A nonzero reserved or unused field (R83 step 5, R74). -/
  | reservedField
  /-- A latch select in an operand that cannot be a latch (R72). -/
  | latchNotAllowed
  /-- A reserved code in a defined field (R83 step 5). -/
  | reservedCode
  /-- A static check of `Instr.check` (R83 step 5). -/
  | illFormed (e : IllFormed)
  /-- Fewer than 12 bytes. -/
  | short
  deriving DecidableEq, Repr

abbrev Dec := Except DecodeError

/-- The fields of a word (R71). -/
structure Raw where
  cls : BitVec 3
  op : BitVec 9
  neg : Bool
  greg : BitVec 5
  gbit : BitVec 6
  wbs : Bool
  d : BitVec 11
  als : Bool
  a : BitVec 11
  bls : Bool
  b : BitVec 11
  lt : BitVec 4
  tail : BitVec 32
  deriving DecidableEq, Repr

/-- Bit n of a word as a Bool field. -/
def bit1 (b : Bool) : BitVec 1 := BitVec.ofBool b

def Raw.unpack (w : IWord) : Raw where
  cls := w.extractLsb' 93 3
  op := w.extractLsb' 84 9
  neg := w.getLsbD 83
  greg := w.extractLsb' 78 5
  gbit := w.extractLsb' 72 6
  wbs := w.getLsbD 71
  d := w.extractLsb' 60 11
  als := w.getLsbD 59
  a := w.extractLsb' 48 11
  bls := w.getLsbD 47
  b := w.extractLsb' 36 11
  lt := w.extractLsb' 32 4
  tail := w.extractLsb' 0 32

def Raw.pack (r : Raw) : IWord :=
  r.cls ++ r.op ++ bit1 r.neg ++ r.greg ++ r.gbit ++ bit1 r.wbs ++ r.d ++ bit1 r.als ++ r.a ++ bit1 r.bls ++ r.b
    ++ r.lt ++ r.tail

/-- Accept when the condition holds. -/
def need (e : DecodeError) (c : Bool) : Dec Unit := if c then .ok () else .error e

/-- Read a code through a partial table (R83 step 5: a reserved code). -/
def ofTable {α : Type} : Option α → Dec α
  | some x => .ok x
  | none => .error .reservedCode

/-! ### Codes -/

def Fmt.ofCode (c : BitVec 4) : Option Fmt :=
  match c.toNat with
  | 0 => some .fp32 | 1 => some .bf16 | 2 => some .fp16 | 3 => some .e4m3 | 4 => some .e5m2 | 5 => some .e3m2
  | 6 => some .e2m3 | 7 => some .e2m1 | 8 => some .lns8 | 9 => some .lns6 | 10 => some .int8 | 11 => some .int4
  | 12 => some .int32 | 13 => some .int16 | 14 => some .int64 | _ => none

/-- RND (R79). -/
def Rnd.code : Rnd → BitVec 3
  | .rne => 0 | .rtz => 1 | .rdn => 2 | .rup => 3 | .rna => 4 | .sr => 5 | .dyn => 7

def Rnd.ofCode (c : BitVec 3) : Option Rnd :=
  match c.toNat with
  | 0 => some .rne | 1 => some .rtz | 2 => some .rdn | 3 => some .rup | 4 => some .rna | 5 => some .sr
  | 7 => some .dyn | _ => none

def Scope.code : Scope → BitVec 3
  | .core => 0 | .gang => 1 | .die => 2 | .device => 3 | .system => 4

def Scope.ofCode (c : BitVec 3) : Option Scope :=
  match c.toNat with
  | 0 => some .core | 1 => some .gang | 2 => some .die | 3 => some .device | 4 => some .system | _ => none

def Order.code : Order → BitVec 2
  | .relaxed => 0 | .acquire => 1 | .release => 2 | .acqRel => 3

def Order.ofCode (c : BitVec 2) : Order :=
  match c.toNat with
  | 0 => .relaxed | 1 => .acquire | 2 => .release | _ => .acqRel

def Size.code : Size → BitVec 2
  | .b8 => 0 | .b16 => 1 | .b32 => 2 | .b64 => 3

def Size.ofCode (c : BitVec 2) : Size :=
  match c.toNat with
  | 0 => .b8 | 1 => .b16 | 2 => .b32 | _ => .b64

def Space.code : Space → Bool
  | .global => false | .scratch => true

def Space.ofCode (b : Bool) : Space := if b then .scratch else .global

/-- CMP conditions (R75). -/
def Cond.code : Cond → BitVec 4
  | .eq => 0 | .ne => 1 | .lt => 2 | .ge => 3 | .ltu => 4 | .geu => 5

def Cond.ofCode (c : BitVec 4) : Option Cond :=
  match c.toNat with
  | 0 => some .eq | 1 => some .ne | 2 => some .lt | 3 => some .ge | 4 => some .ltu | 5 => some .geu | _ => none

/-- FCMP conditions (R76). -/
def FCond.code : FCond → BitVec 4
  | .eq => 0 | .lt => 1 | .le => 2 | .un => 3

def FCond.ofCode (c : BitVec 4) : Option FCond :=
  match c.toNat with
  | 0 => some .eq | 1 => some .lt | 2 => some .le | 3 => some .un | _ => none

/-- SUBOP of ATOM (20 R290). -/
def AtomOp.code : AtomOp → BitVec 12
  | .add => 0 | .xchg => 1 | .and => 2 | .or => 3 | .min => 4 | .max => 5 | .smin => 6 | .smax => 7 | .xor => 8

def AtomOp.ofCode (c : BitVec 12) : Option AtomOp :=
  match c.toNat with
  | 0 => some .add | 1 => some .xchg | 2 => some .and | 3 => some .or | 4 => some .min | 5 => some .max
  | 6 => some .smin | 7 => some .smax | 8 => some .xor | _ => none

/-- SUBOP of BSYNC (20 R295). -/
def BsyncOp.code : BsyncOp → BitVec 12
  | .or => 0 | .and => 1 | .min => 2 | .max => 3 | .add => 4

def BsyncOp.ofCode (c : BitVec 12) : Option BsyncOp :=
  match c.toNat with
  | 0 => some .or | 1 => some .and | 2 => some .min | 3 => some .max | 4 => some .add | _ => none

/-- op of VRED (23 R394). -/
def VredOp.code : VredOp → BitVec 3
  | .add => 0 | .min => 1 | .max => 2 | .and => 3 | .or => 4 | .xor => 5

def VredOp.ofCode (c : BitVec 3) : Option VredOp :=
  match c.toNat with
  | 0 => some .add | 1 => some .min | 2 => some .max | 3 => some .and | 4 => some .or | 5 => some .xor | _ => none

/-- KIND of VIEW (23 R383). -/
def ViewKind.code : ViewKind → BitVec 2
  | .vec => 1 | .tile => 2 | .acc => 3

def ViewKind.ofCode (c : BitVec 2) : Option ViewKind :=
  match c.toNat with
  | 1 => some .vec | 2 => some .tile | 3 => some .acc | _ => none

/-- Counters of WAITC and TLRD (16 R255, 22 R366). -/
def ChainId.code : ChainId → BitVec 2
  | .tci => 0 | .tmx => 1 | .tco => 2 | .tsx => 3

def ChainId.ofCode (c : BitVec 2) : ChainId :=
  match c.toNat with
  | 0 => .tci | 1 => .tmx | 2 => .tco | _ => .tsx

/-! ### Operand fields -/

def Raw.guard (r : Raw) : Guard := ⟨r.neg, r.greg, r.gbit⟩

/-- A scalar source field: register in bits 4:0, or latch in bits 3:0 (R72). -/
def decSrc (ls : Bool) (v : BitVec 11) : Dec Src :=
  if ls then do need .reservedField (v.extractLsb' 4 7 == 0); .ok (.latch (v.extractLsb' 0 4))
  else do need .reservedField (v.extractLsb' 5 6 == 0); .ok (.reg (v.extractLsb' 0 5))

def Src.ls : Src → Bool
  | .reg _ => false
  | .latch _ => true

def Src.field : Src → BitVec 11
  | .reg n => (0 : BitVec 6) ++ n
  | .latch n => (0 : BitVec 7) ++ n

/-- B of classes S and F: SM stands in bits 10:5 whatever B.LS is; a latch has bit 4 zero (R72, R75). -/
def decSrcSM (ls : Bool) (v : BitVec 11) : Dec (BitVec 6 × Src) :=
  if ls then do
    need .reservedField (v.extractLsb' 4 1 == 0); .ok (v.extractLsb' 5 6, .latch (v.extractLsb' 0 4))
  else .ok (v.extractLsb' 5 6, .reg (v.extractLsb' 0 5))

def Src.fieldSM (sm : BitVec 6) : Src → BitVec 11
  | .reg n => sm ++ n
  | .latch n => sm ++ (0 : BitVec 1) ++ n

def decReg (v : BitVec 11) : Dec (BitVec 5) := do
  need .reservedField (v.extractLsb' 5 6 == 0); .ok (v.extractLsb' 0 5)

def regField (n : BitVec 5) : BitVec 11 := (0 : BitVec 6) ++ n

def Raw.dst (r : Raw) : Dec Dst := do
  let n ← decReg r.d
  .ok ⟨n, r.wbs, r.lt⟩

def VEl.ofField (v : BitVec 11) : VEl := ⟨v.extractLsb' 8 3, v.extractLsb' 0 8⟩
def VEl.field (e : VEl) : BitVec 11 := e.view ++ e.idx

def decVSrc (ls : Bool) (v : BitVec 11) : Dec VSrc :=
  if ls then do need .reservedField (v.extractLsb' 4 7 == 0); .ok (.latch (v.extractLsb' 0 4))
  else .ok (.el (VEl.ofField v))

def VSrc.ls : VSrc → Bool
  | .el _ => false
  | .latch _ => true

def VSrc.field : VSrc → BitVec 11
  | .el e => e.field
  | .latch n => (0 : BitVec 7) ++ n

def Raw.vdst (r : Raw) : VDst := ⟨VEl.ofField r.d, r.wbs, r.lt⟩

/-- No result: D.REG, D.WBS and LT zero (R74). -/
def Raw.noD (r : Raw) : Bool := r.d == 0 && !r.wbs && r.lt == 0
def Raw.noA (r : Raw) : Bool := r.a == 0 && !r.als
def Raw.noB (r : Raw) : Bool := r.b == 0 && !r.bls
def Raw.noT (r : Raw) : Bool := r.tail == 0

/-! ### Tails -/

/-- The F tail (R76). -/
structure FTail where
  fc : BitVec 5
  rnd : BitVec 3
  fmt : BitVec 4
  fmt2 : BitVec 4
  fcc : BitVec 4
  rest : BitVec 12
  deriving DecidableEq, Repr

def FTail.unpack (t : BitVec 32) : FTail :=
  ⟨t.extractLsb' 27 5, t.extractLsb' 24 3, t.extractLsb' 20 4, t.extractLsb' 16 4, t.extractLsb' 12 4,
    t.extractLsb' 0 12⟩
def FTail.pack (t : FTail) : BitVec 32 := t.fc ++ t.rnd ++ t.fmt ++ t.fmt2 ++ t.fcc ++ t.rest

/-- The M tail (R77). -/
structure MTail where
  scope : BitVec 3
  order : BitVec 2
  size : BitVec 2
  space : Bool
  off : BitVec 12
  sub : BitVec 12
  deriving DecidableEq, Repr

def MTail.unpack (t : BitVec 32) : MTail :=
  ⟨t.extractLsb' 29 3, t.extractLsb' 27 2, t.extractLsb' 25 2, t.getLsbD 24, t.extractLsb' 12 12,
    t.extractLsb' 0 12⟩
def MTail.pack (t : MTail) : BitVec 32 := t.scope ++ t.order ++ t.size ++ bit1 t.space ++ t.off ++ t.sub

/-- The V tail (R79). -/
structure VTail where
  mask : BitVec 5
  rnd : BitVec 3
  cls : Bool
  c : BitVec 11
  esize : BitVec 2
  fmt : BitVec 4
  sub : BitVec 6
  deriving DecidableEq, Repr

def VTail.unpack (t : BitVec 32) : VTail :=
  ⟨t.extractLsb' 27 5, t.extractLsb' 24 3, t.getLsbD 23, t.extractLsb' 12 11, t.extractLsb' 10 2,
    t.extractLsb' 6 4, t.extractLsb' 0 6⟩
def VTail.pack (t : VTail) : BitVec 32 := t.mask ++ t.rnd ++ bit1 t.cls ++ t.c ++ t.esize ++ t.fmt ++ t.sub

/-! ### Shapes -/

/-- Register form of class S (R75, R279): SM and the operands. -/
def decRR (r : Raw) : Dec (BitVec 6 × AluRR) := do
  let d ← r.dst
  let a ← decSrc r.als r.a
  let (sm, b) ← decSrcSM r.bls r.b
  need .reservedField r.noT
  .ok (sm, ⟨r.guard, d, a, b⟩)

/-- Register-immediate form of class S (R75): B.LS and bits 4:0 of B.REG zero. -/
def decRI (r : Raw) : Dec (BitVec 6 × AluRI) := do
  let d ← r.dst
  let a ← decSrc r.als r.a
  need .reservedField (!r.bls && r.b.extractLsb' 0 5 == 0)
  .ok (r.b.extractLsb' 5 6, ⟨r.guard, d, a, r.tail⟩)

def rr (r : Raw) (f : AluRR → Instr) : Dec Instr := do
  let (sm, x) ← decRR r
  need .reservedField (sm == 0)
  .ok (f x)
def ri (r : Raw) (f : AluRI → Instr) : Dec Instr := do
  let (sm, x) ← decRI r
  need .reservedField (sm == 0)
  .ok (f x)
/-- SM bit 41 selects signed; bits 46:42 zero (R75). -/
def rrS (r : Raw) (f : Bool → AluRR → Instr) : Dec Instr := do
  let (sm, x) ← decRR r
  need .reservedField (sm.extractLsb' 1 5 == 0)
  .ok (f (sm.getLsbD 0) x)
def riS (r : Raw) (f : Bool → AluRI → Instr) : Dec Instr := do
  let (sm, x) ← decRI r
  need .reservedField (sm.extractLsb' 1 5 == 0)
  .ok (f (sm.getLsbD 0) x)
/-- SM bits 44:41 hold the condition (R75). -/
def rrC (r : Raw) (f : Cond → AluRR → Instr) : Dec Instr := do
  let (sm, x) ← decRR r
  need .reservedField (sm.extractLsb' 4 2 == 0)
  let c ← ofTable (Cond.ofCode (sm.extractLsb' 0 4))
  .ok (f c x)
def riC (r : Raw) (f : Cond → AluRI → Instr) : Dec Instr := do
  let (sm, x) ← decRI r
  need .reservedField (sm.extractLsb' 4 2 == 0)
  let c ← ofTable (Cond.ofCode (sm.extractLsb' 0 4))
  .ok (f c x)

/-- D and A, B zero; the tail is judged by the caller. -/
def decDA (r : Raw) : Dec OpDA := do
  let d ← r.dst
  let a ← decSrc r.als r.a
  need .reservedField r.noB
  .ok ⟨r.guard, d, a⟩
def decD (r : Raw) : Dec OpD := do
  let d ← r.dst
  need .reservedField (r.noA && r.noB)
  .ok ⟨r.guard, d⟩
def decA (r : Raw) : Dec OpA := do
  let a ← decSrc r.als r.a
  need .reservedField (r.noD && r.noB)
  .ok ⟨r.guard, a⟩
def decAB (r : Raw) : Dec OpAB := do
  let a ← decSrc r.als r.a
  let b ← decSrc r.bls r.b
  need .reservedField r.noD
  .ok ⟨r.guard, a, b⟩
/-- D, A and B, all of them plain (classes M and E). -/
def decDAB (r : Raw) : Dec AluRR := do
  let d ← r.dst
  let a ← decSrc r.als r.a
  let b ← decSrc r.bls r.b
  .ok ⟨r.guard, d, a, b⟩
/-- D as a third source: D.WBS and LT zero. -/
def decSrc3 (r : Raw) : Dec OpSrc3 := do
  let d ← decReg r.d
  let a ← decSrc r.als r.a
  let b ← decSrc r.bls r.b
  need .reservedField (!r.wbs && r.lt == 0 && r.noT)
  .ok ⟨r.guard, d, a, b⟩
def decImm (r : Raw) : Dec OpImm := do
  need .reservedField (r.noD && r.noA && r.noB)
  .ok ⟨r.guard, r.tail⟩

/-! ### Classes -/

def decS (r : Raw) : Dec Instr :=
  match r.op.toNat with
  | 0x001 => rr r .add | 0x101 => ri r .addImmediate
  | 0x002 => rr r .sub | 0x102 => ri r .subImmediate
  | 0x003 => rr r .mul | 0x103 => ri r .mulImmediate
  | 0x004 => rrS r .mulh | 0x104 => riS r .mulhImmediate
  | 0x005 => rrS r .div | 0x105 => riS r .divImmediate
  | 0x006 => rrS r .rem | 0x106 => riS r .remImmediate
  | 0x007 => rr r .and | 0x107 => ri r .andImmediate
  | 0x008 => rr r .andn | 0x108 => ri r .andnImmediate
  | 0x009 => rr r .or | 0x109 => ri r .orImmediate
  | 0x00A => rr r .xor | 0x10A => ri r .xorImmediate
  | 0x00B => rr r .shl | 0x10B => ri r .shlImmediate
  | 0x00C => rrS r .shr | 0x10C => riS r .shrImmediate
  | 0x00D => rr r .rot | 0x10D => ri r .rotImmediate
  | 0x00E => do let x ← decDA r; need .reservedField r.noT; .ok (.clz x)
  | 0x00F => do let x ← decDA r; need .reservedField r.noT; .ok (.popc x)
  | 0x010 => rr r .bext | 0x110 => ri r .bextImmediate
  | 0x011 => rr r .bins | 0x111 => ri r .binsImmediate
  | 0x012 => rrC r .cmp | 0x112 => riC r .cmpImmediate
  | 0x013 => rr r .sel
  | 0x014 => rrS r .min | 0x114 => riS r .minImmediate
  | 0x015 => rrS r .max | 0x115 => riS r .maxImmediate
  | 0x016 => do let x ← decD r; .ok (.ldi ⟨x.g, x.d, r.tail⟩)
  | 0x017 => do
      let x ← decD r
      need .reservedField (r.tail.extractLsb' 0 12 == 0)
      .ok (.addpc ⟨x.g, x.d, r.tail.extractLsb' 12 20⟩)
  | _ => .error .unassignedOp

/-- D, A, B (SM zero) and the tail of a class F word. -/
def decFBase (r : Raw) : Dec (Dst × Src × Src × FTail) := do
  let d ← r.dst
  let a ← decSrc r.als r.a
  let (sm, b) ← decSrcSM r.bls r.b
  need .reservedField (sm == 0)
  let t := FTail.unpack r.tail
  need .reservedField (t.rest == 0)
  .ok (d, a, b, t)

def decF (r : Raw) : Dec Instr :=
  match r.op.toNat with
  | 0x001 => do
      let (d, a, b, t) ← decFBase r
      need .reservedField (t.fc == 0 && t.fmt2 == 0 && t.fcc == 0)
      let fmt ← ofTable (Fmt.ofCode t.fmt)
      let rnd ← ofTable (Rnd.ofCode t.rnd)
      .ok (.fadd ⟨r.guard, d, a, b, fmt, rnd⟩)
  | 0x002 => do
      let (d, a, b, t) ← decFBase r
      need .reservedField (t.fc == 0 && t.fmt2 == 0 && t.fcc == 0)
      let fmt ← ofTable (Fmt.ofCode t.fmt)
      let rnd ← ofTable (Rnd.ofCode t.rnd)
      .ok (.fmul ⟨r.guard, d, a, b, fmt, rnd⟩)
  | 0x003 => do
      let (d, a, b, t) ← decFBase r
      need .reservedField (t.fmt2 == 0 && t.fcc == 0)
      let fmt ← ofTable (Fmt.ofCode t.fmt)
      let rnd ← ofTable (Rnd.ofCode t.rnd)
      .ok (.ffma t.fc ⟨r.guard, d, a, b, fmt, rnd⟩)
  | 0x004 => do
      let (d, a, b, t) ← decFBase r
      need .reservedField (t.fc == 0 && t.fmt2 == 0)
      let fmt ← ofTable (Fmt.ofCode t.fmt)
      let rnd ← ofTable (Rnd.ofCode t.rnd)
      let c ← ofTable (FCond.ofCode t.fcc)
      .ok (.fcmp c ⟨r.guard, d, a, b, fmt, rnd⟩)
  | 0x005 => do
      let (d, a, _, t) ← decFBase r
      need .reservedField (r.noB && t.fc == 0 && t.fcc == 0)
      let fmt ← ofTable (Fmt.ofCode t.fmt)
      let fmt2 ← ofTable (Fmt.ofCode t.fmt2)
      let rnd ← ofTable (Rnd.ofCode t.rnd)
      .ok (.fcvt ⟨r.guard, d, a, fmt, fmt2, rnd⟩)
  | _ => .error .unassignedOp

/-- Every field of the M tail zero. -/
def MTail.zero (t : MTail) : Bool :=
  t.scope == 0 && t.order == 0 && t.size == 0 && !t.space && t.off == 0 && t.sub == 0
/-- Only SUBOP may be nonzero. -/
def MTail.onlySub (t : MTail) : Bool := t.scope == 0 && t.order == 0 && t.size == 0 && !t.space && t.off == 0
/-- Only SPACE, OFF12 and SUBOP may be nonzero. -/
def MTail.noSOS (t : MTail) : Bool := t.scope == 0 && t.order == 0 && t.size == 0

def decLoad (r : Raw) (t : MTail) : Dec LoadOp := do
  let x ← decDA r
  need .reservedField (t.sub.extractLsb' 1 11 == 0)
  .ok ⟨x.g, x.d, x.a, Size.ofCode t.size, Space.ofCode t.space, t.off, t.sub.getLsbD 0⟩

def decStore (r : Raw) (t : MTail) : Dec StoreOp := do
  let x ← decAB r
  need .reservedField (t.sub == 0)
  .ok ⟨x.g, x.a, x.b, Size.ofCode t.size, Space.ofCode t.space, t.off⟩

def decAtom (r : Raw) (t : MTail) : Dec AtomOpF := do
  let x ← decDAB r
  let sc ← ofTable (Scope.ofCode t.scope)
  .ok ⟨x.g, x.d, x.a, x.b, sc, Order.ofCode t.order, Size.ofCode t.size, Space.ofCode t.space, t.off⟩

def decM (r : Raw) : Dec Instr :=
  let t := MTail.unpack r.tail
  match r.op.toNat with
  | 0x001 => do
      need .reservedField (t.scope == 0)
      need .reservedCode (t.order == 0)
      let x ← decLoad r t
      .ok (.ld x)
  | 0x002 => do
      need .reservedField (t.scope == 0)
      need .reservedCode (t.order == 0)
      let x ← decStore r t
      .ok (.st x)
  | 0x003 => do
      need .reservedCode (t.order == 1)
      let sc ← ofTable (Scope.ofCode t.scope)
      let x ← decLoad r t
      .ok (.lda sc x)
  | 0x004 => do
      need .reservedCode (t.order == 2)
      let sc ← ofTable (Scope.ofCode t.scope)
      let x ← decStore r t
      .ok (.stl sc x)
  | 0x005 => do
      let op ← ofTable (AtomOp.ofCode t.sub)
      let x ← decAtom r t
      .ok (.atom op x)
  | 0x006 => do
      need .reservedField (t.sub.extractLsb' 5 7 == 0)
      let x ← decAtom r t
      .ok (.cas (t.sub.extractLsb' 0 5) x)
  | 0x007 => do
      need .reservedField (r.noD && r.noA && r.noB && t.size == 0 && !t.space && t.off == 0 && t.sub == 0)
      let sc ← ofTable (Scope.ofCode t.scope)
      .ok (.fence r.guard (Order.ofCode t.order) sc)
  | 0x008 => do
      let x ← decA r
      need .reservedField (t.noSOS && !t.space && t.sub == 0)
      .ok (.monitor x t.off)
  | 0x009 => do
      let d ← r.dst
      let b ← decSrc r.bls r.b
      need .reservedField (r.noA && t.zero)
      .ok (.mwait r.guard d b)
  | 0x00A => do
      let x ← decDA r
      need .reservedField t.onlySub
      let op ← ofTable (BsyncOp.ofCode t.sub)
      .ok (.bsync op x)
  | 0x00B => do let x ← decSrc3 r; .ok (.send x)
  | 0x00C => do
      let x ← decA r
      need .reservedField (t.onlySub && t.sub.extractLsb' 2 10 == 0)
      .ok (.waitc (ChainId.ofCode (t.sub.extractLsb' 0 2)) x)
  | 0x00D => do
      let x ← decD r
      need .reservedField (t.onlySub && t.sub.extractLsb' 3 9 == 0)
      .ok (.tlrd (ChainId.ofCode (t.sub.extractLsb' 0 2)) (t.sub.getLsbD 2) x)
  | 0x00E => do let x ← decDAB r; need .reservedField t.zero; .ok (.ringi x)
  | 0x00F => do
      let x ← decD r
      need .reservedField (t.onlySub && t.sub.extractLsb' 3 9 == 0)
      .ok (.awaitf (t.sub.extractLsb' 0 3) x)
  | 0x010 => do
      need .reservedField (r.noD && r.noA && r.noB && t.onlySub && t.sub.extractLsb' 3 9 == 0)
      .ok (.rels r.guard (t.sub.extractLsb' 0 3))
  | 0x011 => do
      let d ← r.dst
      let a ← decSrc r.als r.a
      need .latchNotAllowed (!r.bls)
      let b ← decReg r.b
      need .reservedField t.zero
      .ok (.mput r.guard d a b)
  | 0x012 => do let x ← decDA r; need .reservedField t.zero; .ok (.mtake x)
  | 0x013 => do let x ← decDA r; need .reservedField t.zero; .ok (.mstat x)
  | 0x014 => do let x ← decDAB r; need .reservedField t.zero; .ok (.mctl x)
  | 0x015 => do
      let x ← decAB r
      need .reservedField t.noSOS
      .ok (.tagset x (Space.ofCode t.space) t.off t.sub)
  | 0x016 => do
      let x ← decDA r
      need .reservedField (t.noSOS && t.sub == 0)
      .ok (.tagget x (Space.ofCode t.space) t.off)
  | 0x017 => do let x ← decDAB r; need .reservedField t.zero; .ok (.ptrtag x)
  | 0x018 => do
      let x ← decA r
      need .reservedField (t.noSOS && t.sub.extractLsb' 1 11 == 0)
      .ok (.cflush x (Space.ofCode t.space) t.off (t.sub.getLsbD 0))
  | _ => .error .unassignedOp

def decC (r : Raw) : Dec Instr :=
  match r.op.toNat with
  | 0x001 => do let x ← decImm r; .ok (.jmp x)
  | 0x002 => do let x ← decA r; need .reservedField r.noT; .ok (.jmpr x)
  | 0x003 => do let x ← decD r; .ok (.call ⟨x.g, x.d, r.tail⟩)
  | 0x004 => do let x ← decA r; need .reservedField r.noT; .ok (.ret x)
  | 0x005 => do
      need .reservedField (r.noD && r.noA && r.noB && r.noT)
      .ok (.exit r.guard)
  | 0x006 => do let x ← decImm r; .ok (.abort x)
  | 0x007 => do let x ← decImm r; .ok (.nop x)
  | 0x008 => do
      let d ← decReg r.d
      let b ← decSrc r.bls r.b
      need .reservedField (r.noA && r.lt == 0 && !r.neg && r.greg == 0 && r.gbit == 0)
      .ok (.tstep d r.wbs b r.tail)
  | 0x009 => do let x ← decImm r; .ok (.trap x)
  | 0x00A => do let x ← decImm r; .ok (.svc x)
  | 0x00B => do
      need .reservedField (r.noD && r.noA && r.noB && r.tail.extractLsb' 1 31 == 0)
      .ok (.eret r.guard (r.tail.getLsbD 0))
  | 0x00C => do let x ← decImm r; .ok (.bkpt x)
  | 0x00D => do
      let x ← decD r
      need .reservedField (r.tail.extractLsb' 12 20 == 0)
      .ok (.sread x (r.tail.extractLsb' 0 12))
  | 0x00E => do
      let x ← decA r
      need .reservedField (r.tail.extractLsb' 12 20 == 0)
      .ok (.swrite x (r.tail.extractLsb' 0 12))
  | 0x00F => do let x ← decAB r; .ok (.tlbi x r.tail)
  | _ => .error .unassignedOp

/-- The common fields of an element-wise word: rounding and format; ESIZE must be the lane width of FMT (R79). -/
def decVFmt (t : VTail) : Dec (Fmt × Rnd) := do
  let fmt ← ofTable (Fmt.ofCode t.fmt)
  let rnd ← ofTable (Rnd.ofCode t.rnd)
  need .reservedCode (t.esize == fmt.esize)
  .ok (fmt, rnd)

def VTail.noC (t : VTail) : Bool := !t.cls && t.c == 0

/-- d, a and a SUBOP that the caller judges. -/
def decV1 (r : Raw) (t : VTail) : Dec VOp1 := do
  let a ← decVSrc r.als r.a
  need .reservedField (r.noB && t.noC)
  let (fmt, rnd) ← decVFmt t
  .ok ⟨r.guard, r.vdst, a, t.mask, fmt, rnd⟩
def decV2 (r : Raw) (t : VTail) : Dec VOp2 := do
  let a ← decVSrc r.als r.a
  let b ← decVSrc r.bls r.b
  need .reservedField t.noC
  let (fmt, rnd) ← decVFmt t
  .ok ⟨r.guard, r.vdst, a, b, t.mask, fmt, rnd⟩
def decV3 (r : Raw) (t : VTail) : Dec VOp3 := do
  let a ← decVSrc r.als r.a
  let b ← decVSrc r.bls r.b
  let c ← decVSrc t.cls t.c
  let (fmt, rnd) ← decVFmt t
  .ok ⟨r.guard, r.vdst, a, b, c, t.mask, fmt, rnd⟩

def v1 (r : Raw) (t : VTail) (f : VOp1 → Instr) : Dec Instr := do
  let x ← decV1 r t
  need .reservedField (t.sub == 0)
  .ok (f x)
def v2 (r : Raw) (t : VTail) (f : VOp2 → Instr) : Dec Instr := do
  let x ← decV2 r t
  need .reservedField (t.sub == 0)
  .ok (f x)
def v3 (r : Raw) (t : VTail) (f : VOp3 → Instr) : Dec Instr := do
  let x ← decV3 r t
  need .reservedField (t.sub == 0)
  .ok (f x)
/-- SUBOP bit 0 holds `.S` (23 R372). -/
def v2S (r : Raw) (t : VTail) (f : Bool → VOp2 → Instr) : Dec Instr := do
  let x ← decV2 r t
  need .reservedField (t.sub.extractLsb' 1 5 == 0)
  .ok (f (t.sub.getLsbD 0) x)

def VCond.ofCode (fmt : Fmt) (c : BitVec 4) : Option VCond :=
  if fmt.floatLane then (FCond.ofCode c).map .flt else (Cond.ofCode c).map .int
def VCond.code : VCond → BitVec 4
  | .int c => c.code
  | .flt c => c.code

def decV (r : Raw) : Dec Instr :=
  let t := VTail.unpack r.tail
  match r.op.toNat with
  | 0x001 => v1 r t .vabs
  | 0x002 => v2 r t .vadd
  | 0x003 => v2 r t .vand
  | 0x004 => do
      let a ← decSrc r.als r.a
      need .reservedField (r.noB && t.noC && t.sub == 0)
      let (fmt, rnd) ← decVFmt t
      need (.illFormed .rounding) (rnd == .rne)
      .ok (.vbcast r.guard r.vdst a t.mask fmt)
  | 0x005 => do
      let x ← decV2 r t
      need .reservedField (t.sub.extractLsb' 4 2 == 0)
      let c ← ofTable (VCond.ofCode x.fmt (t.sub.extractLsb' 0 4))
      .ok (.vcmp c x)
  | 0x006 => do
      let a ← decVSrc r.als r.a
      need .reservedField (r.noB && !t.cls && t.c.extractLsb' 3 8 == 0 && t.sub.extractLsb' 4 2 == 0)
      let fmt ← ofTable (Fmt.ofCode t.fmt)
      let fmt2 ← ofTable (Fmt.ofCode (t.sub.extractLsb' 0 4))
      let rnd ← ofTable (Rnd.ofCode t.rnd)
      need .reservedCode (t.esize == (if vcvtWide fmt fmt2 = 16 then 1 else 0))
      .ok (.vcvt (t.c.extractLsb' 0 3) fmt2 ⟨r.guard, r.vdst, a, t.mask, fmt, rnd⟩)
  | 0x007 => v1 r t .vexp2
  | 0x008 => v3 r t .vfma
  | 0x009 => do
      let a ← decSrc r.als r.a
      let b ← decVSrc r.bls r.b
      need .reservedField (t.noC && t.sub == 0)
      let (fmt, rnd) ← decVFmt t
      need (.illFormed .rounding) (rnd == .rne)
      .ok (.vgath r.guard r.vdst a b t.mask fmt)
  | 0x00A => do
      let a ← decSrc r.als r.a
      need .reservedField (r.noB && t.noC)
      let (fmt, rnd) ← decVFmt t
      need (.illFormed .rounding) (rnd == .rne)
      .ok (.vld r.guard r.vdst a t.sub t.mask fmt)
  | 0x00B => v1 r t .vlog2
  | 0x00C => v2S r t .vmax
  | 0x00D => v2S r t .vmin
  | 0x00E => v1 r t .vmov
  | 0x00F => v2 r t .vmul
  | 0x010 => v1 r t .vneg
  | 0x011 => v2 r t .vor
  | 0x012 => v2 r t .vperm
  | 0x013 => v1 r t .vrcp
  | 0x014 => do
      let d ← r.dst
      let a ← decVSrc r.als r.a
      need .reservedField (r.noB && t.noC && t.sub.extractLsb' 4 2 == 0)
      let (fmt, rnd) ← decVFmt t
      let op ← ofTable (VredOp.ofCode (t.sub.extractLsb' 0 3))
      .ok (.vred op (t.sub.getLsbD 3) r.guard d a t.mask fmt rnd)
  | 0x015 => v1 r t .vrsq
  | 0x016 => v2 r t .vscale
  | 0x017 => do
      let a ← decSrc r.als r.a
      let b ← decVSrc r.bls r.b
      let c ← decVSrc t.cls t.c
      need .reservedField (r.noD && t.sub == 0)
      let (fmt, rnd) ← decVFmt t
      need (.illFormed .rounding) (rnd == .rne)
      .ok (.vscat r.guard a b c t.mask fmt)
  | 0x018 => v3 r t .vsel
  | 0x019 => v2 r t .vshl
  | 0x01A => v2S r t .vshr
  | 0x01B => do
      let a ← decSrc r.als r.a
      let b ← decVSrc r.bls r.b
      need .reservedField (r.noD && t.noC)
      let (fmt, rnd) ← decVFmt t
      need (.illFormed .rounding) (rnd == .rne)
      .ok (.vst r.guard a b t.sub t.mask fmt)
  | 0x01C => v2 r t .vsub
  | 0x01D => v2 r t .vxor
  | 0x01E => do
      let a ← decSrc r.als r.a
      need .reservedField (r.noB && t.noC && t.mask == 0 && r.lt == 0 && !r.wbs && r.d.extractLsb' 3 8 == 0
        && t.sub.extractLsb' 2 4 == 0)
      let (fmt, rnd) ← decVFmt t
      need (.illFormed .rounding) (rnd == .rne)
      let k ← ofTable (ViewKind.ofCode (t.sub.extractLsb' 0 2))
      .ok (.view r.guard (r.d.extractLsb' 0 3) a k fmt)
  | 0x01F => do
      need .latchNotAllowed (!r.als)
      need .reservedField (r.noB && t.noC && t.mask == 0 && r.lt == 0 && t.sub == 0)
      let (fmt, rnd) ← decVFmt t
      need (.illFormed .rounding) (rnd == .rne)
      .ok (.ttrn r.guard (VEl.ofField r.d) r.wbs (VEl.ofField r.a) fmt)
  | _ => .error .unassignedOp

def decE (r : Raw) : Dec Instr :=
  match r.op.toNat with
  | 0x001 => do let x ← decSrc3 r; .ok (.copy x)
  | 0x002 => do let x ← decAB r; .ok (.wbld x r.tail)
  | 0x003 => do let x ← decAB r; need .reservedField r.noT; .ok (.mma x)
  | 0x004 => do
      need .latchNotAllowed (!r.als)
      need .reservedField (r.noD && r.noB && r.tail.extractLsb' 3 29 == 0)
      .ok (.aclr r.guard (VEl.ofField r.a) (r.tail.extractLsb' 0 3))
  | 0x005 => do
      need .latchNotAllowed (!r.als)
      need .reservedField (r.noB && !r.wbs && r.lt == 0 && r.tail.extractLsb' 27 5 == 0
        && r.tail.extractLsb' 10 14 == 0 && r.tail.extractLsb' 0 6 == 0)
      let fmt ← ofTable (Fmt.ofCode (r.tail.extractLsb' 6 4))
      let rnd ← ofTable (Rnd.ofCode (r.tail.extractLsb' 24 3))
      .ok (.adrain r.guard (VEl.ofField r.d) (VEl.ofField r.a) fmt rnd)
  | 0x006 => do
      let d ← decReg r.d
      need .reservedField (r.noA && r.noB && r.lt == 0 && r.tail.extractLsb' 2 10 == 0)
      .ok (.salloc r.guard d r.wbs (r.tail.extractLsb' 12 20) (r.tail.getLsbD 1) (r.tail.getLsbD 0))
  | 0x007 => do let x ← decA r; need .reservedField r.noT; .ok (.sfree x)
  | 0x008 => do let x ← decAB r; need .reservedField r.noT; .ok (.wind x)
  | 0x009 => do
      let d ← decReg r.d
      let a ← decSrc r.als r.a
      need .reservedField (r.noB && r.lt == 0 && r.noT)
      .ok (.life r.guard d r.wbs a)
  | 0x00A => do let x ← decAB r; .ok (.smap x r.tail)
  | 0x00B => do let x ← decA r; need .reservedField r.noT; .ok (.sunmap x)
  | 0x00C => do let x ← decDAB r; need .reservedField r.noT; .ok (.lock x)
  | 0x00D => do let x ← decAB r; need .reservedField r.noT; .ok (.unlock x)
  | _ => .error .unassignedOp

/-- The class and the opcode, before the static checks (R83 steps 1, 2, 4 and 5). -/
def decodeRaw (rest : BitVec 93) (r : Raw) : Dec Instr :=
  match r.cls.toNat with
  | 0 => decS r
  | 1 => decF r
  | 2 => decM r
  | 3 => decC r
  | 4 => decV r
  | 5 => decE r
  | 6 => .ok (.emulationTrap rest)
  | _ => .error .reservedClass

/-- The static checks on the decoded word (R83 step 5). -/
def checked (i : Instr) : Dec Instr :=
  match i.check with
  | none => .ok i
  | some e => .error (.illFormed e)

def decodeFields (rest : BitVec 93) (r : Raw) : Dec Instr :=
  match decodeRaw rest r with
  | .ok i => checked i
  | .error e => .error e

/-- The instruction of a 96-bit word. -/
def decodeWord (w : IWord) : Dec Instr := decodeFields (w.extractLsb' 0 93) (Raw.unpack w)

/-- Little-endian value of bytes, lowest address first (00 R2). -/
def leNat : Bytes → Nat
  | [] => 0
  | b :: r => b.toNat + 256 * leNat r

/-- The n little-endian bytes of a value. -/
def leBytes : Nat → Nat → Bytes
  | 0, _ => []
  | n + 1, v => BitVec.ofNat 8 v :: leBytes n (v / 256)

/-- The instruction in the first 12 bytes, with the bytes that follow (R70). -/
def decode (bs : Bytes) : Dec (Instr × Bytes) :=
  if bs.length < 12 then .error .short
  else match decodeWord (BitVec.ofNat 96 (leNat (bs.take 12))) with
    | .ok i => .ok (i, bs.drop 12)
    | .error e => .error e

/-- The row of the opcode table whose word is w: the word is laid out as the machine stores it and decoded. -/
def decodeTableWord (_nbits w : Nat) : Option Instr :=
  match decode (leBytes 12 w) with
  | .ok (i, _) => some i
  | .error _ => none

/-! ### The encoder -/

/-- A word with a class, an opcode and a guard, and every other field zero. -/
def Raw.base (cls : BitVec 3) (op : BitVec 9) (g : Guard) : Raw :=
  { cls := cls, op := op, neg := g.neg, greg := g.reg, gbit := g.bit, wbs := false, d := 0, als := false, a := 0,
    bls := false, b := 0, lt := 0, tail := 0 }
def Raw.setD (r : Raw) (d : Dst) : Raw := { r with d := regField d.reg, wbs := d.wbs, lt := d.lt }
def Raw.setVD (r : Raw) (d : VDst) : Raw := { r with d := d.el.field, wbs := d.wbs, lt := d.lt }
def Raw.setA (r : Raw) (a : Src) : Raw := { r with als := a.ls, a := a.field }
def Raw.setB (r : Raw) (b : Src) : Raw := { r with bls := b.ls, b := b.field }
def Raw.setBSM (r : Raw) (sm : BitVec 6) (b : Src) : Raw := { r with bls := b.ls, b := b.fieldSM sm }
def Raw.setVA (r : Raw) (a : VSrc) : Raw := { r with als := a.ls, a := a.field }
def Raw.setVB (r : Raw) (b : VSrc) : Raw := { r with bls := b.ls, b := b.field }
def Raw.setT (r : Raw) (t : BitVec 32) : Raw := { r with tail := t }

def encRR (op : BitVec 9) (sm : BitVec 6) (f : AluRR) : Raw :=
  (((Raw.base 0 op f.g).setD f.d).setA f.a).setBSM sm f.b
def encRI (op : BitVec 9) (sm : BitVec 6) (f : AluRI) : Raw :=
  { (((Raw.base 0 op f.g).setD f.d).setA f.a) with b := sm ++ (0 : BitVec 5), tail := f.imm }
def smS (s : Bool) : BitVec 6 := (0 : BitVec 5) ++ bit1 s
def smC (c : Cond) : BitVec 6 := (0 : BitVec 2) ++ c.code
def encDA (cls : BitVec 3) (op : BitVec 9) (t : BitVec 32) (f : OpDA) : Raw :=
  (((Raw.base cls op f.g).setD f.d).setA f.a).setT t
def encD (cls : BitVec 3) (op : BitVec 9) (t : BitVec 32) (f : OpD) : Raw := ((Raw.base cls op f.g).setD f.d).setT t
def encA (cls : BitVec 3) (op : BitVec 9) (t : BitVec 32) (f : OpA) : Raw := ((Raw.base cls op f.g).setA f.a).setT t
def encAB (cls : BitVec 3) (op : BitVec 9) (t : BitVec 32) (f : OpAB) : Raw :=
  (((Raw.base cls op f.g).setA f.a).setB f.b).setT t
def encDAB (cls : BitVec 3) (op : BitVec 9) (t : BitVec 32) (f : AluRR) : Raw :=
  ((((Raw.base cls op f.g).setD f.d).setA f.a).setB f.b).setT t
def encSrc3 (cls : BitVec 3) (op : BitVec 9) (f : OpSrc3) : Raw :=
  { (((Raw.base cls op f.g).setA f.a).setB f.b) with d := regField f.d }
def encImm (op : BitVec 9) (f : OpImm) : Raw := (Raw.base 3 op f.g).setT f.imm
def encF (op : BitVec 9) (fc : BitVec 5) (fcc : BitVec 4) (f : FOp) : Raw :=
  ((((Raw.base 1 op f.g).setD f.d).setA f.a).setBSM 0 f.b).setT
    (FTail.pack ⟨fc, f.rnd.code, f.fmt.code, 0, fcc, 0⟩)
def encLoad (op : BitVec 9) (sc : BitVec 3) (ord : BitVec 2) (f : LoadOp) : Raw :=
  (((Raw.base 2 op f.g).setD f.d).setA f.a).setT
    (MTail.pack ⟨sc, ord, f.size.code, f.space.code, f.off, (0 : BitVec 11) ++ bit1 f.sx⟩)
def encStore (op : BitVec 9) (sc : BitVec 3) (ord : BitVec 2) (f : StoreOp) : Raw :=
  (((Raw.base 2 op f.g).setA f.a).setB f.b).setT (MTail.pack ⟨sc, ord, f.size.code, f.space.code, f.off, 0⟩)
def encAtom (op : BitVec 9) (sub : BitVec 12) (f : AtomOpF) : Raw :=
  ((((Raw.base 2 op f.g).setD f.d).setA f.a).setB f.b).setT
    (MTail.pack ⟨f.scope.code, f.order.code, f.size.code, f.space.code, f.off, sub⟩)
/-- An M tail with SUBOP only. -/
def mSub (sub : BitVec 12) : BitVec 32 := MTail.pack ⟨0, 0, 0, false, 0, sub⟩
/-- An M tail with SPACE, OFF12 and SUBOP. -/
def mSpace (sp : Space) (off sub : BitVec 12) : BitVec 32 := MTail.pack ⟨0, 0, 0, sp.code, off, sub⟩
def vTail (mask : BitVec 5) (rnd : Rnd) (c : VSrc) (fmt : Fmt) (sub : BitVec 6) : BitVec 32 :=
  VTail.pack ⟨mask, rnd.code, c.ls, c.field, fmt.esize, fmt.code, sub⟩
/-- A C field of zero. -/
def VSrc.zero : VSrc := .el ⟨0, 0⟩
def encV1 (op : BitVec 9) (f : VOp1) : Raw :=
  (((Raw.base 4 op f.g).setVD f.d).setVA f.a).setT (vTail f.mask f.rnd .zero f.fmt 0)
def encV2 (op : BitVec 9) (sub : BitVec 6) (f : VOp2) : Raw :=
  ((((Raw.base 4 op f.g).setVD f.d).setVA f.a).setVB f.b).setT (vTail f.mask f.rnd .zero f.fmt sub)
def encV3 (op : BitVec 9) (f : VOp3) : Raw :=
  ((((Raw.base 4 op f.g).setVD f.d).setVA f.a).setVB f.b).setT (vTail f.mask f.rnd f.c f.fmt 0)
def subS (s : Bool) : BitVec 6 := (0 : BitVec 5) ++ bit1 s

/-- The fields of an instruction's word; none for an event. -/
def encodeRaw : Instr → Option Raw
  | .add f => some (encRR 0x001 0 f) | .addImmediate f => some (encRI 0x101 0 f)
  | .sub f => some (encRR 0x002 0 f) | .subImmediate f => some (encRI 0x102 0 f)
  | .mul f => some (encRR 0x003 0 f) | .mulImmediate f => some (encRI 0x103 0 f)
  | .mulh s f => some (encRR 0x004 (smS s) f) | .mulhImmediate s f => some (encRI 0x104 (smS s) f)
  | .div s f => some (encRR 0x005 (smS s) f) | .divImmediate s f => some (encRI 0x105 (smS s) f)
  | .rem s f => some (encRR 0x006 (smS s) f) | .remImmediate s f => some (encRI 0x106 (smS s) f)
  | .and f => some (encRR 0x007 0 f) | .andImmediate f => some (encRI 0x107 0 f)
  | .andn f => some (encRR 0x008 0 f) | .andnImmediate f => some (encRI 0x108 0 f)
  | .or f => some (encRR 0x009 0 f) | .orImmediate f => some (encRI 0x109 0 f)
  | .xor f => some (encRR 0x00A 0 f) | .xorImmediate f => some (encRI 0x10A 0 f)
  | .shl f => some (encRR 0x00B 0 f) | .shlImmediate f => some (encRI 0x10B 0 f)
  | .shr s f => some (encRR 0x00C (smS s) f) | .shrImmediate s f => some (encRI 0x10C (smS s) f)
  | .rot f => some (encRR 0x00D 0 f) | .rotImmediate f => some (encRI 0x10D 0 f)
  | .clz f => some (encDA 0 0x00E 0 f) | .popc f => some (encDA 0 0x00F 0 f)
  | .bext f => some (encRR 0x010 0 f) | .bextImmediate f => some (encRI 0x110 0 f)
  | .bins f => some (encRR 0x011 0 f) | .binsImmediate f => some (encRI 0x111 0 f)
  | .cmp c f => some (encRR 0x012 (smC c) f) | .cmpImmediate c f => some (encRI 0x112 (smC c) f)
  | .sel f => some (encRR 0x013 0 f)
  | .min s f => some (encRR 0x014 (smS s) f) | .minImmediate s f => some (encRI 0x114 (smS s) f)
  | .max s f => some (encRR 0x015 (smS s) f) | .maxImmediate s f => some (encRI 0x115 (smS s) f)
  | .ldi f => some (encD 0 0x016 f.imm ⟨f.g, f.d⟩)
  | .addpc f => some (encD 0 0x017 (f.imm ++ (0 : BitVec 12)) ⟨f.g, f.d⟩)
  | .fadd f => some (encF 0x001 0 0 f) | .fmul f => some (encF 0x002 0 0 f) | .ffma c f => some (encF 0x003 c 0 f)
  | .fcmp c f => some (encF 0x004 0 c.code f)
  | .fcvt f => some (encDA 1 0x005 (FTail.pack ⟨0, f.rnd.code, f.fmt.code, f.fmt2.code, 0, 0⟩) ⟨f.g, f.d, f.a⟩)
  | .ld f => some (encLoad 0x001 0 0 f) | .lda sc f => some (encLoad 0x003 sc.code 1 f)
  | .st f => some (encStore 0x002 0 0 f) | .stl sc f => some (encStore 0x004 sc.code 2 f)
  | .atom op f => some (encAtom 0x005 op.code f)
  | .cas c f => some (encAtom 0x006 ((0 : BitVec 7) ++ c) f)
  | .fence g o sc => some ((Raw.base 2 0x007 g).setT (MTail.pack ⟨sc.code, o.code, 0, false, 0, 0⟩))
  | .monitor f off => some (encA 2 0x008 (MTail.pack ⟨0, 0, 0, false, off, 0⟩) f)
  | .mwait g d b => some (((Raw.base 2 0x009 g).setD d).setB b)
  | .bsync op f => some (encDA 2 0x00A (mSub op.code) f)
  | .send f => some (encSrc3 2 0x00B f)
  | .waitc ch f => some (encA 2 0x00C (mSub ((0 : BitVec 10) ++ ch.code)) f)
  | .tlrd ch ap f => some (encD 2 0x00D (mSub ((0 : BitVec 9) ++ bit1 ap ++ ch.code)) f)
  | .ringi f => some (encDAB 2 0x00E 0 f)
  | .awaitf n f => some (encD 2 0x00F (mSub ((0 : BitVec 9) ++ n)) f)
  | .rels g n => some ((Raw.base 2 0x010 g).setT (mSub ((0 : BitVec 9) ++ n)))
  | .mput g d a b => some { (((Raw.base 2 0x011 g).setD d).setA a) with b := regField b }
  | .mtake f => some (encDA 2 0x012 0 f) | .mstat f => some (encDA 2 0x013 0 f) | .mctl f => some (encDAB 2 0x014 0 f)
  | .tagset f sp off n => some (encAB 2 0x015 (mSpace sp off n) f)
  | .tagget f sp off => some (encDA 2 0x016 (mSpace sp off 0) f)
  | .ptrtag f => some (encDAB 2 0x017 0 f)
  | .cflush f sp off inv => some (encA 2 0x018 (mSpace sp off ((0 : BitVec 11) ++ bit1 inv)) f)
  | .jmp f => some (encImm 0x001 f) | .jmpr f => some (encA 3 0x002 0 f)
  | .call f => some (encD 3 0x003 f.imm ⟨f.g, f.d⟩) | .ret f => some (encA 3 0x004 0 f)
  | .exit g => some (Raw.base 3 0x005 g) | .abort f => some (encImm 0x006 f) | .nop f => some (encImm 0x007 f)
  | .tstep d wbs b m =>
      some { ((Raw.base 3 0x008 ⟨false, 0, 0⟩).setB b) with d := regField d, wbs := wbs, tail := m }
  | .trap f => some (encImm 0x009 f) | .svc f => some (encImm 0x00A f)
  | .eret g sk => some ((Raw.base 3 0x00B g).setT ((0 : BitVec 31) ++ bit1 sk))
  | .bkpt f => some (encImm 0x00C f)
  | .sread f n => some (encD 3 0x00D ((0 : BitVec 20) ++ n) f)
  | .swrite f n => some (encA 3 0x00E ((0 : BitVec 20) ++ n) f)
  | .tlbi f n => some (encAB 3 0x00F n f)
  | .vabs f => some (encV1 0x001 f) | .vadd f => some (encV2 0x002 0 f) | .vand f => some (encV2 0x003 0 f)
  | .vbcast g d a m fmt => some ((((Raw.base 4 0x004 g).setVD d).setA a).setT (vTail m .rne .zero fmt 0))
  | .vcmp c f => some (encV2 0x005 ((0 : BitVec 2) ++ c.code) f)
  | .vcvt p f2 f => some ((((Raw.base 4 0x006 f.g).setVD f.d).setVA f.a).setT
      (VTail.pack ⟨f.mask, f.rnd.code, false, (0 : BitVec 8) ++ p, if vcvtWide f.fmt f2 = 16 then 1 else 0,
        f.fmt.code, (0 : BitVec 2) ++ f2.code⟩))
  | .vexp2 f => some (encV1 0x007 f) | .vfma f => some (encV3 0x008 f)
  | .vgath g d a b m fmt => some (((((Raw.base 4 0x009 g).setVD d).setA a).setVB b).setT (vTail m .rne .zero fmt 0))
  | .vld g d a off m fmt => some ((((Raw.base 4 0x00A g).setVD d).setA a).setT (vTail m .rne .zero fmt off))
  | .vlog2 f => some (encV1 0x00B f)
  | .vmax s f => some (encV2 0x00C (subS s) f) | .vmin s f => some (encV2 0x00D (subS s) f)
  | .vmov f => some (encV1 0x00E f) | .vmul f => some (encV2 0x00F 0 f) | .vneg f => some (encV1 0x010 f)
  | .vor f => some (encV2 0x011 0 f) | .vperm f => some (encV2 0x012 0 f) | .vrcp f => some (encV1 0x013 f)
  | .vred op s g d a m fmt rnd => some ((((Raw.base 4 0x014 g).setD d).setVA a).setT
      (vTail m rnd .zero fmt ((0 : BitVec 2) ++ bit1 s ++ op.code)))
  | .vrsq f => some (encV1 0x015 f) | .vscale f => some (encV2 0x016 0 f)
  | .vscat g a b c m fmt => some ((((Raw.base 4 0x017 g).setA a).setVB b).setT (vTail m .rne c fmt 0))
  | .vsel f => some (encV3 0x018 f) | .vshl f => some (encV2 0x019 0 f) | .vshr s f => some (encV2 0x01A (subS s) f)
  | .vst g a b off m fmt => some ((((Raw.base 4 0x01B g).setA a).setVB b).setT (vTail m .rne .zero fmt off))
  | .vsub f => some (encV2 0x01C 0 f) | .vxor f => some (encV2 0x01D 0 f)
  | .view g v a k fmt => some { (((Raw.base 4 0x01E g).setA a).setT
      (vTail 0 .rne .zero fmt ((0 : BitVec 4) ++ k.code))) with d := (0 : BitVec 8) ++ v }
  | .ttrn g d wbs a fmt => some { (Raw.base 4 0x01F g) with
      d := d.field, wbs := wbs, a := a.field, tail := vTail 0 .rne .zero fmt 0 }
  | .copy f => some (encSrc3 5 0x001 f)
  | .wbld f len => some (encAB 5 0x002 len f) | .mma f => some (encAB 5 0x003 0 f)
  | .aclr g a n => some { (Raw.base 5 0x004 g) with a := a.field, tail := (0 : BitVec 29) ++ n }
  | .adrain g d a fmt rnd => some { (Raw.base 5 0x005 g) with
      d := d.field, a := a.field, tail := (0 : BitVec 5) ++ rnd.code ++ (0 : BitVec 14) ++ fmt.code ++ (0 : BitVec 6) }
  | .salloc g d wbs u bk z => some { (Raw.base 5 0x006 g) with
      d := regField d, wbs := wbs, tail := u ++ (0 : BitVec 10) ++ bit1 bk ++ bit1 z }
  | .sfree f => some (encA 5 0x007 0 f) | .wind f => some (encAB 5 0x008 0 f)
  | .life g d wbs a => some { ((Raw.base 5 0x009 g).setA a) with d := regField d, wbs := wbs }
  | .smap f len => some (encAB 5 0x00A len f) | .sunmap f => some (encA 5 0x00B 0 f)
  | .lock f => some (encDAB 5 0x00C 0 f) | .unlock f => some (encAB 5 0x00D 0 f)
  | _ => none

/-- The word of a well-formed instruction; none for an event. -/
def encode (i : Instr) : Option IWord :=
  match i with
  | .emulationTrap rest => some ((6 : BitVec 3) ++ rest)
  | _ => (encodeRaw i).map Raw.pack

/-- The 12 bytes of a word as memory holds it (R70). -/
def wordBytes (w : IWord) : Bytes := leBytes 12 w.toNat

end Sys2Proof
end

