-- ==== Sys2Proof/Machine/State.lean ====
section
/-! DEFINITION. The state of the module: every piece of state the spec names, as plain data, and its value at reset.
One core stands in `State.core` (the core that moves); the others stand in `State.others`. -/

namespace Sys2Proof.Machine

/-- Bytes by address, in one canonical form: addresses strictly rising, and no entry equal to what an unlisted address
reads as. -/
abbrev Cells := List Host.Cell

/-- The privilege modes (04 R89). -/
inductive Mode where
  | u | s | m
  deriving DecidableEq, Repr

/-- A cached translation with its poison bit (07 R137): virtual 4 KiB page, root, physical frame, leaf attributes. -/
structure TlbEntry where
  root : Word
  vpage : Nat
  frame : Nat
  /-- The frame at which the page of the leaf begins (07 R136; 17 R264). -/
  start : Nat
  w : Bool
  tg : Bool
  rc : Bool
  cow : Bool
  poison : Bool
  /-- log2 of the bytes of the leaf that was cached (07 R134). -/
  leaf : Nat
  /-- No frame could be obtained for the copy of a COW page (15 R240). -/
  noFrame : Bool
  deriving DecidableEq, Repr

/-- A precise fault as a word or an engine entry raises it: code, address, lane and AUX (15 R240 to R242). -/
structure Flt where
  code : BitVec 8
  addr : Word
  lane : Nat
  aux : Bytes
  /-- Translations that the access has filled the cache with before it met the fault (07 R137). -/
  walked : List TlbEntry := []
  deriving DecidableEq, Repr

/-! ### Results in flight -/

/-- What one result writes when it lands (03 R62). -/
inductive Put where
  /-- A scalar register of a context. -/
  | reg (c : Ctx) (n : BitVec 5) (v : Word)
  /-- A view register. -/
  | view (c : Ctx) (w : BitVec 3) (v : Word)
  /-- Register-space bytes from an address on; `mask` holds the bits of each byte that are written. -/
  | bytes (addr : Nat) (bs : Bytes) (mask : Bytes)
  /-- An SWRITE, at the end of its issue cycle (04 R96). -/
  | sys (c : Ctx) (num : BitVec 12) (v : Word)
  /-- Scratch bytes of VST and VSCAT, at the end of the issue cycle (23 R397, R401). -/
  | scratch (id : BitVec 8) (off : Nat) (bs : Bytes)
  /-- A new expiry from the cycle after WIND issues (07 R145). -/
  | expiry (id : BitVec 8) (tick : Nat)
  /-- A new tag, for words issued in the next cycle (22 R364). -/
  | tag (id : BitVec 8) (t : BitVec 4)
  /-- SFREE of an allocation in a step, after the checks of the words of its cycle (07 R143). -/
  | free (id : BitVec 8) (ord : Nat)
  /-- UNLOCK: pins of these contexts on lines of an allocation go, after the LOCKs of its cycle (23 R370). -/
  | unpin (cs : List Ctx) (id : BitVec 8) (lines : List Nat)
  deriving DecidableEq, Repr

/-- A result in flight (03 R62, R63, R66). -/
structure Flight where
  ctx : Ctx
  puts : List Put
  /-- The latch captured, 0 none, and the bytes it takes (03 R61). -/
  lt : BitVec 4
  cap : Bytes
  flags : BitVec 5
  /-- Unfrozen cycle at whose end the result lands. -/
  landAt : Nat
  /-- The last unfrozen cycle that a result still to arrive lets pass without a freeze (03 R64): the eighth of its word, or the one it
  lands in where that comes sooner. -/
  dueBy : Nat
  /-- False while a result from outside the core is still to arrive (03 R64). -/
  arrived : Bool
  /-- The pool request the result waits for (13 R235). -/
  req : Option Nat
  /-- The section whose retirement awaits it (02 R29). -/
  sec : BitVec 20
  /-- On a landing list after an in-place trap (03 R66, R67). -/
  listed : Bool
  /-- Its data come over the die's links or from a stash miss (03 R64); none of a pool word or of the reduction tree. -/
  ext : Bool
  /-- Remaining latency of a result that was still to arrive when its context trapped in place: it is captured once it
  arrives (03 R66). -/
  late : Option Nat
  /-- Counted as one result in flight (03 R63): the effects SWRITE, VST and VSCAT defer to the end of a cycle are none. -/
  counted : Bool
  deriving DecidableEq, Repr

/-! ### A context -/

/-- The monitor of a context (21 R329): a 128-byte line, by its physical address over 128, and the event. -/
structure Monitor where
  line : Nat
  event : Bool
  deriving DecidableEq, Repr

/-- An in-place trap (03 R66): where the context resumes, and whether the trapped word was a hazard or a stop. -/
structure InPlace where
  pc : Word
  mode : Mode
  list : List Flight
  /-- It is a watchpoint's stop: the word goes on without meeting it again (17 R263, DEDUCED, log 30). -/
  watch : Bool
  /-- It stands after its word, a BKPT, so that a return with skip has no word left to skip (20 R294; DEDUCED, log 109). -/
  after : Bool
  deriving DecidableEq, Repr

/-- The registers and the sequencing state of one context (03 R53). -/
structure Context where
  x : Vector Word 32
  pc : Word
  /-- Latches l1 to l15 (index 0 unused): none is a lost latch, which reads as 0 (03 R61). -/
  latch : Vector (Option Bytes) 16
  /-- View registers as 64-bit images (03 R57). -/
  view : Vector Word 8
  hz : BitVec 4
  strict : Bool
  dbg : Bool
  sbm : Bool
  fflags : BitVec 5
  round : BitVec 3
  /-- The word on which the context is blocked, and the tick at which the block began (03 R65); CONTEXT_UNBLOCK has let it
  try again. -/
  wait : Option (Instr × Nat)
  woken : Bool
  /-- It still drains before it blocks: the block has not begun (03 R65). -/
  draining : Bool
  /-- The word at issue has met the full journal of record mode, and left its record (17 R267). -/
  full : Bool
  /-- Earliest unfrozen cycle of the next issue (03 R52). -/
  issueAt : Nat
  /-- The context stands at a section header (02 R27). -/
  hdr : Bool
  /-- Strings of the header not yet satisfied: slice and section awaited, and the tick the wait began (02 R28, R30). -/
  strings : List (Ctx × BitVec 20)
  stringSince : Nat
  /-- Byte offsets of the current section's header and of its end. -/
  secStart : Nat
  secEnd : Nat
  /-- Number of the section the context stands in, of the last one issued whole, and of the last one retired. -/
  secNo : BitVec 20
  secDone : BitVec 20
  retired : BitVec 20
  last : Bool
  /-- The LAST section has been issued (02 R31). -/
  ended : Bool
  monitor : Option Monitor
  trap : Option InPlace
  /-- Lines pinned by LOCK: allocation id and line (07 R150). -/
  pins : List (BitVec 8 × Nat)
  /-- Watchpoints 0x100 to 0x107 (17 R262). -/
  wp : Vector Word 8
  /-- The step that the context's own last TSTEP opened (06 R126), and the TSTEPs the context has executed. -/
  step : Word
  ord : Nat
  /-- Logical words issued since the oldest open step began: (`ord`, logical PC), newest first (DEDUCED, log 8). -/
  hist : List (Nat × Word)
  /-- Logical PC of the last word it issued (02 R27). -/
  lastLpc : Word
  /-- What a blocked append has read at its issue: the body of its entry, and SEND's source pointer (20 R302, R303). -/
  held : Option (Bytes × Word)
  /-- It goes on at a word that it stopped before: that word meets no watchpoint again (17 R263, DEDUCED, log 30). -/
  pass : Bool
  deriving DecidableEq, Repr

/-- A COPY, MMA or SEND whose template has been asked for: its context as it was at issue, the template's bytes as they stood then
(20 R303; none where they could not be read), the unfrozen cycle that it may take without a freeze, and whether the template has come
(03 R64; 20 R302; 21 R328; 22 R349). One that has come stays while a full ring or a full segment blocks it. -/
structure Late where
  ctx : Ctx
  i : Instr
  at' : Context
  bytes : Option Bytes
  landAt : Nat
  arrived : Bool
  deriving DecidableEq, Repr

/-! ### Scratch -/

/-- State of a valid line of a stash window (07 R148). -/
inductive LineState where
  | clean | dirty | writing | rewritten
  deriving DecidableEq, Repr

/-- A valid line of a window: its number in the window, its state, and the tick its row expires. `inv` asks for
invalidation once the write-back is acknowledged, unless the line is pinned; `drop` asks for it of a pinned line too (20 R299). -/
structure Line where
  num : Nat
  st : LineState
  expiry : Nat
  inv : Bool
  drop : Bool := false
  /-- Physical address of the line over 128: the home's directory finds the copy by it (07 R138). -/
  pa : Nat
  deriving DecidableEq, Repr

/-- An allocation as it stood before a change that an open step made to it, with that step (02 R38 step 3; 22 R347). -/
structure Undo where
  ord : Nat
  tag : BitVec 4
  window : Option (Nat × Nat)
  expiry : Nat
  layout : BitVec 14
  deriving DecidableEq, Repr

/-- A scratch allocation (07 R140 to R148). -/
structure Alloc where
  id : BitVec 8
  base : Nat
  size : Nat
  backed : Bool
  tag : BitVec 4
  expiry : Nat
  /-- Its expiry has been reached: the state Expired (07 R143). -/
  expired : Bool
  /-- Layout tag in the form of LAYOUT: SPAN 2:0, SWB 7:3, SWW 10:8, CHUNK 13:11 (08 R158, R163). -/
  layout : BitVec 14
  /-- Bytes written since SALLOC. -/
  data : Cells
  /-- Generation of the unspecified bytes. -/
  gen : Nat
  /-- A zeroing SALLOC: unwritten bytes read 0; `cleared` lists the rows no longer zero-pending (07 R141). -/
  zero : Bool
  cleared : List Nat
  /-- Window base and length (07 R147). -/
  window : Option (Nat × Nat)
  lines : List Line
  /-- Lines pinned run-ahead for a ring slot (07 R150): line, ring and slot. -/
  ahead : List (Nat × Nat × Nat)
  /-- Step (`Context.ord`) in which SALLOC issued; step in which SFREE issued, if it did (22 R347). -/
  made : Nat
  freed : Option Nat
  /-- How it stood before each change that an open step made, oldest first. -/
  undo : List Undo
  /-- Cycles that the sweep of a WIND still takes (07 R145). -/
  sweep : Nat
  /-- Left in place by a stopped task (15 R249). -/
  parked : Option (BitVec 32)
  deriving DecidableEq, Repr

/-- A slot of a ring that is Pending: its position, the fill's NUMBER, and the tick of its first chunk once it completed
(08 R160). -/
structure PendSlot where
  pos : Nat
  num : Nat
  done : Option Nat
  deriving DecidableEq, Repr

/-- A ring (08 R159). Slots are counted by position: position p is slot p mod NSLOT, and RD is `rels` mod NSLOT. -/
structure Ring where
  num : Nat
  alloc : BitVec 8
  slotsz : Nat
  nslot : Nat
  /-- Position of the slot at RD. -/
  rels : Nat
  filled : Nat
  pend : List PendSlot
  tag : BitVec 4
  /-- Expiry of filled positions, kept until the step that released them has closed: (position, tick). -/
  exps : List (Nat × Nat)
  /-- NUMBERs of the fills of assigned positions, until RELS (10 R183): (position, NUMBER). -/
  fills : List (Nat × Nat)
  /-- The slice that holds the ring's AWAITF and RELS, as far as they have issued (02 R35). -/
  reader : Ctx
  /-- Step in which RINGI issued; step in which SFREE ended it, if it did (22 R347, R351). -/
  made : Nat
  ended : Option Nat
  /-- Tells it from another ring of the same number that the same step made. -/
  uid : Nat
  deriving DecidableEq, Repr

/-! ### Engines -/

/-- Spaces of an engine pointer (08 R156). -/
inductive EngSpace where
  | global | scratch | regs
  deriving DecidableEq, Repr

/-- A bounding byte range of an engine entry in scratch (by allocation) or register space (08 R167). -/
structure Range where
  space : EngSpace
  id : BitVec 8
  lo : Nat
  hi : Nat
  wr : Bool
  deriving DecidableEq, Repr

/-- The kind of an entry (08 R153). -/
inductive EntryKind where
  | copy | wbld | mma | aclr | adrain | send | marker
  deriving DecidableEq, Repr

/-- The exact sum of a block (06 R120): NaN seen, +∞ and −∞ seen, and the finite part m·2^e. -/
structure Sum where
  nan : Bool
  pinf : Bool
  ninf : Bool
  m : Int
  e : Int
  deriving DecidableEq, Repr

/-- A K-block that a pass has begun and a later pass of the command goes on with: its sum so far and its two scales. -/
structure KPart where
  sum : Sum
  sa : Nat
  sb : Nat
  deriving DecidableEq, Repr

/-- A chain entry: its 112 bytes as the segment holds them, and what the core records beside it. -/
structure Entry where
  kind : EntryKind
  num : Nat
  body : Bytes
  /-- The appending slice (08 R167). -/
  ctx : Ctx
  ranges : List Range
  /-- Region of the task that the append opened (10 R194). -/
  region : Nat
  /-- The appending word: step, logical PC, slice PC, and how often that word had issued before in that step. -/
  step : Word
  ord : Nat
  lpc : Word
  spc : Word
  occ : Nat
  /-- The engine has begun it (08 R167); SEND: 1 payload performed, 2 flag added. -/
  begun : Bool
  /-- Chunks or passes performed; the tick of the first chunk written (07 R144). -/
  done : List Nat
  first : Option Nat
  /-- The assigned ring slot (08 R160), and for SEND the source pointer (22 R350). -/
  ring : Option (Nat × Nat)
  src : Word
  /-- Failed SEND: code of the report (22 R349). -/
  failed : Option (BitVec 8)
  /-- Cycle of the append, for TLRD (22 R366). -/
  cyc : Nat
  /-- Had completed before a rebuild: its accesses are exempt from race checks (10 R198). -/
  exempt : Bool
  /-- Place in the order of appends over all chains (08 R167). -/
  seq : Nat
  /-- The 48-bit accumulation registers of an integer MMA, by register-space address (06 R123). -/
  regs : List (Nat × Int)
  /-- Their K-blocks under way, in the same order (06 R120). -/
  parts : List (Nat × KPart)
  /-- Appended in merged running: its fault names SLICE 3 (15 R241). -/
  merged : Bool
  /-- Regions of the entries whose completion the task had not acquired at the append (10 R182). -/
  owes : List Nat
  deriving DecidableEq, Repr

/-- A command chain (08 R153, R154). -/
structure Chain where
  append : Nat
  counter : Nat
  /-- Completed NUMBERs above the counter. -/
  finished : List Nat
  /-- Entries whose completion the task has not acquired: NUMBER, and the region that the append opened (10 R182, R183). -/
  owed : List (Nat × Nat)
  /-- Region that each append of the open steps opened, by NUMBER: one that replay makes again opens none of its own (10 R194, R198). -/
  regions : List (Nat × Nat)
  /-- Counter and completed NUMBERs as they stood before the last rebuild (10 R198). -/
  prior : Nat
  priorFin : List Nat
  entries : List Entry
  /-- Current segment, and the next slot in it; 31 means that an append waits for a segment (02 R43). -/
  seg : Word
  slot : Nat
  deriving DecidableEq, Repr

/-! ### Steps, journal, faults of a task -/

/-- What one slice's TSTEP captured (02 R34, R35). -/
structure Part where
  mask : BitVec 32
  xs : List Word
  flags : BitVec 5
  round : BitVec 3
  seed : Word
  alist : Word
  lpc : Word
  secNo : BitVec 20
  appends : List Nat
  rings : List Ring
  deriving DecidableEq, Repr

/-- A checkpoint: the contents of a step record (02 R35). `ord` counts the TSTEPs up to it. -/
structure Ckpt where
  ord : Nat
  idx : Word
  lpc : Word
  coords : List Word
  alist : Word
  xs : List Word
  flags : BitVec 5
  round : BitVec 3
  seed : Word
  secNo : BitVec 20
  tline : List Nat
  rings : List Ring
  /-- BSYNCs completed before the boundary (20 R296). -/
  bsyncs : Nat
  deriving DecidableEq, Repr

/-- An entry of the step window (02 R34). `ord` counts the TSTEPs up to it. -/
structure StepEntry where
  ord : Nat
  idx : Word
  /-- Tile claimed; none when the walker was exhausted. -/
  tile : Option Nat
  coords : List Word
  l : Option Part
  c : Option Part
  s : Option Part
  deriving DecidableEq, Repr

/-- An entry that record mode has yet to write to its journal (17 R267), with its place in logical order: step, section,
slice, logical PC. It is written when the step closes. `d0` is none while a `perf.red` is awaited. -/
structure RecEntry where
  ord : Nat
  sec : BitVec 20
  slice : Ctx
  lpc : Word
  step : Word
  d0 : Option Word
  d1 : Word
  deriving DecidableEq, Repr

/-- A journalled result (02 R40): its step and logical PC, and up to three words. -/
structure JEntry where
  ord : Nat
  lpc : Word
  vals : List Word
  deriving DecidableEq, Repr

/-- Why a rebuild runs (02 R38, R44; 15 R246, R251). -/
inductive Purpose where
  /-- A precise fault: record and handler. -/
  | fault
  /-- A logical stop for `tdb`; the stop is after the word when `after` is set (20 R294). -/
  | stop (after : Bool)
  /-- A pipeline error: no record, no handler. -/
  | rollback
  /-- A mid-step stop: saved, replayed on resume. -/
  | save
  deriving DecidableEq, Repr

/-- A raised fault on its way through rebuild and replay (02 R38 to R41). -/
structure Pend where
  why : Purpose
  flt : Flt
  /-- The faulting logical word: its step, logical PC, and how often it had issued in that step. -/
  step : Word
  ord : Nat
  lpc : Word
  occ : Nat
  slice : BitVec 8
  spc : Word
  /-- Raised by an engine entry: chain and NUMBER. -/
  eng : Option (ChainId × Nat)
  /-- Raised in merged running (15 R241 FLAGS). -/
  merged : Bool
  early : Bool
  /-- `fade.now` when it was raised. -/
  time : Nat
  deriving DecidableEq, Repr

/-- Where a task's core stands between running and handling (02 R38 to R42). -/
inductive Phase where
  | run
  /-- A fault is raised; PRECISE_FAULT_REBUILD is next. -/
  | pend (p : Pend)
  /-- The checkpoint is restored; MERGED_REPLAY is next. -/
  | rebuilt (p : Pend)
  /-- The plain image is re-executed up to the target word. -/
  | replay (p : Pend)
  /-- A user or emulation handler runs (15 R243). -/
  | handler (p : Pend)
  /-- ERET re-executes the faulting word: a fault it raises is code 0x22 (21 R307). -/
  | retry (p : Pend)
  /-- Stopped for `tdb`; within a handler (true) or a replay (false), which goes on when it resumes (20 R294). -/
  | stopped (p : Pend) (within : Option (Bool × Pend))
  /-- The task ends with this status dword once every issued engine entry has completed and the contexts still to be
  dumped have been (15 R408, 17 R265; 20 R280). -/
  | ending (status : Word) (dump : List Ctx)
  deriving DecidableEq, Repr

/-- One slice of an image: address, length, map address (04 R91). -/
structure Slice where
  img : Word
  len : Nat
  idx : Word
  deriving DecidableEq, Repr

/-- The image descriptor of a task (04 R91). -/
structure Image where
  pimg : Word
  pwords : Nat
  regbits : Word
  l : Slice
  c : Slice
  s : Slice
  deriving DecidableEq, Repr

/-- An order-cache entry: of a task, the region up to which its words' accesses happen before, the region up to which those of
its engine entries do, and the entries up to it that are not covered, each by the region that its append opened (10 R194; the
second and third: 10 R182, DEDUCED, log 79). -/
structure Known where
  task : BitVec 32
  region : Nat
  engs : Nat
  owes : List Nat
  deriving DecidableEq, Repr

/-- An order-cache snapshot left by a release (10 R195). `scopes` are the scopes it releases at. -/
structure Snap where
  /-- Physical address and size of the synchronising access. -/
  addr : Nat
  size : Nat
  /-- The task that released, and its node; none for a hub core or the scheduling hardware. -/
  agent : Option (BitVec 32 × Nat)
  die : Nat
  scopes : List Scope
  entries : List Known
  evicted : Bool
  deriving DecidableEq, Repr

/-- A synchronising read: of which context (none in merged running, where the slices are one), its step, section and logical PC,
and the snapshots it met (10 R181). `live` is false while a replay has yet to come to it. -/
structure ReadSeen where
  ctx : Option Ctx
  ord : Nat
  sec : BitVec 20
  lpc : Word
  snaps : List Snap
  live : Bool
  deriving DecidableEq, Repr

/-- A release fence executed: of which context (none in merged running), its step and logical PC, its scope, and the step of the
synchronising write that it has paired with (10 R181; 21 R313). `live` is false while a replay has yet to come to it. -/
structure Fenced where
  ctx : Option Ctx
  ord : Nat
  lpc : Word
  scope : Scope
  used : Option Nat
  live : Bool
  deriving DecidableEq, Repr

/-- What an agent knows of the accesses of tasks before its own: its order cache with the evicted bit (10 R194). -/
structure Sight where
  cache : List Known
  evicted : Bool
  /-- Release fences executed (10 R181; 21 R313), and synchronising reads, newest first: the last of each context, and those of
  the steps that a rebuild could discard. -/
  fences : List Fenced
  readSnaps : List ReadSeen
  deriving DecidableEq, Repr

/-- An agent that knows of none. -/
def Sight.new : Sight := { cache := [], evicted := false, fences := [], readSnaps := [] }

/-- A task (03 R53; 10 R194; 12 R210, R212). -/
structure Task where
  num : BitVec 32
  root : Word
  img : Image
  /-- Merged execution asked for (02 R25); record and replay mode (17 R267). -/
  kmerged : Bool
  dbg : Bool
  strict : Bool
  record : Bool
  replay : Bool
  handler : Word
  emul : Word
  /-- The node, the gang member index, whether in pool mode, the tenant. -/
  node : Nat
  member : Nat
  pool : Bool
  tenant : Nat
  /-- Addresses of its node descriptor and of the packet that submitted the node (15 R245). -/
  ndesc : Word
  cmdp : Word
  /-- Region counter, and its history lost when it stopped (10 R194). -/
  region : Nat
  lost : Bool
  sight : Sight
  seed : Word
  /-- The slice whose SWRITE last wrote `round.seed` (02 R35). -/
  seedBy : Ctx
  /-- Address of the step record; the fault record lies 512 bytes on (15 R241). -/
  recAddr : Word
  saveArea : Word
  /-- Journal area and position of record or replay mode (17 R268); 0 none. -/
  journal : Word
  jpos : Nat
  /-- Entry of the journal directory (17 R268). -/
  jdir : Word
  /-- Record mode: entries of open steps. Replay mode: entries taken, with the step of the word. -/
  recBuf : List RecEntry
  jused : List (Nat × Nat)
  /-- Entries that fit (record mode) or were written (replay mode). -/
  jcap : Nat
  /-- BSYNCs completed by the task (20 R296). -/
  bsyncs : Nat
  /-- A TSTEP has met the exhausted walker: every later one lands the same values (02 R32). -/
  spent : Bool
  deriving DecidableEq, Repr

/-- Entry of an allocation directory (15 R246). -/
structure DirEntry where
  id : BitVec 8
  ring : Option Nat
  tag : BitVec 4
  state : BitVec 8
  layout : BitVec 14
  rem : Nat
  size : Nat
  window : Option (Nat × Nat)
  data : Word
  deriving DecidableEq, Repr

/-- A stop request accepted by a core (12 R217, 15 R250): when, its priority and the incoming task's node. -/
structure StopReq where
  since : Nat
  prio : Nat
  incoming : Option Nat
  /-- A tenant instant asks it, not a task of higher priority (12 R215). -/
  instant : Bool
  /-- The step-boundary or mid-step save has begun. -/
  saving : Bool
  midStep : Bool
  deriving DecidableEq, Repr

/-- How `tdb` is attached (20 R294). -/
inductive Debugger where
  | none | logical | slice
  deriving DecidableEq, Repr

/-- The next issue slot of the cycle (03 R50). `c2` holds what class the first C word was, true for V or E, and the pc that C has
if that word has issued. In `engine` one thing beside the contexts may happen, in `landing` the cycle ends, in `hold` a frozen cycle passes (DESIGN CHOICE, log 3). -/
inductive Slot where
  | l | c1 | c2 (ve : Bool) (pc : Word) | s | engine | landing | hold
  deriving DecidableEq, Repr

/-- Trace registers and drop state (17 R258, R264). -/
structure Trace where
  base : Word
  len : Word
  head : Word
  ctl : Word
  seq : Nat
  dropped : Nat
  firstDrop : Nat
  /-- Virtual pages with records, by the address over the page's size, each with the frame that the page began at when the last
  record was written in it (17 R264). -/
  pages : List (Nat × Nat)
  deriving DecidableEq, Repr

/-- A counter sample that is due (17 R261): the context that caused the event, and the place it stood at, slice, slice PC and logical
PC, once something is about to move it. -/
structure SampleDue where
  ctx : Ctx
  at' : Option ((BitVec 8 × Word) × Word)
  deriving DecidableEq, Repr

/-- Performance counter registers (17 R259). -/
structure Perf where
  sel : Word
  val : Word
  per : Word
  /-- Samples due, oldest first (17 R261). -/
  sample : List SampleDue
  deriving DecidableEq, Repr

/-- A core dump (17 R265): the contexts with their landing lists in the order written, the step record, the fault record, the
ring states, the source store of the send queue (22 R350), the allocation directory, the records of further fatal faults, and TRUNC.
R265 gives no byte layout: DESIGN CHOICE, log 31. -/
structure Dump where
  task : BitVec 32
  /-- MERGED of `ctx.status` as the contexts held it (04 R96). -/
  merged : Bool
  ctxs : List (Ctx × Context × List Flight)
  ckpt : Ckpt
  record : Bytes
  rings : List Ring
  /-- NUMBER and source pointer of each SEND appended and not completed. -/
  sources : List (Nat × Word)
  dir : List DirEntry
  extra : List Bytes
  trunc : Bool
  deriving DecidableEq, Repr

/-- A core (01 R10, R11, R13). -/
structure Core where
  /-- `disc.geom.CORENO` (04 R94): 768 and up are hub cores. -/
  num : Nat
  mode : Mode
  merged : Bool
  /-- Unfrozen cycles (03 R62). -/
  cyc : Nat
  slot : Slot
  /-- The context whose word is at issue. -/
  cur : Ctx
  l : Context
  c : Context
  s : Context
  flights : List Flight
  /-- Templates asked for, oldest first. -/
  lates : List Late
  /-- Scratch banks that words have accessed in this cycle, each with the context (03 R64), and as they were before the word at issue. -/
  banks : List (Ctx × Nat)
  banksWas : List (Ctx × Nat)
  task : Option Task
  /-- What a hub core knows as an agent of its own (10 R174, R178). -/
  sight : Sight
  /-- `round.seed` of a core that runs no task, as hub cores do (04 R95). -/
  seed : Word
  /-- The core last ran another task: a group switch (03 R61); that task and its status, where it has ended (15 R245). -/
  ranBefore : Bool
  lastTask : Option (Task × Word)
  /-- Register-space bytes, and the generation of those not listed: none reads 0 (DESIGN CHOICE, log 1), else unspecified (DESIGN CHOICE, log 4). -/
  rs : Cells
  rsGen : Option Nat
  wb : Cells
  wbGen : Nat
  allocs : List Alloc
  /-- Tag each id held when SFREE last freed it (22 R346). -/
  lastTags : List (BitVec 8 × BitVec 4)
  rings : List Ring
  tci : Chain
  tmx : Chain
  tco : Chain
  tsx : Chain
  /-- Appends made so far, over all chains. -/
  appends : Nat
  window : List StepEntry
  /-- Step of the checkpoint now in the step record, and that checkpoint. -/
  ckpt : Ckpt
  journal : List JEntry
  /-- Journalled results still to be taken by replay (02 R40). -/
  replayed : List JEntry
  /-- Append numbers recorded at section retirements (02 R39): slice, section, numbers of the four chains. -/
  secAppends : List (Ctx × BitVec 20 × List Nat)
  /-- Ring numbers that RINGI has given in the open steps: step, logical PC, how often it had issued in that step, number (22 R347). -/
  ringLog : List (Nat × Word × Nat × Nat)
  /-- Words of the open steps that had executed when the last rebuild began: (`ord`, logical PC) (10 R198). -/
  ran : List (Nat × Word)
  /-- Those that had executed when a mid-step stop halted the task: the resume runs them again (10 R198; 15 R246; DEDUCED, log 111). -/
  redo : List (Nat × Word)
  /-- S has issued a non-idempotent operation and not yet the TSTEP that follows (02 R39). -/
  nonIdem : Bool
  /-- The walker was exhausted at the last TSTEP; merged running must return to slices at the next TSTEP (02 R42). -/
  returning : Bool
  phase : Phase
  tlb : List TlbEntry
  perf : Perf
  trace : Trace
  /-- Trap stack of a hub core: (pc, mode), top first (21 R307). -/
  traps : List (Word × Mode)
  /-- Fault records of the traps of a hub core, newest first: logical PC and fault (04 R84, R85; 15 R241). -/
  hubFaults : List (Word × Flt)
  /-- `Module.wall` at the system call that the hub core serves: an SVC of U-mode code (17 R266). -/
  called : Option Nat
  inService : Bool
  throttled : Bool
  /-- Its task has issued a word (15 R245). -/
  started : Bool
  /-- Pipeline-error rollbacks in a row in this tile step (15 R251). -/
  rollbacks : Nat
  stop : Option StopReq
  /-- The node for which a completed save has cleared this core (12 R212, 15 R250). -/
  claim : Option Nat
  dir : List DirEntry
  debugger : Debugger
  /-- A service called by SVC and not yet returned: number, and the x1, x2 it returned once it has run (22 R361). -/
  svc : Option (BitVec 32 × Option (Word × Option Word))
  /-- Dumps written, newest first. -/
  dumps : List Dump
  /-- Records of further fatal faults: those in the context being dumped, and those whose own dumps are queued (17 R265). -/
  cutDump : List Bytes
  fatal : List Bytes
  /-- The 64-bit words of scratch, of the register space and of the weight buffer that hold a double-bit error, by byte address over 8,
  and single-bit errors corrected (01 R11, 15 R251). -/
  badScratch : List Nat
  badRegs : List Nat
  badWeights : List Nat
  corrected : Nat
  /-- `now` as this cycle of the core began (07 R142). -/
  nowAt : Nat
  /-- Tick of the last copy of a save under way (15 R247). -/
  saveTick : Option Nat
  /-- The task was resumed and has executed no MWAIT since: its first one returns at once (15 R250; 21 R335). -/
  cutWait : Bool
  deriving DecidableEq, Repr

/-! ### The module -/

/-- A reader entry of a granule tag (10 R194). -/
structure Reader where
  task : BitVec 32
  region : Nat
  step : Word
  mask : BitVec 32
  sy : Option (Nat × Nat)
  /-- The bytes that an engine entry accessed. -/
  eng : BitVec 32
  deriving DecidableEq, Repr

/-- The writer record of a granule tag (10 R194): task, region, mask, SY with address and size. -/
structure Writer where
  task : BitVec 32
  region : Nat
  mask : BitVec 32
  sy : Option (Nat × Nat)
  /-- The bytes that an engine entry accessed. -/
  eng : BitVec 32
  deriving DecidableEq, Repr

/-- A race granule tag (10 R194): the last writer, readers, overflow. -/
structure RaceTag where
  writer : Option Writer
  readers : List Reader
  ovf : Bool
  deriving DecidableEq, Repr

/-- STATE of a queue (12 R204). -/
inductive QState where
  | idle | active | error
  deriving DecidableEq, Repr

/-- A tile operand (12 R209). -/
structure Operand where
  base : Nat
  run : Nat
  n1 : Nat
  n2 : Nat
  str1 : Int
  str2 : Int
  rd : Bool
  wr : Bool
  deriving DecidableEq, Repr

/-- A completed node as later nodes of its queue see it: packet, order, declared operands, what its tasks knew (10 R187). -/
structure Past where
  pkt : Nat
  order : Nat
  opnds : List Operand
  sight : Sight
  deriving DecidableEq, Repr

/-- A queue: its descriptor (12 R204) and the mapper's state for it (12 R206). -/
structure Queue where
  num : Nat
  root : Word
  widx : Nat
  ridx : Nat
  st : QState
  tenant : Nat
  prio : Nat
  size : Nat
  base : Word
  /-- Tick at which it took its active slot. -/
  slot : Option Nat
  /-- Tick of the last notify; of each notify that packets not yet read came with its WIDX, the `Module.wall` of its start, its system
call's where there was one, and that of the write; and the start of a notify write on its way (17 R266). -/
  notified : Nat
  notes : List (Nat × Nat × Nat)
  called : Option Nat
  /-- Tick at which it joined the wait list. -/
  waiting : Option Nat
  /-- A WAIT packet holds reading back: word address and value (12 R207). -/
  held : Option (Word × Word)
  /-- What its WAITs and BARRIERs hand on to the tasks of later nodes (10 R187; 12 R207). -/
  sight : Sight
  past : List Past
  /-- The bytes of a ring that lies in host memory, by the addresses the descriptor gives (12 R204): an input from outside. -/
  hostRing : Option Cells
  deriving DecidableEq, Repr

/-- KIND of a packet (12 R207). -/
inductive PKind where
  | launch | graph | wait | signal | barrier
  deriving DecidableEq, Repr

/-- A packet in flight. -/
structure Packet where
  q : Nat
  idx : Nat
  kind : PKind
  sig : Word
  addend : Word
  nodes : List Nat
  /-- The condition of a WAIT has been met (12 R207). -/
  met : Bool
  /-- `Module.wall` at the start of the notify that it came with, and at its write (17 R266). -/
  since : Nat
  told : Nat
  /-- Status of the first failure in node order, 0 while none (12 R208). -/
  status : Word
  deriving DecidableEq, Repr

/-- The parameter block (12 R213). -/
structure Params where
  count : List Nat
  cbase : List Word
  cstep : List Int
  deriving DecidableEq, Repr

/-- Where a node stands. -/
inductive NState where
  | pending | ready | running | done
  deriving DecidableEq, Repr

/-- An arrival at a BSYNC: its count, op, operand, and the race snapshot it leaves (20 R295). -/
structure Arrival where
  k : Nat
  op : BsyncOp
  val : Word
  entries : List Known
  evicted : Bool
  deriving DecidableEq, Repr

/-- A completed BSYNC: its count, the reduction and the merged snapshots (20 R295). -/
structure Gathered where
  k : Nat
  val : Word
  entries : List Known
  evicted : Bool
  deriving DecidableEq, Repr

/-- A member of a gang, or a task of a pool-mode node (20 R295, R296; 12 R214). -/
structure Member where
  idx : Nat
  task : BitVec 32
  core : Nat
  /-- Status dword once the task has ended. -/
  ended : Option Word
  /-- Arrival at the next BSYNC (20 R295). -/
  arrived : Option Arrival
  deriving DecidableEq, Repr

/-- A node (12 R209 to R214). -/
structure Node where
  id : Nat
  q : Nat
  pkt : Nat
  /-- Place in the packet (node order). -/
  order : Nat
  desc : Word
  cmdp : Word
  gang : Bool
  cores : Nat
  mods : Nat
  root : Word
  tenant : Nat
  prio : Nat
  kdesc : Word
  /-- Address of its image descriptor. -/
  idesc : Word
  image : Image
  kflags : BitVec 5
  handler : Word
  emul : Word
  jrnl : Word
  params : Params
  opnds : List Operand
  st : NState
  /-- `Module.wall` at its dispatch and at its completion (17 R266). -/
  began : Option Nat
  ended : Option Nat
  /-- Used entries of the journal directory, of a node in replay mode once it is dispatched: a task for each (17 R268). -/
  journals : Option Nat
  /-- Tick at which it entered the pool, and at which it came to the head. -/
  entered : Nat
  headSince : Option Nat
  members : List Member
  /-- The walker: next new tile, tiles returned (12 R214). -/
  next : Nat
  returned : List Nat
  /-- BSYNCs completed (20 R295). -/
  results : List Gathered
  /-- Status of the first failure of the node (15 R254). -/
  status : Word
  /-- What its ended tasks knew: the completion of the node releases it (10 R187). -/
  sight : Sight
  deriving DecidableEq, Repr

/-- A tenant (12 R216, R217; 15 R249). -/
structure Tenant where
  num : Nat
  allot : List Nat
  budget : Nat
  park : Nat
  deriving DecidableEq, Repr

/-- The schedule table (12 R215): EPOCH, PERIOD, entries (TENANT, START). -/
structure Sched where
  epoch : Nat
  period : Nat
  entries : List (Nat × Nat)
  deriving DecidableEq, Repr

/-- An element of a pool (13 R222). -/
structure Elem where
  key : Word
  payload : Word
  origin : Nat
  seq : Nat
  tick : Nat
  /-- Race snapshot that travels with it (13 R226). -/
  snap : Snap
  deriving DecidableEq, Repr

/-- A fence: a stamp with origin and sequence number; none is infinity (13 R225). -/
abbrev Fence := Option (Nat × Nat × Nat)

/-- A summary: sender, count, first element's stamp, published fence (13 R230). -/
structure Summary where
  src : Nat
  count : Nat
  first : Option Nat
  fence : Fence
  deriving DecidableEq, Repr

/-- An unacknowledged lowering notice (13 R226): the fence it publishes, the shards still to acknowledge it, and the rolling move
that caused it: the element, inserted here, and the shard that it leaves once the notice is acknowledged (13 R230). -/
structure Notice where
  fence : Fence
  pending : List Nat
  move : Option (Nat × Elem)
  deriving DecidableEq, Repr

/-- A shard of a pool (13 R223 to R231). -/
structure Shard where
  die : Nat
  /-- In pool order. -/
  elems : List Elem
  seq : Nat
  /-- Fences it knows of the other shards; a shard not listed has an infinite fence. -/
  known : List (Nat × Fence)
  notice : Option Notice
  /-- Puts queued behind it, in arrival order: the request, and whether the notice it waits for is still out (13 R226). -/
  queued : List (Nat × Bool)
  completed : Nat
  /-- Summaries last received. -/
  summaries : List Summary
  deriving DecidableEq, Repr

/-- A Marble pool (13 R219 to R221). -/
structure Pool where
  num : Nat
  gen : BitVec 24
  tenant : Nat
  q : Nat
  age : Bool
  shift : Nat
  qmax : Nat
  ageok : Bool
  shiftmin : Nat
  caps : Nat
  sramq : Nat
  shards : List Shard
  deriving DecidableEq, Repr

/-- What a pool word asks (13 R226, R227, R233, R234). -/
inductive Ask where
  | put (key payload : Word)
  | take (acquire : Bool)
  | stat
  | ctl (word : Word)
  deriving DecidableEq, Repr

/-- Answer of a pool request: results, or a failure code (0x11 or 0x32) (13 R237). -/
inductive Answer where
  | done (vals : List Word) (snap : Option Snap)
  | failed (code : BitVec 8)
  deriving DecidableEq, Repr

/-- A pool request in flight (13 R226, R227). -/
structure Req where
  num : Nat
  core : Nat
  ctx : Ctx
  pool : Nat
  ask : Ask
  snap : Snap
  /-- The fault of its word, should it fail: handle in ADDR (13 R220). -/
  pend : Pend
  /-- The shard it stands at, the tries made since the last poll, and the forwards made. -/
  shard : Nat
  tries : Nat
  forwards : Nat
  /-- Served synchronously next (13 R228). -/
  sync : Bool
  /-- A put inserted, or a control word applied; its notices are not yet acknowledged. -/
  inserted : Bool
  /-- MCTL: the shards whose notices it caused, not yet acknowledged (13 R234; 21 R326). -/
  caused : List Nat
  /-- In a poll (13 R231): the sum of completed puts of the round before, when all was zero in it. -/
  poll : Option (Option Nat)
  answer : Option Answer
  deriving DecidableEq, Repr

/-- A launch record (17 R266): queue, packet index, and the six times. -/
structure LaunchRec where
  q : Nat
  idx : Nat
  times : List Word
  deriving DecidableEq, Repr

/-- A stopped task, saved (15 R245 to R249). -/
structure Saved where
  task : Task
  core : Nat
  /-- Stopped at a node boundary: not started, or ended (15 R245). -/
  boundary : Option (BitVec 2)
  ckpt : Ckpt
  dir : List DirEntry
  midStep : Bool
  /-- HZ of its contexts (03 R69). -/
  hz : List (BitVec 4)
  /-- What the race exception still asks of it: the words that ran before a mid-step stop, and the four chains with the entries whose
  completion the task has not acquired (10 R182, R194, R198). -/
  redo : List (Nat × Word)
  chains : List Chain
  deriving DecidableEq, Repr

/-- An item report to the resident system (15 R254): code, core, chain, NUMBER. -/
structure Report where
  code : BitVec 8
  core : Nat
  /-- The chain of an engine entry; none for a pool request, and for a hub core that goes out of service. -/
  chain : Option ChainId
  num : Nat
  deriving DecidableEq, Repr

/-- A stop as `tdb` is told of it (16 R257; 17 R263; 20 R294): where, a tag, the watchpoint pairs met, for an engine entry
its chain, NUMBER and chunk, and the values that a logpoint hands over. -/
structure StopRec where
  core : Nat
  slice : BitVec 8
  lpc : Word
  spc : Word
  tag : Word
  points : List (Word × Word)
  entry : Option (ChainId × Nat × Nat)
  vals : List Word
  deriving DecidableEq, Repr

/-- Why the loader rejects (04 R93; 05 R106, R110). -/
inductive Reject where
  /-- The base is no multiple of 64 KiB. -/
  | base
  /-- What should be a code object is none that can be read. -/
  | object
  /-- An extern that no record names is unresolved: its index in the symbol table. -/
  | symbol (i : Nat)
  /-- The first failing relocation record. -/
  | record (i : Nat)
  /-- An offence in an image: slice code (3 the plain image), offset in the slice, logical PC. -/
  | place (slice off lpc : Nat)
  deriving DecidableEq, Repr

/-- What the loader says of an image, by its descriptor, or of a code object, by its address (04 R93; 05 R110). -/
structure Load where
  desc : Word
  root : Word
  object : Bool
  reject : Option Reject
  /-- The global symbols of a committed object: name and address (05 R103, R107). -/
  exports : List (List Byte × Word)
  deriving DecidableEq, Repr

/-- The parts of the module outside the cores. -/
structure Module where
  /-- Boot status word (18 R272). -/
  stage : BitVec 8
  reason : BitVec 8
  ptpLock : Bool
  /-- Physical address of the boot status word in the resident system's mapping, once it has one (18 R272). -/
  bootPage : Option Nat
  /-- What attestation reports of the parts in service: measured at boot (18 R274). -/
  bootDies : BitVec 32
  bootCores : List Nat
  /-- Tick at which stage 6 began (18 R271). -/
  ptpSince : Nat
  dieOut : BitVec 32
  linksDown : BitVec 64
  ports : BitVec 8
  /-- Rate and width that the host port trained at, or (0, 0). Each hub die has a port (01 R13) and the host is on one (18 R273): one rate
  and width is held for the module (DESIGN CHOICE, log 95). -/
  pcie : Nat × Nat
  /-- `disc.geom.MODULE` (04 R94). -/
  number : BitVec 6
  /-- Fade clock (07 R142). -/
  now : Nat
  /-- Time passed in units of 0.1 ns: 1,000 make a tick (DESIGN CHOICE, log 3). -/
  wall : Nat
  /-- Draws made of the free values (DESIGN CHOICE, log 4). -/
  free : Nat
  /-- Granule tags by physical granule (07 R139), poisoned frames (07 R137). -/
  gtags : List (Nat × BitVec 4)
  poison : List Nat
  /-- Failed dies: every frame of one is poisoned (15 R253). -/
  failed : List Nat
  races : List (Nat × RaceTag)
  snaps : List Snap
  /-- Tasks that have ended, for the race rule (10 R196), and tasks whose region counter has stopped (10 R194). -/
  endedTasks : List (BitVec 32)
  lostTasks : List (BitVec 32)
  queues : List Queue
  packets : List Packet
  nodes : List Node
  /-- Numbers given to nodes and tasks so far (10 R194; 17 R258). -/
  nextNode : Nat
  nextTask : BitVec 32
  /-- The last tenant instant (12 R215): its tick, and the ns of that tick at which it fell. -/
  instant : Option (Nat × Nat)
  /-- Cores held for the head node (12 R212). -/
  hold : Option (Nat × List Nat)
  tenants : List Tenant
  sched : Sched
  running : List Nat
  duty : BitVec 6
  /-- Stall timeout in ticks (02 R30). -/
  stallTimeout : Nat
  /-- Gang watchpoints of a gang, by its node; of one not listed all are 0 (17 R262). -/
  wpGang : List (Nat × Vector Word 16)
  wpDevice : Vector Word 32
  pools : List Pool
  /-- Physical address of the notify page (12 R205), from stage 8 on (18 R273). -/
  notifyPage : Option Nat
  /-- Handles' generations used so far (13 R220). -/
  gens : List (Nat × BitVec 24)
  reqs : List Req
  nextReq : Nat
  launches : List LaunchRec
  loads : List Load
  saved : List Saved
  reports : List Report
  stops : List StopRec
  /-- Stall-watchdog traps raised (02 R30): core, slice, section number, awaited section. -/
  stalls : List (Nat × BitVec 8 × BitVec 20 × BitVec 20)
  deriving DecidableEq, Repr

/-- The memories of a core that SECDED guards (01 R11; 15 R251). -/
inductive Sram where
  | scratch | regs | weights
  deriving DecidableEq, Repr

/-- Who moves next (DESIGN CHOICE, log 3): the focused core and the outside world, as plain data. -/
inductive Act where
  /-- This row of the table is the next step. -/
  | row (i : Instr)
  /-- Another core moves from here on. -/
  | focus (core : Nat)
  /-- A SECDED error strikes a 64-bit word of a memory of the focused core: of one bit, or of two (15 R251). -/
  | upset (mem : Sram) (word : Nat) (two : Bool)
  /-- The resident system creates a queue, destroys one, or takes one out of its error state with a RIDX (12 R204, R205, R207; DESIGN
CHOICE, log 120). -/
  | makeQueue (q : QueueMade)
  | dropQueue (q : Nat)
  | resetQueue (q ridx : Nat)
  deriving DecidableEq, Repr

/-- The module's state. -/
structure State where
  core : Core
  others : List (Nat × Core)
  m : Module
  /-- HBM by physical address (07 R136); an unlisted byte reads 0 (DESIGN CHOICE, log 2). -/
  mem : Cells
  /-- Bytes the step under way has written, newest first; empty between steps (DESIGN CHOICE, log 5). -/
  wlog : List Host.Cell
  agenda : List Act
  deriving DecidableEq, Repr

/-- Why a run stops. Ordinary faults of the spec are next states (the handler, the task's end, a stage that halts):
no step of this model ends a run by itself. -/
inductive Fault where
  /-- Raised by no instruction of this model: kept for the interface. Safe. -/
  | none
  deriving DecidableEq, Repr

/-- Why the model has no answer. -/
inductive Refusal where
  /-- Raised by an arm of `exec` whose instruction has no meaning yet, named by its mnemonic. Safe. -/
  | notModelled (mnemonic : String)
  deriving DecidableEq, Repr

abbrev Out := Host.Outcome State Fault Refusal

/-! ### Reset -/

/-- A context at reset: every register 0 (03 R53; where it gives no power-up value, DESIGN CHOICE, log 1). -/
def Context.reset : Context where
  x := Vector.replicate 32 0
  pc := 0
  latch := Vector.replicate 16 (some [])
  view := Vector.replicate 8 0
  hz := 0
  strict := false
  dbg := false
  sbm := false
  fflags := 0
  round := 0
  wait := none
  woken := false
  draining := false
  full := false
  issueAt := 0
  hdr := false
  strings := []
  stringSince := 0
  secStart := 0
  secEnd := 0
  secNo := 0
  secDone := 0
  retired := 0
  last := false
  ended := false
  monitor := none
  trap := none
  pins := []
  wp := Vector.replicate 8 0
  step := Config.allOnes
  ord := 0
  hist := []
  lastLpc := 0
  held := none
  pass := false

def Chain.reset : Chain :=
  { append := 0, counter := 0, finished := [], owed := [], regions := [], prior := 0, priorFin := [], entries := [], seg := 0, slot := 0 }

/-- The launch state as a checkpoint: the prologue replays from it (02, before R32). -/
def Ckpt.launch : Ckpt where
  ord := 0
  idx := Config.allOnes
  lpc := 0
  coords := []
  alist := 0
  xs := List.replicate 32 0
  flags := 0
  round := 0
  seed := 0
  secNo := 0
  tline := [0, 0, 0, 0]
  rings := []
  bsyncs := 0

/-- A core at reset. Hub cores start in mode S, where the resident system starts (04 R89, 18 R269 stage 7). (DEDUCED, log 62.) -/
def Core.reset (n : Nat) : Core where
  num := n
  mode := if n < 768 then .u else .s
  merged := decide (768 ≤ n)
  cyc := 0
  slot := .l
  cur := .C
  l := Context.reset
  c := Context.reset
  s := Context.reset
  flights := []
  lates := []
  banks := []
  banksWas := []
  task := none
  sight := Sight.new
  seed := 0
  ranBefore := false
  lastTask := none
  rs := []
  rsGen := none
  wb := []
  wbGen := 0
  allocs := []
  lastTags := []
  rings := []
  tci := Chain.reset
  tmx := Chain.reset
  tco := Chain.reset
  tsx := Chain.reset
  appends := 0
  window := []
  ckpt := Ckpt.launch
  journal := []
  replayed := []
  secAppends := []
  ringLog := []
  ran := []
  redo := []
  nonIdem := false
  returning := false
  phase := .run
  tlb := []
  perf := { sel := 0, val := 0, per := 0, sample := [] }
  trace := { base := 0, len := 0, head := 0, ctl := 0, seq := 0, dropped := 0, firstDrop := 0, pages := [] }
  traps := []
  hubFaults := []
  called := none
  inService := true
  throttled := false
  started := false
  rollbacks := 0
  stop := none
  claim := none
  dir := []
  debugger := .none
  svc := none
  dumps := []
  cutDump := []
  fatal := []
  badScratch := []
  badRegs := []
  badWeights := []
  corrected := 0
  nowAt := 0
  saveTick := none
  cutWait := false

def Tenant.reset (n : Nat) : Tenant := { num := n, allot := [], budget := 1000, park := 0 }

/-- The module after power-up, before stage 1 (18 R269, R272). -/
def Module.reset : Module where
  stage := 0
  reason := 0
  ptpLock := false
  bootPage := none
  bootDies := 0
  bootCores := []
  ptpSince := 0
  dieOut := 0
  linksDown := 0
  ports := 0
  pcie := (0, 0)
  number := 0
  now := 0
  wall := 0
  free := 0
  gtags := []
  poison := []
  failed := []
  races := []
  snaps := []
  endedTasks := []
  lostTasks := []
  queues := []
  packets := []
  nodes := []
  nextNode := 0
  nextTask := 0
  instant := none
  hold := none
  tenants := (List.range 16).map Tenant.reset
  sched := { epoch := 0, period := 0, entries := [] }
  running := []
  duty := 0
  stallTimeout := Config.ticks1ms
  wpGang := []
  wpDevice := Vector.replicate 32 0
  pools := []
  notifyPage := none
  gens := []
  reqs := []
  nextReq := 0
  launches := []
  loads := []
  saved := []
  reports := []
  stops := []
  stalls := []

/-- The machine right after reset: core 0 is the core in focus, every other core stands at its own reset, and the
power-up sequence of 18 R269 has not begun. -/
def State.reset : State where
  core := Core.reset 0
  others := []
  m := Module.reset
  mem := []
  wlog := []
  agenda := []

end Sys2Proof.Machine
end

