-- ==== Sys2Proof/Machine/Bytes.lean ====
section
/-! DEFINITION. Bytes, bit fields and the canonical byte stores: the helpers that every access goes through. -/

namespace Sys2Proof.Machine

/-- `bits(v, h, l)` of the spec's pseudocode (00 R5), of a natural number: w bits from bit l on. -/
def fld (v l w : Nat) : Nat := v / 2 ^ l % 2 ^ w

/-- A signed reading of the low w bits (00 R5 `sext`). -/
def sgn (v w : Nat) : Int := if v % 2 ^ w < 2 ^ (w - 1) then (v % 2 ^ w : Int) else (v % 2 ^ w : Int) - 2 ^ w

/-- An integer modulo 2^w. -/
def wrap (i : Int) (w : Nat) : Nat := (i % (2 ^ w : Int)).toNat

def w64 (n : Nat) : Word := BitVec.ofNat 64 n

/-- n bytes of a list from offset o on; past the end reads 0. -/
def slice (bs : Bytes) (o n : Nat) : Bytes := ((bs.drop o).take n) ++ List.replicate (n - (bs.drop o).length) 0

/-- A little-endian field of a record: n bytes from offset o (00 R2). -/
def le (bs : Bytes) (o n : Nat) : Nat := leNat (slice bs o n)

/-- Exactly n bytes: cut or padded with 0. -/
def pad (bs : Bytes) (n : Nat) : Bytes := slice bs 0 n

/-- `bs` with the bytes from offset o on replaced by `v`. -/
def patch (bs : Bytes) (o : Nat) (v : Bytes) : Bytes := bs.take o ++ v ++ bs.drop (o + v.length)

/-- All n bytes zero from offset o on. -/
def zeroAt (bs : Bytes) (o n : Nat) : Bool := (slice bs o n).all (· == 0)

/-! ### Canonical byte stores -/

/-- The byte listed at an address. -/
def Cells.find : Cells → Nat → Option Byte
  | [], _ => none
  | (k, v) :: r, a => if k = a then some v else Cells.find r a

/-- List a byte at its place. -/
def Cells.insert : Cells → Nat → Byte → Cells
  | [], a, b => [(a, b)]
  | (k, v) :: r, a, b =>
    if a < k then (a, b) :: (k, v) :: r
    else if a = k then (a, b) :: r
    else (k, v) :: Cells.insert r a b

/-- Unlist an address. -/
def Cells.erase : Cells → Nat → Cells
  | [], _ => []
  | (k, v) :: r, a => if a = k then r else (k, v) :: Cells.erase r a

/-- The byte of a store whose unlisted addresses read 0 (DESIGN CHOICE, log 2). -/
def Cells.get (c : Cells) (a : Nat) : Byte := (c.find a).getD 0

/-- Write one byte of such a store: writing 0 unlists the address. -/
def Cells.set (c : Cells) (a : Nat) (b : Byte) : Cells := if b = 0 then c.erase a else c.insert a b

/-- Perform a log of writes, newest first. -/
def Cells.commit (c : Cells) : List Host.Cell → Cells
  | [] => c
  | (a, b) :: r => (Cells.commit c r).set a b

/-- Every listed address is above `lo`, rising, and no listed byte is 0. -/
def Cells.wfFrom : Nat → Cells → Bool
  | _, [] => true
  | lo, (k, v) :: r => decide (lo ≤ k) && v != 0 && Cells.wfFrom (k + 1) r

/-- The canonical form of memory: addresses strictly rising, no entry equal to what an unlisted address reads as. -/
def Memory.wf (c : Cells) : Bool := Cells.wfFrom 0 c

/-- Write a run of bytes into a store that reads 0 where unlisted. -/
def Cells.setRun (c : Cells) : Nat → Bytes → Cells
  | _, [] => c
  | a, b :: r => Cells.setRun (c.set a b) (a + 1) r

/-- Read a run of bytes of such a store. -/
def Cells.getRun (c : Cells) (a : Nat) : Nat → Bytes
  | 0 => []
  | n + 1 => c.get a :: Cells.getRun c (a + 1) n

/-- List a run of bytes, zeros too (stores whose unlisted bytes are unspecified). -/
def Cells.putRun (c : Cells) : Nat → Bytes → Cells
  | _, [] => c
  | a, b :: r => Cells.putRun (c.insert a b) (a + 1) r

/-- The bytes of a store as runs of adjacent ones. -/
def Cells.runs : Cells → List (Nat × Bytes)
  | [] => []
  | (a, b) :: r => match Cells.runs r with
    | [] => [(a, [b])]
    | (o, bs) :: t => if o = a + 1 then (a, b :: bs) :: t else (a, [b]) :: (o, bs) :: t

/-! ### Lists kept by key -/

/-- Replace the elements that satisfy a test. -/
def mapIf {α : Type} (p : α → Bool) (f : α → α) (l : List α) : List α := l.map (fun x => if p x then f x else x)

/-- Insert or replace by a numeric key, rising. -/
def upsert {α : Type} (key : α → Nat) (x : α) : List α → List α
  | [] => [x]
  | y :: r => if key x < key y then x :: y :: r else if key x = key y then x :: r else y :: upsert key x r

/-- Insert by a numeric key, after those of equal key. -/
def insertBy {α : Type} (key : α → Nat) (x : α) : List α → List α
  | [] => [x]
  | y :: r => if key x < key y then x :: y :: r else y :: insertBy key x r

/-- The least natural number below n that is not in the list (fuel n). -/
def leastFree (used : List Nat) (n : Nat) : Option Nat := (List.range n).find? (fun k => !used.contains k)

end Sys2Proof.Machine
end

