-- ==== Sys2Proof/Machine/Flags.lean ====
section
/-! DEFINITION. The floating-point flags (03 R55) and the rules that set them from a rounding (06 R125). Integer words
set no flag (20 R279, 23 R373). -/

namespace Sys2Proof.Machine

/-- Flags as `ctx.fflags` bits 4:0 (03 R55). -/
abbrev Flags := BitVec 5
def fNV : Flags := 16
def fDZ : Flags := 8
def fOF : Flags := 4
def fUF : Flags := 2
def fNX : Flags := 1


/-- An overflow sets OF and NX (06 R125). -/
def flOverflow : Flags := fOF ||| fNX

/-- An inexact result sets NX, and UF too when the exact result is tiny (06 R125). -/
def flInexact (inexact tiny : Bool) : Flags := if inexact then (if tiny then fUF ||| fNX else fNX) else 0

end Sys2Proof.Machine
end

