-- ==== Sys2Proof/Machine/Num.lean ====
section
/-! DEFINITION. Number formats and rounding (06 R112 to R128): values of codes, exact operations on them, and one
rounding into a format. Exact results are kept as naturals scaled by a power of two, with a sticky mark where the exact
result lies strictly between two such values. -/

namespace Sys2Proof.Machine

/-- A value read from a code (06 R114, R116). `lns neg k` is (−1)^neg · 2^(k/8). -/
inductive Val where
  | nan (neg : Bool)
  | inf (neg : Bool)
  | fin (neg : Bool) (m : Nat) (e : Int)
  | lns (neg : Bool) (k : Int)
  deriving DecidableEq, Repr

/-- An exact result: (−1)^neg · m · 2^e, or strictly between that and (m+1)·2^e when sticky. -/
inductive Exact where
  | nan (neg : Bool)
  | inf (neg : Bool)
  | num (neg : Bool) (m : Nat) (e : Int) (sticky : Bool)
  deriving DecidableEq, Repr

/-- The parameters of a float format (06 R114): exponent bits, mantissa bits, bias, code of the largest finite
magnitude, code of infinity if any, canonical NaN if any. -/
structure FloatFmt where
  ebits : Nat
  mbits : Nat
  bias : Nat
  maxCode : Nat
  inf : Option Nat
  nan : Option Nat
  deriving DecidableEq, Repr

def floatFmt : Fmt → Option FloatFmt
  | .fp32 => some ⟨8, 23, 127, 0x7F7FFFFF, some 0x7F800000, some 0x7FC00000⟩
  | .bf16 => some ⟨8, 7, 127, 0x7F7F, some 0x7F80, some 0x7FC0⟩
  | .fp16 => some ⟨5, 10, 15, 0x7BFF, some 0x7C00, some 0x7E00⟩
  | .e4m3 => some ⟨4, 3, 7, 0x7E, none, some 0x7F⟩
  | .e5m2 => some ⟨5, 2, 15, 0x7B, some 0x7C, some 0x7E⟩
  | .e3m2 => some ⟨3, 2, 3, 0x1F, none, none⟩
  | .e2m3 => some ⟨2, 3, 1, 0x1F, none, none⟩
  | .e2m1 => some ⟨2, 1, 1, 0x7, none, none⟩
  | _ => none

/-- An LNS format: bits of u, and u-units per factor of two (06 R116). -/
def lnsFmt : Fmt → Option (Nat × Nat)
  | .lns8 => some (7, 8)
  | .lns6 => some (5, 4)
  | _ => none

/-- The value of a code (06 R112 to R116). Bits above the format are ignored. -/
def value (f : Fmt) (code : Nat) : Val :=
  let c := code % 2 ^ f.bits
  match floatFmt f with
  | some p =>
    let neg := c / 2 ^ (p.ebits + p.mbits) == 1
    let mag := c % 2 ^ (p.ebits + p.mbits)
    if f = .e2m1 ∧ c = 8 then .fin false 0 0
    else if p.inf = some mag then .inf neg
    else if p.maxCode < mag then .nan neg
    else
      let ex := mag / 2 ^ p.mbits
      let mn := mag % 2 ^ p.mbits
      if ex = 0 then .fin neg mn (1 - (p.bias : Int) - p.mbits)
      else .fin neg (mn + 2 ^ p.mbits) ((ex : Int) - p.bias - p.mbits)
  | none =>
    match lnsFmt f with
    | some (ub, unit) =>
      let neg := c / 2 ^ ub == 1
      let u := sgn c ub
      if u = -(2 ^ (ub - 1) : Int) then (if neg then .nan true else .fin false 0 0)
      else .lns neg (u * (8 / unit : Nat))
    | none =>
      let i := sgn c f.bits
      .fin (decide (i < 0)) i.natAbs 0

/-! ### Integer roots and logarithms -/

/-- Floor of log2 of n, with fuel: 0 for n ≤ 1. -/
def ilog2 (n : Nat) : Nat := Nat.log2 n

/-- Floor of the square root of n, deciding one bit of the root after another. -/
def isqrtGo (n : Nat) : Nat → Nat → Nat
  | 0, r => r
  | b + 1, r => if (r + 2 ^ b) * (r + 2 ^ b) ≤ n then isqrtGo n b (r + 2 ^ b) else isqrtGo n b r

def isqrt (n : Nat) : Nat := isqrtGo n (ilog2 n / 2 + 1) 0

/-- Bits of working precision for the transcendental results (DEDUCED, log 20). -/
def prec : Nat := 256

/-- Floor of 2^(f/8) · 2^prec. -/
def root8 (f : Nat) : Nat := isqrt (isqrt (isqrt (2 ^ (f + 8 * prec))))

/-- An LNS magnitude 2^(k/8) as an exact result. -/
def lnsExact (neg : Bool) (k : Int) : Exact :=
  let f := (k % 8).toNat
  if f = 0 then .num neg 1 (k / 8) false else .num neg (root8 f) (k / 8 - prec) true

def Val.exact : Val → Exact
  | .nan n => .nan n
  | .inf n => .inf n
  | .fin n m e => .num n m e false
  | .lns n k => lnsExact n k

/-! ### Stochastic rounding bits (06 R126) -/

def mix (z0 : BitVec 64) : BitVec 64 :=
  let z1 := z0 ^^^ (z0 >>> 33)
  let z2 := z1 * 0xFF51AFD7ED558CCD
  let z3 := z2 ^^^ (z2 >>> 33)
  let z4 := z3 * 0xC4CEB9FE1A85EC53
  z4 ^^^ (z4 >>> 33)

def srBits (seed lpc step : Word) (elem : Nat) : Nat :=
  let h0 := mix (seed ^^^ 0x9E3779B97F4A7C15)
  let h1 := mix (h0 ^^^ lpc)
  let h2 := mix (h1 ^^^ step)
  let h3 := mix (h2 ^^^ w64 elem)
  h3.toNat % 2 ^ 32

/-- What a rounding reads beside the value: the resolved mode, and the key of R126. -/
structure RCtx where
  mode : Rnd
  seed : Word
  lpc : Word
  step : Word
  deriving DecidableEq, Repr

/-! ### Rounding (06 R124, R125) -/

/-- ⌊2^32 · rem/2^d⌋, and whether 2^32 · rem/2^d (with a sticky rest) is that integer exactly. -/
def frac32 (rem d : Nat) (sticky : Bool) : Nat × Bool :=
  if d ≤ 32 then (rem * 2 ^ (32 - d), !sticky)
  else (rem / 2 ^ (d - 32), rem % 2 ^ (d - 32) == 0 && !sticky)

/-- Does the magnitude round up from n, when the exact magnitude is n + rem/2^d (strictly more when sticky)? Called only
when that is not n. `neg` is the sign of the value (06 R124). -/
def roundUp (rc : RCtx) (elem : Nat) (neg : Bool) (n rem d : Nat) (sticky : Bool) : Bool :=
  let above := decide (2 ^ d < 2 * rem) || (2 * rem == 2 ^ d && sticky)
  let tie := 2 * rem == 2 ^ d && !sticky
  match rc.mode with
  | .rne | .dyn => above || (tie && n % 2 == 1)
  | .rtz => false
  | .rdn => neg
  | .rup => !neg
  | .rna => above || tie
  | .sr =>
    let r := srBits rc.seed rc.lpc rc.step elem
    let (t, whole) := frac32 rem d sticky
    if neg then !decide (r < 2 ^ 32 - t - (if whole then 0 else 1)) else decide (r < t)

/-- m·2^e (sticky) as n + rem/2^d at quantum 2^q. -/
def atQuantum (m : Nat) (e q : Int) : Nat × Nat × Nat :=
  if q ≤ e then (m * 2 ^ (e - q).toNat, 0, 0)
  else (m / 2 ^ (q - e).toNat, m % 2 ^ (q - e).toNat, (q - e).toNat)

/-- Overflow goes to infinity, or to the largest finite value (06 R125). -/
def overflowInf (mode : Rnd) (neg : Bool) : Bool :=
  match mode with
  | .rne | .rna | .sr | .dyn => true
  | .rtz => false
  | .rdn => neg
  | .rup => !neg

/-- Sign bit of a code of a float format. -/
def signed (p : FloatFmt) (neg : Bool) (mag : Nat) : Nat := if neg then mag + 2 ^ (p.ebits + p.mbits) else mag

/-- Round an exact result into a float format. E2M1 writes no code 0x8 (06 R114). -/
def roundFloat (f : Fmt) (p : FloatFmt) (rc : RCtx) (elem : Nat) (x : Exact) : Nat × Flags :=
  let out (neg : Bool) (mag : Nat) : Nat := if f = .e2m1 ∧ mag = 0 then 0 else signed p neg mag
  match x with
  | .nan neg =>
    match p.nan with
    | some c => (c, 0)
    | none => (out neg p.maxCode, fNV)
  | .inf neg =>
    match p.inf with
    | some c => (out neg c, 0)
    | none => (out neg p.maxCode, fOF)
  | .num neg m e sticky =>
    if m = 0 ∧ !sticky then (out neg 0, 0)
    else
      let qmin : Int := 1 - (p.bias : Int) - p.mbits
      let top : Int := (ilog2 m : Int) + e
      let q : Int := max (top - p.mbits) qmin
      let (n, rem, d) := atQuantum m e q
      let inexact := rem != 0 || sticky
      let lo := n + (q - qmin).toNat * 2 ^ p.mbits
      let mag := if inexact && roundUp rc elem neg n rem d sticky then lo + 1 else lo
      let tiny := decide (n < 2 ^ p.mbits)
      if p.maxCode < mag then
        match p.inf with
        | some c => (out neg (if overflowInf rc.mode neg then c else p.maxCode), flOverflow)
        | none => (out neg p.maxCode, flOverflow)
      else (out neg mag, flInexact inexact tiny)

/-- Round an exact result to a w-bit two's-complement integer, saturating (06 R127). -/
def roundInt (w : Nat) (rc : RCtx) (elem : Nat) (x : Exact) : Nat × Flags :=
  match x with
  | .nan _ => (0, fNV)
  | .inf neg => (if neg then 2 ^ (w - 1) else 2 ^ (w - 1) - 1, fNV)
  | .num neg m e sticky =>
    let (n, rem, d) := atQuantum m e 0
    let inexact := rem != 0 || sticky
    let mag := if inexact && roundUp rc elem neg n rem d sticky then n + 1 else n
    let fl := flInexact inexact false
    if neg then
      if 2 ^ (w - 1) < mag then (2 ^ (w - 1), fNV) else (wrap (-(mag : Int)) w, fl)
    else if 2 ^ (w - 1) ≤ mag then (2 ^ (w - 1) - 1, fNV) else (mag, fl)

/-- Compare (m·2^e)^k with 2^t: does 2^t lie at or below it? -/
def powLe (m : Nat) (e : Int) (k : Nat) (t : Int) : Bool :=
  let s := e * k - t
  if 0 ≤ s then decide (1 ≤ m ^ k * 2 ^ s.toNat) else decide (2 ^ (-s).toNat ≤ m ^ k)

/-- The largest u in [lo, lo + n) with 2^(u/unit) ≤ m·2^e, given that 2^(lo/unit) is. -/
def lnsFloor (m : Nat) (e : Int) (unit : Nat) (lo : Int) : Nat → Int
  | 0 => lo
  | n + 1 => if powLe m e unit (lo + n + 1) then lo + n + 1 else lnsFloor m e unit lo n

/-- ⌊2^(u/unit) · 2^s⌋ for a stochastic rounding into an LNS format (DEDUCED, log 20). -/
def lnsFix (u : Int) (unit : Nat) (s : Nat) : Nat :=
  let k := u * (8 / unit : Nat)
  let r := root8 (k % 8).toNat
  let sh := k / 8 + s - prec
  if 0 ≤ sh then r * 2 ^ sh.toNat else r / 2 ^ (-sh).toNat

/-- Round an exact magnitude into an LNS format (06 R125). -/
def roundLns (f : Fmt) (ub unit : Nat) (rc : RCtx) (elem : Nat) (x : Exact) : Nat × Flags :=
  let umax : Int := 2 ^ (ub - 1) - 1
  let umin : Int := -umax
  let zero := 2 ^ (ub - 1)
  let code (neg : Bool) (u : Int) : Nat := wrap u ub + (if neg then 2 ^ ub else 0)
  match x with
  | .nan _ => (2 ^ ub + 2 ^ (ub - 1), 0)
  | .inf neg => (code neg umax, fOF)
  | .num neg m e sticky =>
    if m = 0 ∧ !sticky then (zero, 0)
    else
      let draw := srBits rc.seed rc.lpc rc.step elem
      let s : Nat := 200
      let vfix := if 0 ≤ e + s then m * 2 ^ (e + s).toNat else m / 2 ^ (-(e + s)).toNat
      if powLe m e unit umin then
        let u := lnsFloor m e unit umin (umax - umin + 1).toNat
        let same := powLe m e unit u && m ^ unit * 2 ^ (e * unit - u).toNat == 2 ^ (u - e * unit).toNat
        if u > umax then (code neg umax, flOverflow)
        else if same then (code neg u, 0)
        else
          let up : Bool := match rc.mode with
            | .rne | .rna | .dyn => powLe m e (2 * unit) (2 * u + 1)
            | .rtz | .rdn => false
            | .rup => true
            | .sr => decide (draw < (vfix - lnsFix u unit s) * 2 ^ 32 / (lnsFix (u + 1) unit s - lnsFix u unit s))
          let r := if up then u + 1 else u
          if r > umax then (code neg umax, flOverflow) else (code neg r, fNX)
      else
        let up : Bool := match rc.mode with
          | .rne | .rna | .dyn => powLe m e unit (umin - unit)
          | .rtz | .rdn => false
          | .rup => true
          | .sr => decide (draw < vfix * 2 ^ 32 / lnsFix umin unit s)
        (if up then code neg umin else zero, flInexact true true)

/-- `round(fmt, v, mode)` (00 R6, 06 R124 to R127). -/
def roundTo (f : Fmt) (rc : RCtx) (elem : Nat) (x : Exact) : Nat × Flags :=
  match floatFmt f with
  | some p => roundFloat f p rc elem x
  | none =>
    match lnsFmt f with
    | some (ub, unit) => roundLns f ub unit rc elem x
    | none => roundInt f.bits rc elem x

/-- A conversion (06 R127). A NaN into a format with NaN sets no flag. -/
def convert (src dst : Fmt) (rc : RCtx) (elem : Nat) (code : Nat) : Nat × Flags :=
  roundTo dst rc elem (value src code).exact

/-! ### Exact operations (06 R128) -/

/-- Bring two magnitudes to one scale. -/
def align (m1 : Nat) (e1 : Int) (m2 : Nat) (e2 : Int) : Int × Nat × Nat :=
  let e := min e1 e2
  (e, m1 * 2 ^ (e1 - e).toNat, m2 * 2 ^ (e2 - e).toNat)

/-- a + b of finite values; an exact zero sum of opposite signs is +0, or −0 under RDN. -/
def addFin (mode : Rnd) (n1 : Bool) (m1 : Nat) (e1 : Int) (n2 : Bool) (m2 : Nat) (e2 : Int) : Exact :=
  let (e, a, b) := align m1 e1 m2 e2
  if n1 = n2 then .num n1 (a + b) e false
  else if a = b then .num (mode == .rdn) 0 0 false
  else if b < a then .num n1 (a - b) e false
  else .num n2 (b - a) e false

/-- Exact sum with the special cases of R128. -/
def addEx (mode : Rnd) (a b : Val) : Exact × Flags :=
  match a, b with
  | .nan _, _ => (.nan false, 0)
  | _, .nan _ => (.nan false, 0)
  | .inf x, .inf y => if x = y then (.inf x, 0) else (.nan false, fNV)
  | .inf x, _ => (.inf x, 0)
  | _, .inf y => (.inf y, 0)
  | .fin n1 m1 e1, .fin n2 m2 e2 => (addFin mode n1 m1 e1 n2 m2 e2, 0)
  | _, _ => (.nan false, 0)

def negVal : Val → Val
  | .nan n => .nan n
  | .inf n => .inf (!n)
  | .fin n m e => .fin (!n) m e
  | .lns n k => .lns (!n) k

/-- Exact product as a value. -/
def mulVal (a b : Val) : Val × Flags :=
  match a, b with
  | .nan _, _ => (.nan false, 0)
  | _, .nan _ => (.nan false, 0)
  | .inf x, .inf y => (.inf (x != y), 0)
  | .inf x, .fin y m _ => if m = 0 then (.nan false, fNV) else (.inf (x != y), 0)
  | .fin x m _, .inf y => if m = 0 then (.nan false, fNV) else (.inf (x != y), 0)
  | .fin n1 m1 e1, .fin n2 m2 e2 => (.fin (n1 != n2) (m1 * m2) (e1 + e2), 0)
  | _, _ => (.nan false, 0)

def mulEx (a b : Val) : Exact × Flags := let (v, f) := mulVal a b; (v.exact, f)

def isNan : Val → Bool
  | .nan _ => true
  | _ => false

/-- a·b + c with one rounding; a NaN operand goes before every other row (06 R128). -/
def fmaEx (mode : Rnd) (a b c : Val) : Exact × Flags :=
  if isNan a || isNan b || isNan c then (.nan false, 0)
  else
    let (p, f) := mulVal a b
    if isNan p then (.nan false, f) else addEx mode p c

/-- Order of two values that are no NaN, −0 below +0 only where `zeros` is set: is a < b? -/
def valLt (zeros : Bool) (a b : Val) : Bool :=
  match a, b with
  | .inf x, .inf y => x && !y
  | .inf x, _ => x
  | _, .inf y => !y
  | .fin n1 m1 e1, .fin n2 m2 e2 =>
    let (_, p, q) := align m1 e1 m2 e2
    if p = 0 ∧ q = 0 then zeros && n1 && !n2
    else if n1 then (if n2 then decide (q < p) else decide (0 < p) || decide (0 < q))
    else if n2 then false
    else decide (p < q)
  | _, _ => false

/-- Do two values that are no NaN compare equal? −0 equals +0. -/
def valEq (a b : Val) : Bool := !valLt false a b && !valLt false b a

/-- 1/a (06 R128, 23 R373). -/
def rcpEx (a : Val) : Exact × Flags :=
  match a with
  | .nan _ => (.nan false, 0)
  | .inf n => (.num n 0 0 false, 0)
  | .fin n m e =>
    if m = 0 then (.inf n, fDZ)
    else
      let k := ilog2 m + prec
      (.num n (2 ^ k / m) (-e - k) (2 ^ k % m != 0), 0)
  | .lns _ _ => (.nan false, 0)

/-- 1/√a. -/
def rsqEx (a : Val) : Exact × Flags :=
  match a with
  | .nan _ => (.nan false, 0)
  | .inf n => if n then (.nan false, fNV) else (.num false 0 0 false, 0)
  | .fin n m e =>
    if m = 0 then (.inf n, fDZ)
    else if n then (.nan false, fNV)
    else
      let (m', e') := if e % 2 = 0 then (m, e) else (2 * m, e - 1)
      let k := ilog2 m' + prec
      let r := isqrt (2 ^ (2 * k) / m')
      (.num false r (-(e' / 2) - k) (r * r * m' != 2 ^ (2 * k)), 0)
  | .lns _ _ => (.nan false, 0)

/-- 2^(2^-1), 2^(2^-2), … multiplied for the set bits of a fraction f/2^n, from its highest bit down. -/
def exp2Go (f : Nat) : Nat → Nat → Nat → Nat
  | 0, _, acc => acc
  | n + 1, c, acc =>
    let c' := isqrt (c * 2 ^ prec)
    let acc' := if f / 2 ^ n % 2 = 1 then acc * c' / 2 ^ prec else acc
    if f % 2 ^ n = 0 then acc' else exp2Go f n c' acc'

/-- 2^a (23 R373, R380). -/
def exp2Ex (a : Val) : Exact × Flags :=
  match a with
  | .nan _ => (.nan false, 0)
  | .inf n => if n then (.num false 0 0 false, 0) else (.inf false, 0)
  | .fin n m e =>
    if m = 0 then (.num false 1 0 false, 0)
    else if 0 ≤ e ∨ 12 ≤ (ilog2 m : Int) + e then
      -- an integer, or beyond every format's range
      if 12 ≤ (ilog2 m : Int) + e then
        if n then (.num false 1 (-5000) true, 0) else (.num false 1 5000 true, 0)
      else
        let i : Int := m * 2 ^ e.toNat
        (.num false 1 (if n then -i else i) false, 0)
    else
      let d := (-e).toNat
      let i0 : Int := m / 2 ^ d
      let f0 := m % 2 ^ d
      if f0 = 0 then (.num false 1 (if n then -i0 else i0) false, 0)
      else
        let (i, f) := if n then (-i0 - 1, 2 ^ d - f0) else (i0, f0)
        (.num false (exp2Go f d (2 ^ (prec + 1)) (2 ^ prec)) (i - prec) true, 0)
  | .lns _ _ => (.nan false, 0)

/-- Fraction bits of log2 of y/2^p, y/2^p in [1, 2): repeated squaring, most significant bit first. -/
def log2Go (p : Nat) : Nat → Nat → Nat → Nat
  | 0, _, acc => acc
  | n + 1, y, acc =>
    let y2 := y * y / 2 ^ p
    if 2 ^ (p + 1) ≤ y2 then log2Go p n (y2 / 2) (2 * acc + 1) else log2Go p n y2 (2 * acc)

/-- log2 a (06 R128). -/
def log2Ex (a : Val) : Exact × Flags :=
  match a with
  | .nan _ => (.nan false, 0)
  | .inf n => if n then (.nan false, fNV) else (.inf false, 0)
  | .fin n m e =>
    if m = 0 then (.inf true, fDZ)
    else if n then (.nan false, fNV)
    else
      let l := ilog2 m
      let i : Int := (l : Int) + e
      if m = 2 ^ l then (.num (decide (i < 0)) i.natAbs 0 false, 0)
      else
        let fb := 160
        let p := 448
        let bits := log2Go p fb (m * 2 ^ (p - l)) 0
        if 0 ≤ i then (.num false (i.toNat * 2 ^ fb + bits) (-(fb : Int)) true, 0)
        else (.num true (i.natAbs * 2 ^ fb - bits - 1) (-(fb : Int)) true, 0)
  | .lns _ _ => (.nan false, 0)

/-- a·2^k (23 R372). -/
def scaleEx (a : Val) (k : Int) : Exact × Flags :=
  match a with
  | .nan _ => (.nan false, 0)
  | .inf n => (.inf n, 0)
  | .fin n m e => (.num n m (e + k) false, 0)
  | .lns _ _ => (.nan false, 0)

/-- Round an exact result with its own flags into a format. -/
def roundWith (f : Fmt) (rc : RCtx) (elem : Nat) (r : Exact × Flags) : Nat × Flags :=
  let (c, fl) := roundTo f rc elem r.1
  (c, fl ||| r.2)

/-- Smaller or larger by R128: a NaN gives way to the other operand, −0 lies below +0. The code is returned unchanged. -/
def minMax (f : Fmt) (wantMax : Bool) (a b : Nat) : Nat :=
  let va := value f a
  let vb := value f b
  let nan := match floatFmt f with
    | some p => p.nan.getD 0
    | none => 0
  if isNan va then (if isNan vb then nan else b)
  else if isNan vb then a
  else if wantMax then (if valLt true va vb then b else a) else (if valLt true vb va then b else a)

/-- A floating comparison and its flag (06 R128). -/
def fcompare (f : Fmt) (c : FCond) (a b : Nat) : Bool × Flags :=
  let va := value f a
  let vb := value f b
  let nan := isNan va || isNan vb
  match c with
  | .eq => (!nan && valEq va vb, 0)
  | .un => (nan, 0)
  | .lt => if nan then (false, fNV) else (valLt false va vb, 0)
  | .le => if nan then (false, fNV) else (valLt false va vb || valEq va vb, 0)

end Sys2Proof.Machine
end

