-- ==== Sys2Proof/Machine/Regs.lean ====
section
/-! DEFINITION. Registers: the contexts of a core, sources, and how results land (03 R53, R58, R61 to R63, 23 R371). -/

namespace Sys2Proof.Machine

/-! ### Parts of the state -/

def Core.ctx (k : Core) : Ctx → Context
  | .L => k.l
  | .C => k.c
  | .S => k.s

def Core.setCtx (k : Core) (c : Ctx) (x : Context) : Core :=
  match c with
  | .L => { k with l := x }
  | .C => { k with c := x }
  | .S => { k with s := x }

/-- Apply a function to one context. -/
def Core.modCtx (k : Core) (c : Ctx) (f : Context → Context) : Core := k.setCtx c (f (k.ctx c))

/-- Apply a function to all three contexts. -/
def Core.modAll (k : Core) (f : Context → Context) : Core := { k with l := f k.l, c := f k.c, s := f k.s }

def State.modCore (s : State) (f : Core → Core) : State := { s with core := f s.core }
def State.modM (s : State) (f : Module → Module) : State := { s with m := f s.m }

/-- The context whose word is at issue. -/
def State.here (s : State) : Context := s.core.ctx s.core.cur
def State.modHere (s : State) (f : Context → Context) : State := s.modCore (fun k => k.modCtx k.cur f)

/-- A hub core (04 R94). -/
def Core.hub (k : Core) : Bool := decide (768 ≤ k.num)

/-- The gang of a core: its task's node; a core without a task is in none. -/
def Core.gang (k : Core) : Nat := (k.task.map (·.node)).getD (2 ^ 32 - 1)

/-- Die of a compute core (01 R10). -/
def Core.die (k : Core) : Nat := k.num / Config.coresPerDie

/-- In a handler (15 R243). -/
def Core.inHandler (k : Core) : Bool :=
  match k.phase with
  | .handler _ => true
  | _ => false

/-- In merged replay (02 R38). -/
def Core.inReplay (k : Core) : Bool :=
  match k.phase with
  | .replay _ => true
  | _ => false

/-- Words wait until every earlier result has landed: merged mode and hub cores (03 R68; 19 R275). The words of an in-place handler wait
for their own results too, which land in their cycles (03 R66; `Core.canIssue`). -/
def Core.interlocked (k : Core) : Bool := k.merged

def State.modTask (s : State) (f : Task → Task) : State := s.modCore (fun k => { k with task := k.task.map f })

/-- Draw a free value (DESIGN CHOICE, log 4). -/
def State.draw (s : State) : Word × State :=
  (Config.freeWord s.m.free, s.modM (fun m => { m with free := m.free + 1 }))

/-! ### Scalar registers, latches, views -/

/-- x[n]; x0 reads 0 (00 R6). -/
def Context.get (k : Context) (n : BitVec 5) : Word := if n = 0 then 0 else k.x[n.toNat]'n.isLt

/-- Write x[n]; a write of x0 has no effect (00 R6). -/
def Context.put (k : Context) (n : BitVec 5) (v : Word) : Context :=
  if n = 0 then k else { k with x := k.x.set n.toNat v n.isLt }

/-- The 256 bytes of a latch; a lost latch reads 0 (03 R61). -/
def Context.latchBytes (k : Context) (n : BitVec 4) : Bytes := pad ((k.latch[n.toNat]'n.isLt).getD []) 256

/-- A latch as a scalar source: bytes 7:0 (23 R371). -/
def Context.latchWord (k : Context) (n : BitVec 4) : Word := w64 (leNat (slice ((k.latch[n.toNat]'n.isLt).getD []) 0 8))

/-- A scalar source (04 R72). -/
def Context.src (k : Context) : Src → Word
  | .reg n => k.get n
  | .latch n => k.latchWord n

/-- The value of a scalar source of the word at issue. -/
def State.src (s : State) (a : Src) : Word := s.here.src a
def State.reg (s : State) (n : BitVec 5) : Word := s.here.get n

/-- The guard at issue (04 R73). -/
def Context.guard (k : Context) (g : Guard) : Bool :=
  if g.reg = 0 then !g.neg else (k.get g.reg).getLsbD g.bit.toNat != g.neg

/-- Fields of a view register (03 R57). -/
def viewBase (v : Word) : Nat := fld v.toNat 0 19
def viewKind (v : Word) : Nat := fld v.toNat 20 2
def viewFmt (v : Word) : Nat := fld v.toNat 22 4

def Context.viewOf (k : Context) (n : BitVec 3) : Word := k.view[n.toNat]'n.isLt

/-- The flags of the logical program: the OR of the three contexts (03 R56). -/
def Core.allFlags (k : Core) : Flags := k.l.fflags ||| k.c.fflags ||| k.s.fflags

/-- Latches lost (03 R61). -/
def Context.loseLatches (k : Context) : Context := { k with latch := Vector.replicate 16 none }
/-- Views set to KIND 0 (23 R371). -/
def Context.loseViews (k : Context) : Context := { k with view := Vector.replicate 8 0 }

/-! ### System registers as a landing writes them (04 R95, R96; 22 R362) -/

/-- EVENT, REDOP and RSCOPE of `perf.sel` are all codes that 17 R259 lists. -/
def perfSelOk (v : Word) : Bool :=
  decide (1 ≤ fld v.toNat 0 16 ∧ fld v.toNat 0 16 ≤ 9) && decide (fld v.toNat 16 2 ≤ 2) && decide (fld v.toNat 24 2 ≤ 2)

/-- Write `perf.sel`: a reserved code leaves it unchanged; a changed EVENT clears `perf.val` (17 R259). -/
def Perf.setSel (p : Perf) (v : Word) : Perf :=
  if perfSelOk v then
    let sel := v &&& 0x000000000303FFFF
    if fld sel.toNat 0 16 = fld p.sel.toNat 0 16 then { p with sel := sel } else { p with sel := sel, val := 0 }
  else p

/-- The trace registers name another buffer: its records are numbered from 0, and it holds none (17 R258, R264; DEDUCED, log 110). -/
def Trace.anew (t : Trace) : Trace := { t with seq := 0, pages := [] }

/-- SWRITE's effect on a core, once it takes effect. -/
def Core.sysWrite (k : Core) (c : Ctx) (num : BitVec 12) (v : Word) : Core :=
  match num.toNat with
  | 0x010 =>
    (k.modCtx c (fun x => { x with dbg := v.getLsbD 1, strict := v.getLsbD 3 })).modAll
      (fun x => { x with fflags := v.extractLsb' 8 5 })
  | 0x011 => if fld v.toNat 0 3 < 6 then k.modCtx c (fun x => { x with round := v.extractLsb' 0 3 }) else k
  | 0x012 => k.modAll (fun x => { x with fflags := v.extractLsb' 0 5 })
  | 0x040 => { k with task := k.task.map (fun t => { t with seed := v, seedBy := c }), seed := if k.task.isNone then v else k.seed }
  | 0x200 => { k with perf := k.perf.setSel v }
  | 0x201 => { k with perf := { k.perf with val := v } }
  | 0x202 => { k with perf := { k.perf with per := v } }
  | 0x300 => { k with trace := { k.trace.anew with base := v } }
  | 0x301 => { k with trace := { k.trace.anew with len := v } }
  | 0x302 => { k with trace := { k.trace with head := v } }
  | 0x303 => { k with trace := { k.trace with ctl := v &&& 1 } }
  | n =>
    if h : 0x100 ≤ n ∧ n < 0x108 then
      let w := if n % 2 = 0 then v else v &&& 0x00000000FFFFFF0F
      k.modCtx c (fun x => { x with wp := x.wp.set (n - 0x100) w (by omega) })
    else k

/-! ### Landing -/

/-- A register-space byte: written, or as its generation leaves it (DESIGN CHOICE, log 1, DESIGN CHOICE, log 4). -/
def Core.rsByte (k : Core) (o : Nat) : Byte :=
  match k.rs.find o, k.rsGen with
  | some b, _ => b
  | none, some g => Config.freeByte g o
  | none, none => 0

def Core.rsRun (k : Core) (o : Nat) : Nat → Bytes
  | 0 => []
  | n + 1 => k.rsByte o :: Core.rsRun k (o + 1) n

/-- The 64-bit words with a double-bit error, once n bytes from o on have been written: a word written whole holds none
(01 R11; DESIGN CHOICE, log 81). -/
def healed (words : List Nat) (o n : Nat) : List Nat := words.filter (fun w => !(decide (o ≤ 8 * w) && decide (8 * w + 8 ≤ o + n)))

/-- The same, once bytes from o on have been written where a mask has all bits. -/
def healedBy (words : List Nat) (o : Nat) (mask : Bytes) : List Nat :=
  words.filter (fun w => !(decide (o ≤ 8 * w) && (List.range 8).all (fun i => mask.getD (8 * w + i - o) 0 == 0xFF)))

/-- Write register-space bytes. -/
def Core.rsPut (k : Core) (o : Nat) (bs : Bytes) : Core := { k with rs := k.rs.putRun o bs, badRegs := healed k.badRegs o bs.length }

/-- Merge landing bytes into the register space, bit by bit. -/
def Core.rsMerge (k : Core) : Nat → Bytes → Bytes → Core
  | _, [], _ => k
  | _, _, [] => k
  | a, b :: bs, m :: ms =>
    Core.rsMerge (if m = 0 then k else { k with rs := k.rs.insert a ((k.rsByte a &&& ~~~m) ||| (b &&& m)) }) (a + 1) bs ms

/-- Rows of an allocation that bytes from an offset on touch. -/
def rowsOf (off n : Nat) : List Nat := (List.range ((off + n + 255) / 256 - off / 256)).map (· + off / 256)

/-- A row reads as zeros and has not been written (07 R141). -/
def Alloc.zeroPending (a : Alloc) (row : Nat) : Bool := a.zero && !a.cleared.contains row

/-- Rows of an allocation that a write touches lose their zero-pending mark (07 R141). -/
def clearRows (a : Alloc) (off n : Nat) : Alloc :=
  if a.zero then { a with cleared := a.cleared ++ (rowsOf off n).filter a.zeroPending } else a

def modAlloc (k : Core) (id : BitVec 8) (f : Alloc → Alloc) : Core :=
  { k with allocs := mapIf (fun a => a.id == id && a.freed.isNone && a.parked.isNone) f k.allocs }

/-- Where byte `off` of an allocation lies in the core's scratch: of a window, in the row that holds its line (07 R147). -/
def Alloc.place (a : Alloc) (off : Nat) : Nat := a.base + if a.backed then off % a.size else off

/-- Bytes of an allocation are written: words of scratch written whole hold no error any more. The first write to a zero-pending row
writes the whole row, zeros where it has no bytes (07 R141). -/
def Core.healScratch (k : Core) (id : BitVec 8) (off n : Nat) : Core :=
  match k.allocs.find? (fun a => a.id == id && a.freed.isNone && a.parked.isNone) with
  | some a =>
    { k with badScratch := ((rowsOf off n).filter a.zeroPending).foldl (fun l r => healed l (a.place (256 * r)) 256)
               (healed k.badScratch (a.place off) n) }
  | none => k

/-- A step is about to change an allocation: how it stands is kept for a rebuild. -/
def Alloc.note (ord : Nat) (a : Alloc) : Alloc :=
  let u : Undo := { ord := ord, tag := a.tag, window := a.window, expiry := a.expiry, layout := a.layout }
  { a with undo := if a.undo.getLast? = some u then a.undo else a.undo ++ [u] }

/-- An engine entry of a step is about to change an allocation (08 R158; 07 R144). Words of later steps may have changed it before: how it
stood is kept in the order of the steps, and the change `f` belongs to how it stood before each of theirs, too. -/
def Alloc.noteFor (ord : Nat) (f : Undo → Undo) (a : Alloc) : Alloc :=
  match a.undo.findIdx? (fun u => decide (ord < u.ord)) with
  | none => a.note ord
  | some i =>
    let later := a.undo.drop i
    { a with undo := a.undo.take i ++ (later.head?.map (fun u => { u with ord := ord })).toList ++ later.map f }

/-- A word's store makes the layout tag linear (08 R158). -/
def Alloc.unlayout (ord : Nat) (a : Alloc) : Alloc := if a.layout = 0 then a else { (a.note ord) with layout := 0 }

/-- Remove the window of an allocation in a step: every line becomes Invalid, every pin is released (22 R360). In one
coherent store a write-back changes no byte (DESIGN CHOICE, log 5). -/
def Core.unmap (k : Core) (id : BitVec 8) (ord : Nat) : Core :=
  (modAlloc k id (fun a =>
    { (a.note ord) with window := none, lines := [], ahead := [] })).modAll (fun c =>
      { c with pins := c.pins.filter (fun p => p.1 != id) })

/-- SFREE's effect (22 R351): the id is unusable, and the range stays reserved until the step has closed and every entry that
names it has completed (22 R347). -/
def Core.freeAlloc (k : Core) (id : BitVec 8) (ord : Nat) : Core :=
  match k.allocs.find? (fun a => a.id == id && a.freed.isNone && a.parked.isNone) with
  | none => k
  | some a =>
    let k1 := k.unmap id ord
    let tags := (id, a.tag) :: k.lastTags.filter (fun e => e.1 != id)
    let rings := mapIf (fun r => r.alloc == id && r.ended.isNone) (fun r => { r with ended := some ord }) k1.rings
    modAlloc { k1 with lastTags := tags, rings := rings } id (fun a => { a with freed := some ord })

/-- A Clean line whose row has expired is Invalid (07 R148). -/
def Line.lapsed (l : Line) (now : Nat) : Bool := l.st == .clean && decide (l.expiry ≤ now)

/-- WIND of an allocation (16 R255): a window's valid rows, or a private allocation's own expiry and its sweep. -/
def Alloc.wound (now t : Nat) (a : Alloc) : Alloc :=
  if a.backed then { a with lines := a.lines.map (fun l => if l.lapsed now then l else { l with expiry := t }) }
  else { a with expiry := t, expired := false, sweep := 2 * ((a.size + 8191) / 8192) }

/-- What one landing write does to a core. -/
def Core.applyPut (k : Core) : Put → Core
  | .reg c n v => k.modCtx c (fun x => x.put n v)
  | .view c w v => k.modCtx c (fun x => { x with view := x.view.set w.toNat v w.isLt })
  | .bytes addr bs mask =>
    { (k.rsMerge addr bs mask) with badRegs := healedBy k.badRegs addr (mask.take bs.length) }
  | .sys c num v => k.sysWrite c num v
  | .scratch id off bs =>
    modAlloc (k.healScratch id off bs.length) id (fun a =>
      { (clearRows a off bs.length) with data := a.data.putRun off bs, layout := 0 })
  | .expiry id t =>
    let k1 := modAlloc k id (Alloc.wound k.nowAt t)
    let renew (r : Ring) : Ring := { r with exps := r.exps.map (fun e => if r.rels ≤ e.1 then (e.1, t) else e) }
    { k1 with rings := mapIf (fun r => r.alloc == id && r.ended.isNone) renew k1.rings }
  | .tag id t => modAlloc k id (fun a => { a with tag := t })
  | .free id ord => k.freeAlloc id ord
  | .unpin cs id ls =>
    cs.foldl (fun k c => k.modCtx c (fun x => { x with pins := x.pins.filter (fun p => !(p.1 == id && ls.contains p.2)) })) k

def Core.applyPuts (k : Core) (ps : List Put) : Core := ps.foldl Core.applyPut k

/-- A result lands: its writes, its latch capture, its flags (03 R61, R62; 06 R129). -/
def Core.applyFlight (k : Core) (f : Flight) : Core :=
  (k.applyPuts f.puts).modCtx f.ctx (fun x =>
    let latch := if f.lt = 0 then x.latch else x.latch.set f.lt.toNat (some f.cap) f.lt.isLt
    { x with fflags := x.fflags ||| f.flags, latch := latch })

/-- The gang watchpoints of a gang (17 R262). -/
def Module.gangWp (m : Module) (g : Nat) : Vector Word 16 := ((m.wpGang.find? (fun p => p.1 == g)).map (·.2)).getD (Vector.replicate 16 0)

/-- Gang and device watchpoints stand in the module (17 R262); a write of the odd register keeps its defined bits. -/
def Module.sysWrite (m : Module) (gang n : Nat) (v : Word) : Module :=
  let w := if n % 2 = 0 then v else v &&& 0x00000000FFFFFF0F
  if h : 0x110 ≤ n ∧ n < 0x120 then { m with wpGang := upsert (·.1) (gang, (m.gangWp gang).set (n - 0x110) w (by omega)) m.wpGang }
  else if h : 0x120 ≤ n ∧ n < 0x140 then { m with wpDevice := m.wpDevice.set (n - 0x120) w (by omega) }
  else m

/-- What a landing result writes outside its core: the watchpoints that an SWRITE names. -/
def Module.applyPut (g : Nat) (m : Module) : Put → Module
  | .sys _ num v => m.sysWrite g num.toNat v
  | _ => m

/-- Results land, in this order, on the core and in the module. -/
def State.applyFlights (s : State) (fs : List Flight) : State :=
  { s with core := fs.foldl Core.applyFlight s.core,
           m := (fs.flatMap (·.puts)).foldl (Module.applyPut s.core.gang) s.m }

/-- A result of the word at issue. -/
structure Result where
  puts : List Put
  lt : BitVec 4 := 0
  cap : Bytes := []
  flags : Flags := 0
  lat : Nat
  counted : Bool := true
  /-- It comes from outside the core (03 R64). -/
  ext : Bool := false

/-- `land` (00 R6): with interlocks the result is there at once, since no word issues before it is; in sliced execution it lands at
the end of unfrozen cycle t + lat − 1 (03 R62). In both, one from outside the core lands once it has arrived, and the core is frozen
from cycle t + 8 on until it has (03 R64); what a word does at the end of its cycle waits for that. -/
def State.land (s : State) (r : Result) : State :=
  let k := s.core
  let f : Flight :=
    { ctx := k.cur, puts := r.puts, lt := r.lt, cap := r.cap, flags := r.flags, landAt := k.cyc + r.lat - 1,
      dueBy := min (k.cyc + r.lat - 1) (k.cyc + 7), arrived := !r.ext, req := none, sec := (k.ctx k.cur).secNo, listed := false, ext := r.ext, late := none,
      counted := r.counted }
  if k.interlocked && r.counted && !r.ext then s.modCore (fun k => k.applyFlight f)
  else s.modCore (fun k => { k with flights := k.flights ++ [f] })

/-- The writes of a scalar result. -/
def dstPuts (c : Ctx) (d : Dst) (v : Word) : List Put := if d.wbs then [] else [.reg c d.reg v]

/-- A scalar result (23 R371: a latch takes it in bytes 7:0). -/
def State.landReg (s : State) (d : Dst) (v : Word) (lat : Nat) (flags : Flags := 0) (ext : Bool := false) : State :=
  s.land { puts := dstPuts s.core.cur d v, lt := d.lt, cap := leBytes 8 v.toNat, flags := flags, lat := lat, ext := ext }

/-- The same without a latch field. -/
def State.landPlain (s : State) (d : BitVec 5) (wbs : Bool) (v : Word) (lat : Nat) : State :=
  s.landReg ⟨d, wbs, 0⟩ v lat

/-- Effects that SWRITE, VST, VSCAT, WIND, TAGSET and SFREE have at the end of the issue cycle. (DEDUCED, log 68.) -/
def State.landLater (s : State) (ps : List Put) : State := s.land { puts := ps, lat := 1, counted := false }

/-- A write that is a result of its own: one of a scalar register or of a view element. -/
def Put.result : Put → Bool
  | .reg _ _ _ | .view _ _ _ => true
  | _ => false

/-- Results that a list of writes stands for: one for each register, and one at least (03 R63). -/
def resultsOf (ps : List Put) : Nat := max 1 (ps.filter Put.result).length

def Flight.results (f : Flight) : Nat := resultsOf f.puts

/-- Results in flight of a context (03 R63). -/
def Core.inFlight (k : Core) (c : Ctx) : Nat :=
  ((k.flights.filter (fun f => f.ctx == c && f.counted)).map Flight.results).sum

/-- The context has drained: none of its results is in flight (03 R65). -/
def Core.drained (k : Core) (c : Ctx) : Bool := k.flights.all (fun f => f.ctx != c || !f.counted)

/-- No template that the context has asked for is still to come, and none that has come is blocked: every append of the words it has
issued is made (20 R302; 21 R328; 22 R349). -/
def Core.appended (k : Core) (c : Ctx) : Bool := k.lates.all (fun l => l.ctx != c)

/-- Count an event of `perf.sel` (17 R259, R261): each multiple of `perf.per` that is passed makes a sample due. -/
def Perf.count (p : Perf) (ev n : Nat) (c : Ctx) : Perf :=
  if fld p.sel.toNat 0 16 = ev ∧ n ≠ 0 then
    let passed := if p.per = 0 then 0 else (p.val.toNat + n) / p.per.toNat - p.val.toNat / p.per.toNat
    { p with val := p.val + w64 n, sample := p.sample ++ List.replicate passed { ctx := c, at' := none } }
  else p

/-- Count an event that a word of a context, or an entry it appended, has caused. -/
def Core.countFor (k : Core) (c : Ctx) (ev n : Nat) : Core := { k with perf := k.perf.count ev n c }

/-- Count an event of the word at issue. -/
def Core.count (k : Core) (ev n : Nat) : Core := k.countFor k.cur ev n

/-- `round.seed` as words see it (04 R95, R96). -/
def Core.seedNow (k : Core) : Word :=
  match k.task with
  | some t => t.seed
  | none => k.seed

/-- The resolved rounding mode (06 R124): code 7 reads `ctx.round`. -/
def Context.mode (k : Context) (r : Rnd) : Rnd :=
  match r with
  | .dyn => (Rnd.ofCode k.round).getD .rne
  | m => m

end Sys2Proof.Machine
end

