-- ==== Sys2Proof/Machine/Race.lean ====
section
/-! DEFINITION. Synchronising accesses and the race exception (10 R174 to R198). -/

namespace Sys2Proof.Machine

/-- What a synchronising access does at which scope (10 R180). An ATOM of ORDER 0 has neither part. -/
structure Sync where
  acq : Option Scope
  rel : Option Scope
  deriving DecidableEq, Repr

/-- Who makes an access: the task with the region and step it belongs to; none for an agent that is never checked
(10 R197) and for the exempt accesses of replay (10 R198). -/
structure Who where
  task : Task
  region : Nat
  step : Word
  /-- An engine entry's access. -/
  eng : Bool
  deriving DecidableEq, Repr

/-- Does the scope of an agent contain another (10 R174)? Task and node numbers, and dies. An agent that is no task (a hub core,
the scheduling hardware) lies in device and system scope only. -/
def inScope (p : Scope) (a b : Option (BitVec 32 × Nat)) (die1 die2 : Nat) : Bool :=
  match p, a, b with
  | .core, some x, some y => x.1 == y.1
  | .gang, some x, some y => x.2 == y.2
  | .die, some _, some _ => die1 == die2
  | .device, _, _ | .system, _, _ => true
  | _, _, _ => false

/-- A release and an acquire by an agent synchronise when each agent lies in the other's scope (10 R175). -/
def synchronises (sn : Snap) (a : Option (BitVec 32 × Nat)) (die : Nat) (acq : List Scope) : Bool :=
  sn.scopes.any (fun p => inScope p sn.agent a sn.die die) && acq.any (fun q => inScope q a sn.agent die sn.die)

/-- A task as an agent: its number and its node. -/
def Task.agent (t : Task) : BitVec 32 × Nat := (t.num, t.node)

/-- An order-cache entry covers the engine entry whose append opened a region (10 R182). -/
def Known.covers (e : Known) (w : Nat) : Bool := decide (w ≤ e.engs) && !e.owes.contains w

/-- Two entries for one task merge: the larger region, and every engine entry that one of them covers (10 R195). -/
def Known.join (a b : Known) : Known :=
  { task := a.task, region := max a.region b.region, engs := max a.engs b.engs,
    owes := ((a.owes ++ b.owes).filter (fun r => !a.covers r && !b.covers r)).eraseDups }

/-- Put an entry into the order cache of an agent as the most recently used; the 33rd evicts the least recently used (10 R194).
A task keeps no entry for itself. What counts as a use is left open: here only a merge does, in the order of the merged list
(DESIGN CHOICE, log 80). -/
def cachePut (self : Option (BitVec 32 × Nat)) (k : Sight) (e : Known) : Sight :=
  if self.map (·.1) = some e.task then k
  else
    let new := match k.cache.find? (fun p => p.task == e.task) with
      | some p => p.join e
      | none => e
    let c := new :: k.cache.filter (fun p => p.task != e.task)
    if Config.orderCacheMax < c.length then { k with cache := c.take Config.orderCacheMax, evicted := true }
    else { k with cache := c }

/-- An acquire merges a snapshot into the agent's own cache (10 R195). -/
def mergeSnap (self : Option (BitVec 32 × Nat)) (k : Sight) (es : List Known) (ev : Bool) : Sight :=
  let k1 := es.foldl (cachePut self) k
  { k1 with evicted := k1.evicted || ev }

/-- Regions of the entries appended whose completion the task has not acquired (10 R182). -/
def Core.owes (k : Core) : List Nat := [k.tci, k.tmx, k.tco, k.tsx].flatMap (fun c => c.owed.map (·.2))

/-- The snapshot that a release in a region leaves: the releaser's cache and its own (task, region) (10 R195). R195 and R196
alone would cover an entry that the task has appended and not acquired, which R182 and its case 'A queue between engines' deny:
the model follows R182 (DEDUCED, log 79). -/
def Core.snapAt (k : Core) (t : Task) (region : Nat) : List Known :=
  { task := t.num, region := region, engs := region, owes := k.owes } :: t.sight.cache

/-- The word at issue as an agent: its task, or none on a hub core. -/
def State.agent (s : State) : Option (BitVec 32 × Nat) := s.core.task.map Task.agent

/-- What the agent of the word at issue knows. -/
def State.sight (s : State) : Sight := (s.core.task.map (·.sight)).getD s.core.sight

/-- The entries that a release by the word at issue leaves: of a hub core, its cache only. -/
def State.snapEntries (s : State) : List Known := (s.core.task.map (fun t => s.core.snapAt t t.region)).getD s.core.sight.cache

/-- Change what that agent knows. -/
def State.modSight (s : State) (f : Sight → Sight) : State :=
  match s.core.task with
  | some _ => s.modTask (fun t => { t with sight := f t.sight })
  | none => s.modCore (fun k => { k with sight := f k.sight })

/-- Entries of tasks that have not ended: an ended task is never checked against (10 R196). -/
def Module.liveEntries (m : Module) (es : List Known) : List Known :=
  es.filter (fun e => !m.endedTasks.contains e.task)

/-- What one sight hands on to another (10 R178: happens-before is transitive). -/
def Module.hand (m : Module) (k : Sight) (es : List Known) (ev : Bool) : Sight :=
  mergeSnap none k (m.liveEntries es) ev

/-- The region counter advances after a synchronising operation; at 2^48 − 1 it stops, and the task's history is lost (10 R194).
In replay it does not advance a second time (10 R198). (DEDUCED, log 60.) -/
def Task.advance (t : Task) : Task :=
  if t.region + 1 < 2 ^ 48 - 1 then { t with region := t.region + 1 } else { t with region := 2 ^ 48 - 1, lost := true }

/-- Times a logical word has issued in a context in a step (02 R38, DEDUCED, log 8). -/
def Context.occ (k : Context) (ord : Nat) (lpc : Word) : Nat := (k.hist.filter (fun p => p.1 == ord && p.2 == lpc)).length

/-- Replay runs a word again that had executed before the rebuild: a word that had not is executed for the first time, and
does all that a word does (10 R198; 02 R39). Replay runs in merged mode, where the logical PC is the pc. -/
def Core.again (k : Core) : Bool :=
  let x := k.ctx k.cur
  k.inReplay && decide (x.occ x.ord x.pc < (k.ran.filter (fun p => p.1 == x.ord && p.2 == x.pc)).length)

/-- The slice of the word at issue, as fences and reads are paired by it: in merged running, where the slices are one, none. -/
def Core.side (k : Core) : Option Ctx := if k.merged then none else some k.cur

/-- A fence, or a read, of one slice and a word at issue belong together; what merged running executed belongs to every slice. -/
def sameSide (a b : Option Ctx) : Bool := a.isNone || b.isNone || a == b

/-- A release fence of a slice that has not yet paired with a synchronising write. -/
def Fenced.open' (side : Option Ctx) (f : Fenced) : Bool := f.live && f.used.isNone && sameSide f.ctx side

/-- A synchronising write pairs with every release fence of its slice since the one before it (21 R313). A task keeps the fences
that a write of an open step has taken: a rebuild gives them back. -/
def Sight.takeFences (k : Sight) (side : Option Ctx) (ord : Nat) (keep : Bool) : Sight :=
  if keep then { k with fences := mapIf (Fenced.open' side) (fun f => { f with used := some ord }) k.fences }
  else { k with fences := k.fences.filter (fun f => !f.open' side) }

/-- A release fence is executed; those that closed steps have used are forgotten. -/
def Sight.putFence (k : Sight) (f : Fenced) (ckpt : Nat) : Sight :=
  { k with fences := f :: k.fences.filter (fun g => g.used.all (fun u => decide (ckpt ≤ u))) }

/-- A synchronising read takes the place of the last one of its slice; of a task, the reads of open steps stay for a rebuild. -/
def Sight.putRead (k : Sight) (r : ReadSeen) (keep : ReadSeen → Bool) : Sight :=
  { k with readSnaps := r :: k.readSnaps.filter (fun x => x.ctx != r.ctx || keep x) }

/-- The rebuild discards what the steps from the checkpoint's on have done: the pairings of fences, and their own fences and reads,
which the replay makes live again one after another (10 R181, R198). -/
def Sight.setBack (k : Sight) (ckpt : Nat) : Sight :=
  { k with
    fences := k.fences.map (fun f =>
      { f with used := f.used.filter (fun u => decide (u < ckpt)), live := f.live && decide (f.ord < ckpt) }),
    readSnaps := k.readSnaps.map (fun r => if r.ord < ckpt then r else { r with live := false }) }

/-- A replay has ended: fences and reads that it has not come to again are to come anew. -/
def Sight.settled (k : Sight) : Sight :=
  { k with fences := k.fences.filter (·.live), readSnaps := k.readSnaps.filter (·.live) }

/-- Replay comes to a release fence again: the oldest one of its step and logical PC that is not live yet. -/
def Sight.refence (k : Sight) (ord : Nat) (lpc : Word) : Sight :=
  match k.fences.reverse.find? (fun f => !f.live && f.ord == ord && f.lpc == lpc) with
  | some f => { k with fences := { f with live := true, ctx := none } :: k.fences.erase f }
  | none => k

/-- Replay comes to a read again: the oldest one of its step and logical PC that is not live yet. -/
def Sight.revive (k : Sight) (ord : Nat) (lpc : Word) : Sight :=
  match k.readSnaps.reverse.find? (fun r => !r.live && r.ord == ord && r.lpc == lpc) with
  | some r => { k with readSnaps := { r with live := true, ctx := none } :: k.readSnaps.erase r }
  | none => k

/-- The granule tag of a granule (10 R194). -/
def raceTag (m : Module) (g : Nat) : RaceTag :=
  ((m.races.find? (fun p => p.1 == g)).map (·.2)).getD { writer := none, readers := [], ovf := false }

/-- Die whose race tag store holds a granule (07 R136, 10 R194). -/
def granuleDie (g : Nat) : Nat := g * 32 / 2 ^ 43

/-- Evict one tag of a die's store that has more than fit: the one of the lowest other granule (DESIGN CHOICE, log 78). -/
def evictTag (g : Nat) (l : List (Nat × RaceTag)) : List (Nat × RaceTag) :=
  if (l.filter (fun p => granuleDie p.1 == granuleDie g)).length ≤ Config.raceStore then l
  else
    match l.find? (fun p => granuleDie p.1 == granuleDie g && p.1 != g) with
    | some x => l.filter (fun p => p.1 != x.1)
    | none => l

/-- Which tag or snapshot a full store evicts is left open (DESIGN CHOICE, log 78). -/
def setRaceTag (m : Module) (g : Nat) (t : RaceTag) : Module := { m with races := evictTag g (upsert (·.1) (g, t) m.races) }

/-- Leave a snapshot beside its granule. A die's store that has more than fit loses the oldest, whose acquirer then sets its
evicted bit (10 R195). -/
def Module.putSnap (m : Module) (sn : Snap) : Module :=
  let mine (x : Snap) : Bool := granuleDie (x.addr / 32) == granuleDie (sn.addr / 32) && !x.entries.isEmpty
  let l := sn :: m.snaps
  if (l.filter mine).length ≤ Config.raceStore then { m with snaps := l }
  else
    match l.reverse.find? mine with
    | some x => { m with snaps := mapIf (· == x) (fun y => { y with entries := [], evicted := true }) l }
    | none => { m with snaps := l }

/-- Is the pair (other task, region) unordered before the current access (10 R196)? The history of a task whose counter has
stopped is lost (10 R194, R197). `eng`: the pair is an engine entry's. -/
def unordered (m : Module) (t : Task) (other : BitVec 32) (w : Nat) (eng : Bool) : Bool :=
  other != t.num && !m.endedTasks.contains other && !m.lostTasks.contains other && decide (w < 2 ^ 48 - 1) &&
    match t.sight.cache.find? (fun p => p.task == other) with
    | some e => if eng then !e.covers w else decide (e.region < w)
    | none => !t.sight.evicted

/-- Does an access to bytes race with a record of another task, whose bytes `eng` are an engine entry's? -/
def racesWith (m : Module) (t : Task) (bytes : BitVec 32) (other : BitVec 32) (w : Nat) (mask eng : BitVec 32) : Bool :=
  (bytes &&& mask &&& ~~~eng != 0 && unordered m t other w false) || (bytes &&& mask &&& eng != 0 && unordered m t other w true)

/-- Check an access against a granule tag: the other task, its region, and whether it was the writer (10 R196). (DEDUCED, log 17.) -/
def raceCheck (m : Module) (t : Task) (g : Nat) (mask : BitVec 32) (wr : Bool) (sy : Option (Nat × Nat)) :
    Option (BitVec 32 × Nat × Bool) :=
  let tag := raceTag m g
  let exempt (o : Option (Nat × Nat)) : Bool := o.isSome && o == sy
  let byWriter : Option (BitVec 32 × Nat × Bool) :=
    match tag.writer with
    | some w => if !exempt w.sy && racesWith m t mask w.task w.region w.mask w.eng then some (w.task, w.region, true) else none
    | none => none
  match byWriter with
  | some r => some r
  | none =>
    if wr && !tag.ovf then
      (tag.readers.find? (fun r => !exempt r.sy && racesWith m t mask r.task r.region r.mask r.eng)).map
        (fun r => (r.task, r.region, false))
    else none

/-- An access that raises no exception updates the tag (10 R196). -/
def raceRecord (m : Module) (who : Who) (g : Nat) (mask : BitVec 32) (wr : Bool) (sy : Option (Nat × Nat)) : Module :=
  let tag := raceTag m g
  let eng := if who.eng then mask else 0
  if wr then
    let fresh : Writer := { task := who.task.num, region := who.region, mask := mask, sy := sy, eng := eng }
    let writer := match tag.writer with
      | some w =>
        if w.task = who.task.num ∧ w.region = who.region then
          { w with mask := w.mask ||| mask, sy := if w.sy = sy then w.sy else none, eng := w.eng ||| eng }
        else fresh
      | none => fresh
    let readers := (tag.readers.map (fun r => { r with mask := r.mask &&& ~~~mask })).filter (fun r => r.mask != 0)
    setRaceTag m g { writer := some writer, readers := readers, ovf := if mask = BitVec.allOnes 32 then false else tag.ovf }
  else
    let mine (r : Reader) : Bool := r.task == who.task.num && r.region == who.region
    if tag.readers.any mine then
      let upd (r : Reader) : Reader := { r with mask := r.mask ||| mask, sy := if r.sy = sy then sy else none, eng := r.eng ||| eng }
      setRaceTag m g { tag with readers := mapIf mine upd tag.readers }
    else if tag.readers.length < 2 then
      let r : Reader := { task := who.task.num, region := who.region, step := who.step, mask := mask, sy := sy, eng := eng }
      setRaceTag m g { tag with readers := tag.readers ++ [r] }
    else setRaceTag m g { tag with ovf := true }

/-- A write by an agent that is never checked sets the granule's writer to none (10 R197). -/
def raceForget (m : Module) (g : Nat) : Module :=
  match m.races.find? (fun p => p.1 == g) with
  | some (_, t) => setRaceTag m g { t with writer := none }
  | none => m

/-- Granules and byte masks of a physical range that does not leave its 4 KiB frame. -/
def granules (pa n : Nat) : List (Nat × BitVec 32) :=
  (List.range ((pa + n + 31) / 32 - pa / 32)).map (fun i =>
    let g := pa / 32 + i
    let lo := max pa (32 * g) - 32 * g
    let hi := min (pa + n) (32 * g + 32) - 32 * g
    (g, BitVec.ofNat 32 ((2 ^ (hi - lo) - 1) * 2 ^ lo)))

/-- Snapshots beside the granules of a range. -/
def snapsAt (m : Module) (pa n : Nat) : List Snap :=
  m.snaps.filter (fun sn => decide (sn.addr < pa + n) && decide (pa < sn.addr + sn.size))

/-- What is left of a snapshot once other bytes have been written: beside the bytes that its release still owns. -/
def Snap.cut (pa n : Nat) (sn : Snap) : List Snap :=
  let stop := sn.addr + sn.size
  if stop ≤ pa ∨ pa + n ≤ sn.addr then [sn]
  else (if sn.addr < pa then [{ sn with size := pa - sn.addr }] else [])
    ++ (if pa + n < stop then [{ sn with addr := pa + n, size := stop - (pa + n) }] else [])

/-- A write replaces the releases whose bytes it overwrites: a read of those bytes no longer reads them. -/
def dropSnaps (m : Module) (pa n : Nat) : Module := { m with snaps := m.snaps.flatMap (Snap.cut pa n) }

end Sys2Proof.Machine
end

