-- ==== Sys2Proof/Machine/Mem.lean ====
section
/-! DEFINITION. Memory: physical HBM, translation (07 R134 to R137), global accesses with the checks of R133, scratch
allocations and stash windows (07 R130 to R150). -/

namespace Sys2Proof.Machine

/-- Why a word does not complete: a fault, a service it must wait for (02 R43), a full journal of
record mode (17 R267), the copy of a COW page (15 R252), a watchpoint that the access at a pointer meets (17 R263), or a journal entry of another word (17 R267). -/
inductive Stop where
  | flt (f : Flt)
  | wait
  | full
  | cow (va : Nat)
  | watch (p : Word) (points : List (Word × Word))
  | diverge
  deriving DecidableEq, Repr

/-! ### Fault records of the access checks (15 R240, R242) -/

def aux0 : Bytes := List.replicate 16 0

/-- Address fault with its REASON. (DEDUCED, log 15.) -/
def fltAddr (addr : Word) (reason : Nat) (lane : Nat := 0) : Flt :=
  { code := 0x11, addr := addr, lane := lane, aux := pad [BitVec.ofNat 8 reason] 16 }

/-- Scratch-bounds fault of an allocation. -/
def fltBounds (addr : Word) (size : Nat) (lane : Nat := 0) : Flt :=
  { code := 0x12, addr := addr, lane := lane,
    aux := pad (leBytes 1 (fld addr.toNat 24 8) ++ leBytes 3 (fld addr.toNat 0 24) ++ leBytes 4 size) 16 }

/-- Scratch-bounds fault of a missing ring (20 R291). -/
def fltRing (n : Nat) : Flt :=
  { code := 0x12, addr := 0, lane := 0, aux := pad (leBytes 8 n ++ [1]) 16 }

def fltTag (addr : Word) (found : BitVec 4) (lane : Nat := 0) : Flt :=
  { code := 0x13, addr := addr, lane := lane, aux := pad (leBytes 1 (fld addr.toNat 60 4) ++ leBytes 1 found.toNat) 16 }

def fltRace (addr : Word) (task : BitVec 32) (region : Nat) (writer : Bool) (lane : Nat := 0) : Flt :=
  { code := 0x14, addr := addr, lane := lane,
    aux := pad (leBytes 4 task.toNat ++ leBytes 6 region ++ leBytes 1 (if writer then 1 else 0)) 16 }

def fltStale (addr : Word) (id : BitVec 8) (ring : Option Nat) (expiry : Nat) (lane : Nat := 0) : Flt :=
  { code := 0x15, addr := addr, lane := lane,
    aux := leBytes 1 id.toNat ++ leBytes 1 (ring.getD 0) ++ leBytes 1 (if ring.isSome then 1 else 0) ++ leBytes 5 0
      ++ leBytes 8 expiry }

/-- Poison consumed: the frame's physical address with SPACE 0, or the byte offset of a poisoned row of the core's scratch
(SPACE 1) or register space (SPACE 2). -/
def fltPoison (addr : Word) (pa : Nat) (lane : Nat := 0) (space : Nat := 0) : Flt :=
  { code := 0x18, addr := addr, lane := lane, aux := pad (leBytes 8 pa ++ leBytes 1 space) 16 }

/-- Illegal-instruction fault; the word goes into AUX when the fault is taken. -/
def fltIllegal : Flt := { code := 0x10, addr := 0, lane := 0, aux := aux0 }

/-! ### Physical memory -/

/-- A byte of HBM as the step under way sees it. -/
def State.phys (s : State) (pa : Nat) : Byte := (Cells.find s.wlog pa).getD (s.mem.get pa)

def State.physRun (s : State) (pa : Nat) : Nat → Bytes
  | 0 => []
  | n + 1 => s.phys pa :: State.physRun s (pa + 1) n

/-- Write a byte of HBM: it joins the writes of this step. -/
def State.physWrite (s : State) (pa : Nat) (b : Byte) : State := { s with wlog := (pa, b) :: s.wlog }

def State.physWriteRun (s : State) : Nat → Bytes → State
  | _, [] => s
  | pa, b :: r => State.physWriteRun (s.physWrite pa b) (pa + 1) r

/-- A physical address below the populated 48 GiB of its stack, for n bytes (07 R136). -/
def populated (pa n : Nat) : Bool := decide (pa % 2 ^ 43 + n ≤ Config.stackBytes) && decide (pa < 2 ^ 48)

/-- 4 KiB frames are numbered by physical address over 4096. -/
def frameOf (pa : Nat) : Nat := pa / 4096

/-- Die of a frame (07 R136). -/
def dieOf (frame : Nat) : Nat := frame * 4096 / 2 ^ 43

/-- The poison map: of a frame, and of every frame of a failed die (07 R137, 15 R253). -/
def Module.poisoned (m : Module) (frame : Nat) : Bool := m.poison.contains frame || m.failed.contains (dieOf frame)

/-- The frame of the resident system's mapping of the boot status word, which is read-only (18 R272). -/
def Module.showsBoot (m : Module) (frame : Nat) : Bool := m.bootPage.any (fun p => p / 4096 == frame)

/-- A write to a 128-byte line sets the event of every monitor on it (21 R329). -/
def Context.sawWrite (k : Context) (line : Nat) : Context :=
  match k.monitor with
  | some m => if m.line = line then { k with monitor := some { m with event := true } } else k
  | none => k

/-- Lines of 128 bytes that n bytes from an offset or address touch. -/
def linesOf (off n : Nat) : List Nat := (List.range ((off + n + 127) / 128 - off / 128)).map (· + off / 128)

/-- The home takes its copies of lines back from a window: for a write every copy becomes Invalid, for a read a Dirty one,
which is written back first (07 R138, R148). -/
def Alloc.takeBack (wr : Bool) (ls : List Nat) (a : Alloc) : Alloc :=
  { a with lines := a.lines.filter (fun l => !(ls.contains l.pa && (wr || l.st == .dirty))) }

/-- The same for every window of a core but one of its own allocations. -/
def Core.takeBack (wr : Bool) (ls : List Nat) (keep : Option (BitVec 8)) (k : Core) : Core :=
  { k with allocs := k.allocs.map (fun a => if keep = some a.id ∧ a.parked.isNone then a else a.takeBack wr ls) }

/-- An access to n bytes reaches the home: it takes the copies back that other windows hold (07 R138). `keep` is the
allocation of the focused core whose window the access goes through. -/
def State.snoop (s : State) (wr : Bool) (keep : Option (BitVec 8)) (pa n : Nat) : State :=
  let ls := linesOf pa n
  { s with core := s.core.takeBack wr ls keep, others := s.others.map (fun p => (p.1, p.2.takeBack wr ls none)) }

/-- A write of n bytes sets the event of every monitor on their lines, and takes back their copies. -/
def State.sawWrite (s : State) (pa n : Nat) (keep : Option (BitVec 8) := none) : State :=
  let ls := linesOf pa n
  let hit (k : Core) : Core := k.modAll (fun c => ls.foldl Context.sawWrite c)
  State.snoop { s with core := hit s.core, others := s.others.map (fun p => (p.1, hit p.2)) } true keep pa n

/-! ### Translation (07 R134 to R137) -/

/-- Shift and width of the index of each level, and the size of the table it points to (07 R134). -/
def levels : List (Nat × Nat × Nat) := [(39, 17, 4096), (30, 9, 4096), (21, 9, 256), (16, 5, 0)]

/-- A leaf gives the frame of one 4 KiB granule of its page (07 R136). (DEDUCED, log 16.) -/
def leafFrame (e va shift : Nat) : Nat :=
  let addr := fld e 8 40 * 256
  let off := va % 2 ^ shift
  if e / 32 % 2 = 1 then
    let j := off / 4096
    let d := (addr / 2 ^ 43 + j) % 32
    frameOf (d * 2 ^ 43 + addr % 2 ^ 43 + 4096 * (j / 32))
  else frameOf (addr + off)

/-- Bytes of each stack that a page uses from its address on (07 R136). -/
def leafSpan (e shift : Nat) : Nat := if e / 32 % 2 = 1 then (2 ^ shift / 4096 + 31) / 32 * 4096 else 2 ^ shift

def bitOf (e n : Nat) : Bool := e / 2 ^ n % 2 == 1

/-- Walk the table: a cached translation of the 4 KiB granule of va, or the REASON of the address fault. The index fields are bits 55:12 of
the address, so that bytes past VA 2^56 − 1 are those from 0 on (DESIGN CHOICE, log 100). -/
def walkGo (s : State) (root : Word) (va : Nat) : Nat → Nat → List (Nat × Nat × Nat) → Except Nat TlbEntry
  | _, _, [] => .error 3
  | lvl, base, (shift, width, next) :: rest =>
    let e := leNat (s.physRun (base + 8 * fld va shift width) 8)
    if !bitOf e 0 then .error 3
    else if fld e 48 16 ≠ 0 then .error 4
    else
      let addr := fld e 8 40 * 256
      if bitOf e 1 then
        let frame := leafFrame e va shift
        if lvl = 0 ∨ addr % (if bitOf e 5 then 4096 else 2 ^ shift) ≠ 0 ∨ !populated addr (leafSpan e shift) then .error 4
        else .ok
          { root := root, vpage := va / 4096, frame := frame, start := leafFrame e 0 shift, w := bitOf e 2 && !s.m.showsBoot frame, tg := bitOf e 3, rc := bitOf e 4,
            cow := bitOf e 7, poison := s.m.poisoned frame, leaf := shift, noFrame := false }
      else if rest.isEmpty ∨ fld e 2 6 ≠ 0 ∨ addr % next ≠ 0 ∨ !populated addr next then .error 4
      else walkGo s root va (lvl + 1) addr rest

def walk (s : State) (root : Word) (va : Nat) : Except Nat TlbEntry := walkGo s root va 0 root.toNat levels

/-- A translation from the core's cache, or by a walk that fills the cache (07 R137); a miss is counted. -/
def translate (s : State) (root : Word) (va : Nat) : Except Nat (TlbEntry × State) :=
  match s.core.tlb.find? (fun e => e.root == root && e.vpage == va / 4096) with
  | some e => .ok (e, s)
  | none =>
    match walk s root va with
    | .ok e => .ok (e, s.modCore (fun k => { (k.count 6 1) with tlb := e :: k.tlb }))
    | .error r => .error r

/-! ### Global accesses (07 R133) -/

/-- A stretch of an access within one 4 KiB granule. -/
structure Piece where
  pa : Nat
  n : Nat
  entry : TlbEntry
  deriving DecidableEq, Repr

/-- Which checks an access makes (07 R133; CFLUSH, TAGSET, TAGGET and MONITOR make fewer). -/
structure Chk where
  wr : Bool
  align : Bool := false
  poison : Bool := true
  tag : Bool := true
  race : Bool := true
  /-- A write that reads too: ATOM and CAS (15 R251). -/
  rd : Bool := false

/-- Virtual stretches of [va, va + n) within 4 KiB granules. -/
def stretches (va n : Nat) : List (Nat × Nat) :=
  (List.range ((va + n + 4095) / 4096 - va / 4096)).map (fun i =>
    let p := va / 4096 + i
    let lo := max va (4096 * p)
    (lo, min (va + n) (4096 * p + 4096) - lo))

/-- A virtual address lies in the images of the focused core's task, which are read-only to it (04 R86). (DEDUCED, log 75.) -/
def inCode (s : State) (va : Nat) : Bool :=
  match s.core.task with
  | none => false
  | some t =>
    let inside (b : Word) (n : Nat) : Bool := decide (fld b.toNat 0 56 ≤ va ∧ va < fld b.toNat 0 56 + n)
    inside t.img.pimg (12 * t.img.pwords) || [t.img.l, t.img.c, t.img.s].any (fun x => inside x.img x.len)

/-- An error met in state t, which translations have led to from s: a fault takes along what they have cached. -/
def Stop.after (s t : State) : Stop → Stop
  | .flt f => .flt { f with walked := f.walked ++ t.core.tlb.take (t.core.tlb.length - s.core.tlb.length) }
  | x => x

/-- Translate stretches one after another. -/
def translateAll (s : State) (root ptr : Word) (wr : Bool) (lane : Nat) :
    List (Nat × Nat) → Except Stop (List Piece × State)
  | [] => .ok ([], s)
  | (va, n) :: r =>
    match translate s root va with
    | .error reason => .error (.flt (fltAddr ptr reason lane))
    | .ok (e, s1) =>
      if wr && !e.w then .error (Stop.after s s1 (.flt (fltAddr ptr (if inCode s va then 7 else 5) lane)))
      else if wr && e.cow then .error (Stop.after s s1 (if e.noFrame then .flt (fltAddr ptr 10 lane) else .cow va))
      else
        match translateAll s1 root ptr wr lane r with
        | .error x => .error (x.after s s1)
        | .ok (ps, s2) => .ok ({ pa := 4096 * e.frame + va % 4096, n := n, entry := e } :: ps, s2)

/-- The granule tag of a physical granule (07 R139). -/
def gtag (m : Module) (g : Nat) : BitVec 4 := ((m.gtags.find? (fun p => p.1 == g)).map (·.2)).getD 0

/-- Steps 4 to 6 of R133 for one part. -/
def checkPieces (s : State) (ptr : Word) (c : Chk) (who : Option Who) (sy : Option (Nat × Nat)) (lane : Nat)
    (ps : List Piece) : Except Stop Unit :=
  let poisoned := if c.poison then ps.find? (fun p => p.entry.poison) else none
  match poisoned with
  | some p => .error (.flt (fltPoison ptr (4096 * p.entry.frame) lane))
  | none =>
    let tagBad := if c.tag then
        (ps.filter (fun p => p.entry.tg)).findSome? (fun p =>
          ((granules p.pa p.n).find? (fun g => gtag s.m g.1 != BitVec.ofNat 4 (fld ptr.toNat 60 4))).map
            (fun g => gtag s.m g.1))
      else none
    match tagBad with
    | some t => .error (.flt (fltTag ptr t lane))
    | none =>
      match (if c.race then who else none) with
      | none => .ok ()
      | some w =>
        let bad := (ps.filter (fun p => p.entry.rc)).findSome? (fun p =>
          (granules p.pa p.n).findSome? (fun g => raceCheck s.m w.task g.1 g.2 c.wr sy))
        match bad with
        | some (t, r, wr) => .error (.flt (fltRace ptr t r wr lane))
        | none => .ok ()

/-- Split stretches at 64 KiB boundaries: an access that crosses one is checked as two, the lower first (07 R132). -/
def parts (l : List (Nat × Nat)) : List (List (Nat × Nat)) :=
  match l with
  | [] => []
  | x :: r =>
    match parts r with
    | (y :: ys) :: rest => if x.1 / 65536 = y.1 / 65536 then (x :: y :: ys) :: rest else [x] :: (y :: ys) :: rest
    | other => [x] :: other

/-- Every check of every part is made before any part is performed (07 R132). -/
def checkParts (s : State) (root ptr : Word) (c : Chk) (who : Option Who) (sy : Option Nat) (lane : Nat) :
    List (List (Nat × Nat)) → Except Stop (List Piece × State)
  | [] => .ok ([], s)
  | p :: r =>
    match translateAll s root ptr c.wr lane p with
    | .error x => .error x
    | .ok (ps, s1) =>
      let key := match sy, ps with
        | some n, q :: _ => some (q.pa, n)
        | _, _ => none
      match checkPieces s1 ptr c who key lane ps with
      | .error x => .error (x.after s s1)
      | .ok _ =>
        match checkParts s1 root ptr c who sy lane r with
        | .error x => .error (x.after s s1)
        | .ok (qs, s2) => .ok (ps ++ qs, s2)

/-- Global checks 3 to 6 on a virtual range (07 R133); `ptr` is the pointer that a fault names. -/
def checkVirtual (s : State) (root ptr : Word) (va n : Nat) (c : Chk) (who : Option Who) (sy : Option Nat) (lane : Nat) :
    Except Stop (List Piece × State) :=
  checkParts s root ptr c who sy lane (parts (stretches va n))

/-- All global checks of R133. -/
def checkGlobal (s : State) (root ptr : Word) (n : Nat) (c : Chk) (who : Option Who) (sy : Option Nat) (lane : Nat) :
    Except Stop (List Piece × State) :=
  if fld ptr.toNat 56 4 ≠ 0 then .error (.flt (fltAddr ptr 1 lane))
  else if c.align && ptr.toNat % n != 0 then .error (.flt (fltAddr ptr 2 lane))
  else checkVirtual s root ptr (fld ptr.toNat 0 56) n c who sy lane

def readPieces (s : State) (ps : List Piece) : Bytes := ps.flatMap (fun p => s.physRun p.pa p.n)

/-- Perform a write: bytes, monitors and copies, snapshots of overwritten releases, race records (10 R196). A write that
a task makes again, by no agent, leaves the snapshots as its first execution left them (10 R198). -/
def writePieces (s : State) (who : Option Who) (unchecked : Bool) (keep : Option (BitVec 8)) (sy : Option (Nat × Nat)) :
    List Piece → Bytes → State
  | [], _ => s
  | p :: r, bs =>
    let s1 := (s.physWriteRun p.pa (bs.take p.n)).sawWrite p.pa p.n keep
    let s2 := if who.isSome || unchecked then s1.modM (fun m => dropSnaps m p.pa p.n) else s1
    let s3 := match who with
      | some w => if p.entry.rc then
          s2.modM (fun m => (granules p.pa p.n).foldl (fun m g => raceRecord m w g.1 g.2 true sy) m) else s2
      | none => if unchecked then s2.modM (fun m => (granules p.pa p.n).foldl (fun m g => raceForget m g.1) m) else s2
    writePieces s3 who unchecked keep sy r (bs.drop p.n)

/-- Record a read (10 R196). -/
def recordRead (s : State) (who : Option Who) (sy : Option (Nat × Nat)) (ps : List Piece) : State :=
  match who with
  | none => s
  | some w => (ps.filter (fun p => p.entry.rc)).foldl (fun s p =>
      s.modM (fun m => (granules p.pa p.n).foldl (fun m g => raceRecord m w g.1 g.2 false sy) m)) s

/-! ### Who accesses -/

/-- Translation root of the focused core: its task's, or the hub core's own (DESIGN CHOICE, log 13). -/
def State.root (s : State) : Word :=
  match s.core.task with
  | some t => t.root
  | none => Config.hubRoot s.core.num

/-! ### Where a word stands -/

/-- Read n bytes at a virtual address under a root, without tag, poison or race checks; none if a byte has no
translation. -/
def devRead (s : State) (root : Word) (va n : Nat) : Option Bytes :=
  match checkVirtual s root 0 va n { wr := false, poison := false, tag := false, race := false } none none 0 with
  | .ok (ps, _) => some (readPieces s ps)
  | .error _ => none

/-- The kinds of image a word stands in (04 R78): code at an address (a hub core, or firmware in an in-place trap), the
plain image in merged mode, a slice. -/
inductive Place where
  | flat | plain | slice
  deriving DecidableEq, Repr

def State.place (s : State) : Place :=
  if s.core.hub || s.here.trap.isSome then .flat else if s.core.merged then .plain else .slice

def noSlice : Slice := { img := 0, len := 0, idx := 0 }

def Image.slice (i : Image) : Ctx → Slice
  | .L => i.l
  | .C => i.c
  | .S => i.s

/-- The slice of a context's own image. -/
def State.sliceOf (s : State) (c : Ctx) : Slice :=
  match s.core.task with
  | some t => t.img.slice c
  | none => noSlice

/-- Fields of a section header (04 R90). -/
def hdrLen (h : Nat) : Nat := fld h 48 12
def hdrOk (h : Nat) : Bool := fld h 60 4 == 9 && fld h 48 12 != 0 && fld h 2 6 == 0

/-- Words of a slice before byte offset `off`, counted over the headers from offset `pos` on. -/
def wordIndexGo (s : State) (sl : Slice) (off : Nat) : Nat → Nat → Nat → Option Nat
  | 0, _, _ => none
  | n + 1, pos, acc =>
    match devRead s s.root (sl.img.toNat + pos) 8 with
    | none => none
    | some b =>
      let len := hdrLen (leNat b)
      if off < pos + 8 + 12 * len then some (acc + (off - pos - 8) / 12)
      else if len = 0 then none
      else wordIndexGo s sl off n (pos + 8 + 12 * len) (acc + len)

def wordIndex (s : State) (sl : Slice) (off : Nat) : Option Nat := wordIndexGo s sl off (sl.len / 20 + 1) 0 0

/-- Logical PC of the slice word at an offset, through the slice map (04 R92). -/
def mapLpc (s : State) (sl : Slice) (off : Nat) : Option Word :=
  match wordIndex s sl off with
  | none => none
  | some i => (devRead s s.root (sl.idx.toNat + 4 * i) 4).map (fun b => w64 (12 * fld (leNat b) 0 28))

/-- Logical PC of the word at issue: the pc itself outside slices. (DEDUCED, log 72.) -/
def State.lpc (s : State) : Word :=
  match s.place with
  | .slice => (mapLpc s (s.sliceOf s.core.cur) s.here.pc.toNat).getD 0
  | _ => s.here.pc

/-! ### The agent of an access -/

/-- The word at issue ran before a mid-step stop halted its task, and the resume runs it again (10 R198; 15 R246; DEDUCED, log 111). -/
def State.redone (s : State) : Bool :=
  let x := s.here
  !s.core.redo.isEmpty && decide (x.occ x.ord s.lpc < (s.core.redo.filter (fun p => p.1 == x.ord && p.2 == s.lpc)).length)

/-- The word at issue has run before: replay, or a resume, runs it again. -/
def State.rerun (s : State) : Bool := s.core.again || s.redone

/-- A synchronising operation of the word at issue has been performed. A counter that stops loses the task's history. (DEDUCED, log 60.) -/
def State.syncDone (s : State) : State :=
  if s.rerun then s
  else
    match s.core.task with
    | none => s
    | some t =>
      let t1 := t.advance
      { s.modTask (fun _ => t1) with m := if t1.lost then { s.m with lostTasks := t.num :: s.m.lostTasks } else s.m }

/-- The word at issue as an agent: the task in its region; none on a hub core, and where the word is run again (10 R197, R198). -/
def State.who (s : State) : Option Who :=
  if s.rerun then none
  else s.core.task.map (fun t => { task := t, region := t.region, step := s.here.step, eng := false })

def State.unchecked (s : State) : Bool := s.core.task.isNone

/-- An engine entry as an agent: the region its append opened (10 R194). -/
def State.engineWho (s : State) (e : Entry) : Option Who :=
  if e.exempt then none else s.core.task.map (fun t => { task := t, region := e.region, step := e.step, eng := true })

/-! ### Scratch (07 R131 to R150) -/

/-- A scratch allocation a word can name: allocated by the task, and not freed in an open step (22 R347). -/
def Core.alloc (k : Core) (id : BitVec 8) : Option Alloc :=
  k.allocs.find? (fun a => a.id == id && a.freed.isNone && a.parked.isNone)

def ptrId (p : Word) : BitVec 8 := p.extractLsb' 24 8
def ptrOff (p : Word) : Nat := fld p.toNat 0 24
def ptrTag (p : Word) : BitVec 4 := p.extractLsb' 60 4

/-- The ring over an allocation. -/
def Core.ringOf (k : Core) (id : BitVec 8) : Option Ring := k.rings.find? (fun r => r.alloc == id && r.ended.isNone)

/-- The expiry that governs a byte of a private allocation, with its ring number if it lies in a Filled slot (08 R160). -/
def expiryAt (k : Core) (a : Alloc) (off : Nat) : Nat × Option Nat :=
  match k.ringOf a.id with
  | none => (a.expiry, none)
  | some r =>
    let slot := off / (256 * r.slotsz)
    match r.exps.find? (fun e => decide (slot < r.nslot) && e.1 % r.nslot == slot && decide (r.rels ≤ e.1)) with
    | some e => (e.2, some r.num)
    | none => (a.expiry, none)

/-- Where a scratch access ends: a private allocation, or the global bytes of a window. -/
inductive Target where
  | glob (ps : List Piece)
  | priv (id : BitVec 8) (off n : Nat)
  | stash (id : BitVec 8) (off n : Nat) (ps : List Piece)
  deriving DecidableEq, Repr

/-- Scratch checks 1, 2 and 4 of R133: pointer bits, allocated, tag (16 R255, 22 R344). -/
def checkScratch124 (k : Core) (p : Word) : Except Stop Alloc :=
  if fld p.toNat 32 28 ≠ 0 then .error (.flt (fltAddr p 1))
  else
    match k.alloc (ptrId p) with
    | none => .error (.flt (fltBounds p 0))
    | some a => if a.tag ≠ ptrTag p then .error (.flt (fltTag p a.tag)) else .ok a

/-- Bytes of an allocation's window, or its size when private. -/
def Alloc.reach (a : Alloc) : Option Nat := if a.backed then a.window.map (·.2) else some a.size

/-- Scratch checks 1 and 2 of R133 on a range (22 R363, R364; 20 R299). -/
def checkScratch12 (k : Core) (p : Word) (n lane : Nat) (align : Bool) : Except Stop Alloc :=
  if fld p.toNat 32 28 ≠ 0 then .error (.flt (fltAddr p 1 lane))
  else if align && p.toNat % n != 0 then .error (.flt (fltAddr p 2 lane))
  else
    match k.alloc (ptrId p) with
    | none => .error (.flt (fltBounds p 0 lane))
    | some a =>
      match a.reach with
      | none => .error (.flt (fltBounds p a.size lane))
      | some z => if z < ptrOff p + n then .error (.flt (fltBounds p a.size lane)) else .ok a

/-- Cut [o, o + n) at the multiples of c: (offset, bytes). -/
def cutAt (c o n : Nat) : List (Nat × Nat) :=
  (List.range ((o + n + c - 1) / c - o / c)).map (fun i =>
    let lo := max o (c * (o / c + i))
    (lo, min (o + n) (c * (o / c + i) + c) - lo))

/-- The first byte row of a read whose expiry has passed (R133 scratch step 5). -/
def staleRow (k : Core) (a : Alloc) (off n now : Nat) : Option (Nat × Option Nat) :=
  ((List.range ((off + n + 255) / 256 - off / 256)).map (fun i => expiryAt k a (256 * (off / 256 + i)))).find?
    (fun e => decide (e.1 ≤ now))

/-- The first of the 64-bit words that n bytes of a core's memory from o on touch that holds a double-bit error (15 R251): the byte
offset of its 256-byte row (15 R242). -/
def badRow (words : List Nat) (o n : Nat) : Option Nat :=
  (((List.range ((o + n + 7) / 8 - o / 8)).map (· + o / 8)).find? words.contains).map (fun w => 8 * w / 256 * 256)

/-- A line of a window that its row holds: one that has not lapsed (07 R148). -/
def Alloc.holdsLine (a : Alloc) (now num : Nat) : Bool := a.lines.any (fun l => l.num == num && !(l.st == .clean && decide (l.expiry ≤ now)))

/-- A read of n bytes of an allocation meets a double-bit error: in a private one, but for its zero-pending rows, whose zeros it reads
(07 R141), or in the lines that a window holds. -/
def badBytes (k : Core) (a : Alloc) (off n : Nat) : Option Nat :=
  if !a.backed then
    (cutAt 256 off n).findSome? (fun x => if a.zeroPending (x.1 / 256) then none else badRow k.badScratch (a.place x.1) x.2)
  else
    ((List.range ((off + n + 127) / 128 - off / 128)).map (· + off / 128)).findSome? (fun x =>
      let lo := max off (128 * x)
      if a.holdsLine k.nowAt x then badRow k.badScratch (a.place lo) (min (off + n) (128 * x + 128) - lo) else none)

/-- Scratch steps 2 to 6 of R133 for one part of an access, in allocation a: what of global memory it reaches. `slice` is the
context whose word, or whose entry, accesses. The REASON of step 3 is not listed in R242: it is a free value (DESIGN CHOICE,
log 4). A double-bit error of the row is met last (DESIGN CHOICE, log 81). -/
def checkRow (s : State) (slice : Ctx) (p : Word) (a : Alloc) (off n : Nat) (c : Chk) (who : Option Who) (sy : Option Nat)
    (lane : Nat) : Except Stop (List Piece × State) :=
  match a.reach with
  | none => .error (.flt (fltBounds p a.size lane))
  | some z =>
    if z < off + n then .error (.flt (fltBounds p a.size lane))
    else if a.backed && c.wr && !s.core.merged && slice != .S then
      .error (.flt (fltAddr p Config.sliceWriteReason.toNat lane))
    else if c.tag && a.tag != ptrTag p then .error (.flt (fltTag p a.tag lane))
    else
      let met : Except Stop (List Piece × State) :=
        if a.backed then checkVirtual s s.root p (((a.window.map (·.1)).getD 0) + off) n c who sy lane
        else
          match (if c.wr then none else staleRow s.core a off n s.core.nowAt) with
          | some (e, r) => .error (.flt (fltStale p a.id r e lane))
          | none => .ok ([], s)
      match met with
      | .error x => .error x
      | .ok (ps, s1) =>
        match (if c.wr && !c.rd then none else badBytes s.core a off n) with
        | some o => .error (Stop.after s s1 (.flt (fltPoison p o lane 1)))
        | none => .ok (ps, s1)

/-- The parts of an access one after another; every check of each is made before any is performed (07 R132). -/
def checkRows (s : State) (slice : Ctx) (p : Word) (a : Alloc) (c : Chk) (who : Option Who) (sy : Option Nat) (lane : Nat) :
    List (Nat × Nat) → Except Stop (List Piece × State)
  | [] => .ok ([], s)
  | (off, n) :: r =>
    match checkRow s slice p a off n c who sy lane with
    | .error x => .error x
    | .ok (ps, s1) =>
      match checkRows s1 slice p a c who sy lane r with
      | .error x => .error (x.after s s1)
      | .ok (qs, s2) => .ok (ps ++ qs, s2)

/-- All scratch checks of R133: an access that crosses a 256-byte row is checked as two, the lower first (07 R132). -/
def checkScratch (s : State) (slice : Ctx) (p : Word) (n : Nat) (c : Chk) (who : Option Who) (sy : Option Nat)
    (lane : Nat) : Except Stop (Target × State) :=
  if fld p.toNat 32 28 ≠ 0 then .error (.flt (fltAddr p 1 lane))
  else if c.align && p.toNat % n != 0 then .error (.flt (fltAddr p 2 lane))
  else
    match s.core.alloc (ptrId p) with
    | none => .error (.flt (fltBounds p 0 lane))
    | some a =>
      match checkRows s slice p a c who sy lane (cutAt 256 (ptrOff p) n) with
      | .error x => .error x
      | .ok (ps, s1) => .ok (if a.backed then .stash a.id (ptrOff p) n ps else .priv a.id (ptrOff p) n, s1)

/-- One byte of a private allocation: written, zero (07 R141), or unspecified. -/
def Alloc.byte (a : Alloc) (o : Nat) : Byte :=
  match a.data.find o with
  | some b => b
  | none => if a.zero then 0 else Config.freeByte a.gen o

def Alloc.run (a : Alloc) (o : Nat) : Nat → Bytes
  | 0 => []
  | n + 1 => a.byte o :: Alloc.run a (o + 1) n

/-! ### Stash lines (07 R147, R148, R150) -/

/-- Row of a window line: window offset modulo the allocation's size, in 256-byte rows (07 R147). -/
def rowOf (a : Alloc) (line : Nat) : Nat := 128 * line % a.size / 256

/-- Pinned by LOCK of any context, or run ahead for a ring (07 R150): a line, valid or not. -/
def pinnedIn (k : Core) (a : Alloc) (num : Nat) : Bool :=
  a.ahead.any (fun x => x.1 == num) || [k.l, k.c, k.s].any (fun c => c.pins.contains (a.id, num))

/-- Lines of an allocation that LOCK of any context or run-ahead has pinned. -/
def pinnedLines (k : Core) (a : Alloc) : List Nat :=
  ([k.l, k.c, k.s].flatMap (fun c => (c.pins.filter (fun p => p.1 == a.id)).map (·.2))) ++ a.ahead.map (·.1)

/-- The lines of window bytes from an offset on, each with the physical line it copies (07 R138). -/
def lineCopies : Nat → List Piece → List (Nat × Nat)
  | _, [] => []
  | off, p :: r => (linesOf off p.n).map (fun x => (x, p.pa / 128 + (x - off / 128))) ++ lineCopies (off + p.n) r

/-- Touch a line: filled as a sharer, or with ownership for a write. A line that must fill a row held by another line
evicts it; one whose row is pinned for another line bypasses the stash (07 R148, R150). A line that a COW copy has moved is the
copy of its new frame from here on (07 R138). R148's table gives a row's expiry for a fill by a read or a copy-in: a fill by a
write sets the same one (DESIGN CHOICE, log 101). -/
def touchLine (k : Core) (now : Nat) (wr : Bool) (a0 : Alloc) (x : Nat × Nat) : Alloc :=
  let a : Alloc := { a0 with lines := a0.lines.filter (fun l => !l.lapsed now) }
  let num := x.1
  match a.lines.find? (fun l => l.num == num) with
  | some _ =>
    let step (l0 : Line) : Line :=
      let l : Line := { l0 with pa := x.2 }
      if wr then { l with st := match l.st with
        | .clean => .dirty
        | .dirty => .dirty
        | .writing => .rewritten
        | .rewritten => .rewritten } else l
    { a with lines := mapIf (fun l => l.num == num) step a.lines }
  | none =>
    let row := rowOf a num
    let sameRow (l : Line) : Bool := rowOf a l.num == row && l.num / 2 != num / 2
    if (pinnedLines k a).any (fun p => rowOf a p == row && p / 2 != num / 2) then a
    else
      let l : Line := { num := num, st := if wr then .dirty else .clean, expiry := now + Config.retention, inv := false,
                        pa := x.2 }
      let renew (x : Line) : Line := if x.num / 2 = num / 2 then { x with expiry := now + Config.retention } else x
      { a with lines := upsert Line.num l ((a.lines.filter (fun l => !sameRow l)).map renew) }

def touchLines (k : Core) (now : Nat) (wr : Bool) (a : Alloc) (off : Nat) (ps : List Piece) : Alloc :=
  (lineCopies off ps).foldl (touchLine k now wr) a

/-- Lines that an access fills are written whole: their words hold no error any more. -/
def Core.healFills (k : Core) (id : BitVec 8) (off : Nat) (ps : List Piece) : Core :=
  match k.alloc id with
  | some a => ((lineCopies off ps).filter (fun x => !a.holdsLine k.nowAt x.1)).foldl (fun k x => k.healScratch id (128 * x.1) 128) k
  | none => k

/-! ### Reads and writes through a checked target -/

def Target.size : Target → Nat
  | .glob ps => (ps.map (·.n)).foldl (· + ·) 0
  | .priv _ _ n => n
  | .stash _ _ n _ => n

def Target.pieces : Target → List Piece
  | .glob ps => ps
  | .priv _ _ _ => []
  | .stash _ _ _ ps => ps

def readTarget (s : State) : Target → Bytes
  | .glob ps => readPieces s ps
  | .priv id off n =>
    match s.core.alloc id with
    | some a => a.run off n
    | none => List.replicate n 0
  | .stash _ _ _ ps => readPieces s ps

/-- Reads reach the homes of their bytes, which recall Dirty copies (07 R138). -/
def State.snoopReads (s : State) (keep : Option (BitVec 8)) (ps : List Piece) : State :=
  ps.foldl (fun s p => s.snoop false keep p.pa p.n) s

/-- A read performed: recorded for races, and lines of a window filled. -/
def performRead (s : State) (who : Option Who) (sy : Option (Nat × Nat)) : Target → State
  | .glob ps => (recordRead s who sy ps).snoopReads none ps
  | .priv _ _ _ => s
  | .stash id off _ ps =>
    ((recordRead s who sy ps).snoopReads (some id) ps).modCore (fun k =>
      modAlloc (k.healFills id off ps) id (fun a => touchLines k s.core.nowAt false a off ps))

/-- A write performed. A private write is a partial write and sets no expiry (07 R143). -/
def performWrite (s : State) (who : Option Who) (unchecked : Bool) (sy : Option (Nat × Nat)) (bs : Bytes) : Target → State
  | .glob ps => writePieces s who unchecked none sy ps bs
  | .priv id off n =>
    s.modCore (fun k => modAlloc (k.healScratch id off n) id (fun a => { (clearRows a off n) with data := a.data.putRun off bs }))
  | .stash id off _ ps =>
    (writePieces s who unchecked (some id) sy ps bs).modCore (fun k =>
      modAlloc ((k.healFills id off ps).healScratch id off bs.length) id (fun a => touchLines k s.core.nowAt true a off ps))

/-- Does an access to n bytes need data from outside the core (03 R64): global memory, or a line that its window does not
hold? -/
def outsideCore (s : State) (sp : Space) (p : Word) (n : Nat) : Bool :=
  match sp with
  | .global => true
  | .scratch =>
    match s.core.alloc (ptrId p) with
    | some a => a.backed && (linesOf (ptrOff p) n).any (fun x => a.lines.all (fun l => l.num != x || l.lapsed s.core.nowAt))
    | none => false

/-- The range of a global or scratch space. -/
def checkSpace (s : State) (slice : Ctx) (sp : Space) (p : Word) (n : Nat) (c : Chk) (who : Option Who)
    (sy : Option Nat) (lane : Nat) : Except Stop (Target × State) :=
  match sp with
  | .global =>
    match checkGlobal s s.root p n c who sy lane with
    | .error x => .error x
    | .ok (ps, s1) => .ok (.glob ps, s1)
  | .scratch => checkScratch s slice p n c who sy lane

/-! ### Acquire and release at an access (10 R180, R181, R195) -/

/-- The key of a synchronising access: physical address and size. -/
def syncKey (t : Target) (n : Nat) : Option (Nat × Nat) := t.pieces.head?.map (fun p => (p.pa, n))

/-- Snapshots that a synchronising read of a target reads. -/
def snapsOf (s : State) (t : Target) : List Snap := t.pieces.flatMap (fun p => snapsAt s.m p.pa p.n)

/-- The acquire part: merge the snapshots of the releases it synchronises with; keep what this read met for an acquire
fence after it, which pairs with the last synchronising read (10 R181, 21 R313). -/
def acquireAt (s : State) (acq : Option Scope) (t : Target) : State :=
  if s.core.again then s
  else
    let sns := snapsOf s t
    let x := s.here
    let seen : ReadSeen := { ctx := s.core.side, ord := x.ord, sec := x.secNo, lpc := s.lpc, snaps := sns, live := true }
    let keep (r : ReadSeen) : Bool := s.core.task.isSome && decide (s.core.ckpt.ord ≤ r.ord)
    let now := match acq with
      | some q => sns.filter (fun sn => synchronises sn s.agent s.core.die [q])
      | none => []
    s.modSight (fun k => (now.foldl (fun k sn => mergeSnap s.agent k sn.entries sn.evicted) k).putRead seen keep)

/-- The snapshot of a release by the word at issue, at these scopes (10 R195). -/
def State.snapHere (s : State) (pa n : Nat) (scopes : List Scope) : Snap :=
  { addr := pa, size := n, agent := s.agent, die := s.core.die, scopes := scopes, entries := s.snapEntries, evicted := s.sight.evicted }

/-- The word at issue makes a synchronising write: the fences that pair with it are taken. -/
def State.takeFences (s : State) : State :=
  s.modSight (fun k => k.takeFences s.core.side s.here.ord s.core.task.isSome)

/-- The scopes of the release fences that pair with a synchronising write by the word at issue (10 R181). -/
def State.openScopes (s : State) : List Scope := (s.sight.fences.filter (Fenced.open' s.core.side)).map (·.scope)

/-- The release part: a snapshot beside the granule, at the scope of the access and of every release fence since the
last synchronising write: a fence pairs with the next one (10 R181, R195; 21 R313). A write to a private allocation, and one that
replay makes again, leave no snapshot, and pair all the same. (DEDUCED, log 10.) -/
def releaseAt (s : State) (rel : Option Scope) (t : Target) (n : Nat) : State :=
  let scopes := rel.toList ++ s.openScopes
  match t.pieces.head? with
  | some p =>
    if s.core.again || scopes.isEmpty then s.takeFences
    else (s.modM (fun m => m.putSnap (s.snapHere p.pa n scopes))).takeFences
  | none => s.takeFences

/-! ### Watchpoints (17 R262, R263) -/

/-- Does a watchpoint pair (ADDR, CTL) meet an access to n bytes at p in this space and direction? -/
def wpHit (addr ctl : Word) (anySpace : Bool) (sp : Space) (p : Word) (n : Nat) (wr : Bool) : Bool :=
  ctl.getLsbD 0 && (if wr then ctl.getLsbD 2 else ctl.getLsbD 1) &&
    (match sp with
      | .global => (anySpace || !ctl.getLsbD 3) && decide (fld addr.toNat 0 56 < fld p.toNat 0 56 + n) &&
          decide (fld p.toNat 0 56 < fld addr.toNat 0 56 + fld ctl.toNat 8 24 + 1)
      | .scratch => !anySpace && ctl.getLsbD 3 && ptrId addr == ptrId p && decide (ptrOff addr < ptrOff p + n) &&
          decide (ptrOff p < ptrOff addr + fld ctl.toNat 8 24 + 1))

/-- The watchpoint pairs that an access meets: of the context, of the gang, of the device (DEDUCED, log 22). -/
def wpPairs {n : Nat} (v : Vector Word n) : List (Word × Word) :=
  let l := v.toList
  (List.range (n / 2)).map (fun i => (l.getD (2 * i) 0, l.getD (2 * i + 1) 0))

/-- Words stop at watchpoints, but not those that replay runs again (DEDUCED, log 30): where `tdb` resumes at a word it stopped at, that
word passes by `Context.pass`. -/
def Core.stopping (k : Core) : Bool :=
  k.debugger != .none && match k.phase with
    | .run | .handler _ | .retry _ => true
    | .replay _ => !k.again
    | _ => false

/-- The watchpoints of a context, of its gang and of the device that an access meets, all of them (17 R263). (DEDUCED, log 19.) -/
def metPoints (s : State) (c : Ctx) (sp : Space) (p : Word) (n : Nat) (wr : Bool) : List (Word × Word) :=
  (wpPairs (s.core.ctx c).wp).filter (fun w => wpHit w.1 w.2 false sp p n wr)
    ++ (wpPairs (s.m.gangWp s.core.gang)).filter (fun w => wpHit w.1 w.2 true sp p n wr)
    ++ (wpPairs s.m.wpDevice).filter (fun w => wpHit w.1 w.2 true sp p n wr)

/-- Those that a word meets where it stops. -/
def watchPoints (s : State) (c : Ctx) (sp : Space) (p : Word) (n : Nat) (wr : Bool) : List (Word × Word) :=
  if s.core.stopping then metPoints s c sp p n wr else []

/-- A stop is due: `tdb` is attached and some watchpoint meets the access. -/
def watchedBy (s : State) (c : Ctx) (sp : Space) (p : Word) (n : Nat) (wr : Bool) : Bool := !(watchPoints s c sp p n wr).isEmpty

def watched (s : State) (sp : Space) (p : Word) (n : Nat) (wr : Bool) : Bool := !s.here.pass && watchedBy s s.core.cur sp p n wr

/-- The stop before an access that meets watchpoints. -/
def stopAt (s : State) (sp : Space) (p : Word) (n : Nat) (wr : Bool) : Stop := .watch p (watchPoints s s.core.cur sp p n wr)

/-! ### The accesses of words -/

/-- `mem_read` (00 R6): n bytes at a pointer. (DEDUCED, log 9.) -/
def memRead (s : State) (sp : Space) (p : Word) (n : Nat) (align : Bool) (sync : Option Sync) (lane : Nat) :
    Except Stop (Bytes × State) :=
  -- an acquire merges the snapshot it reads before its own access is checked (10 R195)
  let pre := match sync with
    | some sy =>
      match checkSpace s s.core.cur sp p n { wr := false, align := align, race := false } none none lane with
      | .ok (t, s1) => acquireAt s1 sy.acq t
      | .error _ => s
    | none => s
  match checkSpace pre s.core.cur sp p n { wr := false, align := align } pre.who (sync.map (fun _ => n)) lane with
  | .error x => .error (x.after s pre)
  | .ok (t, s1) =>
    if watched s sp p n false then .error (stopAt s sp p n false)
    else .ok (readTarget s1 t, performRead s1 s1.who (if sync.isSome then syncKey t n else none) t)

/-- `mem_write` (00 R6). -/
def memWrite (s : State) (sp : Space) (p : Word) (bs : Bytes) (align : Bool) (sync : Option Sync) (lane : Nat) :
    Except Stop State :=
  let n := bs.length
  match checkSpace s s.core.cur sp p n { wr := true, align := align } s.who (sync.map (fun _ => n)) lane with
  | .error x => .error x
  | .ok (t, s1) =>
    if watched s sp p n true then .error (stopAt s sp p n true)
    else
      let s2 := performWrite s1 s1.who s1.unchecked (if sync.isSome then syncKey t n else none) bs t
      .ok (match sync with
        | some sy => releaseAt s2 sy.rel t n
        | none => s2)

/-- One atomic read and write of n bytes (20 R289, R298): checked once, as a write. `f` gives the bytes written, or none
for a compare that fails, which is recorded as a read. -/
def memAtomic (s : State) (sp : Space) (p : Word) (n : Nat) (sy : Sync) (f : Bytes → Option Bytes) :
    Except Stop (Bytes × State) :=
  let pre := match checkSpace s s.core.cur sp p n { wr := true, align := true, race := false } none none 0 with
    | .ok (t, s1) => acquireAt s1 sy.acq t
    | .error _ => s
  match checkSpace pre s.core.cur sp p n { wr := true, align := true, rd := true } pre.who (some n) 0 with
  | .error x => .error (x.after s pre)
  | .ok (t, s1) =>
    if watched s sp p n true || watched s sp p n false then
      .error (.watch p ((watchPoints s s.core.cur sp p n true ++ watchPoints s s.core.cur sp p n false).eraseDups))
    else
      let old := readTarget s1 t
      match f old with
      | some new => .ok (old, releaseAt (performWrite s1 s1.who s1.unchecked (syncKey t n) new t) sy.rel t n)
      | none => .ok (old, performRead s1 s1.who (syncKey t n) t)

/-- Scratch pointer plus a signed offset (07 R131): TAG and ID stay; an offset outside 24 bits is out of bounds. -/
def scratchAdd (p : Word) (off : Int) : Option Word :=
  let o : Int := (ptrOff p : Int) + off
  if 0 ≤ o ∧ o < 2 ^ 24 then some ((p &&& 0xFFFFFFFFFF000000) ||| w64 o.toNat) else none

/-- An offset outside 24 bits: the fault names the pointer it was added to. Step 1 of R133, pointer bits and misalignment at
the offset o of an access of natural alignment al, comes before the bounds. -/
def fltOutside (k : Core) (p : Word) (lane : Nat := 0) (o : Int := 0) (al : Nat := 1) : Flt :=
  if fld p.toNat 32 28 ≠ 0 then fltAddr p 1 lane
  else if o % al ≠ 0 then fltAddr p 2 lane
  else fltBounds p (((k.alloc (ptrId p)).map (·.size)).getD 0) lane

/-- A global pointer with an offset added. Any access through the value that a failed SALLOC left raises the address fault (07 R140),
whatever offset is added to it (DEDUCED, log 107). -/
def globalAdd (base sum : Word) (lane : Nat) : Except Stop Word :=
  if base = Config.allOnes then .error (.flt (fltAddr base 1 lane)) else .ok sum

/-- The address of an M-class word: x[A] + sext(OFF12, 12) (04 R77, 07 R131); `al` is the alignment it must have. -/
def mAddr (s : State) (sp : Space) (base : Word) (off : BitVec 12) (al : Nat := 1) : Except Stop Word :=
  match sp with
  | .global => globalAdd base (base + off.signExtend 64) 0
  | .scratch =>
    match scratchAdd base off.toInt with
    | some p => .ok p
    | none => .error (.flt (fltOutside s.core base 0 ((ptrOff base : Int) + off.toInt) al))

/-! ### Accesses by the device on behalf of a task -/

/-- Write bytes at a virtual address for the device (step records, fault records, segments): W is not asked, since the
task cannot write some of them (08 R153); an acquire reads no release any more whose bytes it overwrites (10 R180). An address without
translation takes no write (DEDUCED, log 11), nor does the boot status word (18 R272). -/
def devWrite (s : State) (root : Word) (va : Nat) (bs : Bytes) : State :=
  match checkVirtual s root 0 va bs.length { wr := false, poison := false, tag := false, race := false } none none 0 with
  | .ok (ps, _) =>
    if ps.any (fun p => s.m.showsBoot p.entry.frame) then s
    else (writePieces s none false none none ps bs).modM (fun m => ps.foldl (fun m p => dropSnaps m p.pa p.n) m)
  | .error _ => s

end Sys2Proof.Machine
end

