-- ==== Sys2Proof/Machine/Ops.lean ====
section
/-! DEFINITION. The operations every word and event is built from: where a word stands, transfers and section ends,
taking a fault and its handler (02 R38 to R45, 15 R240 to R244), traps of a hub core (21 R307), the end of a task (02 R47,
R48), journals (02 R40, 17 R267), and the two frames `runWord` and `runEvent`. -/

namespace Sys2Proof.Machine

/-! ### The core that moves -/

/-- Put another core into focus; a core never seen stands at its reset. -/
def State.focus (s : State) (n : Nat) : State :=
  if s.core.num = n then s
  else
    let k := ((s.others.find? (fun p => p.1 == n)).map (·.2)).getD { Core.reset n with nowAt := s.m.now }
    { s with core := k, others := upsert (·.1) (s.core.num, s.core) (s.others.filter (fun p => p.1 != n)) }

/-- Do something on another core; the focus comes back. -/
def State.onCore (s : State) (n : Nat) (f : State → State) : State := (f (s.focus n)).focus s.core.num

/-- A core by number. -/
def State.coreAt (s : State) (n : Nat) : Core :=
  if s.core.num = n then s.core else ((s.others.find? (fun p => p.1 == n)).map (·.2)).getD (Core.reset n)

/-! ### Where a word stands -/

/-- The mode the word at issue runs in: firmware in an in-place trap runs in mode M (04 R89). -/
def State.mode (s : State) : Mode := if s.here.trap.isSome then .m else s.core.mode

/-- Root under which the word at issue is fetched. -/
def State.codeRoot (s : State) : Word :=
  match s.place with
  | .flat => Config.hubRoot s.core.num
  | _ => s.root

/-- Address of the word at issue. -/
def State.fetchAddr (s : State) : Nat :=
  match s.place, s.core.task with
  | .flat, _ => s.here.pc.toNat
  | .plain, some t => (t.img.pimg + s.here.pc).toNat
  | .slice, some t => ((t.img.slice s.core.cur).img + s.here.pc).toNat
  | _, none => s.here.pc.toNat

/-- The 12 bytes of the word at issue (04 R70); none without a translation. (DEDUCED, log 24.) -/
def State.fetch (s : State) : Option Bytes := devRead s s.codeRoot s.fetchAddr 12

/-! ### Regions and sections -/

/-- Is plain word j the first of a region (04 R92)? -/
def regionStart (s : State) (pc : Word) : Bool :=
  match s.core.task with
  | some t =>
    if t.img.regbits = 0 then false
    else
      let j := pc.toNat / 12
      match devRead s s.root (t.img.regbits.toNat + j / 8) 1 with
      | some b => bitOf (leNat b) (j % 8)
      | none => false
  | none => false

/-- Execution reaches a plain word in merged mode: all three section counters advance at a region start (04 R92). -/
def State.reach (s : State) : State :=
  if s.place = .plain ∧ regionStart s s.core.c.pc then
    s.modCore (fun k => k.modAll (fun c => { c with secNo := c.secNo + 1 }))
  else s

/-- The last word of a section has issued (02 R29, R31). -/
def Context.endSection (k : Context) : Context :=
  if k.last then { k with secDone := k.secNo, ended := true } else { k with secDone := k.secNo, hdr := true }

/-- A transfer to a word or header of the slice (04 R78); none where the target lies inside the section and is no word. -/
def Context.toSlice (k : Context) (t : Word) : Option Context :=
  if k.secStart < t.toNat ∧ t.toNat < k.secEnd then
    if k.secStart + 8 ≤ t.toNat ∧ (t.toNat - k.secStart - 8) % 12 = 0 then some { k with pc := t } else none
  else some { k with pc := t, secDone := k.secNo, hdr := true }

/-- The context's phase of re-executing a faulting word is over once that word has issued; a word of firmware in an in-place trap is
not it. -/
def Core.settle (k : Core) : Core :=
  { k with phase := match k.phase with
      | .retry p => if (k.ctx k.cur).trap.isSome then .retry p else .run
      | p => p }

/-- A word of the logical program, not of firmware in an in-place trap nor of a handler. -/
def Core.inProgram (k : Core) : Bool := (k.ctx k.cur).trap.isNone && !k.inHandler

/-- The word at an address of the task's images. -/
def State.imageWord (s : State) (addr : Nat) : Option Instr :=
  match (devRead s s.root addr 12).map decode with
  | some (.ok (i, _)) => some i
  | _ => none

/-- A NOP stands at an address of the task's images. -/
def State.nopAt (s : State) (addr : Nat) : Bool :=
  match s.imageWord addr with
  | some (.nop _) => true
  | _ => false

/-- The logical word at a logical PC is a TSTEP. -/
def State.stepWord (s : State) (lpc : Word) : Bool :=
  match s.core.task with
  | some t => match s.imageWord (t.img.pimg + lpc).toNat with
    | some (.tstep _ _ _ _) => true
    | _ => false
  | none => false

/-- The word at issue is a NOP that Xiene has put in: it maps to a logical word that is none (09 R173). -/
def State.filler (s : State) : Bool :=
  decide (s.place = .slice) && s.nopAt s.fetchAddr && (match s.core.task with
    | some t => !s.nopAt (t.img.pimg + s.lpc).toNat
    | none => false)

/-- A word issued: recorded, counted, no longer waited on. A filler is no issue of the logical word it maps to. -/
def State.issued (s : State) (ord : Nat) (lpc : Word) : State :=
  (s.modHere (fun k =>
    { k with hist := if s.core.inProgram && !s.filler then (ord, lpc) :: k.hist else k.hist, lastLpc := if k.trap.isNone then lpc else k.lastLpc,
             wait := none, woken := false, draining := false, full := false, held := none, pass := false })).modCore (fun k => { (k.count 1 1).settle with started := k.task.isSome })

/-- Go on at the next word of the image. -/
def State.advance (s : State) : State :=
  let s1 := s.modHere (fun k =>
    let k1 := { k with pc := k.pc + 12 }
    if s.place = .slice ∧ k1.pc.toNat = k.secEnd then k1.endSection else k1)
  s1.reach

/-! ### Traps of a hub core (21 R307) -/

/-- Push the trap stack, with the pc to return to, and enter a mode; a fifth trap takes the hub core out of service with code
0x31. -/
def State.hubPush (s : State) (pc : Word) (mode : Mode) (vector : Nat) : State :=
  if 4 ≤ s.core.traps.length then
    (s.modCore (fun k => { k with inService := false })).modM (fun m =>
      { m with reports := m.reports ++ [{ code := 0x31, core := s.core.num, chain := none, num := 0 }] })
  else
    (s.modCore (fun k => { k with traps := (pc, k.mode) :: k.traps, mode := mode })).modHere (fun k =>
      { k with pc := Config.hubVector vector, wait := none, held := none })

/-- A trap before the word at issue. -/
def State.hubTrap (s : State) (mode : Mode) (vector : Nat) : State := s.hubPush s.core.c.pc mode vector

/-- Where a fault of hub code goes: from U to the resident system, from S to the firmware (04 R89). The table gives no row for
M: the firmware takes its own faults (DESIGN CHOICE, log 82). -/
def faultMode : Mode → Mode
  | .u => .s
  | .s => .m
  | .m => .m

/-! ### Results of one landing cycle (03 R58, R69) -/

/-- L, C, S in the order in which a later one prevails (03 R58). -/
def sliceRank : Ctx → Nat
  | .L => 0
  | .C => 1
  | .S => 2

/-- Results of L, then of C, then of S. -/
def bySlice (l : List Flight) : List Flight := [Ctx.L, .C, .S].flatMap (fun c => l.filter (fun f => f.ctx == c))

/-- A write yields to another one of the same landing cycle: a register that this one writes too, or register-space bytes (03 R69). -/
def Put.yield (w : Put) : Put → Put
  | .reg c n v => match w with
    | .reg c' n' _ => if c = c' ∧ n = n' then .reg c 0 v else .reg c n v
    | _ => .reg c n v
  | .bytes a bs m => match w with
    | .bytes a' bs' m' =>
      .bytes a bs (m.zipIdx.map (fun x => if a' ≤ a + x.2 ∧ a + x.2 < a' + bs'.length then x.1 &&& ~~~(m'.getD (a + x.2 - a') 0) else x.1))
    | _ => .bytes a bs m
  | p => p

/-- Of two results of one landing cycle the word later in slice order prevails (03 R69), S over C over L (03 R58): one that is still to
arrive yields what a later word's writes, and a latch that it takes. -/
def Flight.yield (later : List Flight) (f : Flight) : Flight :=
  let same := later.filter (fun g => g.landAt == f.landAt && g.counted)
  let writes := same.flatMap (·.puts)
  { f with puts := f.puts.map (fun p => writes.foldl (fun p w => w.yield p) p),
           lt := if same.any (fun g => g.ctx == f.ctx && g.lt == f.lt) then 0 else f.lt }

/-- Flights that prevail over one at a place of the list: those behind it of its own context, and all of a context later in slice order. -/
def laterThan (fs : List Flight) (i : Nat) (f : Flight) : List Flight :=
  (fs.zipIdx.filter (fun x => if x.1.ctx = f.ctx then decide (i < x.2) else decide (sliceRank f.ctx < sliceRank x.1.ctx))).map (·.1)

/-- What stays of the flights when some of them go: those still to arrive have yielded to these. -/
def yielding (fs : List Flight) (goes : Flight → Bool) : List Flight :=
  (fs.zipIdx.filter (fun x => !goes x.1)).map (fun x =>
    if x.1.arrived then x.1 else x.1.yield ((laterThan fs x.2 x.1).filter goes))

/-! ### In-place traps (03 R66, R67) -/

/-- The classes of the precise faults (15 R240). -/
def preciseCode (code : BitVec 8) : Bool := decide (0x10 ≤ code.toNat) && decide (code.toNat ≤ 0x19)

/-- Take an in-place trap on a context: its results in flight go to the landing list with what remains of their latency
(kept as the cycle they would land in, counted from the trap), one that is still to arrive once it has, having yielded to the later ones of
its landing cycle (03 R69); firmware runs on it with interlocks (03 R66). -/
def Core.trapInPlace (k : Core) (c : Ctx) (vector : Nat) : Core :=
  let mine (f : Flight) : Bool := f.ctx == c && f.counted
  let rest (f : Flight) : Nat := f.landAt + 1 - k.cyc
  let list := (k.flights.filter (fun f => mine f && f.arrived)).map (fun f => { f with landAt := rest f, listed := true })
  let x := k.ctx c
  let wait (f : Flight) : Flight := { f with listed := true, late := some (rest f) }
  let behind (i : Nat) (f : Flight) : List Flight := (laterThan k.flights i f).filter (fun g => g.ctx == c)
  let stay := (k.flights.zipIdx.filter (fun y => !(mine y.1 && y.1.arrived))).map (fun y => if mine y.1 then wait (y.1.yield (behind y.2 y.1)) else y.1)
  ({ k with flights := stay } : Core).setCtx c
    { x with trap := some { pc := x.pc, mode := k.mode, list := list, watch := vector == 0x201, after := vector == 0x200 },
             pc := Config.hubVector vector, wait := none, held := none }

/-- Return from it (03 R67): scoreboard mode until every listed result has landed, its latency counted from the resume
two cycles on (03 R52). Where the trap came after its word, a return with skip resumes at the next word too: there is no word left to
skip (20 R294; DEDUCED, log 109). -/
def Core.returnTrap (k : Core) (c : Ctx) (skip : Bool) : Core :=
  let x := k.ctx c
  match x.trap with
  | none => k
  | some t =>
    let back := t.list.map (fun f => { f with landAt := k.cyc + 2 + f.landAt - 1 })
    let mine (f : Flight) : Bool := f.ctx == c && f.late.isSome
    let due (f : Flight) : Flight := { f with late := none, landAt := k.cyc + 2 + f.late.getD 1 - 1 }
    let k1 := { k with flights := back ++ mapIf mine due k.flights }
    let skips := skip && !t.after
    let y : Context := { x with trap := none, sbm := !t.list.isEmpty || k.flights.any mine, issueAt := k.cyc + 2,
                                pass := !skip && (x.pass || t.watch),
                                pc := if skips then t.pc + 12 else t.pc }
    k1.setCtx c (if skips && !k.merged && y.pc.toNat = y.secEnd then y.endSection else y)

/-- The return, and what a word skipped in merged mode reaches (04 R92). -/
def State.returnTrap (s : State) (c : Ctx) (skip : Bool) : State :=
  let t := s.modCore (fun k => k.returnTrap c skip)
  if skip && !(s.core.ctx c).trap.any (·.after) then t.reach else t

/-- A flight whose result is still to come from outside the core (03 R64). It waits in merged mode too. -/
def State.await (s : State) (d : Dst) (puts : List Put) (lat : Nat) (req : Option Nat) : State :=
  let k := s.core
  let f : Flight :=
    { ctx := k.cur, puts := if d.wbs then [] else puts, lt := d.lt, cap := [], flags := 0, landAt := k.cyc + lat - 1,
      dueBy := min (k.cyc + lat - 1) (k.cyc + 7), arrived := false, req := req, sec := (k.ctx k.cur).secNo, listed := false, ext := false, late := none, counted := true }
  s.modCore (fun k => { k with flights := k.flights ++ [f] })

/-- A result joins the landing list of the in-place trap it was in flight at (03 R66). -/
def Context.capture (x : Context) (fs : List Flight) : Context :=
  { x with trap := x.trap.map (fun t => { t with list := t.list ++ fs.map (fun f => { f with landAt := f.late.getD 1, late := none }) }) }

/-- Its data arrive. In merged mode, or when the cycle it was to land in has passed, the result lands at once, and earlier ones of that
cycle that are still to arrive yield to it (03 R69); one of a context that has trapped in place since joins that trap's landing list
(03 R66); else it lands in its cycle. -/
def Core.arrive (k : Core) (p : Flight → Bool) (f : Flight → Flight) : Core :=
  let mine (x : Flight) : Bool := p x && !x.arrived
  let listed (x : Flight) : Bool := mine x && x.late.isSome
  let now (x : Flight) : Bool := mine x && x.late.isNone && (k.interlocked || decide (x.landAt < k.cyc))
  let in' (q : Flight → Bool) : List Flight := (k.flights.filter q).map (fun x => { f x with arrived := true })
  let rest := (yielding k.flights now).filter (fun x => !listed x)
  let k1 := (bySlice (in' now)).foldl Core.applyFlight { k with flights := mapIf mine (fun x => { f x with arrived := true }) rest }
  let take (c : Ctx) (k : Core) : Core := k.modCtx c (fun x => x.capture ((in' listed).filter (fun g => g.ctx == c)))
  take .S (take .C (take .L k1))

/-! ### Nodes and chains of the task -/

def modNode (m : Module) (id : Nat) (f : Node → Node) : Module := { m with nodes := mapIf (fun n => n.id == id) f m.nodes }

def Module.node (m : Module) (id : Nat) : Option Node := m.nodes.find? (fun n => n.id == id)

def Core.chain (k : Core) : ChainId → Chain
  | .tci => k.tci
  | .tmx => k.tmx
  | .tco => k.tco
  | .tsx => k.tsx

def Core.setChain (k : Core) (c : ChainId) (x : Chain) : Core :=
  match c with
  | .tci => { k with tci := x }
  | .tmx => { k with tmx := x }
  | .tco => { k with tco := x }
  | .tsx => { k with tsx := x }

def Core.modChain (k : Core) (c : ChainId) (f : Chain → Chain) : Core := k.setChain c (f (k.chain c))

def chainIds : List ChainId := [.tci, .tmx, .tco, .tsx]

def chainCode : ChainId → Nat
  | .tci => 0
  | .tmx => 1
  | .tco => 2
  | .tsx => 3

/-- Insert a tile index, rising. -/
def putTile (l : List Nat) (t : Nat) : List Nat := if l.contains t then l else insertBy id t l

/-- The counter advances over every completed NUMBER that follows it (08 R154). -/
def counterGo (fin : List Nat) : Nat → Nat → Nat
  | 0, n => n
  | f + 1, n => if fin.contains (n + 1) then counterGo fin f (n + 1) else n

/-- An entry completes: its chain's counter advances once every earlier entry has completed (08 R154). -/
def Chain.finish (c : Chain) (num : Nat) : Chain :=
  let fin := num :: c.finished
  let n := counterGo fin fin.length c.counter
  { c with entries := c.entries.filter (fun e => e.num != num), counter := n, finished := fin.filter (fun x => decide (n < x)) }

/-! ### The end of a task (02 R47, R48; 20 R280; 21 R308) -/

/-- Write the entries of the steps before `ord` to the journal: LPC, STEPIDX and two result dwords each; the journal
directory counts the bytes (17 R267, R268). -/
def State.flushRecords (s : State) (ord : Nat) : State :=
  match s.core.task with
  | none => s
  | some t =>
    let out := t.recBuf.filter (fun e => decide (e.ord < ord))
    let bytes := out.flatMap (fun e =>
      leBytes 8 e.lpc.toNat ++ leBytes 8 e.step.toNat ++ leBytes 8 (e.d0.getD 0).toNat ++ leBytes 8 e.d1.toNat)
    let n := t.jpos + out.length
    let written := devWrite (devWrite s t.root (t.journal.toNat + 32 * t.jpos) bytes) t.root (t.jdir.toNat + 8) (leBytes 8 (32 * n))
    (if out.isEmpty then s else written).modTask (fun t =>
      { t with jpos := t.jpos + out.length, recBuf := t.recBuf.filter (fun e => decide (ord ≤ e.ord)) })

/-- A status dword (15 R254). -/
def statusOf (code : Nat) (detail : Nat) : Word := w64 (code % 256 + 2 ^ 32 * (detail % 2 ^ 32))

/-- A context between two tasks: nothing waits, nothing is armed. -/
def Context.idle (k : Context) : Context :=
  { k with wait := none, woken := false, draining := false, full := false, hdr := false, strings := [], secNo := 0, secDone := 0, retired := 0, last := false, ended := false,
           monitor := none, trap := none, pins := [], hz := 0, sbm := false, step := Config.allOnes, ord := 0, hist := [], lastLpc := 0,
           held := none, pass := false, issueAt := 0 }

/-- Nothing of the task stays on the core but what another task has parked there. -/
def Core.clearTask (k : Core) : Core :=
  ({ k with task := none, ranBefore := true, merged := false, mode := .u, flights := [], lates := [], cutWait := false, redo := [], cutDump := [], fatal := [], allocs := k.allocs.filter (fun a => a.parked.isSome),
            rings := [],
            tci := Chain.reset, tmx := Chain.reset, tco := Chain.reset, tsx := Chain.reset, window := [],
            ckpt := Ckpt.launch, journal := [], replayed := [], secAppends := [], ran := [], nonIdem := false,
            returning := false, phase := .run, rollbacks := 0, svc := none, saveTick := none, started := false, tlb := k.tlb.filter (fun e => !e.noFrame) }).modAll Context.idle

/-- End the task of the focused core: tiles return to the walker, everything it held is freed, its node learns its
status. (DEDUCED, log 71.) -/
def State.endTask (s : State) (status : Word) : State :=
  match s.core.task with
  | none => s.modCore (fun k => { k with phase := .run })
  | some t =>
    let tiles := s.core.window.filterMap (·.tile)
    let endOne (x : Member) : Member := { x with ended := some status }
    let upd (n : Node) : Node :=
      { n with members := mapIf (fun x => x.task == t.num) endOne n.members,
               returned := tiles.foldl putTile n.returned,
               status := if n.status = 0 then status else n.status,
               sight := s.m.hand n.sight t.sight.cache t.sight.evicted }
    ((s.flushRecords (s.core.c.ord + 1 + s.core.l.ord + s.core.s.ord)).modM (fun m => { (modNode m t.node upd) with
        endedTasks := t.num :: m.endedTasks,
        reqs := m.reqs.filter (fun r => r.core != s.core.num) })).modCore (fun k =>
          { k.clearTask with lastTask := some (t, status), stop := none })

/-- Withdraw the unissued entries of a chain, in NUMBER order, each reported as cancelled (15 R254). -/
def State.cancelChain (s : State) (c : ChainId) : State :=
  let drop := (s.core.chain c).entries.filter (fun e => !e.begun)
  let rep (e : Entry) : Report := { code := 0x40, core := s.core.num, chain := some c, num := e.num }
  (s.modCore (fun k => k.modChain c (fun ch => { ch with entries := ch.entries.filter (·.begun) }))).modM
    (fun m => { m with reports := m.reports ++ drop.map rep })

def State.cancelAll (s : State) : State := chainIds.foldl State.cancelChain s

/-- An entry is issued to its engine and not complete. -/
def Core.busy (k : Core) : Bool := chainIds.any (fun c => (k.chain c).entries.any (·.begun))

/-- A pool word of the core is still to be performed (20 R280). -/
def State.poolPending (s : State) : Bool := s.m.reqs.any (fun r => r.core == s.core.num && r.answer.isNone)

/-- A task that is ending ends when no issued entry, no pool word and no dump is left. -/
def State.settleEnd (s : State) : State :=
  match s.core.phase with
  | .ending st dump => if s.core.busy || s.poolPending || !dump.isEmpty then s else s.endTask st
  | _ => s

/-- Contexts that the end of a task with this status leaves to be dumped: those of a task-ending fault (17 R265), not of
ABORT, of a scheduler's failure (15 R409) or of a die failure (15 R253). -/
def dumpFor (status : Word) : List Ctx :=
  if status.extractLsb' 0 8 = (0x42 : BitVec 8) ∨ status.extractLsb' 0 8 = (0x32 : BitVec 8) then [] else [.L, .C, .S]

/-- End the task as ABORT ends it: results in flight are discarded, unissued entries withdrawn; it ends once the issued ones have
completed (20 R280). -/
def State.endSoon (s : State) (status : Word) : State :=
  if s.core.task.isNone then s.endTask status
  else
    let s1 := s.cancelAll
    State.settleEnd (s1.modCore (fun k => { (k.modAll (fun c => { c with wait := none })) with
      flights := k.flights.filter (·.listed), lates := [], phase := .ending status (dumpFor status) }))

/-! ### Trace records (17 R258, R264) -/

/-- Slice number of a context in records (15 R241): 3 in merged running. -/
def State.sliceCode (s : State) (c : Ctx) : BitVec 8 :=
  if s.core.merged then 3 else match c with
    | .L => 0
    | .C => 1
    | .S => 2

/-- The 64 bytes of a trace record (17 R258). PROCESS and THREAD are the resident system's names: free values (DESIGN CHOICE, log 4). -/
def traceBytes (s : State) (at' : BitVec 8 × Word) (seq kind : Nat) (lpc : Word) (body : Bytes) : Bytes :=
  let gang := match s.core.task with
    | some t => t.node
    | none => 2 ^ 32 - 1
  let spc := if at'.1 = 3 then 0 else at'.2.toNat
  let names := (Config.processThread s.core.num seq s.m.now).toNat
  leBytes 4 seq ++ leBytes 8 names ++ leBytes 4 gang ++ leBytes 1 kind ++ leBytes 1 at'.1.toNat
    ++ leBytes 2 s.core.num ++ leBytes 4 spc ++ leBytes 8 lpc.toNat ++ leBytes 8 s.m.now ++ pad body 24

/-- Virtual page of the next record, and the frame at which it begins; none while its place has no translation. -/
def State.tracePage (s : State) : Option (Nat × Nat) :=
  let va := s.core.trace.base.toNat + s.core.trace.head.toNat
  match translate s s.root va with
  | .ok (e, _) => some (va / 2 ^ e.leaf, e.start)
  | .error _ => none

/-- Write one record at `trace.head`; the buffer is circular. `at'` is the slice and the slice PC of the record's word. -/
def State.putTrace (s : State) (at' : BitVec 8 × Word) (kind : Nat) (lpc : Word) (body : Bytes) : State :=
  let t := s.core.trace
  let s1 := devWrite s s.root (t.base.toNat + t.head.toNat) (traceBytes s at' t.seq kind lpc body)
  let t1 : Trace := { t with seq := t.seq + 1, head := w64 ((t.head.toNat + 64) % t.len.toNat), pages := s.tracePage.toList.foldl (fun l p => upsert (·.1) p l) t.pages }
  s1.modCore (fun k => { k with trace := t1 })

/-- A gap record is due (17 R264): records were dropped, or the page has moved to another frame since the last record in it. -/
def State.gapDue (s : State) : Bool :=
  s.core.trace.dropped != 0 || s.tracePage.any (fun b => s.core.trace.pages.any (fun a => a.1 == b.1 && a.2 != b.2))

/-- The gap record that goes before the first record after a drop or a migration. -/
def State.putGap (s : State) (at' : BitVec 8 × Word) : State :=
  let t := s.core.trace
  if !s.gapDue then s
  else
    (s.putTrace at' 4 0 (leBytes 8 t.dropped ++ leBytes 8 (if t.dropped = 0 then s.m.now else t.firstDrop))).modCore (fun k =>
      { k with trace := { k.trace with dropped := 0, firstDrop := 0 } })

/-- Is a trace buffer registered and enabled? -/
def Core.traces (k : Core) : Bool := k.trace.ctl.getLsbD 0 && k.trace.len != 0

/-- Does the next record's place have a translation? -/
def State.traceMapped (s : State) : Bool :=
  (devRead s s.root (s.core.trace.base.toNat + s.core.trace.head.toNat) 64).isSome

/-- A trace record is dropped: counted, with the time of the first. -/
def State.dropTrace (s : State) : State :=
  let t := s.core.trace
  let dropped : Trace := { t with dropped := t.dropped + 1, firstDrop := if t.dropped = 0 then s.m.now else t.firstDrop }
  s.modCore (fun k => { k with trace := dropped })

/-- A trace record of a word in a slice at a slice PC; it is dropped while its place has no translation (17 R264). A gap record may be
the last of its page: the next page may need one of its own. -/
def State.traceAt (s : State) (kind : Nat) (at' : BitVec 8 × Word) (lpc : Word) (body : Bytes) : State :=
  if !s.core.traces then s
  else if !s.traceMapped then s.dropTrace
  else
    let t := (s.putGap at').putGap at'
    if t.traceMapped then t.putTrace at' kind lpc body else t.dropTrace

/-- A trace record of the word that a context is at. -/
def State.traceRecord (s : State) (kind : Nat) (c : Ctx) (lpc : Word) (body : Bytes) : State :=
  s.traceAt kind (s.sliceCode c, (s.core.ctx c).pc) lpc body

/-! ### Samples (17 R261) -/

/-- The logical PC of the word that a context issues next. -/
def State.nextLpc (s : State) (c : Ctx) : Word := State.lpc { s with core := { s.core with cur := c } }

/-- Slice and slice PC of the word that a context issues next: at a section header the word behind it. -/
def State.nextPlace (s : State) (c : Ctx) : BitVec 8 × Word :=
  let x := s.core.ctx c
  (s.sliceCode c, if x.hdr && !s.core.merged then x.pc + 8 else x.pc)

/-- The place that a sample due names: the next word of its context, in merged running of the one stream, as it stands now or stood when
something was about to move it. -/
def State.samplePlace (s : State) (d : SampleDue) : (BitVec 8 × Word) × Word :=
  let c := if s.core.merged then .C else d.ctx
  d.at'.getD (s.nextPlace c, s.nextLpc c)

/-- The contexts are about to move: the samples due keep their places. -/
def State.pinSamples (s : State) : State :=
  s.modCore (fun k => { k with perf := { k.perf with sample := k.perf.sample.map (fun d => { d with at' := some (s.samplePlace d) }) } })

/-- A fault of hub code at a pc: it is traced, and counted where it is a precise one (17 R259 event 8), and its record holds the pc and the fault, with the word in AUX where 15
R242 says so (04 R84, R85; 17 R258). -/
def State.hubFault (s : State) (pc : Word) (f : Flt) : State :=
  (((s.modCore (fun k => k.count 8 (if preciseCode f.code then 1 else 0))).pinSamples.traceAt 6 (3, 0) pc (leBytes 8 f.code.toNat ++ leBytes 8 f.addr.toNat)).modCore (fun k =>
    { k with hubFaults := (pc, f) :: k.hubFaults })).hubPush pc (faultMode s.core.mode) f.code.toNat

/-- Where a word stands that firmware in an in-place trap serves: slice, slice PC and logical PC of the trapping word. -/
def State.servedAt (s : State) : (BitVec 8 × Word) × Word :=
  let t := s.modHere (fun x => match x.trap with
    | some p => { x with pc := p.pc, trap := none }
    | none => x)
  ((t.sliceCode t.core.cur, t.here.pc), t.lpc)

/-- A service in place is traced: codes 0x01 to 0x03 (15 R240). -/
def State.traceServed (s : State) (code : Nat) (addr : Nat) : State :=
  s.traceAt 6 s.servedAt.1 s.servedAt.2 (leBytes 8 code ++ leBytes 8 addr)

/-- The pages that a step from s to t has brought into the translation cache. -/
def State.walkedTo (s t : State) : List Nat := (t.core.tlb.take (t.core.tlb.length - s.core.tlb.length)).map (·.vpage)

/-- Translation misses that an engine entry met on the way from s to t are traced (15 R240). -/
def State.traceWalks (s t : State) (at' : BitVec 8 × Word) (lpc : Word) : State :=
  if !t.core.traces then t
  else (s.walkedTo t).foldl (fun t p => t.traceAt 6 at' lpc (leBytes 8 1 ++ leBytes 8 (4096 * p))) t

/-- Contexts that an in-place trap can take: at a word of a task, not in a trap already. -/
def Core.trappable (k : Core) (c : Ctx) : Bool :=
  !k.hub && k.task.isSome && (k.ctx c).trap.isNone && (if k.merged then c == .C else !(k.ctx c).hdr && !(k.ctx c).ended) && (match k.phase with
    | .run | .handler _ | .retry _ | .replay _ => true
    | _ => false)

/-- A write of n bytes of value v at a physical address: one that reaches the notify page is a notify write, and the register takes it (12
R205). `learn` is what the tasks of the queue learn by its release: an order cache and its evicted bit, none of a write that replay makes
again. -/
def State.notified (s : State) (pa n : Nat) (v : Word) (learn : Option (List Known × Bool)) : State :=
  match s.m.notifyPage with
  | some base =>
    if base ≤ pa ∧ pa < base + 8 * Config.queues then
      let off := pa - base
      let take (k : List Known × Bool) (x : Queue) : Queue := { x with sight := s.m.hand x.sight k.1 k.2 }
      let t := match learn with
        | some k => if n = 8 ∧ off % 8 = 0 then s.modM (fun m => { m with queues := mapIf (fun x => x.num == off / 8) (take k) m.queues }) else s
        | none => s
      { t with agenda := .row (.notifyWrite off n v) :: t.agenda }
    else s
  | none => s

/-! ### Taking a fault (15 R241 to R244) -/

/-- The code a fault is reported with, and its handler: an emulation trap without an emulation handler is an
illegal-instruction fault of the ordinary handler (04 R84). -/
def handlerOf (t : Task) (code : BitVec 8) : BitVec 8 × Word :=
  if code = 0x19 then (if t.emul = Config.allOnes then (0x10, t.handler) else (0x19, t.emul)) else (code, t.handler)

/-- The 128 bytes of the fault record (15 R241). -/
def faultRecord (p : Pend) (code : BitVec 8) (x1 x2 : Word) : Bytes :=
  let flags := (if p.eng.isSome then 1 else 0) + (if p.merged then 2 else 0)
    + 4 * ((p.eng.map (fun e => chainCode e.1)).getD 0) + (if p.early then 16 else 0)
  leBytes 1 code.toNat ++ leBytes 1 p.slice.toNat ++ leBytes 1 flags ++ leBytes 1 0
    ++ leBytes 4 (if p.slice = 3 then 0 else p.spc.toNat) ++ leBytes 8 p.lpc.toNat ++ leBytes 8 p.flt.addr.toNat
    ++ leBytes 8 ((p.eng.map (·.2)).getD 0) ++ leBytes 4 p.flt.lane ++ leBytes 4 0 ++ leBytes 8 p.step.toNat
    ++ leBytes 8 p.time ++ leBytes 24 0 ++ pad p.flt.aux 16 ++ leBytes 8 x1.toNat ++ leBytes 8 x2.toNat ++ leBytes 16 0

/-- Address of a task's fault record: directly after its step record (15 R241). (DEDUCED, log 11.) -/
def Task.faultAddr (t : Task) : Word := t.recAddr + 512

/-- Write the fault record of a pending fault under a code. -/
def State.writeRecord (s : State) (p : Pend) (code : BitVec 8) : State :=
  match s.core.task with
  | some t => devWrite s t.root t.faultAddr.toNat (faultRecord p code (s.core.c.get 1) (s.core.c.get 2))
  | none => s

/-- A task-ending report: the record, then the end (15 R241). -/
def State.endReport (s : State) (p : Pend) (code : BitVec 8) : State :=
  (s.writeRecord p code).endSoon (statusOf code.toNat p.lpc.toNat)

/-- The context that waits for a chain: the one that appends to it. -/
def chainOwner (k : Core) (ch : ChainId) : Ctx :=
  if k.merged then .C
  else match ch with
    | .tci => .L
    | .tmx => .C
    | .tco | .tsx => .S

/-- The context that a fault is counted for: that of the faulting word, or the one that appended the entry (17 R261). -/
def Pend.owner (p : Pend) (k : Core) : Ctx :=
  match p.eng with
  | some e => chainOwner k e.1
  | none => if p.slice = 0 then .L else if p.slice = 2 then .S else .C

/-- A fault is traced, at the place its record names (17 R258 KIND 6); a precise one is counted (17 R259 event 8). -/
def State.noteFault (s : State) (p : Pend) (code : BitVec 8) : State :=
  (s.modCore (fun k => k.countFor (if k.merged then k.cur else p.owner k) 8 (if preciseCode p.flt.code then 1 else 0))).pinSamples.traceAt 6 (p.slice, p.spc) p.lpc
    (leBytes 8 code.toNat ++ leBytes 8 p.flt.addr.toNat)

/-- A fault that ends its task: noted, recorded, and the end. -/
def State.failTask (s : State) (p : Pend) (code : BitVec 8) : State := (s.noteFault p code).endReport p code

/-- A fault that a handler's own word raises, code 0x22: the record keeps the first fault (15 R244). DETAIL of the status is the logical
PC of the handler's word (DESIGN CHOICE, log 112). -/
def State.handlerFault (s : State) (p : Pend) : State :=
  (s.noteFault p 0x22).endSoon (statusOf 0x22 p.lpc.toNat)

/-- Replay has come to its end: results that it has not taken, and reads that it has not come to again, are none any more. -/
def Core.endReplay (k : Core) : Core :=
  { k with replayed := [], task := k.task.map (fun t => { t with sight := t.sight.settled }) }

/-- Enter the user or emulation handler on the state before the faulting word; with no handler the task ends with the
code (15 R240, R243). (DEDUCED, log 26.) -/
def State.enterHandler (s : State) (p : Pend) : State :=
  match s.core.task with
  | none => s.modCore (fun k => { k with phase := .run })
  | some t =>
    let (code, h) := handlerOf t p.flt.code
    let s0 := (s.modCore Core.endReplay).noteFault p code
    if h = Config.allOnes then s0.endReport p code
    else
      let s1 := s0.writeRecord p code
      s1.modCore (fun k => { (k.modAll Context.loseLatches) with
        phase := .handler p, merged := true, cur := .C, slot := .l, lates := [], returning := !t.kmerged,
        c := { ((k.c.put 1 t.faultAddr).put 2 (code.setWidth 64)).loseLatches with pc := h, wait := none, issueAt := 0, trap := none } }) |>.reach

/-- The logical issue that the word at issue is, as its step and how often its logical word had issued in that step. A filler stands for
the last issue of the first word of its region (09 R173); where that is the TSTEP which opened the step, it issued in the step before. -/
def State.issueOf (s : State) : Nat × Nat :=
  let n := s.here.occ s.here.ord s.lpc
  if !s.filler then (s.here.ord, n)
  else if n = 0 ∧ s.stepWord s.lpc then (s.here.ord - 1, 0)
  else (s.here.ord, n - 1)

/-- A fault of the word at issue, as it goes to rebuild or handler. -/
def State.pendOf (s : State) (why : Purpose) (f : Flt) : Pend :=
  { why := why, flt := f, step := s.here.step, ord := s.issueOf.1, lpc := s.lpc, occ := s.issueOf.2,
    slice := s.sliceCode s.core.cur, spc := s.here.pc, eng := none, merged := s.core.merged, early := false,
    time := s.m.now }

/-- A precise fault of a task, as its record describes it: a task in a handler, or re-executing its faulting word, ends with
code 0x22 (15 R244, 21 R307). Merged running, and replay at an earlier word, enter the handler on the state before the word
(02 R45). Sliced running asks for a rebuild (02 R38). (DEDUCED, log 7.) -/
def State.raise (s : State) (p : Pend) : State :=
  match s.core.phase with
  | .handler _ => s.handlerFault p
  | .retry q => if q.why = .fault then s.failTask p 0x22 else s.enterHandler p
  | .run => if s.core.merged then s.enterHandler p else s.modCore (fun k => { k with phase := .pend p })
  | .replay _ => s.enterHandler p
  | .pend _ => s
  | .rebuilt _ => s
  | .stopped _ _ => s
  | .ending _ _ => s

/-- THE one operation that takes a fault of the word at issue. A hub core pushes its trap stack (04 R89). -/
def State.takeFault (s : State) (f : Flt) : State :=
  if s.core.hub then s.hubFault s.core.c.pc f else s.raise (s.pendOf .fault f)

/-- The return from a handler (15 R243): x1 and x2 as the record holds them now, 0 where it cannot be read (DESIGN CHOICE, log 112); then
the faulting word again, or the next one. -/
def State.returnHandler (s : State) (p : Pend) (skip : Bool) : State :=
  match s.core.task with
  | none => s
  | some t =>
    let save (o : Nat) : Word := match devRead s t.root (t.faultAddr.toNat + o) 8 with
      | some b => w64 (leNat b)
      | none => 0
    let s1 := s.modCore (fun k =>
      { k with phase := if skip then .run else .retry p,
               c := { ((k.c.put 1 (save 96)).put 2 (save 104)) with
                        pc := if skip then p.lpc + 12 else p.lpc, wait := none, issueAt := k.cyc + 2 } })
    if skip then s1.reach else s1

/-! ### Frames -/

/-- How the body of a word ends: at the next word, at a target, blocked, or with everything already done. -/
inductive Fin where
  | next (s : State)
  | goto (s : State) (pc : Word)
  | block (s : State)
  | took (s : State)
  deriving DecidableEq, Repr

abbrev Body := State → Except Stop Fin

/-- A step ends: the writes it made are performed on memory, in their order (DESIGN CHOICE, log 5). -/
def finish (s0 t : State) : Out := .next { t with mem := s0.mem.commit t.wlog, wlog := [] }

/-- The word itself, for AUX of codes 0x10 and 0x19 (15 R242). -/
def auxWord (i : Instr) : Bytes := pad (leBytes 12 (((encode i).map (·.toNat)).getD 0)) 16

/-- Codes whose AUX holds the word. -/
def Flt.withWord (f : Flt) (i : Instr) : Flt := if f.code = 0x10 ∨ f.code = 0x19 then { f with aux := auxWord i } else f

/-- A transfer is taken: the next issue is two cycles later (03 R52). -/
def State.transfer (s : State) (f : Flt) (t : Word) : State :=
  match s.place with
  | .flat => s.modHere (fun k => { k with pc := t, issueAt := s.core.cyc + 2 })
  | .plain =>
    let words := match s.core.task with
      | some tk => tk.img.pwords
      | none => 0
    if t.toNat % 12 = 0 ∧ t.toNat < 12 * words then
      (s.modHere (fun k => { k with pc := t, issueAt := s.core.cyc + 2 })).reach
    else s.takeFault f
  | .slice =>
    match s.here.toSlice t with
    | some k => s.modHere (fun _ => { k with issueAt := s.core.cyc + 2 })
    | none => s.takeFault f

/-- Does a transfer go where R78 allows? A slice target at or outside the section is judged when its header is read. -/
def State.transferOk (s : State) (t : Word) : Bool :=
  match s.place with
  | .flat => true
  | .plain =>
    match s.core.task with
    | some tk => t.toNat % 12 == 0 && decide (t.toNat < 12 * tk.img.pwords)
    | none => false
  | .slice => (s.here.toSlice t).isSome

/-- The word at issue is held: the accesses to scratch banks that it would have made are not (03 R63, R64). -/
def State.unbank (s : State) : State := s.modCore (fun k => { k with banks := k.banksWas })

/-- Block the context on the word at issue: it drains and issues nothing; the block begins once it has drained (03 R65). -/
def State.blockOn (s : State) (i : Instr) : State :=
  let since (k : Context) : Nat := match k.wait with
    | some w => if k.draining then s.m.now else w.2
    | none => s.m.now
  (s.modHere (fun k => { k with wait := some (i, since k), woken := false, draining := !s.core.drained s.core.cur })).unbank

/-- The word at issue does not issue: this event follows. -/
def State.stopFor (s : State) (row : Instr) : State := { s with agenda := .row row :: s.agenda }

/-- The frame that the resident system gives the copy of a COW page, or none (DESIGN CHOICE, log 4). -/
def cowFrame (n : Nat) : Option (BitVec 48) :=
  let w := Config.freeWord n
  if w.getLsbD 63 then none else some (w.extractLsb' 0 48)

/-- A first write to a COW page waits for its copy (15 R252). -/
def State.copyFirst (s : State) (va : Nat) : State :=
  (s.modM (fun m => { m with free := m.free + 1 })).stopFor (.copyOnWriteFirstWrite (w64 va) (cowFrame s.m.free))

/-- A fault of a translation that a walk did not find: reasons 3 and 4 (15 R242), a translation miss (17 R259 event 6). -/
def Flt.missed (f : Flt) : Bool := f.code == 0x11 && (f.aux.headD 0 == 3 || f.aux.headD 0 == 4)

/-- The translation misses of an access that faults: they are counted, and the walks that succeeded have filled the cache. A fault for
want of a frame is one answer to one write: the next first write asks anew (15 R252). -/
def State.countMisses (s : State) (f : Flt) : State :=
  let stale (e : TlbEntry) : Bool := e.noFrame && f.code == 0x11 && f.aux.headD 0 == 10
  s.modCore (fun k => { (k.count 6 (f.walked.length + if f.missed then 1 else 0)) with tlb := f.walked ++ k.tlb.filter (fun e => !stale e) })

/-- A stop recorded for `tdb`, of the word at issue. -/
def State.noteStop (s : State) (tag : Word) (points : List (Word × Word) := []) (vals : List Word := []) : State :=
  let r : StopRec := { core := s.core.num, slice := s.sliceCode s.core.cur, lpc := s.lpc, spc := s.here.pc, tag := tag,
                       points := points, entry := none, vals := vals }
  s.modM (fun m => { m with stops := m.stops ++ [r] })

/-- With the results of the word at issue, as in state t, more would be in flight than a context may have: the word is held
(03 R63). -/
def State.tooMany (s t : State) : Bool := !s.core.interlocked && decide (Config.inFlightMax < t.core.inFlight s.core.cur)

/-- Complete a word: steps of the outcome after its effect. -/
def State.complete (s : State) (i : Instr) (r : Except Stop Fin) : State :=
  let ord := s.here.ord
  let lpc := s.lpc
  let bad := fltIllegal.withWord i
  match r with
  | .error (.flt f) => (s.unbank.countMisses f).takeFault (f.withWord i)
  | .error .wait => s.blockOn i
  | .error (.cow va) => s.unbank.copyFirst va
  | .error .full => (if s.here.full then s else (s.traceRecord 7 s.core.cur lpc []).modHere (fun k => { k with full := true })).blockOn i
  | .error (.watch p points) =>
    ((s.unbank.traceRecord 5 s.core.cur lpc (leBytes 8 0 ++ leBytes 8 p.toNat)).noteStop Config.allOnes points).stopFor
      (.watchpointStop s.core.cur)
  | .error .diverge => s.unbank.stopFor .replayDivergence
  | .ok (.next t) =>
    if s.tooMany t then s.unbank else (t.issued ord lpc).advance
  | .ok (.goto t pc) =>
    if s.tooMany t then s.unbank
    else if s.transferOk pc then (t.issued ord lpc).transfer bad pc else s.unbank.takeFault bad
  | .ok (.block t) => t.blockOn i
  | .ok (.took t) => t

/-- What a word is barred from (04 R83 steps 3 and 6, 15 R244). -/
structure Bars where
  /-- Illegal on a hub core. -/
  hub : Bool := false
  /-- Not permitted in this mode. -/
  mode : Mode → Bool := fun _ => false
  /-- Illegal in a handler. -/
  handler : State → Bool := fun _ => false

/-- The frame of every word (04 R83, 03 R59): steps 3, 5 and 6 of R83 whatever the guard, then the guard, then the
operation. A word that has blocked was issued with its guard true: the guard is not read again (03 R50, R65). -/
def runWord (i : Instr) (g : Guard) (b : Bars) (body : Body) (s0 : State) : Out :=
  let s := { s0 with wlog := [] }
  let r : Except Stop Fin :=
    if (s.core.hub && b.hub) || i.check.isSome || b.mode s.mode then .error (.flt fltIllegal)
    else if s.here.wait.map (·.1) != some i && !s.here.guard g then .ok (.next s)
    else if s.core.inHandler && b.handler s then .error (.flt fltIllegal)
    else body s
  finish s0 (s.complete i r)

/-- The frame of every event. An event whose condition does not hold leaves the machine as it is. (DESIGN CHOICE, log 6.) -/
def runEvent (body : State → State) (s0 : State) : Out := finish s0 (body { s0 with wlog := [] })

/-- A blocking word drains first (03 R65). (DEDUCED, log 66.) -/
def drained (s : State) (body : Except Stop Fin) : Except Stop Fin :=
  if s.core.interlocked || s.core.drained s.core.cur then body else .ok (.block s)

/-- A word that must see the appends of the words before it waits until their templates have come, too (DEDUCED, log 9). -/
def behindAppends (s : State) (body : Except Stop Fin) : Except Stop Fin :=
  drained s (if s.core.interlocked || s.core.appended s.core.cur then body else .ok (.block s))

/-- A word with outward effect is illegal in a handler (15 R244), after the checks that its entry lists before that (00 R7; 20 R278): `checks`
makes them. -/
def outward (bars : State → Bool) (checks body : Body) : Body := fun s =>
  if s.core.inHandler && bars s then
    match checks s with
    | .error (.flt f) => .error (.flt f)
    | _ => .error (.flt fltIllegal)
  else body s

/-! ### Journals (02 R40, 17 R267, R268) -/

/-- The journal entry that replay takes for the word at issue: the first of its step and logical PC (02 R40). (DEDUCED, log 69.) -/
def State.journalHit (s : State) : Option JEntry :=
  if s.core.inReplay then s.core.replayed.find? (fun e => e.ord == s.here.ord && e.lpc == s.lpc) else none

/-- Take the first entry of a list that equals one. -/
def dropFirst (e : JEntry) : List JEntry → List JEntry
  | [] => []
  | x :: r => if x = e then r else x :: dropFirst e r

/-- A journalled result (02 R40): replay takes it from the journal; a full journal blocks. `vals` computes it and its
effects on the state. The limit of 256 results is given for an open step: in the prologue, with none open, the journal has no
limit (DESIGN CHOICE, log 77). -/
def journalled (s : State) (vals : State → Except Stop (List Word × State)) : Except Stop (List Word × State) :=
  if s.core.task.isNone then vals s
  else if let some e := s.journalHit then
    .ok (e.vals, s.modCore (fun k => { k with replayed := dropFirst e k.replayed, journal := k.journal ++ [e] }))
  else if decide (Config.journalMax ≤ s.core.journal.length) && s.core.window.length != 0 then .error .wait
  else
    match vals s with
    | .error x => .error x
    | .ok (v, t) =>
      .ok (v, t.modCore (fun k => { k with journal := k.journal ++ [{ ord := s.here.ord, lpc := s.lpc, vals := v }] }))

/-- Is an entry of record mode later in logical order than one of this step, section, slice and logical PC? Sections are
compared modulo 2^20 (02 R28). -/
def RecEntry.after (e : RecEntry) (ord : Nat) (sec : BitVec 20) (slice : Ctx) (lpc : Word) : Bool :=
  if e.ord ≠ ord then decide (ord < e.ord)
  else if e.sec ≠ sec then decide ((e.sec - sec).toNat < 524288)
  else e.slice != slice && decide (lpc.toNat < e.lpc.toNat)

/-- Insert before the later entries at the end of the list. (DEDUCED, log 41.) -/
def insertRec (x : RecEntry) (l : List RecEntry) : List RecEntry :=
  let late (e : RecEntry) : Bool := e.after x.ord x.sec x.slice x.lpc
  (l.reverse.dropWhile late).reverse ++ x :: (l.reverse.takeWhile late).reverse

/-- Append an entry of record mode for the word at issue, of a step (17 R267), in logical order. A full journal blocks the
context and leaves a KIND 7 record. -/
def recordAs (s : State) (ord : Nat) (d0 : Option Word) (d1 : Word) : Except Stop State :=
  match s.core.task with
  | none => .ok s
  | some t =>
    if !t.record || t.journal == 0 then .ok s
    else if t.jcap ≤ t.jpos + t.recBuf.length then .error .full
    else
      let e : RecEntry := { ord := ord, sec := if s.core.merged then 0 else s.here.secNo, slice := s.core.cur,
                            lpc := s.lpc, step := s.here.step, d0 := d0, d1 := d1 }
      .ok (s.modTask (fun t => { t with recBuf := if s.core.merged then t.recBuf ++ [e] else insertRec e t.recBuf }))

/-- The entry of a word that belongs to the step it stands in. -/
def recordEntry (s : State) (d0 : Option Word) (d1 : Word) : Except Stop State := recordAs s s.here.ord d0 d1

/-- R39's hold on a non-idempotent operation: every engine entry appended logically before it has completed. In sliced
execution each chain's counter must reach the append number recorded when the same-numbered section of L or C retired; S
itself appends to the copy-out and send chains. -/
def State.idemReady (s : State) : Bool :=
  let k := s.core
  let owner : ChainId → Ctx
    | .tci => .L
    | .tmx => .C
    | .tco => .S
    | .tsx => .S
  let need (c : ChainId) : Nat :=
    if k.merged then (k.chain c).append
    else match k.secAppends.find? (fun e => e.1 == owner c && e.2.1 == s.here.secNo) with
      | some e => e.2.2.getD (chainCode c) 0
      | none => (k.chain c).append
  (k.merged || k.appended k.cur) && chainIds.all (fun c => decide (need c ≤ (k.chain c).counter))

/-- A non-idempotent operation (02 R25, R39): held as a blocking event, then marked as issued. -/
def nonIdempotent (body : Body) : Body := fun s =>
  if s.core.task.isSome && !s.idemReady then .ok (.block s)
  else if s.core.task.isSome && !(s.core.interlocked || s.core.drained s.core.cur) && s.here.wait.isSome then .ok (.block s)
  else
    match body s with
    | .ok (.next t) => .ok (.next (t.modCore (fun k => { k with nonIdem := k.task.isSome })))
    | r => r

/-- What replay mode gives for the word at issue: an entry with its two result dwords, or that it diverges (17 R267). -/
inductive Recorded where
  | none
  | entry (i : Nat) (d0 d1 : Word)
  | diverges
  deriving DecidableEq, Repr

/-- Entry i of the journal that replay mode reads: LPC, STEPIDX, two dwords. -/
def journalAt (s : State) (t : Task) (i : Nat) : Option (Word × Word × Word × Word) :=
  (devRead s t.root (t.journal.toNat + 32 * i) 32).map (fun b => (w64 (le b 0 8), w64 (le b 8 8), w64 (le b 16 8), w64 (le b 24 8)))

/-- A slice holds a word of a logical PC that could take an entry: no NOP, and TSTEP in L alone, whose TSTEP claims. -/
def State.sliceHolds (s : State) (c : Ctx) (lpc : Word) : Nat → Nat → Nat → Bool
  | 0, _, _ => false
  | n + 1, pos, i =>
    let sl := s.sliceOf c
    match devRead s s.root (sl.img.toNat + pos) 8 with
    | none => false
    | some b =>
      let len := hdrLen (leNat b)
      let held (j : Nat) : Bool :=
        (devRead s s.root (sl.idx.toNat + 4 * (i + j)) 4).any (fun m => w64 (12 * fld (leNat m) 0 28) == lpc)
          && (match s.imageWord (sl.img.toNat + pos + 8 + 12 * j) with
            | some (.nop _) => false
            | some (.tstep _ _ _ _) => c == .L
            | some _ => true
            | none => false)
      (List.range len).any held || (decide (0 < len) && s.sliceHolds c lpc n (pos + 8 + 12 * len) (i + len))

/-- The context at issue is the one whose words an entry of a logical PC is for: the slice that holds its word, or, where none does,
firmware in an in-place trap. (DEDUCED, log 42.) -/
def State.entryMine (s : State) (lpc : Word) : Bool :=
  let holds (c : Ctx) : Bool := s.sliceHolds c lpc ((s.sliceOf c).len / 20 + 1) 0 0
  holds s.core.cur || (s.here.trap.isSome && !([Ctx.L, .C, .S].any holds))

/-- The entries of the journal that no word has taken. -/
def Task.unread (t : Task) : List Nat := (List.range t.jcap).filter (fun i => !t.jused.any (fun u => u.1 == i))

/-- The entry for a word: the next one, whose LPC must be the word's; in sliced running, where the slices run ahead of each other, the
next one for its own slice. (DEDUCED, log 42.) -/
def recordedFor (s : State) (lpc : Word) : Recorded :=
  match s.core.task with
  | Option.none => .none
  | some t =>
    if !t.replay then .none
    else
      let mine (i : Nat) : Bool := s.core.merged || (journalAt s t i).any (fun e => s.entryMine e.1)
      match t.unread.find? mine with
      | Option.none => .diverges
      | some i =>
        match journalAt s t i with
        | some (l, _, d0, d1) => if l = lpc then .entry i d0 d1 else .diverges
        | Option.none => .diverges

def recorded (s : State) : Recorded := recordedFor s s.lpc

/-- A step closes with an entry left that stands before that of the TSTEP which closes it: a word of it should have taken the entry, so
the TSTEP diverges (17 R267). -/
def State.leftBehind (s : State) (ord : Nat) (lpc : Word) : Bool :=
  match s.core.task with
  | Option.none => false
  | some t =>
    let own := t.jused.find? (fun u => u.2 == ord && (journalAt s t u.1).any (fun e => e.1 == lpc))
    t.replay && own.any (fun u => t.unread.any (fun i => decide (i < u.1)))

/-- A stop of a handler, or of merged replay, keeps what it stopped in: the resume goes on with it. -/
def Core.stopPhase (k : Core) (p : Pend) : Phase :=
  .stopped p (match k.phase with
    | .handler q => some (true, q)
    | .replay q => some (false, q)
    | _ => none)

/-- The results of a word of step `ord` come from entry i. -/
def State.tookAs (s : State) (ord i : Nat) : State := s.modTask (fun t => { t with jused := (i, ord) :: t.jused })

def State.tookEntry (s : State) (i : Nat) : State := s.tookAs s.here.ord i

end Sys2Proof.Machine
end

