-- ==== Sys2Proof/Machine/Operands.lean ====
section
/-! DEFINITION. Operand forms: immediates, scalar operands of the integer and floating moulds, vector elements, lanes,
masks and how vector results land (04 R72 to R79, 23 R371). -/

namespace Sys2Proof.Machine

/-! ### Scalar operands -/

/-- The second operand of a class S word: a register or latch, or the sign-extended immediate (20 R279). -/
def imm64 (v : BitVec 32) : Word := v.signExtend 64

/-- Which latch fields a word captures into: used by hazards. -/
def srcLatch : Src → Option (BitVec 4)
  | .reg _ => none
  | .latch n => some n

/-- A scalar operand of the floating mould, as a code of FMT (21 R309): the low bits of the register. -/
def floatArg (f : Fmt) (v : Word) : Nat := v.toNat % 2 ^ f.bits

/-- A code of a format as a scalar result (06 R112): floats are zero-extended, integers of 32 bits or fewer are
sign-extended. -/
def scalarOf (f : Fmt) (code : Nat) : Word :=
  match f with
  | .int64 => w64 code
  | .int32 | .int16 | .int8 | .int4 => w64 (wrap (sgn code f.bits) 64)
  | _ => w64 code

/-- What a rounding of the word at issue reads (06 R124, R126). On a hub core the step is 0. -/
def State.rctx (s : State) (r : Rnd) : RCtx :=
  { mode := s.here.mode r, seed := s.core.seedNow, lpc := s.lpc, step := if s.core.hub then 0 else s.here.step }

/-- Bytes of an access (04 R77). -/
def sizeBytes : Size → Nat
  | .b8 => 1
  | .b16 => 2
  | .b32 => 4
  | .b64 => 8

/-! ### Vector elements (03 R57, 23 R371) -/

/-- Bytes of an element of a view, by its KIND. -/
def elSize : Nat → Nat
  | 2 => 16384
  | 3 => 65536
  | _ => 256

/-- First register-space byte of wv.i. -/
def State.elBase (s : State) (e : VEl) : Nat :=
  let v := s.here.viewOf e.view
  viewBase v + e.idx.toNat * elSize (viewKind v)

def State.elKind (s : State) (e : VEl) : Nat := viewKind (s.here.viewOf e.view)

/-- Reading past byte 0x7_FFFF: the address fault names the register-space offset (03 R57). -/
def fltReg (off : Nat) : Flt := fltAddr (w64 off) 6

/-- The two passes of R371: every KIND, then every reach. -/
def checkEls (s : State) (es : List VEl) : Except Stop Unit :=
  if es.any (fun e => s.elKind e != 1) then .error (.flt fltIllegal)
  else
    match es.find? (fun e => decide (Config.regSpace < s.elBase e + 256)) with
    | some e => .error (.flt (fltReg (s.elBase e)))
    | none => .ok ()

def vsrcEls : VSrc → List VEl
  | .el e => [e]
  | .latch _ => []

/-- A double-bit error in the bytes of the register space that a word reads (15 R251): after its other operand checks (DESIGN
CHOICE, log 81). The fault names the first byte of the operand, and the row. -/
def checkReads (s : State) (n : Nat) (es : List VEl) : Except Stop Unit :=
  match es.findSome? (fun e => (badRow s.core.badRegs (s.elBase e) n).map (fun o => (s.elBase e, o))) with
  | some (a, o) => .error (.flt (fltPoison (w64 a) o 0 2))
  | none => .ok ()

/-- The operand checks of a vector word: its elements, then what it reads of them. -/
def checkVec (s : State) (dst srcs : List VEl) : Except Stop Unit :=
  match checkEls s (dst ++ srcs) with
  | .error x => .error x
  | .ok _ => checkReads s 256 srcs

/-- The 256 bytes of a vector source. -/
def State.vsrc (s : State) : VSrc → Bytes
  | .el e => s.core.rsRun (s.elBase e) 256
  | .latch n => s.here.latchBytes n

/-! ### Lanes (06 R113, 03 R60) -/

/-- Bytes of a lane; a word has 256 bytes of lanes. -/
def laneBytes (f : Fmt) : Nat := f.bits / 8
def lanes (f : Fmt) : Nat := 256 / laneBytes f

/-- Lane j of 256 bytes. -/
def lane (f : Fmt) (bs : Bytes) (j : Nat) : Nat := le bs (j * laneBytes f) (laneBytes f)

/-- Is lane j enabled by the MASK register (03 R60)? -/
def enabled (s : State) (mask : BitVec 5) (f : Fmt) (j : Nat) : Bool :=
  mask == 0 || (s.reg mask).getLsbD (if lanes f = 64 then j else j / 2)

/-- The lanes of a word in ascending order. -/
def laneList (f : Fmt) : List Nat := List.range (lanes f)

/-- Lay out lane results; a disabled lane is zero. -/
def layLanes (f : Fmt) (rs : List (Option Nat)) : Bytes := rs.flatMap (fun r => leBytes (laneBytes f) (r.getD 0))

/-- The bytes that enabled lanes write. -/
def layMask (f : Fmt) (rs : List (Option Nat)) : Bytes :=
  rs.flatMap (fun r => List.replicate (laneBytes f) (if r.isSome then (0xFF : Byte) else 0))

/-- A vector result: only bytes of enabled lanes are written, LT captures the whole (23 R371). -/
def State.landBytes (s : State) (d : VDst) (bs mask : Bytes) (lat : Nat) (flags : Flags) (ext : Bool := false) : State :=
  s.land { puts := if d.wbs then [] else [.bytes (s.elBase d.el) bs mask], lt := d.lt, cap := bs, flags := flags, lat := lat, ext := ext }

def State.landLanes (s : State) (d : VDst) (f : Fmt) (rs : List (Option Nat × Flags)) (lat : Nat) (ext : Bool := false) : State :=
  s.landBytes d (layLanes f (rs.map (·.1))) (layMask f (rs.map (·.1))) lat
    ((rs.map (·.2)).foldl (· ||| ·) 0) ext

/-- Apply a lane function to the enabled lanes. -/
def overLanes (s : State) (mask : BitVec 5) (f : Fmt) (g : Nat → Nat × Flags) : List (Option Nat × Flags) :=
  (laneList f).map (fun j => if enabled s mask f j then let r := g j; (some r.1, r.2) else (none, 0))

/-! ### Scratch addresses of vector words (23 R382, R384) -/

/-- x[A] with an unsigned offset added: past 2^24 − 1 is out of bounds, before any check of R133; but any access through the value that a
failed SALLOC left raises the address fault (07 R140), whatever offset is added to it (DEDUCED, log 107). -/
def vAddr (s : State) (base : Word) (off lane : Nat) : Except Stop Word :=
  match scratchAdd base off with
  | some p => .ok p
  | none =>
    if base = Config.allOnes then .error (.flt (fltAddr base 1 lane))
    else .error (.flt (fltBounds base (((s.core.alloc (ptrId base)).map (·.size)).getD 0) lane))

/-- The bytes of a lane behind the pointer of VLD and VST: past 2^24 − 1 they fail in the order of R133. -/
def laneAddr (s : State) (base : Word) (off lane : Nat) : Except Stop Word :=
  match scratchAdd base off with
  | some p => .ok p
  | none => .error (.flt (fltOutside s.core base lane off))

end Sys2Proof.Machine
end

