-- ==== Sys2Proof/Machine/Alu.lean ====
section
/-! DEFINITION. Class S words (20 R279 to R301, 21 R304 to R334, 22 R336 to R359): the value of each as a function of its
sources, and one shared shape for each form. -/

namespace Sys2Proof.Machine

/-! ### Values -/

/-- Quotient truncated toward zero (21 R305). -/
def divValue (sg : Bool) (a y : Word) : Word :=
  if y = 0 then Config.allOnes
  else if sg then w64 (wrap (Int.tdiv a.toInt y.toInt) 64) else w64 (a.toNat / y.toNat)

/-- The remainder of the same division (22 R342). -/
def remValue (sg : Bool) (a y : Word) : Word :=
  if y = 0 then a
  else if sg then w64 (wrap (Int.tmod a.toInt y.toInt) 64) else w64 (a.toNat % y.toNat)

/-- Bits 127:64 of the exact product (21 R304). -/
def mulhValue (sg : Bool) (a y : Word) : Word :=
  if sg then w64 (wrap (a.toInt * y.toInt / 2 ^ 64) 64) else w64 (a.toNat * y.toNat / 2 ^ 64)

/-- The count s of shifts and rotates: bits 5:0 (22 R336). -/
def shiftCount (y : Word) : Nat := fld y.toNat 0 6

def shlValue (a y : Word) : Word := a <<< shiftCount y
def shrValue (arith : Bool) (a y : Word) : Word := if arith then a.sshiftRight (shiftCount y) else a >>> shiftCount y
def rotValue (a y : Word) : Word := a.rotateRight (shiftCount y)

/-- Leading zeros: 64 for 0 (20 R300). -/
def clzValue (a : Word) : Word := if a = 0 then 64 else w64 (63 - Nat.log2 a.toNat)

/-- Set bits (22 R339). -/
def popcValue (a : Word) : Word := w64 (((List.range 64).filter (fun i => a.getLsbD i)).length)

/-- Low bit and width of a bit field in y: width 0 means 64 (20 R292). -/
def fieldLow (y : Word) : Nat := fld y.toNat 0 6
def fieldWidth (y : Word) : Nat := if fld y.toNat 8 6 = 0 then 64 else fld y.toNat 8 6

def bextValue (a y : Word) : Word := w64 (a.toNat / 2 ^ fieldLow y % 2 ^ fieldWidth y)

/-- Mask of the field, bits above 63 dropped. -/
def fieldMask (y : Word) : Word := w64 ((2 ^ fieldWidth y - 1) * 2 ^ fieldLow y)

/-- x[D] with the field replaced (20 R293). -/
def binsValue (d a y : Word) : Word := (d &&& ~~~(fieldMask y)) ||| ((a <<< fieldLow y) &&& fieldMask y)

/-- Conditions (20 R301). -/
def condHolds (c : Cond) (a y : Word) : Bool :=
  match c with
  | .eq => a == y
  | .ne => a != y
  | .lt => a.slt y
  | .ge => !a.slt y
  | .ltu => a.ult y
  | .geu => !a.ult y

def cmpValue (c : Cond) (a y : Word) : Word := if condHolds c a y then 1 else 0

/-- Bit 0 of the old x[D] selects (22 R348). -/
def selValue (d a y : Word) : Word := if d.getLsbD 0 then a else y

def minValue (sg : Bool) (a y : Word) : Word := if (if sg then y.slt a else y.ult a) then y else a
def maxValue (sg : Bool) (a y : Word) : Word := if (if sg then a.slt y else a.ult y) then y else a

/-! ### Shapes -/

/-- Two sources, the old x[D] as a third where `f` uses it: no fault, no flag, one scalar result (20 R279). -/
def scalarRR (i : Instr) (o : AluRR) (lat : Nat) (f : Word → Word → Word → Word) : State → Out :=
  runWord i o.g {} (fun s => .ok (.next (s.landReg o.d (f (s.reg o.d.reg) (s.src o.a) (s.src o.b)) lat)))

/-- The register-immediate form. -/
def scalarRI (i : Instr) (o : AluRI) (lat : Nat) (f : Word → Word → Word → Word) : State → Out :=
  runWord i o.g {} (fun s => .ok (.next (s.landReg o.d (f (s.reg o.d.reg) (s.src o.a) (imm64 o.imm)) lat)))

/-- One source. -/
def scalarR (i : Instr) (o : OpDA) (lat : Nat) (f : Word → Word) : State → Out :=
  runWord i o.g {} (fun s => .ok (.next (s.landReg o.d (f (s.src o.a)) lat)))

/-! ### The words -/

/-- ADD (20 R283). -/
def execAdd (f : AluRR) : State → Out := scalarRR (.add f) f 1 (fun _ a y => a + y)

def execAddImmediate (f : AluRI) : State → Out :=
  scalarRI (.addImmediate f) f 1 (fun _ a y => a + y)

/-- SUB (22 R359). -/
def execSub (f : AluRR) : State → Out := scalarRR (.sub f) f 1 (fun _ a y => a - y)

def execSubImmediate (f : AluRI) : State → Out :=
  scalarRI (.subImmediate f) f 1 (fun _ a y => a - y)

/-- MUL (21 R333). -/
def execMul (f : AluRR) : State → Out := scalarRR (.mul f) f 3 (fun _ a y => a * y)

def execMulImmediate (f : AluRI) : State → Out :=
  scalarRI (.mulImmediate f) f 3 (fun _ a y => a * y)

/-- MULH (21 R334). -/
def execMulh (sg : Bool) (f : AluRR) : State → Out := scalarRR (.mulh sg f) f 3 (fun _ a y => mulhValue sg a y)

def execMulhImmediate (sg : Bool) (f : AluRI) : State → Out :=
  scalarRI (.mulhImmediate sg f) f 3 (fun _ a y => mulhValue sg a y)

/-- DIV (21 R306). -/
def execDiv (sg : Bool) (f : AluRR) : State → Out := scalarRR (.div sg f) f 20 (fun _ a y => divValue sg a y)

def execDivImmediate (sg : Bool) (f : AluRI) : State → Out :=
  scalarRI (.divImmediate sg f) f 20 (fun _ a y => divValue sg a y)

/-- REM (22 R342). -/
def execRem (sg : Bool) (f : AluRR) : State → Out := scalarRR (.rem sg f) f 20 (fun _ a y => remValue sg a y)

def execRemImmediate (sg : Bool) (f : AluRI) : State → Out :=
  scalarRI (.remImmediate sg f) f 20 (fun _ a y => remValue sg a y)

/-- AND (20 R287). -/
def execAnd (f : AluRR) : State → Out := scalarRR (.and f) f 1 (fun _ a y => a &&& y)

def execAndImmediate (f : AluRI) : State → Out :=
  scalarRI (.andImmediate f) f 1 (fun _ a y => a &&& y)

/-- ANDN (20 R288). -/
def execAndn (f : AluRR) : State → Out := scalarRR (.andn f) f 1 (fun _ a y => a &&& ~~~y)

def execAndnImmediate (f : AluRI) : State → Out :=
  scalarRI (.andnImmediate f) f 1 (fun _ a y => a &&& ~~~y)

/-- OR (22 R338). -/
def execOr (f : AluRR) : State → Out := scalarRR (.or f) f 1 (fun _ a y => a ||| y)

def execOrImmediate (f : AluRI) : State → Out :=
  scalarRI (.orImmediate f) f 1 (fun _ a y => a ||| y)

/-- XOR (23 R407). -/
def execXor (f : AluRR) : State → Out := scalarRR (.xor f) f 1 (fun _ a y => a ^^^ y)

def execXorImmediate (f : AluRI) : State → Out :=
  scalarRI (.xorImmediate f) f 1 (fun _ a y => a ^^^ y)

/-- SHL (22 R352). -/
def execShl (f : AluRR) : State → Out := scalarRR (.shl f) f 1 (fun _ a y => shlValue a y)

def execShlImmediate (f : AluRI) : State → Out :=
  scalarRI (.shlImmediate f) f 1 (fun _ a y => shlValue a y)

/-- SHR (22 R353). -/
def execShr (sg : Bool) (f : AluRR) : State → Out := scalarRR (.shr sg f) f 1 (fun _ a y => shrValue sg a y)

def execShrImmediate (sg : Bool) (f : AluRI) : State → Out :=
  scalarRI (.shrImmediate sg f) f 1 (fun _ a y => shrValue sg a y)

/-- ROT (22 R345). -/
def execRot (f : AluRR) : State → Out := scalarRR (.rot f) f 1 (fun _ a y => rotValue a y)

def execRotImmediate (f : AluRI) : State → Out :=
  scalarRI (.rotImmediate f) f 1 (fun _ a y => rotValue a y)

/-- BEXT (20 R292). -/
def execBext (f : AluRR) : State → Out := scalarRR (.bext f) f 1 (fun _ a y => bextValue a y)

def execBextImmediate (f : AluRI) : State → Out :=
  scalarRI (.bextImmediate f) f 1 (fun _ a y => bextValue a y)

/-- BINS (20 R293). -/
def execBins (f : AluRR) : State → Out := scalarRR (.bins f) f 1 (fun d a y => binsValue d a y)

def execBinsImmediate (f : AluRI) : State → Out :=
  scalarRI (.binsImmediate f) f 1 (fun d a y => binsValue d a y)

/-- CMP (20 R301). -/
def execCmp (c : Cond) (f : AluRR) : State → Out := scalarRR (.cmp c f) f 1 (fun _ a y => cmpValue c a y)

def execCmpImmediate (c : Cond) (f : AluRI) : State → Out :=
  scalarRI (.cmpImmediate c f) f 1 (fun _ a y => cmpValue c a y)

/-- MIN (21 R327). -/
def execMin (sg : Bool) (f : AluRR) : State → Out := scalarRR (.min sg f) f 1 (fun _ a y => minValue sg a y)

def execMinImmediate (sg : Bool) (f : AluRI) : State → Out :=
  scalarRI (.minImmediate sg f) f 1 (fun _ a y => minValue sg a y)

/-- MAX (21 R324). -/
def execMax (sg : Bool) (f : AluRR) : State → Out := scalarRR (.max sg f) f 1 (fun _ a y => maxValue sg a y)

def execMaxImmediate (sg : Bool) (f : AluRI) : State → Out :=
  scalarRI (.maxImmediate sg f) f 1 (fun _ a y => maxValue sg a y)

/-- CLZ (20 R300). -/
def execClz (f : OpDA) : State → Out := scalarR (.clz f) f 1 clzValue

/-- POPC (22 R339). -/
def execPopc (f : OpDA) : State → Out := scalarR (.popc f) f 1 popcValue

/-- SEL (22 R348). -/
def execSel (f : AluRR) : State → Out := scalarRR (.sel f) f 1 selValue

/-- LDI (21 R321). -/
def execLdi (f : OpDImm) : State → Out :=
  runWord (.ldi f) f.g {} (fun s => .ok (.next (s.landReg f.d (imm64 f.imm) 1)))

/-- The pc that ADDPC adds to: the address of the plain-image copy on a task, the word's own address on a hub core and in
firmware (20 R284). -/
def State.addpcBase (s : State) : Word :=
  match s.place, s.core.task with
  | .flat, _ => s.here.pc
  | _, some t => t.img.pimg + s.lpc
  | _, none => s.here.pc

/-- ADDPC (20 R284). -/
def execAddpc (f : OpPc) : State → Out :=
  runWord (.addpc f) f.g {} (fun s => .ok (.next (s.landReg f.d (s.addpcBase + (f.imm.signExtend 64 <<< 12)) 1)))

end Sys2Proof.Machine
end

