-- ==== Sys2Proof/Machine/Engine.lean ====
section
/-! DEFINITION. Words that append engine entries (COPY, WBLD, MMA, ACLR, ADRAIN, SEND) and words that read or await a
chain (TLRD, WAITC): the templates, their checks at append, and the entry that goes into the chain (08 R153 to R169, 20
R282 to R286, R302; 21 R328; 22 R349, R366; 23 R404, R405). -/

namespace Sys2Proof.Machine

/-! ### Fields of templates -/

/-- A signed little-endian field. -/
def leInt (b : Bytes) (o n : Nat) : Int := sgn (le b o n) (8 * n)

/-- Six fields of n bytes each, level 0 first. -/
def six (b : Bytes) (o n : Nat) : List Nat := (List.range 6).map (fun k => le b (o + n * k) n)
def sixInt (b : Bytes) (o n : Nat) : List Int := (List.range 6).map (fun k => leInt b (o + n * k) n)

/-- sum(ik · step[k]) of a nest. -/
def nestSum : List Nat → List Int → Int
  | i :: is, t :: ts => (i : Int) * t + nestSum is ts
  | _, _ => 0

/-- The indices of point k of a nest with these trip counts, level 0 innermost (08 R157). -/
def nestPoint : List Nat → Nat → List Nat
  | [], _ => []
  | n :: ns, k => k % n :: nestPoint ns (k / n)

def prodList (l : List Nat) : Nat := l.foldl (· * ·) 1

/-- Least and greatest sum over the points of a nest. -/
def nestSpan : List Nat → List Int → Int × Int
  | n :: ns, t :: ts =>
    let r := nestSpan ns ts
    let e : Int := ((n : Int) - 1) * t
    (r.1 + min 0 e, r.2 + max 0 e)
  | _, _ => (0, 0)

def engSpace (code : Nat) : EngSpace :=
  match code with
  | 0 => .global
  | 1 => .scratch
  | _ => .regs

/-- A bounding range [lo, hi) of one space; global memory is not recorded (08 R167). -/
def rangeOf (sp : EngSpace) (id : BitVec 8) (lo hi : Int) (wr : Bool) : List Range :=
  match sp with
  | .global => []
  | _ => [{ space := sp, id := id, lo := lo.toNat, hi := hi.toNat, wr := wr }]

/-! ### The copy nest (08 R156) -/

/-- A copy nest, read from the 112 bytes of its entry. -/
structure Nest where
  src : Word
  dst : Word
  count : List Nat
  sstr : List Int
  dstr : List Int
  /-- Bytes of a chunk, and the raw CHUNK, SPAN, SWB and SWW codes. -/
  c : Nat
  chunk : Nat
  span : Nat
  swb : Nat
  sww : Nat
  ssp : EngSpace
  dsp : EngSpace
  re : Bool
  ring : Nat
  deriving DecidableEq, Repr

def nestOf (b : Bytes) : Nest :=
  let ctrl := le b 88 8
  { src := w64 (le b 0 8), dst := w64 (le b 8 8), count := six b 16 2, sstr := sixInt b 28 5, dstr := sixInt b 58 5,
    c := 16 * 2 ^ fld ctrl 0 3, chunk := fld ctrl 0 3, span := fld ctrl 3 3, swb := fld ctrl 11 5, sww := fld ctrl 8 3,
    ssp := engSpace (fld ctrl 16 2), dsp := engSpace (fld ctrl 18 2), re := bitOf ctrl 20, ring := fld ctrl 21 3 }

/-- The nest is one that R156 admits. -/
def nestOk (b : Bytes) : Bool :=
  let ctrl := le b 88 8
  let n := nestOf b
  zeroAt b 96 16 && fld ctrl 6 2 == 0 && fld ctrl 24 40 == 0 && fld ctrl 16 2 != 3 && fld ctrl 18 2 != 3
    && n.count.all (· != 0) && (!n.re || n.dsp == .scratch)
    && (if n.sww = 0 then n.span == 0 && n.swb == 0
        else n.dsp == .scratch && decide (n.chunk ≤ n.span) && decide (n.sww ≤ n.span - n.chunk))

/-- The layout tag a nest leaves (08 R158). -/
def Nest.layout (n : Nest) : BitVec 14 :=
  if n.sww = 0 then 0 else BitVec.ofNat 14 (n.chunk * 2 ^ 11 + n.sww * 2 ^ 8 + n.swb * 2 ^ 3 + n.span)

/-- `swizzle` of R158 on an offset within an allocation. -/
def swizzle (chunk span swb sww o : Nat) : Nat :=
  if sww = 0 then o
  else
    let w := span - chunk
    let j := fld o (chunk + 4) w
    let row := o / 2 ^ (span + 4)
    let j2 := (j ^^^ fld row swb sww) % 2 ^ w
    o - j * 2 ^ (chunk + 4) + j2 * 2 ^ (chunk + 4)

/-- Start of a pointer as an offset in its space, and its allocation. -/
def ptrStart (sp : EngSpace) (p : Word) : Int :=
  match sp with
  | .global => fld p.toNat 0 56
  | .scratch => ptrOff p
  | .regs => fld p.toNat 0 19

/-- Source distance of chunk k, and destination distance before the swizzle. -/
def Nest.sAt (n : Nest) (k : Nat) : Int := nestSum (nestPoint n.count k) n.sstr
def Nest.dAt (n : Nest) (k : Nat) : Int := nestSum (nestPoint n.count k) n.dstr

/-- First byte of the destination in its space for chunk k, swizzled: an offset within the allocation, an offset of the
register space, or a virtual address. -/
def Nest.dPos (n : Nest) (base : Nat) (k : Nat) : Int :=
  let o : Int := (if n.re then ((base + n.dst.toNat : Nat) : Int) else ptrStart n.dsp n.dst) + n.dAt k
  if n.sww = 0 ∨ o < 0 then o else swizzle n.chunk n.span n.swb n.sww o.toNat

/-- The least range that holds every one of some ranges. -/
def hull : List (Int × Int) → Int × Int
  | [] => (0, 0)
  | x :: r => r.foldl (fun a b => (min a.1 b.1, max a.2 b.2)) x

/-- Bounding ranges of a COPY (08 R167), of a swizzled destination over its chunks as they land. `base` is the ring slot's first byte and
allocation when RE is set. -/
def copyRanges (n : Nest) (base : Option (BitVec 8 × Nat)) : List Range :=
  let s := nestSpan n.count n.sstr
  let d := nestSpan n.count n.dstr
  let s0 := ptrStart n.ssp n.src
  let (id, b0, d0) : BitVec 8 × Nat × Int := match base with
    | some (id, b) => (id, b, (b + n.dst.toNat : Nat))
    | none => (ptrId n.dst, 0, ptrStart n.dsp n.dst)
  let w : Int × Int :=
    if n.sww = 0 then (d0 + d.1, d0 + d.2 + n.c)
    else hull ((List.range (prodList n.count)).map (fun k => (n.dPos b0 k, n.dPos b0 k + n.c)))
  rangeOf n.ssp (ptrId n.src) (s0 + s.1) (s0 + s.2 + n.c) false ++ rangeOf n.dsp id w.1 w.2 true

/-! ### The MMA table (08 R163) -/

/-- A matrix table, read from the 112 bytes of its entry. -/
structure Table where
  count : List Nat
  astep : List Int
  istep : List Int
  wstep : List Int
  abase : Word
  ascale : Word
  wbase : Nat
  acc : Nat
  pitch : Nat
  span : Nat
  swb : Nat
  sww : Nat
  chunk : Nat
  me : Nat
  ne : Nat
  ke : Nat
  fmta : Option Fmt
  fmtb : Option Fmt
  ovw : Bool
  sat : Bool
  ascl : Bool
  bscl : Bool
  /-- The copied view register (R163). -/
  view : Word
  /-- Bits 13:0 of LAYOUT. -/
  layout : BitVec 14
  deriving DecidableEq, Repr

def tableOf (b : Bytes) : Table :=
  let mode := le b 104 4
  let ext := le b 100 4
  let lay := le b 96 4
  { count := six b 0 2, astep := sixInt b 12 4, istep := sixInt b 36 2, wstep := sixInt b 48 4, abase := w64 (le b 72 8),
    ascale := w64 (le b 80 8), wbase := fld (le b 88 4) 0 20, acc := fld (le b 92 2) 0 8, pitch := le b 94 2,
    span := fld lay 0 3, swb := fld lay 3 5, sww := fld lay 8 3, chunk := fld lay 11 3,
    me := fld ext 0 7 + 1, ne := fld ext 8 7 + 1, ke := fld ext 16 9 + 1,
    fmta := Fmt.ofCode (BitVec.ofNat 4 mode), fmtb := Fmt.ofCode (BitVec.ofNat 4 (mode / 16)),
    ovw := bitOf mode 8, sat := bitOf mode 9, ascl := bitOf mode 10, bscl := bitOf mode 11, view := w64 (le b 108 4),
    layout := BitVec.ofNat 14 lay }

/-- The kinds of operand pairs of R119. -/
inductive PairKind where
  | float | lns | int
  deriving DecidableEq, Repr

/-- The pairing of two operand formats (06 R119). -/
def pairKind (a b : Fmt) : Option PairKind :=
  let fl (f : Fmt) : Bool := match f with
    | .bf16 | .fp16 | .e4m3 | .e5m2 | .e3m2 | .e2m3 | .e2m1 => true
    | _ => false
  let it (f : Fmt) : Bool := f == .int8 || f == .int4
  if fl a && fl b then some .float
  else if (a == .lns8 && b == .lns8) || (a == .lns6 && b == .lns6) then some .lns
  else if it a && it b then some .int
  else none

/-- Formats that may carry block scales (06 R117). -/
def scalable : Fmt → Bool
  | .e4m3 | .e5m2 | .e3m2 | .e2m3 | .e2m1 | .lns8 | .lns6 => true
  | _ => false

/-- The greatest KE that a pair admits (08 R165). -/
def keMax (a b : Fmt) : Nat := if max a.bits b.bits = 16 then 128 else if max a.bits b.bits = 8 then 256 else 512

/-- The append checks of R165. -/
def tableOk (b : Bytes) : Bool :=
  let t := tableOf b
  let ext := le b 100 4
  let reserved := fld (le b 104 4) 12 20 == 0 && fld ext 7 1 == 0 && fld ext 15 1 == 0 && fld ext 25 7 == 0
    && fld (le b 96 4) 14 18 == 0 && fld (le b 92 2) 11 5 == 0 && fld (le b 88 4) 20 12 == 0
    && (t.ascl || t.ascale == 0)
  match t.fmta, t.fmtb with
  | some fa, some fb =>
    match pairKind fa fb with
    | none => false
    | some k => reserved && t.count.all (· != 0) && t.pitch != 0 && (!t.ascl || scalable fa) && (!t.bscl || scalable fb)
        && decide (t.ke ≤ keMax fa fb) && (!t.sat || k == .int)
        && (k != .int || decide (prodList t.count * t.ke ≤ 2 ^ 32))
  | _, _ => false

/-- Runs of stored bytes that hold bytes [o, o + n) of the unswizzled order (08 R165). -/
def Table.runs (t : Table) (o n : Nat) : List (Nat × Nat) :=
  if t.sww = 0 then [(o, n)]
  else
    let c := 16 * 2 ^ t.chunk
    (cutAt c o n).map (fun r => (swizzle t.chunk t.span t.swb t.sww (r.1 / c * c) + r.1 % c, r.2))

/-- Register-space address of element (i, n) of the ACC element at `addr` (08 R164). -/
def accAddr (addr i n : Nat) : Nat := addr + 4 * (128 * i + n)

/-- The stored bytes of A that a swizzled MMA reads, over its passes and rows. -/
def Table.stored (t : Table) (bytes : Nat) : List (Int × Int) :=
  (List.range (prodList t.count)).flatMap (fun p => (List.range t.me).flatMap (fun i =>
    (t.runs ((ptrOff t.abase : Int) + nestSum (nestPoint t.count p) t.astep + (i * t.pitch : Nat)).toNat bytes).map (fun r =>
      ((r.1 : Int), ((r.1 + r.2 : Nat) : Int)))))

/-- Bounding ranges of an MMA (08 R167): the ME by NE accumulators of its elements, the rows of A as they are stored, and their
scales. -/
def mmaRanges (t : Table) : List Range :=
  let bits := (t.fmta.map Fmt.bits).getD 8
  let i := nestSpan t.count t.istep
  let a := nestSpan t.count t.astep
  let acc (e : Int) : Int := (viewBase t.view : Int) + 65536 * ((t.acc : Int) + e)
  let bytes := (t.ke * bits + 7) / 8
  let lo : Int := (ptrOff t.abase : Int) + a.1
  let hi : Int := (ptrOff t.abase : Int) + a.2 + ((t.me - 1) * t.pitch : Nat)
  let w := if t.sww = 0 then (lo, hi + bytes) else hull (t.stored bytes)
  let sc : Int := ptrOff t.ascale
  rangeOf .regs 0 (acc i.1) (acc i.2 + accAddr 0 (t.me - 1) t.ne) true
    ++ rangeOf .scratch (ptrId t.abase) w.1 w.2 false
    ++ (if t.ascl then rangeOf .scratch (ptrId t.ascale) (sc + lo / (4 * bits)) (sc + hi / (4 * bits) + ((t.ke + 31) / 32 : Nat)) false else [])

/-! ### Appending (08 R153, R154) -/

def kindCode : EntryKind → Nat
  | .copy => 1
  | .wbld => 2
  | .mma => 3
  | .aclr => 4
  | .adrain => 5
  | .send => 6
  | .marker => 15

/-- The 128 bytes of an entry slot (08 R153). -/
def slotBytes (kind : EntryKind) (body : Bytes) (num : Nat) : Bytes :=
  pad body 112 ++ leBytes 8 num ++ leBytes 7 0 ++ leBytes 1 (kindCode kind)

/-- The link slot of a segment: the next segment's address, KIND 0xFF (08 R153). -/
def linkSlot (seg : Nat) : Bytes := leBytes 8 seg ++ leBytes 119 0 ++ [0xFF]

/-- An append waits for a segment, or a SEND for a free source entry (02 R43, 22 R350). -/
def Core.appendWaits (k : Core) (ch : ChainId) : Bool :=
  decide (31 ≤ (k.chain ch).slot) || (ch == .tsx && decide (Config.sendStoreMax ≤ (k.chain ch).entries.length))

/-- What an append gives beside its chain. -/
structure NewEntry where
  kind : EntryKind
  body : Bytes
  ranges : List Range
  ring : Option (Nat × Nat) := none
  src : Word := 0

/-- Append an entry: the slot is written, the append number advances, the append closes a region of the task (10 R180,
R194); one that is made again takes the region that it opened the first time (10 R198). A full segment waits (02 R43). -/
def appendEntry (s : State) (ch : ChainId) (n : NewEntry) : Except Stop State :=
  if s.core.appendWaits ch then .error .wait
  else
    let c := s.core.chain ch
    let num := c.append + 1
    let s1 := (devWrite s s.root (c.seg.toNat + 128 * c.slot) (slotBytes n.kind n.body num)).syncDone
    let own := (s1.core.task.map (·.region)).getD 0
    let region := if s.rerun then ((c.regions.find? (fun r => r.1 == num)).map (·.2)).getD own else own
    let closed := s.core.ckpt.tline.getD (chainCode ch) 0
    let e : Entry :=
      { kind := n.kind, num := num, body := pad n.body 112, ctx := s.core.cur, ranges := n.ranges,
        region := region, step := s.here.step, ord := s.here.ord, lpc := s.lpc,
        spc := s.here.pc,
        occ := s.here.occ s.here.ord s.lpc, begun := false, done := [], first := none, ring := n.ring, src := n.src,
        failed := none, cyc := s.core.cyc,
        exempt := s.rerun && (decide (num ≤ c.prior) || c.priorFin.contains num), seq := s.core.appends,
        regs := [], parts := [], merged := s.core.merged, owes := s.core.owes }
    .ok (s1.modCore (fun k => { (k.modChain ch (fun x =>
      { x with append := num, slot := x.slot + 1, entries := x.entries ++ [e],
               owed := if n.kind = .marker then x.owed else x.owed ++ [(num, region)],
               regions := (num, region) :: x.regions.filter (fun r => decide (closed < r.1) && r.1 != num) })) with appends := k.appends + 1 }))

/-- The 112-byte template of COPY, MMA and SEND: global step 1 of R133, then alignment to 8 bytes, then the rest. What a slice's word
reads is the template as it stood at its issue, `kept`: no write after it changes the entry (20 R303). -/
def readTemplate (s : State) (p : Word) (kept : Option Bytes) : Except Stop (Bytes × State) :=
  if fld p.toNat 56 4 ≠ 0 then .error (.flt (fltAddr p 1))
  else if fld p.toNat 0 3 ≠ 0 then .error (.flt (fltAddr p 2))
  else (memRead s .global p 112 false none 0).map (fun r => (kept.getD r.1, r.2))

/-- The word at issue asks for its template. It has met its watchpoints. -/
def State.askTemplate (s : State) (i : Instr) (p : Word) : State :=
  let l : Late := { ctx := s.core.cur, i := i, at' := { s.here with pass := true },
                    bytes := if s.core.interlocked then none else devRead s s.root (fld p.toNat 0 56) 112,
                    landAt := s.core.cyc + 7, arrived := false }
  s.modCore (fun k => { k with lates := k.lates ++ [l] })

/-- The template that the word at issue has asked for has come. -/
def Core.templateHere (k : Core) (i : Instr) : Bool := k.lates.any (fun l => l.ctx == k.cur && l.i == i && l.arrived)

/-- A word with a template (20 R302; 21 R328; 22 R349): the read of the template and all that follows take effect when the template
has arrived. In sliced execution the word has issued by then; with interlocks it is held until then, and `body` runs at its issue.
A word that has blocked has its template. -/
def withTemplate (i : Instr) (p : Word) (body : Body) : Body := fun s =>
  if s.here.held.isSome then body s
  else if watched s .global p 112 false then .error (stopAt s .global p 112 false)
  else if !s.core.interlocked then .ok (.next (s.askTemplate i p))
  else if s.core.templateHere i then body (s.modCore (fun k => { k with lates := k.lates.filter (fun l => l.ctx != k.cur) }))
  else .ok (.took (s.askTemplate i p))

/-- What an append reads: the body of its entry, and SEND's source pointer. -/
abbrev Reads := Except Stop (Bytes × Word × State)

/-- An append reads its template and its registers once, at its issue: one that has blocked since keeps them (20 R302, R303). -/
def heldOr (s : State) (read : Reads) : Reads :=
  match s.here.held with
  | some (body, src) => .ok (body, src, s)
  | none => read

/-- An append blocks, and keeps what it has read. -/
def State.blockAppend (s : State) (body : Bytes) (src : Word) : Fin :=
  .block (s.modHere (fun k => { k with held := some (body, src) }))

/-- The body of every word that appends to a chain, but for COPY, which may wait for its ring: `read` reads the operands and
makes the checks at append. A full segment is served in place (02 R43). -/
def appendWord (ch : ChainId) (kind : EntryKind) (ranges : Bytes → Word → List Range) (read : State → Reads) : Body := fun s =>
  match heldOr s (read s) with
  | .error x => .error x
  | .ok (body, src, t) =>
    if t.core.appendWaits ch then .ok (t.blockAppend body src)
    else (appendEntry t ch { kind := kind, body := body, src := src, ranges := ranges body src }).map .next

/-- In sliced execution a chain is fed by one slice (08 R153). -/
def State.wrongSlice (s : State) (c : Ctx) : Bool := !s.core.merged && s.core.cur != c

/-! ### The words -/

/-- The position that a ring fill is assigned (08 R160). -/
def Ring.nextPos (r : Ring) : Nat := r.rels + r.filled + r.pend.length

def Ring.slotOf (r : Ring) (pos : Nat) : Nat := pos % r.nslot
def Ring.rd (r : Ring) : Nat := r.slotOf r.rels

def Ring.isFull (r : Ring) : Bool := decide (r.nslot ≤ r.filled + r.pend.length)

def modRing (k : Core) (n : Nat) (f : Ring → Ring) : Core := { k with rings := mapIf (fun r => r.num == n && r.ended.isNone) f k.rings }

def Core.ring (k : Core) (n : Nat) : Option Ring := k.rings.find? (fun r => r.num == n && r.ended.isNone)

/-- The nest that COPY forms (20 R302). -/
def copyReads (f : OpSrc3) (kept : Option Bytes) (s : State) : Reads :=
  (readTemplate s (s.src f.a) kept).map (fun r =>
    (leBytes 8 (s.src f.b).toNat ++ leBytes 8 (s.reg f.d).toNat ++ slice r.1 16 96, 0, r.2))

/-- What COPY does once its template has come: the checks, the ring's block and the append (20 R302). -/
def copyBody (f : OpSrc3) (kept : Option Bytes) : Body := fun s =>
  match heldOr s (copyReads f kept s) with
  | .error x => .error x
  | .ok (body, _, s1) =>
    let n := nestOf body
    let ch : ChainId := if n.dsp = .global then .tco else .tci
    let num := (s1.core.chain ch).append + 1
    if !nestOk body then .error (.flt fltIllegal)
    else if s.wrongSlice (if ch = .tco then .S else .L) then .error (.flt fltIllegal)
    else if s.core.inHandler && ch == .tco then .error (.flt fltIllegal)
    else if s1.core.appendWaits ch && !n.re then .ok (s1.blockAppend body 0)
    else if !n.re then (appendEntry s1 ch { kind := .copy, body := body, ranges := copyRanges n none }).map .next
    else
      match s1.core.ring n.ring with
      | none => .error (.flt (fltRing n.ring))
      | some r =>
        if r.isFull || s1.core.appendWaits ch then .ok (s1.blockAppend body 0)
        else
          let slot := r.slotOf r.nextPos
          let e : NewEntry :=
            { kind := .copy, body := body, ranges := copyRanges n (some (r.alloc, slot * r.slotsz * 256)),
              ring := some (n.ring, slot) }
          let s2 := s1.modCore (fun k => modRing k n.ring (fun r =>
            { r with pend := r.pend ++ [{ pos := r.nextPos, num := num, done := none }], fills := r.fills ++ [(r.nextPos, num)] }))
          (appendEntry s2 ch e).map .next

/-- COPY (20 R302). -/
def execCopy (f : OpSrc3) : State → Out :=
  runWord (.copy f) f.g { hub := true } (fun s => withTemplate (.copy f) (s.src f.a) (copyBody f none) s)

/-- SRC, WOFF and LEN of a WBLD are ones that R161 admits. -/
def wbldOk (src woff : Word) (len : Nat) : Bool :=
  fld woff.toNat 20 44 == 0 && fld src.toNat 0 4 == 0 && fld woff.toNat 0 4 == 0 && len % 16 == 0
    && decide (16 ≤ len) && decide (len ≤ 524288)
    && woff.toNat / 524288 == (woff.toNat + len - 1) / 524288

/-- WBLD (23 R405). -/
def execWbld (f : OpAB) (len : BitVec 32) : State → Out :=
  runWord (.wbld f len) f.g { hub := true } (appendWord .tci .wbld (fun _ _ => []) (fun s =>
    if !wbldOk (s.src f.a) (s.src f.b) len.toNat then .error (.flt fltIllegal)
    else if s.wrongSlice .L then .error (.flt fltIllegal)
    else .ok (leBytes 8 (s.src f.a).toNat ++ leBytes 4 (s.src f.b).toNat ++ leBytes 4 len.toNat, 0, s)))

/-- What MMA does once its template has come (21 R328). -/
def mmaBody (f : OpAB) (kept : Option Bytes) : Body :=
  appendWord .tmx .mma (fun b _ => mmaRanges (tableOf b)) (fun s =>
    match readTemplate s (s.src f.a) kept with
    | .error x => .error x
    | .ok (t, s1) =>
      let v := s.here.viewOf (BitVec.ofNat 3 (fld (le t 92 2) 8 3))
      let body := slice t 0 72 ++ leBytes 8 (s.src f.b).toNat ++ slice t 80 28 ++ leBytes 4 (fld v.toNat 0 26)
      if !tableOk body || s.wrongSlice .C then .error (.flt fltIllegal) else .ok (body, 0, s1))

/-- MMA (21 R328): issues only from C when sliced (03 R51). -/
def execMma (f : OpAB) : State → Out :=
  runWord (.mma f) f.g { hub := true } (fun s => withTemplate (.mma f) (s.src f.a) (mmaBody f none) s)

/-- Register space that an ACLR entry clears. -/
def aclrRanges (b : Bytes) : List Range := rangeOf .regs 0 (le b 0 4) ((le b 0 4 + 65536 * le b 4 2 : Nat) : Int) true

/-- ACLR (20 R282). -/
def execAclr (g : Guard) (a : VEl) (n : BitVec 3) : State → Out :=
  runWord (.aclr g a n) g { hub := true } (appendWord .tmx .aclr (fun b _ => aclrRanges b) (fun s =>
    let addr := s.elBase a
    let cnt := n.toNat + 1
    if s.elKind a ≠ 3 ∨ s.wrongSlice .C then .error (.flt fltIllegal)
    else if Config.regSpace < addr + 65536 * cnt then .error (.flt (fltReg addr))
    else .ok (leBytes 4 addr ++ leBytes 2 cnt, 0, s)))

/-- Register space that an ADRAIN entry reads and writes. -/
def adrainRanges (fmt : Fmt) (b : Bytes) : List Range :=
  rangeOf .regs 0 (le b 0 4) ((le b 0 4 + 65536 : Nat) : Int) false ++ rangeOf .regs 0 (le b 4 4) ((le b 4 4 + 2048 * fmt.bits : Nat) : Int) true

/-- ADRAIN (20 R285, R286). -/
def execAdrain (g : Guard) (d : VEl) (a : VEl) (fmt : Fmt) (rnd : Rnd) : State → Out :=
  runWord (.adrain g d a fmt rnd) g { hub := true } (appendWord .tmx .adrain (fun b _ => adrainRanges fmt b) (fun s =>
    let src := s.elBase a
    let dst := s.elBase d
    let sf := viewFmt (s.here.viewOf a.view)
    let size := 2048 * fmt.bits
    if s.elKind a ≠ 3 ∨ (sf ≠ 0 ∧ sf ≠ 12) ∨ s.wrongSlice .C then .error (.flt fltIllegal)
    else if s.elKind d ≠ 1 ∧ s.elKind d ≠ 2 then .error (.flt fltIllegal)
    else if Config.regSpace < src + 65536 then .error (.flt (fltReg src))
    else if Config.regSpace < dst + size then .error (.flt (fltReg dst))
    else
      let conv := fmt.code.toNat + 16 * (s.here.mode rnd).code.toNat + (if sf = 12 then 128 else 0)
      .ok (leBytes 4 src ++ leBytes 4 dst ++ leBytes 1 conv ++ leBytes 7 0 ++ leBytes 8 s.core.seedNow.toNat
        ++ leBytes 8 s.lpc.toNat ++ leBytes 8 s.here.step.toNat, 0, s)))

/-- A SEND entry is one that R169 admits. -/
def sendOk (b : Bytes) : Bool :=
  zeroAt b 40 72 && zeroAt b 32 6 && zeroAt b 24 4 && fld (le b 38 2) 9 7 == 0 && fld (le b 38 2) 0 2 != 3
    && le b 28 4 % 16 == 0 && decide (16 ≤ le b 28 4) && decide (le b 28 4 ≤ 1048576)

/-- Check a range of engine bytes in its space by R133: the target, ready for the access. Register-space pointers hold
their offset in bits 18:0 (08 R156). -/
def checkEng (s : State) (slice : Ctx) (sp : EngSpace) (p : Word) (n : Nat) (c : Chk) (who : Option Who) (lane : Nat) :
    Except Stop (Option Target × State) :=
  match sp with
  | .global => (checkSpace s slice .global p n c who none lane).map (fun r => (some r.1, r.2))
  | .scratch => (checkSpace s slice .scratch p n c who none lane).map (fun r => (some r.1, r.2))
  | .regs =>
    if fld p.toNat 19 45 ≠ 0 then .error (.flt (fltAddr p 1 lane))
    else if Config.regSpace < p.toNat + n then .error (.flt (fltAddr p 6 lane))
    else
      match (if c.wr then none else badRow s.core.badRegs p.toNat n) with
      | some o => .error (.flt (fltPoison p o lane 2))
      | none => .ok (none, s)

/-- Scratch or register space that a SEND entry reads. -/
def sendRanges (b : Bytes) (src : Word) : List Range :=
  let sp := engSpace (fld (le b 38 2) 0 2)
  rangeOf sp (ptrId src) (ptrStart sp src) (ptrStart sp src + le b 28 4) false

/-- What SEND does once its template has come: a SEND in a handler is illegal after every other check (22 R349). -/
def sendBody (f : OpSrc3) (kept : Option Bytes) : Body :=
  appendWord .tsx .send sendRanges (fun s =>
    match readTemplate s (s.src f.a) kept with
    | .error x => .error x
    | .ok (t, s1) =>
      let body := leBytes 8 (s.reg f.d).toNat ++ slice t 8 104
      let src := s.src f.b
      let sp := engSpace (fld (le body 38 2) 0 2)
      let len := le body 28 4
      let crooked (p : Word) : Bool := fld p.toNat 0 4 != 0
      if !sendOk body || s.wrongSlice .S then .error (.flt fltIllegal)
      else
        match [src, s.reg f.d, w64 (le body 8 8)].find? crooked with
        | some p => .error (.flt (fltAddr p 2))
        | none =>
          match checkEng s1 s.core.cur sp src len { wr := false } s1.who 0 with
          | .error x => .error (x.after s s1)
          | .ok (_, s2) => if s.core.inHandler then .error (.flt fltIllegal) else .ok (body, src, s2))

/-- SEND (22 R349): non-idempotent; in sliced execution it stands in S. -/
def execSend (f : OpSrc3) : State → Out :=
  runWord (.send f) f.g { hub := true } (nonIdempotent (fun s => withTemplate (.send f) (s.src f.a) (sendBody f none) s))

/-- What the word of a template does once that has come. -/
def lateBody (kept : Option Bytes) : Instr → Body
  | .copy f => copyBody f kept
  | .mma f => mmaBody f kept
  | .send f => sendBody f kept
  | _ => fun s => .ok (.next s)

/-- Do something as the word of a template that has come, on its context as it stood at issue. -/
def State.asLate (s : State) (l : Late) (f : State → State) : State :=
  let t := f (s.modCore (fun k => ({ k with cur := l.ctx } : Core).setCtx l.ctx l.at'))
  t.modCore (fun k => ({ k with cur := s.core.cur } : Core).setCtx l.ctx (s.core.ctx l.ctx))

/-- A template has come, in sliced execution: its word takes effect now, and the walks of its read are traced (15 R240). Where a full ring or a full segment blocks it, it stays,
and its context issues nothing until it can go on (03 R65; 02 R43). -/
def State.lateEffect (s : State) (l : Late) : State :=
  let rest := s.core.lates.erase l
  let stay (at' : Context) (t : State) : State :=
    t.modCore (fun k => { k with lates := mapIf (· == l) (fun _ => { l with arrived := true, at' := at' }) s.core.lates })
  s.asLate l (fun t0 =>
    let t := t0.modCore (fun k => { k with lates := rest })
    let traced (u : State) : State := t.traceWalks u (t.sliceCode l.ctx, t.here.pc) t.lpc
    match lateBody l.bytes l.i t with
    | .ok (.next u) => traced u
    | .ok (.block u) => stay u.here (traced u)
    | .error .wait => stay t.here t
    | .error (.flt f) => (traced (t.countMisses f)).takeFault (f.withWord l.i)
    | _ => t)

/-- Templates come in the order they were asked for: the oldest that is still to come. In merged mode its word is held, and issues
now. -/
def State.lateArrives (s : State) : State :=
  match s.core.lates.find? (fun l => !l.arrived) with
  | none => s
  | some l =>
    if s.core.interlocked then s.modCore (fun k => { k with lates := mapIf (· == l) (fun l => { l with arrived := true }) k.lates })
    else s.lateEffect l

/-! ### Reading and awaiting a chain -/

/-- TLRD (22 R366): an append of another context in the same cycle is not yet counted. -/
def execTlrd (ch : ChainId) (ap : Bool) (f : OpD) : State → Out :=
  runWord (.tlrd ch ap f) f.g { hub := true } (fun s =>
    let c := s.core.chain ch
    let fresh := if s.core.merged then 0 else (c.entries.filter (fun e => e.cyc == s.core.cyc && e.ctx != s.core.cur)).length
    match journalled s (fun s => .ok ([w64 (if ap then c.append - fresh else c.counter)], s)) with
    | .error x => .error x
    | .ok (v, t) => .ok (.next (t.landReg f.d (v.headD 0) 4)))

/-- The task acquires the completion of entries of a chain: of those a predicate on their NUMBERs names (10 R182, R183). -/
def Core.acquired (k : Core) (ch : ChainId) (p : Nat → Bool) : Core :=
  k.modChain ch (fun c => { c with owed := c.owed.filter (fun o => !p o.1) })

/-- WAITC (23 R404): synchronises, is not journalled. -/
def execWaitc (ch : ChainId) (f : OpA) : State → Out :=
  runWord (.waitc ch f) f.g { hub := true } (fun s => drained s (
    if (s.src f.a).toNat ≤ (s.core.chain ch).counter then
      .ok (.next (s.modCore (fun k => k.acquired ch (fun n => decide (n ≤ (s.src f.a).toNat)))).syncDone)
    else .ok (.block s)))

end Sys2Proof.Machine
end

