-- ==== Sys2Proof/Machine/Scratch.lean ====
section
/-! DEFINITION. Words on scratch allocations, stash windows and rings: SALLOC, SFREE, WIND, LIFE, SMAP, SUNMAP, LOCK,
UNLOCK, RINGI, AWAITF, RELS (07 R140 to R150, 08 R159, R160; 20 R291; 21 R322, R323; 22 R341 to R360; 23 R370, R406). -/

namespace Sys2Proof.Machine

/-! ### Allocations -/

/-- First byte of the lowest free range of a size on an 8 KiB multiple (07 R140, 22 R346). Every range that is reserved
counts: of freed ids (22 R347) and of parked allocations (15 R249). (DESIGN CHOICE, log 18.) -/
def placeAlloc (k : Core) (size : Nat) : Option Nat :=
  let up (n : Nat) : Nat := (n + 8191) / 8192 * 8192
  let clear (b : Nat) : Bool := decide (b + size ≤ Config.scratchBytes) &&
    k.allocs.all (fun a => decide (b + size ≤ a.base) || decide (a.base + a.size ≤ b))
  match (0 :: k.allocs.map (fun a => up (a.base + a.size))).filter clear with
  | [] => none
  | x :: r => some (r.foldl min x)

/-- The lowest id that no allocation of the task holds or reserves. -/
def freeId (k : Core) : Option Nat := leastFree ((k.allocs.filter (fun a => a.parked.isNone)).map (fun a => a.id.toNat)) 256

/-- A tag other than the one the id held when SFREE last freed it (22 R346): a free value (DESIGN CHOICE, log 4). -/
def pickTag (k : Core) (id : Nat) (draw : Word) : BitVec 4 :=
  let t : BitVec 4 := draw.extractLsb' 0 4
  if k.lastTags.any (fun e => e.1.toNat == id && e.2 == t) then t + 1 else t

/-- Pointer and base that a SALLOC returns; all ones where nothing fits. -/
def pickAlloc (s : State) (size : Nat) : List Word × State :=
  match freeId s.core, placeAlloc s.core size with
  | some id, some base =>
    let (d, s1) := s.draw
    ([w64 ((pickTag s.core id d).toNat * 2 ^ 60 + id * 2 ^ 24), w64 base], s1)
  | _, _ => ([Config.allOnes, 0], s)

/-- Make the allocation that a pointer names (22 R346). -/
def State.makeAlloc (s : State) (p base : Word) (size : Nat) (backed zero : Bool) : State :=
  if p = Config.allOnes then s
  else
    let a : Alloc :=
      { id := ptrId p, base := base.toNat, size := size, backed := backed, tag := ptrTag p,
        expiry := if backed then 0 else s.core.nowAt + Config.retention, expired := false, layout := 0, data := [], gen := s.m.free, zero := zero,
        cleared := [], window := none, lines := [], ahead := [], made := s.here.ord, freed := none, undo := [], sweep := 0,
        parked := none }
    (s.modCore (fun k => { k with allocs := k.allocs ++ [a] })).modM (fun m => { m with free := m.free + 1 })

/-- SALLOC (22 R346): its result is journalled. -/
def execSalloc (g : Guard) (d : BitVec 5) (wbs : Bool) (units : BitVec 20) (bk : Bool) (z : Bool) : State → Out :=
  runWord (.salloc g d wbs units bk z) g { hub := true } (fun s =>
    let size := 4096 * units.toNat
    match journalled s (fun s => .ok (pickAlloc s size)) with
    | .error x => .error x
    | .ok (v, t) =>
      .ok (.next ((t.makeAlloc (v.headD 0) ((v.drop 1).headD 0) size bk z).landPlain d wbs (v.headD 0) 4)))

/-- SFREE (22 R351): it takes effect after the checks of the other words of its cycle (07 R143). -/
def execSfree (f : OpA) : State → Out :=
  runWord (.sfree f) f.g { hub := true } (fun s =>
    match checkScratch124 s.core (s.src f.a) with
    | .error x => .error x
    | .ok a => .ok (.next (s.landLater [.free a.id s.here.ord])))

/-- WIND (23 R406). -/
def execWind (f : OpAB) : State → Out :=
  runWord (.wind f) f.g { hub := true } (fun s =>
    let p := s.src f.a
    match checkScratch124 s.core p with
    | .error x => .error x
    | .ok a =>
      if !a.backed && (a.expired || decide (a.expiry ≤ s.core.nowAt)) then .error (.flt (fltStale p a.id none a.expiry))
      else .ok (.next ((s.modCore (fun k => modAlloc k a.id (Alloc.note s.here.ord))).landLater [.expiry a.id (s.core.nowAt + min (s.src f.b).toNat Config.retention)])))

/-- The value of LIFE (07 R146, 21 R322); a Clean line past its row's expiry is Invalid (07 R148). -/
def lifeOf (k : Core) (a : Alloc) (off now : Nat) : Nat :=
  if a.backed then
    match (a.lines.filter (fun l => !l.lapsed now)).map (fun l => l.expiry - now) with
    | [] => Config.retention
    | x :: r => r.foldl min x
  else (expiryAt k a off).1 - now

/-- LIFE (21 R322). -/
def execLife (g : Guard) (d : BitVec 5) (wbs : Bool) (a : Src) : State → Out :=
  runWord (.life g d wbs a) g { hub := true } (fun s =>
    let p := s.src a
    match checkScratch124 s.core p with
    | .error x => .error x
    | .ok al =>
      match journalled s (fun s => .ok ([w64 (lifeOf s.core al (ptrOff p) s.core.nowAt)], s)) with
      | .error x => .error x
      | .ok (v, t) => .ok (.next (t.landPlain d wbs (v.headD 0) 4)))

/-! ### Windows -/

/-- SMAP (22 R354). -/
def execSmap (f : OpAB) (len : BitVec 32) : State → Out :=
  runWord (.smap f len) f.g { hub := true } (fun s =>
    let p := s.src f.a
    let b := s.src f.b
    match checkScratch124 s.core p with
    | .error x => .error x
    | .ok a =>
      if !a.backed || decide (len.toNat < a.size) then .error (.flt (fltBounds p a.size))
      else if fld b.toNat 56 4 ≠ 0 then .error (.flt (fltAddr b 1))
      else if fld b.toNat 0 8 ≠ 0 then .error (.flt (fltAddr b 2))
      else
        .ok (.next (s.modCore (fun k => modAlloc (k.unmap a.id s.here.ord) a.id (fun a =>
          { a with window := some (fld b.toNat 0 56, len.toNat) })))))

/-- SUNMAP (22 R360). -/
def execSunmap (f : OpA) : State → Out :=
  runWord (.sunmap f) f.g { hub := true } (fun s =>
    let p := s.src f.a
    match checkScratch124 s.core p with
    | .error x => .error x
    | .ok a =>
      if !a.backed then .error (.flt (fltBounds p a.size)) else .ok (.next (s.modCore (fun k => k.unmap a.id s.here.ord))))

/-- Checks 1 and 2 of LOCK and UNLOCK: the allocation and its window. -/
def checkRange (k : Core) (p len : Word) : Except Stop (Alloc × Nat) :=
  match checkScratch124 k p with
  | .error x => .error x
  | .ok a =>
    match (if a.backed then a.window else none) with
    | none => .error (.flt (fltBounds p a.size))
    | some (g, n) => if n < ptrOff p + len.toNat then .error (.flt (fltBounds p a.size)) else .ok (a, g)

/-- The lines of the range of LOCK and UNLOCK: none of an empty one. -/
def rangeLines (off n : Nat) : List Nat := if n = 0 then [] else linesOf off n

/-- The status of LOCK (21 R323). A row holds the two lines of 256 window bytes, so two lines map to one row where their
256-byte blocks differ and the rows do not. (DEDUCED, log 27.) -/
def lockStatus (k : Core) (a : Alloc) (ls : List Nat) : Nat :=
  let lo := ls.headD 0 / 2
  let hi := (ls.getLast?.getD 0) / 2
  let clash (p : Nat) : Bool := ls.any (fun l => rowOf a l == rowOf a p && l / 2 != p / 2)
  let mine := (k.ctx k.cur).pins
  if ls.isEmpty then 0
  else if decide (a.size / 256 ≤ hi - lo) || (pinnedLines k a).any clash then 2
  else if Config.pinQuota < mine.length + (ls.filter (fun l => !mine.contains (a.id, l))).length then 1
  else 0

/-- LOCK (21 R323): pins and fills; a fill in the background is taken as done (DESIGN CHOICE, log 5). -/
def execLock (f : AluRR) : State → Out :=
  runWord (.lock f) f.g { hub := true } (fun s =>
    let p := s.src f.a
    let len := s.src f.b
    match checkRange s.core p len with
    | .error x => .error x
    | .ok (a, g) =>
      let ls := rangeLines (ptrOff p) len.toNat
      let chk : Chk := { wr := false, poison := false, tag := false, race := false }
      if ls.isEmpty then .ok (.next (s.landReg f.d 0 4))
      else
        match checkVirtual s s.root p (g + 128 * ls.headD 0) (128 * ls.length) chk none none 0 with
        | .error x => .error x
        | .ok (ps, t) =>
          let st := lockStatus s.core a ls
          let pin (k : Core) : Core :=
            let k1 := k.modCtx k.cur (fun c =>
              { c with pins := c.pins ++ (ls.filter (fun l => !c.pins.contains (a.id, l))).map (fun l => (a.id, l)) })
            modAlloc (k1.healFills a.id (128 * ls.headD 0) ps) a.id (fun a => touchLines k1 s.core.nowAt false a (128 * ls.headD 0) ps)
          .ok (.next ((if st = 0 then (t.snoopReads (some a.id) ps).modCore pin else t).landReg f.d (w64 st) 4)))

/-- UNLOCK (23 R370): at the end of its cycle, so that a LOCK of the same cycle is decided as if it had not issued; in merged mode it
drops the pins of any of the three contexts. -/
def execUnlock (f : OpAB) : State → Out :=
  runWord (.unlock f) f.g { hub := true } (fun s =>
    match checkRange s.core (s.src f.a) (s.src f.b) with
    | .error x => .error x
    | .ok (a, _) =>
      let ls := rangeLines (ptrOff (s.src f.a)) (s.src f.b).toNat
      .ok (.next (s.landLater [.unpin (if s.core.merged then [.L, .C, .S] else [s.core.cur]) a.id ls])))

/-! ### Rings -/

/-- An identity that no ring of the core or of its checkpoint has. -/
def Core.freshRing (k : Core) : Nat := 1 + ((k.rings ++ k.ckpt.rings).map (·.uid)).foldl max 0

/-- The number that RINGI at issue gives: the lowest free one (08 R159); in replay, to a ring made before, its own again (22 R347). -/
def State.ringNumber (s : State) : Option Nat :=
  let used := (s.core.rings.filter (fun r => r.ended.isNone)).map (·.num)
  let mine := s.core.ringLog.find? (fun e => s.core.again && e.1 == s.here.ord && e.2.1 == s.lpc && e.2.2.1 == s.here.occ s.here.ord s.lpc)
  ((mine.map (·.2.2.2)).filter (fun n => !used.contains n)).or (leastFree used 8)

/-- RINGI (22 R344). -/
def execRingi (f : AluRR) : State → Out :=
  runWord (.ringi f) f.g { hub := true } (fun s =>
    let p := s.src f.a
    let b := (s.src f.b).toNat
    let sz := fld b 0 16
    let ns := fld b 16 7
    match checkScratch124 s.core p with
    | .error x => .error x
    | .ok a =>
      if fld b 23 41 ≠ 0 ∨ sz = 0 ∨ ns < 2 ∨ 64 < ns then .error (.flt fltIllegal)
      else if a.backed || (s.core.ringOf a.id).isSome || ptrOff p != 0 || decide (a.size < ns * sz * 256) then
        .error (.flt (fltBounds p a.size))
      else
        match s.ringNumber with
        | none => .ok (.next (s.landReg f.d Config.allOnes 4))
        | some n =>
          let r : Ring :=
            { num := n, alloc := a.id, slotsz := sz, nslot := ns, rels := 0, filled := 0, pend := [], tag := ptrTag p, exps := [], fills := [],
              reader := .C, made := s.here.ord, ended := none, uid := s.core.freshRing }
          let log := (s.here.ord, s.lpc, s.here.occ s.here.ord s.lpc, n)
          .ok (.next ((s.modCore (fun k =>
            { k with rings := k.rings ++ [r], ringLog := log :: k.ringLog.filter (· != log) })).landReg f.d (w64 n) 4)))

/-- The scratch pointer of the slot at RD (20 R291). -/
def Ring.pointer (k : Core) (r : Ring) : Word :=
  let tag := ((k.alloc r.alloc).map (fun a => a.tag.toNat)).getD 0
  w64 (tag * 2 ^ 60 + r.alloc.toNat * 2 ^ 24 + r.rd * r.slotsz * 256)

/-- AWAITF (20 R291): journalled; replay takes the pointer from the journal and does not block. -/
def execAwaitf (n : BitVec 3) (f : OpD) : State → Out :=
  runWord (.awaitf n f) f.g { hub := true } (fun s => drained s (
    match s.core.ring n.toNat with
    | none => .error (.flt (fltRing n.toNat))
    | some r =>
      if r.filled = 0 ∧ s.journalHit.isNone then .ok (.block s)
      else
        match journalled s (fun s => .ok ([r.pointer s.core], s)) with
        | .error x => .error x
        | .ok (v, t) =>
          let fill (n : Nat) : Bool := r.fills.contains (r.rels, n)
          let t1 := t.modCore (fun k => (modRing k r.num (fun r => { r with reader := s.core.cur })).acquired .tci fill)
          .ok (.next (t1.syncDone.landReg f.d (v.headD 0) 4))))

/-- Run-ahead pins of a ring slot are released (07 R150). -/
def Core.releaseAhead (k : Core) (n slot : Nat) : Core :=
  { k with allocs := k.allocs.map (fun a => { a with ahead := a.ahead.filter (fun x => x.2 != (n, slot)) }) }

/-- RELS (22 R341). In replay it does not block: a slot whose fill is still under way goes Free. -/
def execRels (g : Guard) (n : BitVec 3) : State → Out :=
  runWord (.rels g n) g { hub := true } (fun s => drained s (
    match s.core.ring n.toNat with
    | none => .error (.flt (fltRing n.toNat))
    | some r =>
      if r.filled = 0 ∧ !s.core.inReplay then .ok (.block s)
      else
        let free (r : Ring) : Ring :=
          { r with rels := r.rels + 1, filled := r.filled - 1, pend := r.pend.filter (fun p => p.pos != r.rels), reader := s.core.cur, fills := r.fills.filter (fun f => decide (r.rels < f.1)) }
        .ok (.next ((s.modCore (fun k => (modRing k r.num free).releaseAhead r.num r.rd)).syncDone))))

end Sys2Proof.Machine
end

