-- ==== Sys2Proof/Machine/Engines.lean ====
section
/-! DEFINITION. The copy and send engines: when an entry begins (08 R154, R167), its chunks (08 R157, R158, R161), its
completion (08 R154, R160), the three stages of a SEND (08 R169), and how an engine raises a fault (07 R133, 02 R408). -/

namespace Sys2Proof.Machine

/-! ### Entries of the focused core -/

def Core.entry (k : Core) (ch : ChainId) (num : Nat) : Option Entry := (k.chain ch).entries.find? (fun e => e.num == num)

def Core.modEntry (k : Core) (ch : ChainId) (num : Nat) (f : Entry → Entry) : Core :=
  k.modChain ch (fun c => { c with entries := mapIf (fun e => e.num == num) f c.entries })

/-- Entries may begin: not once a rebuild or the end of the task has been called for (02 R38, 20 R280), nor while the clock is
held (03 R64). -/
def Core.beginning (k : Core) : Bool :=
  !k.throttled && match k.phase with
  | .run | .replay _ | .handler _ | .retry _ => true
  | _ => false

/-- Begun entries go on in every phase but a stop for `tdb`; not while the clock is held (03 R64). -/
def Core.working (k : Core) : Bool :=
  !k.throttled && match k.phase with
  | .stopped _ _ => false
  | _ => true

/-- Appended logically before the checkpoint that the step record holds (02 R408). -/
def Core.closedEntry (k : Core) (ch : ChainId) (num : Nat) : Bool := decide (num ≤ k.ckpt.tline.getD (chainCode ch) 0)

/-- What an engine does for an entry is counted for the context that appended it (17 R261); its translation misses are traced with the
appending word (15 R240; 02 R43). -/
def State.asEntry (s : State) (e : Entry) (f : State → State) : State :=
  let t := f (s.modCore (fun k => { k with cur := e.ctx }))
  (s.traceWalks t (if e.merged then 3 else s.sliceCode e.ctx, e.spc) e.lpc).modCore (fun k => { k with cur := s.core.cur })

/-! ### A fault of an entry (07 R133; 02 R38, R408) -/

/-- The 12 bytes of the word at a logical PC, for AUX of an illegal instruction. -/
def State.wordAt (s : State) (lpc : Word) : Bytes :=
  match s.core.task with
  | some t => (devRead s s.root (t.img.pimg + lpc).toNat 12).getD []
  | none => []

/-- The pending fault that an entry's fault makes. An early one names the checkpoint (02 R408). -/
def State.pendEntry (s : State) (ch : ChainId) (e : Entry) (f : Flt) : Pend :=
  let early := s.core.closedEntry ch e.num
  let flt := if f.code = 0x10 then { f with aux := pad (s.wordAt e.lpc) 16 } else f
  { why := .fault, flt := flt, step := if early then s.core.ckpt.idx else e.step,
    ord := e.ord, lpc := if early then s.core.ckpt.lpc else e.lpc, occ := e.occ,
    slice := if early || e.merged || s.core.merged then 3 else s.sliceCode e.ctx, spc := e.spc, eng := some (ch, e.num),
    merged := s.core.merged, early := early, time := s.m.now }

/-- Withdraw a faulting entry and all later ones of its engine (07 R133); an early one alone, since the end of the task deals
with the others (02 R408). (DEDUCED, log 28.) -/
def Core.withdrawFrom (k : Core) (ch : ChainId) (num : Nat) (early : Bool) : Core :=
  k.modChain ch (fun c => { c with entries := c.entries.filter (fun e => decide (e.num < num) || (early && e.num != num)) })

/-- A second fatal fault of a task whose end is dumped (17 R265): in the context being dumped it cuts that dump, which CORE_DUMP ends with
TRUNC set; in another context, or once the dump is written, it queues a dump of its own. -/
def State.secondFatal (s : State) (e : Entry) (st : Word) (dump : List Ctx) (record : Bytes) : State :=
  if (dumpFor st).isEmpty then s
  else
    s.modCore (fun k =>
      if dump.head? = some e.ctx then { k with cutDump := k.cutDump ++ [record] }
      else { k with phase := .ending st (dump ++ [.L, .C, .S]), fatal := k.fatal ++ [record] })

/-- THE one operation that raises a fault of an engine entry: a rebuild is called for, whether the core runs sliced or
merged. In a handler it is code 0x22, unless the entry belongs to a closed step. While a rebuild or the end of the task is
already under way the entry is withdrawn, and only a fault of a closed step takes the place of the pending one. -/
def State.engineFault (s : State) (ch : ChainId) (e : Entry) (f : Flt) : State :=
  let p := s.pendEntry ch e f
  let s1 := (s.countMisses f).modCore (fun k => k.withdrawFrom ch e.num p.early)
  let call := s1.modCore (fun k => { k with phase := .pend p })
  -- once a stop saves, an entry of a discarded step is only withdrawn
  if s.core.stop.any (·.saving) && !p.early then s1
  else
  match s.core.phase with
  | .run | .retry _ | .replay _ => call
  | .handler _ => if p.early then call else s1.handlerFault p
  | .pend q => if p.early && !q.early then call else s1
  | .ending st dump => ((s1.noteFault p f.code).secondFatal e st dump (faultRecord p f.code (s.core.c.get 1) (s.core.c.get 2))).settleEnd
  | .rebuilt _ | .stopped _ _ => s1

/-- An engine access meets watchpoints (17 R263): the task stops for `tdb` in the logical view, and is told of the appending
word, the chain, the NUMBER, the chunk and the watchpoints. The entry is withdrawn as for a fault. At an entry of a closed step the
stop is at the checkpoint, since no logical stop can reach the appending word (DEDUCED, log 30). -/
def State.engineStop (s : State) (ch : ChainId) (e : Entry) (p : Word) (points : List (Word × Word)) (lane : Nat) : State :=
  let closed := s.core.closedEntry ch e.num
  let q := { s.pendEntry ch e { code := 0, addr := p, lane := lane, aux := aux0 } with why := .stop false, early := false }
  let c := s.core.ckpt
  let t := if closed then { q with ord := c.ord - 1, occ := 0 } else q
  let r : StopRec := { core := s.core.num, slice := t.slice, lpc := e.lpc, spc := e.spc, tag := Config.allOnes, points := points,
                       entry := some (ch, e.num, lane), vals := [] }
  let s1 := (s.traceAt 5 (t.slice, e.spc) e.lpc (leBytes 8 0 ++ leBytes 8 p.toNat)).modM (fun m => { m with stops := m.stops ++ [r] })
  s1.modCore (fun k => { k.withdrawFrom ch e.num closed with phase := if k.inHandler then k.stopPhase t else .pend t })

/-- The context whose watchpoints an entry's accesses meet, in running and in replay; none for one that replay appends again after
it had completed, and none while a stop or a rebuild is under way, since the task stops once (DEDUCED, log 30). -/
def Core.watching (k : Core) (e : Entry) : Option Ctx :=
  if k.debugger = .none ∨ e.exempt then none
  else match k.phase with
    | .run | .handler _ | .retry _ | .replay _ => some e.ctx
    | _ => none

/-- EARLY_ENGINE_FAULT (02 R408): the record, then the end of the task as ABORT ends it. -/
def execEarlyEngineFault (ch : ChainId) : State → Out :=
  runEvent (fun s =>
    match s.core.phase with
    | .pend p => if p.early && (p.eng.map (·.1)) == some ch then s.failTask p p.flt.code else s
    | _ => s)

/-! ### ENGINE_ENTRY_BEGIN (08 R154, R167) -/

/-- The bounding byte range of an entry in a space, and whether it writes there (08 R167). In scratch the bytes are those of the
core's memory; those of an access through a window start at the allocation's base, as its offset says (DESIGN CHOICE, log 103). -/
def Entry.bound (k : Core) (sp : EngSpace) (e : Entry) : Option (Nat × Nat × Bool) :=
  let base (r : Range) : Nat := if sp = .scratch then ((k.allocs.find? (fun a => a.id == r.id && a.parked.isNone)).map (·.base)).getD 0 else 0
  match (e.ranges.filter (fun r => r.space == sp)).map (fun r => (base r + r.lo, base r + r.hi, r.wr)) with
  | [] => none
  | x :: rs => some (rs.foldl (fun a b => (min a.1 b.1, max a.2.1 b.2.1, a.2.2 || b.2.2)) x)

/-- Two entries overlap in a space where either one writes. -/
def clashes (k : Core) (a b : Entry) : Bool :=
  [EngSpace.scratch, EngSpace.regs].any (fun sp =>
    match a.bound k sp, b.bound k sp with
    | some (lo, hi, w), some (lo', hi', w') => (w || w') && decide (lo < hi') && decide (lo' < hi)
    | _, _ => false)

def Core.allEntries (k : Core) : List Entry := chainIds.flatMap (fun c => (k.chain c).entries)

/-- May the engine begin this entry? Matrix entries one by one, in order; copies and SENDs eight at a time. R154 lets these
complete in any order and does not say in which order they begin: here, in queue order (DESIGN CHOICE, log 83). -/
def mayBegin (k : Core) (ch : ChainId) (e : Entry) : Bool :=
  let q := (k.chain ch).entries
  let first := (q.find? (fun x => !x.begun)).map (·.num) == some e.num
  let room := if ch = .tmx then q.all (fun x => !x.begun) else decide ((q.filter (·.begun)).length < 8)
  let mine := k.allEntries.filter (fun x => x.ctx == e.ctx)
  let table := e.ranges.isEmpty || decide ((mine.filter (fun x => x.begun && !x.ranges.isEmpty)).length < Config.forwardMax)
  let after := mine.all (fun x => decide (e.seq ≤ x.seq) || !clashes k x e)
  k.beginning && !e.begun && first && room && table && after

def execEngineEntryBegin (ch : ChainId) (num : Nat) : State → Out :=
  runEvent (fun s =>
    match s.core.entry ch num with
    | none => s
    | some e => if mayBegin s.core ch e then s.modCore (fun k => k.modEntry ch num (fun e => { e with begun := true })) else s)

/-! ### Chunks of a COPY (08 R157, R158) -/

/-- Where a chunk's bytes lie: a checked target, or a register-space offset. -/
inductive Spot where
  | mem (t : Target)
  | regs (o : Nat)
  deriving DecidableEq, Repr

/-- Add a signed distance to an engine pointer; for scratch TAG and ID stay (07 R131). -/
def engAdd (k : Core) (sp : EngSpace) (p : Word) (d : Int) (lane : Nat) : Except Stop Word :=
  match sp with
  | .scratch =>
    match scratchAdd p d with
    | some q => .ok q
    | none => .error (.flt (fltOutside k p lane ((ptrOff p : Int) + d) 16))
  | _ => globalAdd p (p + BitVec.ofInt 64 d) lane

/-- The pointer itself, where the sum is one. -/
def engAt (k : Core) (sp : EngSpace) (p : Word) (d : Int) : Word := ((engAdd k sp p d 0).toOption).getD p

/-- Register-space bytes from a base pointer and a distance: bits above 18 of the pointer must be zero (08 R156), and the
bytes must lie in the space. R156 names no fault for a bit that is not zero, and R133 no check: here it is the address fault
with REASON 1, as of other reserved pointer bits (DESIGN CHOICE, log 84). -/
def regSpot (p : Word) (d : Int) (n lane : Nat) : Except Stop Spot :=
  let o : Int := (p.toNat : Int) + d
  let at' := p + BitVec.ofInt 64 d
  if fld p.toNat 19 45 ≠ 0 then .error (.flt (fltAddr p 1 lane))
  else if fld at'.toNat 0 4 ≠ 0 then .error (.flt (fltAddr at' 2 lane))
  else if o < 0 ∨ (Config.regSpace : Int) < o + n then .error (.flt (fltAddr at' 6 lane))
  else .ok (.regs o.toNat)

/-- The watchpoints that an engine access meets. -/
def engPoints (s : State) (w : Option Ctx) (sp : Space) (p : Word) (n : Nat) (wr : Bool) : List (Word × Word) :=
  match w with
  | some c => metPoints s c sp p n wr
  | none => []

/-- An access that an engine is about to perform. -/
structure EngAccess where
  sp : EngSpace
  p : Word
  n : Nat
  wr : Bool

/-- The watchpoints that one meets; register space has none. -/
def EngAccess.points (s : State) (w : Option Ctx) (a : EngAccess) : List (Word × Word) :=
  match a.sp with
  | .global => engPoints s w .global a.p a.n a.wr
  | .scratch => engPoints s w .scratch a.p a.n a.wr
  | .regs => []

/-- The check that follows every check of R133, of accesses that are performed together: one stop names all the watchpoints that they
meet, at the first access that meets one (17 R263). -/
def engWatch {α : Type} (s : State) (w : Option Ctx) (l : List EngAccess) (x : α) : Except Stop α :=
  match l.find? (fun a => !(a.points s w).isEmpty) with
  | none => .ok x
  | some a => .error (.watch a.p ((l.flatMap (EngAccess.points s w)).eraseDups))

/-- Check n bytes of an engine access at pointer + distance by R133, 16-byte aligned. -/
def engSpot (s : State) (slice : Ctx) (sp : EngSpace) (p : Word) (d : Int) (n : Nat) (wr : Bool) (who : Option Who)
    (lane : Nat) : Except Stop (Spot × State) :=
  match sp with
  | .regs =>
    match regSpot p d n lane with
    | .error x => .error x
    | .ok x =>
      let o := ((p.toNat : Int) + d).toNat
      match (if wr then none else badRow s.core.badRegs o n) with
      | some b => .error (.flt (fltPoison (w64 o) b lane 2))
      | none => .ok (x, s)
  | _ =>
    match engAdd s.core sp p d lane with
    | .error x => .error x
    | .ok q =>
      let bits := if sp = .global then fld q.toNat 56 4 else fld q.toNat 32 28
      if bits ≠ 0 then .error (.flt (fltAddr q 1 lane))
      else if fld q.toNat 0 4 ≠ 0 then .error (.flt (fltAddr q 2 lane))
      else
        let space : Space := if sp = .global then .global else .scratch
        (checkSpace s slice space q n { wr := wr } who none lane).map (fun r => (.mem r.1, r.2))

def readSpot (s : State) (n : Nat) : Spot → Bytes
  | .mem t => readTarget s t
  | .regs o => s.core.rsRun o n

def performReadSpot (s : State) (who : Option Who) : Spot → State
  | .mem t => performRead s who none t
  | .regs _ => s

def writeSpot (s : State) (who : Option Who) (bs : Bytes) : Spot → State
  | .mem t => performWrite s who s.unchecked none bs t
  | .regs o => s.modCore (fun k => k.rsPut o bs)

/-- First byte of the source in its space for chunk k. -/
def Nest.sPos (n : Nest) (k : Nat) : Int := ptrStart n.ssp n.src + n.sAt k

/-- The destination of chunk k as checked bytes, and the pointer to it. A ring fill lies within its slot and carries the ring's tag (07
R139, 08 R160). -/
def destSpot (s : State) (e : Entry) (n : Nest) (k : Nat) (who : Option Who) : Except Stop (Spot × Word × State) :=
  let slice : Ctx := if e.merged then .S else e.ctx
  match e.ring with
  | none =>
    let d := n.dPos 0 k - ptrStart n.dsp n.dst
    (engSpot s slice n.dsp n.dst d n.c true who k).map (fun r => (r.1, engAt s.core n.dsp n.dst d, r.2))
  | some (num, slot) =>
    let id := ((e.ranges.find? (·.wr)).map (·.id)).getD 0
    let (tag, size) : BitVec 4 × Nat := match s.core.ring num with
      | some r => (r.tag, r.slotsz * 256)
      | none => (0, 0)
    let o := n.dPos (slot * size) k
    let p := w64 (tag.toNat * 2 ^ 60 + id.toNat * 2 ^ 24)
    match scratchAdd p o with
    | none => .error (.flt (fltOutside s.core p k o 16))
    | some q =>
      if fld q.toNat 0 4 ≠ 0 then .error (.flt (fltAddr q 2 k))
      else if o < (slot * size : Nat) ∨ ((slot + 1) * size : Nat) < o + n.c then .error (.flt (fltOutside s.core q k))
      else
        (checkSpace s slice .scratch q n.c { wr := true } who none k).map (fun r => (.mem r.1, q, r.2))

/-- Byte j of a run is one that the same entry writes: those source bytes are unspecified (08 R157). -/
def selfWritten (n : Nest) (base : Nat) (sameSpace : Bool) (a : Int) : Bool :=
  sameSpace && (List.range (prodList n.count)).any (fun k => decide (n.dPos base k ≤ a) && decide (a < n.dPos base k + n.c))

/-- Source and destination lie in one space, and in scratch in one allocation. (DEDUCED, log 37.) -/
def sameSpace (e : Entry) (n : Nest) : Bool :=
  n.ssp == n.dsp && (n.ssp != .scratch || ((e.ranges.find? (·.wr)).map (·.id)) == some (ptrId n.src))

/-- The bytes of chunk k as read: unspecified where the entry writes them itself (DESIGN CHOICE, log 4). -/
def chunkBytes (s : State) (e : Entry) (n : Nest) (base k : Nat) (bs : Bytes) : Bytes :=
  if sameSpace e n then
    bs.zipIdx.map (fun x => if selfWritten n base true (n.sPos k + x.2) then Config.freeByte s.m.free x.2 else x.1)
  else bs

/-- Bytes that a later chunk, in nest order, has already written stay (08 R157). -/
def keepLater (e : Entry) (n : Nest) (base k : Nat) (old new : Bytes) : Bytes :=
  let later := (e.done.filter (fun j => decide (k < j))).map (n.dPos base)
  if later.isEmpty then new
  else
    let covered (a : Int) : Bool := later.any (fun d => decide (d ≤ a) && decide (a < d + n.c))
    (old.zip new).zipIdx.map (fun x => if covered (n.dPos base k + x.2) then x.1.1 else x.1.2)

/-- Lines that a copy-in has filled from a window, allocation `id`, for a ring slot are pinned until its RELS (07 R150). -/
def pinAhead (before after : Core) (id : BitVec 8) (slot : Nat × Nat) : Core :=
  let had (l : Line) : Bool := (before.alloc id).any (fun b => b.holdsLine before.nowAt l.num)
  modAlloc after id (fun a => { a with ahead := a.ahead ++ (a.lines.filter (fun l => !had l)).map (fun l => (l.num, slot)) })

/-- The first chunk of an entry of a step sets the layout tag (08 R158). -/
def Alloc.relayout (ord : Nat) (l : BitVec 14) (a : Alloc) : Alloc :=
  if a.layout = l then a else { (a.noteFor ord (fun u => { u with layout := l })) with layout := l }

/-- Perform chunk k of a COPY. -/
def copyChunk (s : State) (ch : ChainId) (e : Entry) (k : Nat) : State :=
  let n := nestOf e.body
  let who := s.engineWho e
  let base := match e.ring with
    | some (num, slot) => ((s.core.ring num).map (fun r => slot * r.slotsz * 256)).getD 0
    | none => 0
  let slice : Ctx := if e.merged then .S else e.ctx
  let checked : Except Stop (Spot × Spot × State) :=
    match engSpot s slice n.ssp n.src (n.sAt k) n.c false who k with
    | .error x => .error x
    | .ok (a, s1) =>
      match destSpot s1 e n k who with
      | .error x => .error (x.after s s1)
      | .ok (b, q, s2) =>
        engWatch s (s.core.watching e)
          [{ sp := n.ssp, p := engAt s.core n.ssp n.src (n.sAt k), n := n.c, wr := false }, { sp := n.dsp, p := q, n := n.c, wr := true }] (a, b, s2)
  match checked with
  | .error (.flt f) => s.engineFault ch e f
  | .error (.watch p points) => s.engineStop ch e p points k
  | .error (.cow va) => s.copyFirst va
  | .error _ => s
  | .ok (a, b, s1) =>
    let got := chunkBytes s1 e n base k (readSpot s1 n.c a)
    let s2 := performReadSpot s1 who a
    let s3 := match e.ring with
      | some r => if n.ssp = .scratch then s2.modCore (fun c => pinAhead s1.core c (ptrId n.src) r) else s2
      | none => s2
    let s4 := writeSpot s3 who (keepLater e n base k (readSpot s3 n.c b) got) b
    let s5 := if n.dsp = .scratch ∧ e.done = [] then
        let id := ((e.ranges.find? (·.wr)).map (·.id)).getD 0
        s4.modCore (fun c => modAlloc c id (Alloc.relayout e.ord n.layout))
      else s4
    let s6 := if sameSpace e n then s5.modM (fun m => { m with free := m.free + 1 }) else s5
    s6.modCore (fun c => (c.modEntry ch e.num (fun e =>
      { e with done := k :: e.done, first := some (e.first.getD s.core.nowAt) })).count 5 1)

/-- COPY_CHUNK: any chunk of a begun entry that is still to be done. -/
def execCopyChunk (ch : ChainId) (num : Nat) (k : Nat) : State → Out :=
  runEvent (fun s =>
    match s.core.entry ch num with
    | none => s
    | some e =>
      if s.core.working && e.begun && e.kind == .copy && decide (k < prodList (nestOf e.body).count) && !e.done.contains k then
        s.asEntry e (fun s => copyChunk s ch e k)
      else s)

/-! ### Chunks of a WBLD (08 R161) -/

/-- Chunks of 256 bytes; the last ends at LEN. -/
def wbldChunks (e : Entry) : Nat := (le e.body 12 4 + 255) / 256

/-- Perform chunk k of a WBLD. -/
def wbldChunk (s : State) (e : Entry) (k : Nat) : State :=
  let n := min 256 (le e.body 12 4 - 256 * k)
  let who := s.engineWho e
  let p := w64 (le e.body 0 8) + w64 (256 * k)
  let checked : Except Stop (Target × State) :=
    match checkSpace s e.ctx .global p n { wr := false } who none k with
    | .error x => .error x
    | .ok r => engWatch s (s.core.watching e) [{ sp := .global, p := p, n := n, wr := false }] r
  match checked with
  | .error (.flt f) => s.engineFault .tci e f
  | .error (.watch p points) => s.engineStop .tci e p points k
  | .error (.cow va) => s.copyFirst va
  | .error _ => s
  | .ok (t, s1) =>
    let bs := readTarget s1 t
    (performRead s1 who none t).modCore (fun c =>
      { c.modEntry .tci e.num (fun e => { e with done := k :: e.done }) with
        wb := c.wb.putRun (le e.body 8 4 + 256 * k) bs, badWeights := healed c.badWeights (le e.body 8 4 + 256 * k) bs.length })

/-- WBLD_CHUNK. Its chunks are no copy chunks for the counter of R259 (DEDUCED, log 29). -/
def execWbldChunk (num : Nat) (k : Nat) : State → Out :=
  runEvent (fun s =>
    match s.core.entry .tci num with
    | none => s
    | some e =>
      if s.core.working && e.begun && e.kind == .wbld && decide (k < wbldChunks e) && !e.done.contains k then
        s.asEntry e (fun s => wbldChunk s e k)
      else s)

/-! ### Completion (08 R154, R160) -/

/-- Steps or passes an entry takes before it completes. -/
def entryWork (e : Entry) : Nat :=
  match e.kind with
  | .copy => prodList (nestOf e.body).count
  | .wbld => wbldChunks e
  | .mma => prodList (tableOf e.body).count
  | .aclr | .adrain => 1
  | .send | .marker => 0

/-- Outer levels whose COUNT exceeds 1 step by the extent of the levels inside them (07 R144). -/
def packedOuter : Nat → List Nat → List Int → Bool
  | _, [], _ => true
  | _, _, [] => true
  | ext, c :: cs, d :: ds => (c == 1 || d == (ext : Int)) && packedOuter (ext * c) cs ds

/-- R144: is the entry a fresh fill of `size` bytes from offset 0? (DEDUCED, log 34.) -/
def freshFill (n : Nest) (start size : Nat) : Bool :=
  start == 0 && n.dstr.headD 0 == (n.c : Int)
    && packedOuter (n.c * n.count.headD 1) (n.count.drop 1) (n.dstr.drop 1) && n.c * prodList n.count == size

/-- The first assigned slots whose fills have completed become Filled (08 R160). -/
def settlePend (now : Nat) : Ring → List PendSlot → Ring
  | r, [] => { r with pend := [] }
  | r, p :: ps =>
    match p.done with
    | some f => settlePend now { r with filled := r.filled + 1, exps := r.exps ++ [(p.pos, f + Config.retention)] } ps
    | none => { r with pend := p :: ps }

def Ring.settle (r : Ring) (now : Nat) : Ring := settlePend now r r.pend

/-- A freed allocation is gone once its step has closed and no entry names it (22 R347). -/
def Core.reap (k : Core) : Core :=
  let named (id : BitVec 8) : Bool := k.allEntries.any (fun e => e.ranges.any (fun r => r.space == .scratch && r.id == id))
  { k with allocs := k.allocs.filter (fun a => match a.freed with
      | some st => decide (k.ckpt.ord ≤ st) || named a.id
      | none => true) }

/-- A fresh fill of a step renews a private allocation (07 R144). -/
def Alloc.refill (ord expiry : Nat) (a : Alloc) : Alloc :=
  { (a.noteFor ord (fun u => { u with expiry := expiry })) with expiry := expiry, expired := false }

/-- What the completion of a COPY does to its destination: to the ring whose slot waits for it, one that SFREE has ended in an open step
too. -/
def Core.copyDone (k : Core) (e : Entry) (now : Nat) : Core :=
  let n := nestOf e.body
  let f := e.first.getD now
  match e.ring with
  | some _ =>
    let mark (p : PendSlot) : PendSlot := if p.num = e.num then { p with done := some f } else p
    { k with rings := mapIf (fun r => r.pend.any (fun p => p.num == e.num)) (fun r => ({ r with pend := r.pend.map mark } : Ring).settle now)
               k.rings }
  | none =>
    if n.dsp = .scratch then
      modAlloc k (ptrId n.dst) (fun a =>
        if !a.backed && freshFill n (ptrOff n.dst) a.size then a.refill e.ord (f + Config.retention) else a)
    else k

/-- Write accumulators of 4 bytes: a 64-bit word of which both are written holds no error any more. -/
def Core.putAccs (k : Core) (l : List (Nat × Nat)) : Core :=
  let whole (w : Nat) : Bool := l.any (fun r => r.1 == 8 * w) && l.any (fun r => r.1 == 8 * w + 4)
  l.foldl (fun k r => k.rsPut r.1 (leBytes 4 r.2)) { k with badRegs := k.badRegs.filter (fun w => !whole w) }

/-- Integer accumulators are written back at the end of the command (06 R123). -/
def Core.mmaDone (k : Core) (e : Entry) : Core :=
  let sat := (tableOf e.body).sat
  let clamp (v : Int) : Nat := if sat then wrap (max (-2147483648) (min 2147483647 v)) 32 else wrap v 32
  k.putAccs (e.regs.map (fun r => (r.1, clamp r.2)))

def execEngineEntryCompletion (ch : ChainId) (num : Nat) : State → Out :=
  runEvent (fun s =>
    match s.core.entry ch num with
    | none => s
    | some e =>
      if s.core.working && e.begun && e.kind != .send && decide (entryWork e ≤ e.done.length) then
        let k := match e.kind with
          | .copy => s.core.copyDone e s.core.nowAt
          | .mma => s.core.mmaDone e
          | _ => s.core
        State.settleEnd { s with core := (k.modChain ch (fun c => c.finish num)).reap }
      else s)

/-! ### SEND (08 R169, 22 R349) -/

/-- A SEND's remote part succeeds or fails on another module: a free value (DESIGN CHOICE, log 4). -/
def remoteFails (s : State) : Bool := (Config.freeWord s.m.free).getLsbD 0

def Entry.remote (e : Entry) : Bool := bitOf (le e.body 38 2) 8

/-- A stage of a SEND fails: it completes as failed (22 R349). -/
def State.sendFailed (s : State) (num : Nat) (code : BitVec 8) : State :=
  s.modCore (fun k => k.modEntry .tsx num (fun e => { e with failed := some code }))

/-- The payload of a SEND. -/
def sendPayload (s : State) (e : Entry) : State :=
  let len := le e.body 28 4
  let who := s.engineWho e
  let done (s : State) : State := s.modCore (fun k => k.modEntry .tsx e.num (fun e => { e with done := [1] }))
  let sp := engSpace (fld (le e.body 38 2) 0 2)
  let dst := w64 (le e.body 0 8)
  let read : EngAccess := { sp := sp, p := e.src, n := len, wr := false }
  let write : EngAccess := { sp := .global, p := dst, n := len, wr := true }
  let checked : Except Stop (Spot × Option Target × State) :=
    match engSpot s .S sp e.src 0 len false who 0 with
    | .error x => .error x
    | .ok (src, s1) =>
      if e.remote then engWatch s (s.core.watching e) [read] (src, none, s1)
      else
        match checkSpace s1 .S .global dst len { wr := true } who none 0 with
        | .error x => .error (x.after s s1)
        | .ok (t, s2) => engWatch s (s.core.watching e) [read, write] (src, some t, s2)
  match checked with
  | .error (.flt f) => (s.countMisses f).sendFailed e.num 0x43
  | .error (.watch p points) => s.engineStop .tsx e p points 0
  | .error (.cow va) => s.copyFirst va
  | .error _ => s
  | .ok (src, none, s1) =>
    let s2 := (performReadSpot s1 who src).modM (fun m => { m with free := m.free + 1 })
    if remoteFails s then s2.sendFailed e.num 0x41 else done s2
  | .ok (src, some t, s1) => done (performWrite (performReadSpot s1 who src) who s.unchecked none (readSpot s1 len src) t)

/-- SEND_PAYLOAD: the payload is read on the sending core and written at DST. -/
def execSendPayload (num : Nat) : State → Out :=
  runEvent (fun s =>
    match s.core.entry .tsx num with
    | none => s
    | some e =>
      if s.core.working && e.begun && e.kind == .send && e.done.isEmpty && e.failed.isNone then
        s.asEntry e (fun s => sendPayload s e)
      else s)

/-- The release of a flag add, at system scope (08 R169, 10 R185): of the payload, and of the writes before the append, which
closed the region before the entry's own. The task's order cache is taken as it stands at the flag add (DEDUCED, log 17). A flag that
is a notify register takes the sum `v` (12 R205). -/
def releaseEntry (s : State) (e : Entry) (t : Target) (v : Word) : State :=
  match s.core.task, t.pieces.head? with
  | some tk, some p =>
    let es : List Known := { task := tk.num, region := e.region - 1, engs := e.region, owes := e.owes } :: tk.sight.cache
    let sn : Snap := { addr := p.pa, size := 8, agent := some tk.agent, die := s.core.die, scopes := [.system], entries := es,
                       evicted := tk.sight.evicted }
    (s.modM (fun m => m.putSnap sn)).notified p.pa 8 v (some (es, tk.sight.evicted))
  | _, _ => s

/-- SEND_FLAG_ADD: one atomic add of ADDEND, after every payload byte. -/
def execSendFlagAdd (num : Nat) : State → Out :=
  runEvent (fun s =>
    match s.core.entry .tsx num with
    | none => s
    | some e =>
      let flag := w64 (le e.body 8 8)
      if !(s.core.working && e.begun && e.kind == .send && e.done == [1] && e.failed.isNone && flag != 0) then s
      else
        let done (s : State) : State := s.modCore (fun k => k.modEntry .tsx num (fun e => { e with done := [2, 1] }))
        s.asEntry e (fun s =>
        if e.remote then
          let s1 := s.modM (fun m => { m with free := m.free + 1 })
          if remoteFails s then s1.sendFailed num 0x41 else done s1
        else
          let who := s.engineWho e
          match checkSpace s .S .global flag 8 { wr := true, align := true } who (some 8) 0 with
          | .error (.flt f) => (s.countMisses f).sendFailed num 0x43
          | .error (.cow va) => s.copyFirst va
          | .error _ => s
          | .ok (t, s1) =>
            let v := (leNat (readTarget s1 t) + le e.body 16 8) % 2 ^ 64
            done (releaseEntry (performWrite s1 who s.unchecked (syncKey t 8) (leBytes 8 v) t) e t (w64 v))))

/-- SEND_COMPLETION: tsx advances; a failed SEND is reported item by item (15 R254). -/
def execSendCompletion (num : Nat) : State → Out :=
  runEvent (fun s =>
    match s.core.entry .tsx num with
    | none => s
    | some e =>
      let need := if le e.body 8 8 = 0 then 1 else 2
      if !(s.core.working && e.begun && e.kind == .send && (e.failed.isSome || e.done.length == need)) then s
      else
        let reps : List Report := match e.failed with
          | some c => [{ code := c, core := s.core.num, chain := some .tsx, num := num }]
          | none => []
        State.settleEnd ((s.modM (fun m => { m with reports := m.reports ++ reps })).modCore (fun k =>
          (k.modChain .tsx (fun c => c.finish num)).reap)))

end Sys2Proof.Machine
end

