-- ==== Sys2Proof/Machine/Matrix.lean ====
section
/-! DEFINITION. The matrix engine: a pass of an MMA with its checks (08 R161 to R165), forming and summing products (06 R117
to R123), and the execution of ACLR and ADRAIN (08 R166, 20 R282, R285). -/

namespace Sys2Proof.Machine

/-! ### Faults of a pass (15 R242) -/

/-- Layout fault: kind 1 a misaligned block start, 2 a tag mismatch. -/
def fltLayout (p : Word) (layout tag : BitVec 14) (kind lane : Nat) : Flt :=
  { code := 0x16, addr := p, lane := lane, aux := pad (leBytes 4 layout.toNat ++ leBytes 4 tag.toNat ++ leBytes 1 kind) 16 }

/-- Weight-format fault: the reason and the weight-buffer offset. -/
def fltWeight (reason : Nat) (off : Int) : Flt :=
  { code := 0x17, addr := 0, lane := 0, aux := pad (leBytes 1 reason ++ leBytes 3 (wrap off 24)) 16 }

/-! ### The A operand -/

/-- Check runs of scratch bytes as reads: the targets, and the accesses that they are. -/
def checkRuns (s : State) (e : Entry) (p : Word) (lane : Nat) : List (Nat × Nat) → Except Stop (List (Target × EngAccess) × State)
  | [] => .ok ([], s)
  | (o, n) :: r =>
    match scratchAdd p ((o : Int) - ptrOff p) with
    | none => .error (.flt (fltOutside s.core p lane))
    | some q =>
      match checkSpace s e.ctx .scratch q n { wr := false } (s.engineWho e) none lane with
      | .error x => .error x
      | .ok (t, s1) => (checkRuns s1 e p lane r).map (fun x => ((t, { sp := .scratch, p := q, n := n, wr := false }) :: x.1, x.2))

/-- One row of A as fetched: its bytes as a number, and its block scales. -/
structure ARow where
  bits : Nat
  scales : Bytes
  deriving DecidableEq, Repr

/-- The pointer of row i of a pass. -/
def rowPtr (k : Core) (t : Table) (a : Word) (i : Nat) : Except Stop Word :=
  match scratchAdd a (i * t.pitch : Nat) with
  | some p => .ok p
  | none => .error (.flt (fltOutside k a i))

/-- Fetch row i: its data, then its scales (08 R165 step 3). Each fetch meets its watchpoints after all of its checks (17 R263). -/
def fetchRow (s : State) (e : Entry) (t : Table) (bits : Nat) (a : Word) (i : Nat) : Except Stop (ARow × State) :=
  match rowPtr s.core t a i with
  | .error x => .error x
  | .ok p =>
    match checkRuns s e p i (t.runs (ptrOff p) ((t.ke * bits + 7) / 8)) with
    | .error x => .error x
    | .ok (runs, s1) =>
    match engWatch s (s.core.watching e) (runs.map (·.2)) (runs.map (·.1)) with
    | .error x => .error x
    | .ok ts =>
      let data := ts.flatMap (readTarget s1)
      let s2 := ts.foldl (fun s t => performRead s (s.engineWho e) none t) s1
      if !t.ascl then .ok ({ bits := leNat data, scales := [] }, s2)
      else
        match scratchAdd t.ascale (8 * ptrOff p / (32 * bits) : Nat) with
        | none => .error (.flt (fltOutside s.core t.ascale i))
        | some q =>
          match checkSpace s2 e.ctx .scratch q ((t.ke + 31) / 32) { wr := false } (s2.engineWho e) none i with
          | .error x => .error x
          | .ok (st, s3) =>
            match engWatch s2 (s.core.watching e) [{ sp := .scratch, p := q, n := (t.ke + 31) / 32, wr := false }] st with
            | .error x => .error x
            | .ok st =>
            .ok ({ bits := leNat data, scales := readTarget s3 st }, performRead s3 (s3.engineWho e) none st)

def fetchRows (s : State) (e : Entry) (t : Table) (bits : Nat) (a : Word) : List Nat → Except Stop (List ARow × State)
  | [] => .ok ([], s)
  | i :: r =>
    match fetchRow s e t bits a i with
    | .error x => .error x
    | .ok (row, s1) => (fetchRows s1 e t bits a r).map (fun x => (row :: x.1, x.2))

/-! ### The B tile (08 R161, R162) -/

/-- A byte of the weight buffer; one that no WBLD loaded is unspecified (07 R152, DESIGN CHOICE, log 4). -/
def Core.weight (k : Core) (o : Nat) : Byte := (Cells.find k.wb o).getD (Config.freeByte k.wbGen o)

def Core.weights (k : Core) (o : Nat) : Nat → Bytes
  | 0 => []
  | n + 1 => k.weight o :: Core.weights k (o + 1) n

/-- A decompressed tile: the codes of column n, row k at `cols[n][k]`, its scales, its side lists. -/
structure Tile where
  cols : List (List Nat)
  scales : Bytes
  side : Bytes
  outl : Bool
  /-- Bytes that the fetch reads. -/
  size : Nat
  deriving DecidableEq, Repr

def up16 (n : Nat) : Nat := (n + 15) / 16 * 16

/-- Escapes of one block of one column (06 R118). -/
def escapes (col : List Nat) (b : Nat) : Nat := (((col.drop (32 * b)).take 32).filter (· == 8)).length

/-- Fetch and check the tile at a weight-buffer offset (08 R162): rows 0 to KE − 1 of it, or the reason of the weight-format
fault. The 10 bits of KB − 1 go up to 1,024 rows, where R161 says 512 and R162 lists no fault: such a tile is taken as it says
(DESIGN CHOICE, log 102). -/
def fetchTile (k : Core) (t : Table) (fb : Fmt) (wb : Int) : Except Nat Tile :=
  if wb < 0 ∨ 0xFFFFF < wb then .error 8
  else
    let o := wb.toNat
    let half := 524288
    if half < o % half + 16 then .error 6
    else
      let h := leNat (k.weights o 16)
      let len := fld h 32 32
      let kb := fld h 16 10 + 1
      let scl := bitOf h 4
      let outl := bitOf h 5
      let nb := (kb + 31) / 32
      let scLen := if scl then up16 (128 * nb) else 0
      let daLen := up16 (kb * 16 * fb.bits)
      let siLen := if outl then 1024 * nb else 0
      if fld h 6 10 ≠ 0 ∨ fld h 26 6 ≠ 0 ∨ fld h 64 64 ≠ 0 ∨ len < 16 ∨ len % 16 ≠ 0 then .error 1
      else if fld h 0 4 ≠ fb.code.toNat then .error 2
      else if outl && fb != .e2m1 then .error 3
      else if scl != t.bscl then .error 4
      else if kb < t.ke then .error 5
      else if half < o % half + len ∨ len < 16 + scLen + daLen + siLen then .error 6
      else
        let row (r : Nat) : Nat := leNat (k.weights (o + 16 + scLen + r * 16 * fb.bits) (16 * fb.bits))
        let rows := (List.range kb).map row
        let cols := (List.range 128).map (fun n => rows.map (fun r => r / 2 ^ (fb.bits * n) % 2 ^ fb.bits))
        if outl && cols.any (fun c => (List.range nb).any (fun b => decide (4 < escapes c b))) then .error 7
        else .ok { cols := cols.map (·.take t.ke), scales := k.weights (o + 16) scLen, side := k.weights (o + 16 + scLen + daLen) siLen, outl := outl,
                   size := 16 + scLen + daLen + siLen }

/-! ### Products and their sum (06 R120 to R122) -/

def Sum.zero : Sum := { nan := false, pinf := false, ninf := false, m := 0, e := 0 }

def Sum.addFinite (a : Sum) (m e : Int) : Sum :=
  if m = 0 then a
  else if a.m = 0 then { a with m := m, e := e }
  else
    let e0 := min a.e e
    { a with m := a.m * 2 ^ (a.e - e0).toNat + m * 2 ^ (e - e0).toNat, e := e0 }

def Sum.add (a : Sum) (v : Val) : Sum :=
  match v with
  | .nan _ => { a with nan := true }
  | .inf n => if n then { a with ninf := true } else { a with pinf := true }
  | .fin n m e => a.addFinite (if n then -(m : Int) else m) e
  | .lns _ _ => a

/-- Multiply by 2^k. -/
def Sum.scale (a : Sum) (k : Int) : Sum := { a with e := a.e + k }

def Sum.join (a b : Sum) : Sum :=
  ({ a with nan := a.nan || b.nan, pinf := a.pinf || b.pinf, ninf := a.ninf || b.ninf } : Sum).addFinite b.m b.e

/-- The value of a sum; an exact zero is +0. -/
def Sum.val (a : Sum) : Val :=
  if a.nan || (a.pinf && a.ninf) then .nan false
  else if a.pinf then .inf false
  else if a.ninf then .inf true
  else .fin (decide (a.m < 0)) a.m.natAbs a.e

/-- T[f] of R121. -/
def lnsTable : List Nat := [0x10000, 0x1172C, 0x13070, 0x14BFE, 0x16A0A, 0x18ACE, 0x1AE8A, 0x1D582]

/-- A product of two operand elements (06 R120, R121): LNS exponents stand in units of 1/8. -/
def product (a b : Val) : Val :=
  match a, b with
  | .lns n1 k1, .lns n2 k2 =>
    let v := k1 + k2
    .fin (n1 != n2) (lnsTable.getD (v % 8).toNat 0) (v / 8 - 16)
  | .lns _ _, .fin _ _ _ => .fin false 0 0
  | .fin _ _ _, .lns _ _ => .fin false 0 0
  | _, _ => (mulVal a b).1

/-- The walk of R120 over one block: `ents` are the side-list entries still to be taken. -/
def blockGo (fa fb : Fmt) (outl : Bool) (sum : Sum) (out : Sum) (ents : List Nat) : List (Nat × Nat) → Sum × Sum
  | [] => (sum, out)
  | (a, b) :: r =>
    let av := value fa a
    if outl && b == 8 then
      blockGo fa fb outl sum (out.add (product av (value .bf16 (ents.headD 0)))) (ents.drop 1) r
    else blockGo fa fb outl (sum.add (product av (value fb b))) out ents r

/-- Side-list entries of block b of column n. -/
def Tile.list (t : Tile) (b n : Nat) : List Nat := (List.range 4).map (fun j => le t.side (1024 * b + 8 * n + 2 * j) 2)

/-- K-elements of a K-block (06 R120). -/
def kBlock (fa fb : Fmt) : Nat := if max fa.bits fb.bits = 16 then 8 else 32

/-- Escapes of column n that lie in the side-list block of element k0 before it. (DEDUCED, log 36.) -/
def escapesBefore (col : List Nat) (k0 : Nat) : Nat :=
  (((col.drop (k0 / 32 * 32)).take (k0 % 32)).filter (· == 8)).length

def KPart.none : KPart := { sum := Sum.zero, sa := 127, sb := 127 }

/-- The w K-elements of a pass from k0 on, which lie in one block of the tile, join a K-block: their part of `blk` of R120. -/
def blockPart (fa fb : Fmt) (tile : Tile) (as : List Nat) (n : Nat) (b : KPart) (k0 w : Nat) : KPart :=
  let col := tile.cols.getD n []
  let ents := (tile.list (k0 / 32) n).drop (escapesBefore col k0)
  let pairs := ((as.drop k0).take w).zip ((col.drop k0).take w)
  let (s, o) := blockGo fa fb tile.outl Sum.zero Sum.zero ents pairs
  if b.sa = 255 ∨ b.sb = 255 then { b with sum := { b.sum with nan := true } }
  else { b with sum := b.sum.join ((s.scale (b.sa + b.sb - 254)).join (o.scale ((b.sa : Int) - 127))) }

/-- A K-block that starts at element k0 of a pass, with the scales that stand there (06 R117, 08 R164). -/
def KPart.start (t : Table) (tile : Tile) (row : ARow) (n k0 : Nat) : KPart :=
  { sum := Sum.zero, sa := if t.ascl then (row.scales.getD (k0 / 32) 0).toNat else 127,
    sb := if t.bscl then (tile.scales.getD (128 * (k0 / 32) + n) 0).toNat else 127 }

/-- A K-block is whole: the only rounding of R120. -/
def roundBlock (acc : Nat) (b : KPart) : Nat :=
  (roundTo .fp32 { mode := .rne, seed := 0, lpc := 0, step := 0 } 0 (addEx .rne (value .fp32 acc) b.sum.val).1).1

/-- Accumulate one element over a pass, in FP32 (06 R120). K-blocks are counted from the command's first K-element: `pos` of them
came before this pass, `b` is the block they left under way, and the command's last block may be partial. -/
def accumulate (fa fb : Fmt) (t : Table) (tile : Tile) (row : ARow) (as : List Nat) (n pos : Nat) (last : Bool) (acc : Nat × KPart) :
    Nat × KPart :=
  let w := kBlock fa fb
  let one (x : Nat × KPart) (q : Nat × Nat) : Nat × KPart :=
    let b := if q.1 % w = 0 then KPart.start t tile row n (q.1 - pos) else x.2
    let b1 := (cutAt 32 (q.1 - pos) q.2).foldl (fun b c => blockPart fa fb tile as n b c.1 c.2) b
    if (q.1 + q.2) % w = 0 then (roundBlock x.1 b1, KPart.none) else (x.1, b1)
  let r := (cutAt w pos t.ke).foldl one acc
  if last && (pos + t.ke) % w != 0 then (roundBlock r.1 r.2, KPart.none) else r

/-- Accumulate one element of an integer pair exactly (06 R123). -/
def accumulateInt (fa fb : Fmt) (tile : Tile) (as : List Nat) (n : Nat) (acc : Int) : Int :=
  ((as.zip (tile.cols.getD n [])).map (fun p => sgn p.1 fa.bits * sgn p.2 fb.bits)).foldl (· + ·) acc

/-! ### MMA_PASS (08 R164, R165) -/

/-- ACC element index of pass p. -/
def Table.elem (t : Table) (p : Nat) : Int := (t.acc : Int) + nestSum (nestPoint t.count p) t.istep

/-- What a pass has checked and fetched. -/
structure PassIn where
  fa : Fmt
  fb : Fmt
  kind : PairKind
  addr : Nat
  rows : List ARow
  tile : Tile
  deriving DecidableEq, Repr

/-- Checks 4 and 5 of R165. -/
def checkLayout (k : Core) (t : Table) (bits : Nat) (a : Word) : Except Stop Unit :=
  let tag := ((k.alloc (ptrId a)).map (·.layout)).getD 0
  let crooked (i : Nat) : Bool := 8 * (ptrOff a + i * t.pitch) % (32 * bits) != 0
  match (if t.ascl then (List.range t.me).find? crooked else none) with
  | some i => .error (.flt (fltLayout ((scratchAdd a (i * t.pitch : Nat)).getD a) t.layout tag 1 i))
  | none => if t.layout ≠ tag then .error (.flt (fltLayout a t.layout tag 2 0)) else .ok ()

/-- The checks of a pass, in the order of R165, and its operands. -/
def passCheck (s : State) (e : Entry) (t : Table) (p : Nat) : Except Stop (PassIn × State) :=
  match t.fmta, t.fmtb with
  | some fa, some fb =>
    let kind := (pairKind fa fb).getD .float
    let el := t.elem p
    let addr : Int := (viewBase t.view : Int) + 65536 * el
    if viewKind t.view ≠ 3 ∨ viewFmt t.view ≠ (if kind = .int then 12 else 0) then .error (.flt fltIllegal)
    else if el < 0 ∨ 255 < el ∨ (Config.regSpace : Int) < addr + 65536 then
      .error (.flt (fltAddr (BitVec.ofInt 64 addr) 6))
    else
      match scratchAdd t.abase (nestSum (nestPoint t.count p) t.astep) with
      | none => .error (.flt (fltOutside s.core t.abase))
      | some a =>
        match fetchRows s e t fa.bits a (List.range t.me) with
        | .error x => .error x
        | .ok (rows, s1) =>
          match checkLayout s.core t fa.bits a with
          | .error x => .error x
          | .ok _ =>
            let wb := (t.wbase : Int) + nestSum (nestPoint t.count p) t.wstep
            match fetchTile s1.core t fb wb with
            | .error r => .error (.flt (fltWeight r wb))
            | .ok tile =>
              match badRow s1.core.badWeights wb.toNat tile.size with
              | some o => .error (.flt (fltPoison (w64 wb.toNat) o 0 Config.weightSpace.toNat))
              | none => .ok ({ fa := fa, fb := fb, kind := kind, addr := addr.toNat, rows := rows, tile := tile }, s1)
  | _, _ => .error (.flt fltIllegal)

/-- The new accumulators of a pass, in the order of (i, n), with their K-blocks under way: `old` holds them before it. -/
def passValues (x : PassIn) (t : Table) (pos : Nat) (last : Bool) (old : List (Int × KPart)) : List (Int × KPart) :=
  let bits := x.fa.bits
  let one (ia : Nat × ARow) : List (Int × KPart) :=
    let as := (List.range t.ke).map (fun k => ia.2.bits / 2 ^ (bits * k) % 2 ^ bits)
    (List.range t.ne).map (fun n =>
      let o := old.getD (t.ne * ia.1 + n) (0, KPart.none)
      if x.kind = .int then (accumulateInt x.fa x.fb x.tile as n o.1, o.2)
      else
        let r := accumulate x.fa x.fb t x.tile ia.2 as n pos last (o.1.toNat, o.2)
        ((r.1 : Int), r.2))
  (x.rows.zipIdx.map (fun r => (r.2, r.1))).flatMap one

/-- Values of the accumulators before a pass: kept from an earlier pass of the command, or +0 for OVW, or read. -/
def passOld (s : State) (e : Entry) (x : PassIn) (t : Table) (seen : Bool) : List (Int × KPart) :=
  let mine (a : Nat) : Bool := decide (x.addr ≤ a) && decide (a < x.addr + 65536)
  if seen then ((e.regs.filter (fun r => mine r.1)).map (·.2)).zip ((e.parts.filter (fun r => mine r.1)).map (·.2))
  else
    (List.range t.me).flatMap (fun i => (List.range t.ne).map (fun n =>
      let v := leNat (s.core.rsRun (accAddr x.addr i n) 4)
      (if t.ovw then 0 else if x.kind = .int then sgn v 32 else (v : Int), KPart.none)))

/-- The accumulators that a pass reads hold no double-bit error (15 R251): after its other checks (DESIGN CHOICE, log 81). -/
def checkAcc (s : State) (x : PassIn) (t : Table) (seen : Bool) : Except Stop Unit :=
  if t.ovw || seen then .ok ()
  else
    match (List.range t.me).findSome? (fun i => (badRow s.core.badRegs (accAddr x.addr i 0) (4 * t.ne)).map (fun o => (i, o))) with
    | some (i, o) => .error (.flt (fltPoison (w64 x.addr) o i 2))
    | none => .ok ()

/-- Pass p of an MMA. -/
def mmaPass (s : State) (e : Entry) (p : Nat) : State :=
  let t := tableOf e.body
  let before := (List.range p).filter (fun q => t.elem q == t.elem p)
  let checked : Except Stop (PassIn × State) :=
    match passCheck s e t p with
    | .error x => .error x
    | .ok (x, s1) => (checkAcc s1 x t (!before.isEmpty)).map (fun _ => (x, s1))
  match checked with
  | .error (.flt f) => s.engineFault .tmx e f
  | .error (.watch q points) => s.engineStop .tmx e q points p
  | .error (.cow va) => s.copyFirst va
  | .error _ => s
  | .ok (x, s1) =>
    let later := (List.range (prodList t.count - p - 1)).any (fun q => t.elem (p + 1 + q) == t.elem p)
    let vals := passValues x t (t.ke * before.length) (!later) (passOld s1 e x t (!before.isEmpty))
    let keys := (List.range t.me).flatMap (fun i => (List.range t.ne).map (fun n => accAddr x.addr i n))
    let other (a : Nat) : Bool := decide (a < x.addr) || decide (x.addr + 65536 ≤ a)
    let write := x.kind != .int && !later
    let k1 := if write then s1.core.putAccs (keys.zip (vals.map (·.1.toNat))) else s1.core
    let regs := e.regs.filter (fun r => other r.1) ++ (if write then [] else keys.zip (vals.map (·.1)))
    let parts := e.parts.filter (fun r => other r.1) ++ (if write then [] else keys.zip (vals.map (·.2)))
    { s1 with core := (k1.modEntry .tmx e.num (fun e => { e with done := p :: e.done, regs := regs, parts := parts })).count 4 1 }

/-- MMA_PASS: the next pass of a begun MMA. A float accumulator is written when its last pass is done, an integer one at
the completion (06 R123): a word sees old or new bytes (08 R168). (DEDUCED, log 35.) -/
def execMmaPass (num : Nat) : State → Out :=
  runEvent (fun s =>
    match s.core.entry .tmx num with
    | none => s
    | some e =>
      if s.core.working && e.begun && e.kind == .mma && decide (e.done.length < prodList (tableOf e.body).count) then
        s.asEntry e (fun s => mmaPass s e e.done.length)
      else s)

/-! ### ACLR and ADRAIN -/

/-- Register-space bytes [lo, lo + n) become 0. -/
def Core.rsClear (k : Core) (lo n : Nat) : Core :=
  let c : Cells := List.filter (fun b => decide (b.1 < lo) || decide (lo + n ≤ b.1)) k.rs
  { k with rs := if k.rsGen.isNone then c else c.putRun lo (List.replicate n 0), badRegs := healed k.badRegs lo n }

/-- ACLR_EXECUTE (20 R282). -/
def execAclrExecute (num : Nat) : State → Out :=
  runEvent (fun s =>
    match s.core.entry .tmx num with
    | none => s
    | some e =>
      if s.core.working && e.begun && e.kind == .aclr && e.done.isEmpty then
        let a := fld (le e.body 0 4) 0 19
        s.modCore (fun k => (k.modEntry .tmx num (fun e => { e with done := [0] })).rsClear a (65536 * le e.body 4 2))
      else s)

/-- One row of ADRAIN's output: 128 elements packed (06 R113). -/
def drainRow (fmt src : Fmt) (rc : RCtx) (k : Core) (a i : Nat) : Bytes :=
  let code (n : Nat) : Nat :=
    (roundTo fmt rc (128 * i + n) (value src (leNat (k.rsRun (a + 4 * (128 * i + n)) 4))).exact).1
  leBytes (16 * fmt.bits) (((List.range 128).map (fun n => code n * 2 ^ (fmt.bits * n))).foldl (· + ·) 0)

/-- The rows of an ADRAIN, one after another: a row is read after the rows before it have been written (20 R285). -/
def drainRows (e : Entry) (k : Core) : Core :=
  let conv := le e.body 8 1
  let fmt := (Fmt.ofCode (BitVec.ofNat 4 conv)).getD .fp32
  let rc : RCtx :=
    { mode := (Rnd.ofCode (BitVec.ofNat 3 (conv / 16))).getD .rne, seed := w64 (le e.body 16 8),
      lpc := w64 (le e.body 24 8), step := w64 (le e.body 32 8) }
  let row (k : Core) (i : Nat) : Core :=
    k.rsPut (fld (le e.body 4 4) 0 19 + 16 * fmt.bits * i)
      (drainRow fmt (if bitOf conv 7 then .int32 else .fp32) rc k (fld (le e.body 0 4) 0 19) i)
  (List.range 128).foldl row k

/-- ADRAIN_EXECUTE (20 R285, R286). -/
def execAdrainExecute (num : Nat) : State → Out :=
  runEvent (fun s =>
    match s.core.entry .tmx num with
    | none => s
    | some e =>
      if !(s.core.working && e.begun && e.kind == .adrain && e.done.isEmpty) then s
      else
        let src := fld (le e.body 0 4) 0 19
        match badRow s.core.badRegs src 65536 with
        | some o => s.engineFault .tmx e (fltPoison (w64 src) o ((o - src) / 512) 2)
        | none => s.modCore (fun k => drainRows e (k.modEntry .tmx num (fun e => { e with done := [0] }))))

end Sys2Proof.Machine
end

