-- ==== Sys2Proof/Machine/Boundary.lean ====
section
/-! DEFINITION. The tile-step boundary: the walker (12 R213, R214), the step window and the step record (02 R32 to R35), what
a rebuild or a stop discards (02 R38, 08 R160, 22 R347, 12 R217), the return to sliced execution (02 R42), and TSTEP. -/

namespace Sys2Proof.Machine

/-! ### The walker (12 R213, R214) -/

/-- Tiles of a parameter block. -/
def Params.total (p : Params) : Nat := prodList p.count

/-- Coordinates of tile t. -/
def Params.coords (p : Params) (t : Nat) : List Word :=
  let at' := nestPoint p.count t
  (List.range 6).map (fun j => p.cbase.getD j 0 + BitVec.ofInt 64 (nestSum at' ((p.cstep.drop (6 * j)).take 6)))

/-- Coordinates that TSTEP lands once the walker is exhausted (02 R32). -/
def noCoords : List Word := [Config.allOnes, 0, 0, 0, 0, 0]

/-- The next claim of a node: a returned tile, lowest first, else the next new one. -/
def Node.nextTile (n : Node) : Option Nat :=
  match n.returned with
  | t :: _ => some t
  | [] => if n.next < n.params.total then some n.next else none

/-- A tile is handed out. Replay mode may take one before a lower new one (17 R267): the tiles between are then still to be claimed. -/
def Node.hand (n : Node) (t : Nat) : Node :=
  if n.returned.contains t then { n with returned := n.returned.erase t }
  else if n.next ≤ t ∧ t < n.params.total then
    { n with next := t + 1, returned := ((List.range (t - n.next)).map (· + n.next)).foldl putTile n.returned }
  else n

def Module.taskNode (m : Module) (t : Task) : Option Node := m.node t.node

/-- Every tile has been claimed and none is held in return. -/
def Node.exhausted (n : Node) : Bool := n.nextTile.isNone

/-! ### Checkpoint bytes (02 R35, 08 R159) -/

/-- The 8 bytes of a ring's state. -/
def ringBytes (r : Ring) : Bytes :=
  leBytes 8 (r.alloc.toNat * 2 ^ 56 + r.slotsz % 65536 * 2 ^ 40 + r.nslot % 128 * 2 ^ 33 + r.rd % 64 * 2 ^ 27
    + r.filled % 128 * 2 ^ 20 + r.pend.length % 128 * 2 ^ 13 + 4096 + r.num % 8 * 512 + r.tag.toNat * 32)

/-- The 512 bytes of a step record. -/
def Ckpt.bytes (c : Ckpt) : Bytes :=
  pad (c.xs.flatMap (fun x => leBytes 8 x.toNat)) 256 ++ leBytes 8 c.idx.toNat ++ leBytes 8 c.lpc.toNat
    ++ pad (c.coords.flatMap (fun x => leBytes 8 x.toNat)) 48 ++ leBytes 8 c.alist.toNat
    ++ leBytes 8 (c.flags.toNat * 8 + c.round.toNat) ++ pad (c.tline.flatMap (leBytes 8)) 32 ++ leBytes 8 c.secNo.toNat
    ++ leBytes 8 c.seed.toNat ++ pad (c.rings.flatMap ringBytes) 64 ++ leBytes 64 0

/-! ### Parts (02 R34, R35) -/

/-- What the TSTEP of a context captures. `sec` is the number of the section before the step's TS section. -/
def State.capture (s : State) (c : Ctx) (mask : BitVec 32) (alist lpc : Word) (sec : BitVec 20) : Part :=
  let k := s.core
  { mask := mask, xs := (List.range 32).map (fun i => (k.ctx c).get (BitVec.ofNat 5 i)), flags := (k.ctx c).fflags,
    round := (k.ctx c).round, seed := k.seedNow, alist := alist, lpc := lpc, secNo := sec,
    appends := chainIds.map (fun ch => (k.chain ch).append), rings := k.rings }

def StepEntry.part (e : StepEntry) : Ctx → Option Part
  | .L => e.l
  | .C => e.c
  | .S => e.s

def StepEntry.setPart (e : StepEntry) (c : Ctx) (p : Part) : StepEntry :=
  match c with
  | .L => { e with l := some p }
  | .C => { e with c := some p }
  | .S => { e with s := some p }

/-- Rings live at boundary n: made before it and not ended before it. -/
def liveRings (k : Core) (n : Nat) : List Ring :=
  k.rings.filter (fun r => decide (r.made < n) && (match r.ended with
    | some e => decide (n ≤ e)
    | none => true))

/-- A ring as a part holds it; the ring itself where that part has none. -/
def ringIn (rs : List Ring) (r : Ring) : Ring := (rs.find? (fun x => x.uid == r.uid)).getD r

/-- A ring as the boundary sees it: read pointer of the slice that reads it, next-fill position of the slice that fills it;
Filled are the leading slots that are Filled now (02 R35). A slot that was, and that the reading slice has released since, counts as Filled
too: R35 does not say (DESIGN CHOICE, log 118). -/
def boundaryRing (r : Ring) (rd fill : List Ring) : Ring :=
  let lo := (ringIn rd r).rels
  let hi := (ringIn fill r).nextPos
  let top := min hi (r.rels + r.filled)
  let fills := ((ringIn rd r).fills ++ (ringIn fill r).fills ++ r.fills).eraseDups
  { r with rels := lo, filled := top - lo, pend := r.pend.filter (fun p => decide (p.pos < hi)),
           fills := fills.filter (fun f => decide (lo ≤ f.1 ∧ f.1 < hi)),
           exps := r.exps.filter (fun e => decide (lo ≤ e.1 ∧ e.1 < top)), ended := none }

/-- Rings in ascending ring number. -/
def sortRings (l : List Ring) : List Ring := l.foldl (fun acc r => insertBy Ring.num r acc) []

/-- The complete checkpoint of a step from the three parts. (DEDUCED, log 38.) -/
def assemble (k : Core) (t : Task) (e : StepEntry) (l c s : Part) : Ckpt :=
  let of' (x : Ctx) : Part := match x with
    | .L => l
    | .C => c
    | .S => s
  let reg (i : Nat) : Word :=
    if i = 0 then 0
    else if l.mask.getLsbD i then l.xs.getD i 0
    else if c.mask.getLsbD i then c.xs.getD i 0
    else if s.mask.getLsbD i then s.xs.getD i 0
    else 0
  { ord := e.ord, idx := e.idx, lpc := s.lpc, coords := e.coords, alist := s.alist, xs := (List.range 32).map reg,
    flags := l.flags ||| c.flags ||| s.flags, round := c.round, seed := (of' t.seedBy).seed, secNo := s.secNo,
    tline := [l.appends.getD 0 0, c.appends.getD 1 0, s.appends.getD 2 0, s.appends.getD 3 0],
    rings := sortRings ((liveRings k e.ord).map (fun r => boundaryRing r (of' r.reader).rings l.rings)),
    bsyncs := t.bsyncs }

/-! ### Closing a step (02 R34) -/

/-- What only the steps before the checkpoint needed is let go. -/
def Core.closeBefore (k : Core) (c : Ckpt) : Core :=
  let alloc (a : Alloc) : Alloc := { a with undo := a.undo.filter (fun u => decide (c.ord ≤ u.ord)) }
  let ctx (x : Context) : Context := { x with hist := x.hist.filter (fun h => decide (c.ord ≤ h.1)) }
  let ring (r : Ring) : Ring := { r with exps := r.exps.filter (fun e => decide ((ringIn c.rings r).rels ≤ e.1)) }
  let open' (r : Ring) : Bool := match r.ended with
    | some e => decide (c.ord ≤ e)
    | none => true
  let k1 := { (k.modAll ctx) with
    ckpt := c, window := k.window.filter (fun e => decide (c.ord ≤ e.ord)),
    journal := k.journal.filter (fun e => decide (c.ord ≤ e.ord)), replayed := k.replayed.filter (fun e => decide (c.ord ≤ e.ord)),
    allocs := k.allocs.map alloc, rings := (k.rings.filter open').map ring, nonIdem := false, rollbacks := 0,
    ringLog := k.ringLog.filter (fun e => decide (c.ord ≤ e.1)), redo := k.redo.filter (fun e => decide (c.ord ≤ e.1)) }
  k1.reap

/-- THE one operation that closes a step: the checkpoint is written to the step record, then the step before it closes. -/
def State.closeStep (s : State) (c : Ckpt) : State :=
  match s.core.task with
  | none => s
  | some t => ((devWrite s t.root t.recAddr.toNat c.bytes).modCore (fun k => k.closeBefore c)).flushRecords c.ord

/-! ### What a rebuild or a stop discards (02 R38 step 3; 08 R160; 22 R347) -/

/-- A ring set back to its recorded state and settled: slots whose fills have completed since are Filled. -/
def settleRing (now : Nat) (cur : List Ring) (r : Ring) : Ring :=
  let c := ringIn cur r
  let fix (p : PendSlot) : PendSlot :=
    match c.exps.find? (fun e => e.1 == p.pos), c.pend.find? (fun q => q.pos == p.pos) with
    | some e, _ => { p with done := some (e.2 - Config.retention) }
    | none, some q => { p with done := q.done }
    | none, none => p
  let renew (e : Nat × Nat) : Nat × Nat := ((c.exps.find? (fun x => x.1 == e.1)).getD e)
  ({ r with pend := r.pend.map fix, exps := r.exps.map renew } : Ring).settle now

def Core.restoredRings (k : Core) (now : Nat) : List Ring := k.ckpt.rings.map (settleRing now k.rings)

/-- Ids of a live allocation list (02 R32). -/
def alistIds (v : Word) : List (BitVec 8) := (List.range (fld v.toNat 56 8)).map (fun i => BitVec.ofNat 8 (v.toNat / 2 ^ (8 * i)))

/-- Live at the checkpoint: listed, or carrying a ring (02 R33). -/
def Ckpt.live (c : Ckpt) (id : BitVec 8) : Bool := (alistIds c.alist).contains id || c.rings.any (fun r => r.alloc == id)

/-- One allocation set back to the checkpoint: tag and window as then, and one that was freed since wholly as it stood, expiry and
layout tag too (22 R347); contents that are not live are unspecified (DESIGN CHOICE, log 4). R171 leaves open what the bytes of a ring's allocation outside its Filled and Pending slots hold then: here they stay as
they stand (DESIGN CHOICE, log 85). -/
def Alloc.setBack (c : Ckpt) (free : Nat) (a : Alloc) : Alloc :=
  let a1 : Alloc := { a with freed := match a.freed with
    | some f => if c.ord ≤ f then none else some f
    | none => none }
  let a2 : Alloc := match a1.undo.find? (fun u => decide (c.ord ≤ u.ord)) with
    | some u =>
      let same := decide (u.window = a1.window)
      let back := a.freed.isSome && a1.freed.isNone
      { a1 with tag := u.tag, window := u.window, lines := if same then a1.lines else [], ahead := if same then a1.ahead else [], undo := [],
                expiry := if back then u.expiry else a1.expiry, expired := a1.expired && !back,
                layout := if back then u.layout else a1.layout }
    | none => a1
  if c.live a.id || a.backed then a2
  else { a2 with data := [], zero := false, cleared := [], gen := free + a.id.toNat, layout := a2.layout }

/-- The allocations set back: those of the open steps are released, those freed in them are allocated again. -/
def Core.restoredAllocs (k : Core) (free : Nat) : List Alloc :=
  (k.allocs.filter (fun a => a.parked.isSome || decide (a.made < k.ckpt.ord))).map
    (fun a => if a.parked.isSome then a else a.setBack k.ckpt free)

/-- Entries appended since the checkpoint that are not yet issued are withdrawn; issued ones run on (02 R38 step 2). -/
def Core.withdrawOpen (k : Core) : Core :=
  chainIds.foldl (fun k ch => k.modChain ch (fun c =>
    { c with entries := c.entries.filter (fun e => e.begun || decide (e.num ≤ k.ckpt.tline.getD (chainCode ch) 0)) })) k

/-- Register space and weight buffer hold unspecified bytes from here on (02 R38; 07 R152; 15 R251). -/
def State.loseSpaces (s : State) : State :=
  let g := s.m.free
  (s.modCore (fun k => { k with rs := [], rsGen := some (g + 256), wb := [], wbGen := g + 257 })).modM
    (fun m => { m with free := g + 258 })

/-! ### A stop takes effect (12 R217; 15 R246) -/

/-- Claimed tiles return to the walker, in ascending step order (02 R48). -/
def State.returnTiles (s : State) : State :=
  match s.core.task with
  | none => s
  | some t =>
    (s.modM (fun m => modNode m t.node (fun n => { n with returned := (s.core.window.filterMap (·.tile)).foldl putTile n.returned }))).modCore
      (fun k => { k with window := [] })

/-- The task halts with the checkpoint of its step record: what it did after it is discarded, nothing runs, and the save
begins. -/
def State.beginSave (s : State) (mid : Bool) : State :=
  let now := s.m.now
  let free := s.m.free
  let s1 := s.returnTiles.modCore (fun k =>
    let rings := k.restoredRings now
    let keep (a : Alloc) : Bool := a.parked.isSome || a.freed.isSome || k.ckpt.live a.id
    let k1 := k.withdrawOpen
    let quietCtx (c : Context) : Context := { c with wait := none, woken := false, pins := [], monitor := none, trap := none, hist := [], held := none, pass := false, draining := false, full := false }
    { (k1.modAll quietCtx) with
      allocs := (k.restoredAllocs free).filter keep, rings := rings, ckpt := { k.ckpt with rings := rings }, flights := [], lates := [],
      journal := [], replayed := [], secAppends := [], nonIdem := false, svc := none, dir := [], phase := .run,
      stop := k.stop.map (fun r => { r with saving := true, midStep := mid }) })
  (s1.modTask (fun t => { t with bsyncs := s.core.ckpt.bsyncs, spent := s.core.ckpt.coords == noCoords,
                                 sight := (t.sight.setBack s.core.ckpt.ord).settled })).loseSpaces

/-! ### Return to sliced execution (02 R42) -/

/-- Byte offset of the TS section whose first word has a logical PC; a slice without one ends there. -/
def tsSectionGo (s : State) (sl : Slice) (lpc : Word) : Nat → Nat → Nat → Nat
  | 0, _, _ => sl.len
  | n + 1, pos, acc =>
    match devRead s s.root (sl.img.toNat + pos) 8, devRead s s.root (sl.idx.toNat + 4 * acc) 4 with
    | some h, some i =>
      if sl.len ≤ pos then sl.len
      else if bitOf (leNat h) 0 && 12 * fld (leNat i) 0 28 == lpc.toNat then pos
      else if hdrLen (leNat h) = 0 then sl.len
      else tsSectionGo s sl lpc n (pos + 8 + 12 * hdrLen (leNat h)) (acc + hdrLen (leNat h))
    | _, _ => sl.len

def tsSection (s : State) (sl : Slice) (lpc : Word) : Nat := tsSectionGo s sl lpc (sl.len / 20 + 1) 0 0

/-- A context loaded from a checkpoint: scalar registers, rounding mode and flags; latches and views are lost.
A register outside every mask reads 0. (DEDUCED, log 76.) -/
def Context.load (k : Context) (c : Ckpt) : Context :=
  let x := (Vector.range 32).map (fun i => if i = 0 then (0 : Word) else c.xs.getD i 0)
  ({ k with x := x, fflags := c.flags, round := c.round } : Context).loseLatches.loseViews

/-- The step before the one that a checkpoint opens. -/
def Ckpt.before (c : Ckpt) : Word := if c.coords = noCoords ∨ c.ord = 0 then c.idx else c.idx - 1

/-- A context that resumes at a section header for the step of a checkpoint. -/
def Context.resumeAt (k : Context) (c : Ckpt) (pos : Nat) : Context :=
  { k with pc := w64 pos, hdr := true, strings := [], secStart := pos, secEnd := pos, secNo := c.secNo, secDone := c.secNo,
           retired := c.secNo, last := false, ended := false, wait := none, woken := false, draining := false, full := false, trap := none, sbm := false,
           ord := c.ord - 1, step := c.before, hist := [], held := none, pass := false }

/-- All three contexts loaded from a checkpoint, at their TS sections. -/
def State.toSlices (s : State) (c : Ckpt) : State :=
  let pos (x : Ctx) : Nat := if c.ord = 0 then 0 else tsSection s (s.sliceOf x) c.lpc
  let go (k : Context) (x : Ctx) : Context := { (k.load c).resumeAt c (pos x) with issueAt := s.core.cyc + 1 }
  s.modCore (fun k =>
    { k with merged := false, returning := false, phase := .run, slot := .l, l := go k.l .L, c := go k.c .C, s := go k.s .S,
             flights := [], lates := [], secAppends := [],
             window := k.window.map (fun e => if e.ord = c.ord then { e with l := none, c := none, s := none } else e) })

/-! ### TSTEP (02 R32) -/

/-- The scratch-bounds fault of a live allocation list; it names an id, with the size of its allocation where it has one.
(DEDUCED, log 50.) -/
def fltAlist (k : Core) (id : BitVec 8) : Flt :=
  { fltBounds (w64 (id.toNat * 2 ^ 24)) (((k.alloc id).map (·.size)).getD 0) with addr := 0 }

/-- The checks of b. (DEDUCED, log 39.) -/
def checkAlist (k : Core) (v : Word) : Except Stop Unit :=
  let n := fld v.toNat 56 8
  if 7 < n then .error (.flt { fltBounds 0 0 with addr := 0 })
  else
    match (List.range 7).find? (fun i => decide (n ≤ i) && fld v.toNat (8 * i) 8 != 0) with
    | some i => .error (.flt (fltAlist k (BitVec.ofNat 8 (fld v.toNat (8 * i) 8))))
    | none =>
      match (alistIds v).find? (fun id => (k.alloc id).isNone) with
      | some id => .error (.flt (fltAlist k id))
      | none => .ok ()

/-- Chains that a context's TSTEP marks (08 R153). -/
def markedChains (merged : Bool) (c : Ctx) : List ChainId :=
  if merged then chainIds
  else match c with
    | .L => [.tci]
    | .C => [.tmx]
    | .S => [.tco, .tsx]

/-- Append a tile-start marker: a slot with NUMBER 0 and no append number. -/
def State.mark (s : State) (ch : ChainId) : State :=
  let c := s.core.chain ch
  (devWrite s s.root (c.seg.toNat + 128 * c.slot) (slotBytes .marker [] 0)).modCore (fun k =>
    k.modChain ch (fun c => { c with slot := c.slot + 1 }))

/-- The window entry of the step that the next TSTEP of a context opens. -/
def Core.nextEntry (k : Core) (c : Ctx) : Option StepEntry := k.window.find? (fun e => e.ord == (k.ctx c).ord + 1)

/-- Claim the next step for a context: a window entry with its tile, or one with the exhausted coordinates (02 R32). (DEDUCED, log 67.) -/
def State.claimTile (s : State) (c : Ctx) (tile : Option Nat) : State :=
  match s.core.task with
  | none => s
  | some t =>
    let x := s.core.ctx c
    let coords := match tile, s.m.taskNode t with
      | some i, some n => n.params.coords i
      | _, _ => noCoords
    let e : StepEntry :=
      { ord := x.ord + 1, idx := if tile.isSome then x.step + 1 else x.step, tile := tile, coords := coords, l := none,
        c := none, s := none }
    let s1 := s.modCore (fun k => { k with window := k.window ++ [e] })
    match tile with
    | some i => s1.modM (fun m => modNode m t.node (fun n => n.hand i))
    | none => s1.modTask (fun t => { t with spent := true })

/-- The tile that the walker gives next: none to a task that has met it exhausted (02 R32). -/
def State.walkerTile (s : State) : Option Nat :=
  match s.core.task with
  | some t => if t.spent then none else (s.m.taskNode t).bind Node.nextTile
  | none => none

/-- The tile of the next TSTEP of a context, with the journal of record and replay mode kept (17 R267). An entry that the
window already holds is not claimed again. -/
def State.claimStep (s : State) (c : Ctx) (lpc : Word) : Except Stop State :=
  let ord := (s.core.ctx c).ord + 1
  let claimed (s : State) (tile : Option Nat) : State := if (s.core.nextEntry c).isSome then s else s.claimTile c tile
  match s.core.task with
  | none => .ok s
  | some t =>
    if t.replay then
      let used (u : Nat × Nat) : Bool := u.2 == ord && (match journalAt s t u.1 with
        | some (l, _, _, _) => l == lpc
        | none => false)
      if t.jused.any used then .ok (claimed s s.walkerTile)
      else
        match recordedFor s lpc with
        | .none => .ok (claimed s s.walkerTile)
        | .diverges => .error .diverge
        | .entry i d0 _ => .ok (claimed (s.tookAs ord i) (if d0 = Config.allOnes then none else some d0.toNat))
    else
      let s1 := claimed s s.walkerTile
      let tile : Word := match (s1.core.nextEntry c).bind (·.tile) with
        | some i => w64 i
        | none => Config.allOnes
      if t.recBuf.any (fun e => e.ord == ord && e.lpc == lpc) then .ok s1
      else
        match recordAs s1 ord (some tile) 0 with
        | .error x => .error x
        | .ok u => .ok u

/-- The six coordinates land (latency 4). (DEDUCED, log 45.) -/
def State.landCoords (s : State) (d : BitVec 5) (wbs : Bool) (l : List Word) : State :=
  (l.zipIdx).foldl (fun s p => s.landPlain (d + BitVec.ofNat 5 p.2) wbs p.1 4) s

/-- The context has executed its TSTEP for a step. -/
def Context.opened (k : Context) (e : StepEntry) : Context := { k with ord := e.ord, step := e.idx }

/-- Number of the section before the step's TS section, at the TSTEP at issue. -/
def State.secBefore (s : State) : BitVec 20 :=
  if s.place = .plain ∧ !regionStart s s.here.pc then s.here.secNo else s.here.secNo - 1

/-- S's TSTEP, with all three parts: the checkpoint is written and the step before closes; a pending stop takes effect. -/
def State.finishStep (s : State) (n : Nat) : State :=
  match s.core.task, s.core.window.find? (fun e => e.ord == n) with
  | some t, some e =>
    match e.l, e.c, e.s with
    | some l, some c, some p => s.closeStep (assemble s.core t e l c p)
    | _, _, _ => s
  | _, _ => s

/-- TSTEP of one context in sliced execution. -/
def tstepSliced (d : BitVec 5) (wbs : Bool) (b : Src) (mask : BitVec 32) (s : State) : Except Stop Fin :=
  let c := s.core.cur
  let n := s.here.ord + 1
  let lpc := s.lpc
  let ready := match c, s.core.nextEntry c with
    | .L, some _ => true
    | .L, none => decide (s.core.window.length < Config.windowMax)
    | .C, e => e.isSome
    | .S, some e => e.l.isSome && e.c.isSome
    | .S, none => false
  if !ready then .ok (.block s)
  else if c = .S && s.leftBehind n lpc then .error .diverge
  else
    match (if c = .L then s.claimStep c lpc else .ok s) with
    | .error x => .error x
    | .ok s1 =>
      match s1.core.nextEntry c with
      | none => .ok (.block s)
      | some e =>
        let p := s.capture c mask (s.src b) lpc s.secBefore
        let s2 := s1.modCore (fun k => { k with window := mapIf (fun x => x.ord == n) (fun x => x.setPart c p) k.window })
        let s3 := (markedChains false c).foldl State.mark (s2.modHere (fun k => k.opened e))
        if c ≠ .S then .ok (.next (s3.landCoords d wbs e.coords))
        else
          let s4 := s3.finishStep n
          if s4.core.stop.isSome then .ok (.took ((s4.modCore (fun k => k.count 1 1)).beginSave false)) else .ok (.next (s4.landCoords d wbs e.coords))

/-- TSTEP in merged mode (22 R368): one word claims, writes the whole checkpoint and closes the step; then a pending stop
takes effect, or the core returns to its slices. -/
def tstepMerged (d : BitVec 5) (wbs : Bool) (b : Src) (mask : BitVec 32) (s : State) : Except Stop Fin :=
  let n := s.here.ord + 1
  let lpc := s.lpc
  let ord := s.here.ord
  match s.claimStep .C lpc with
  | .error x => .error x
  | .ok s1 =>
    match s1.core.nextEntry .C with
    | none => .error (.flt fltIllegal)
    | some e =>
      let p := { s.capture .C mask (s.src b) lpc s.secBefore with flags := s.core.allFlags }
      let s2 := s1.modCore (fun k =>
        { k with window := mapIf (fun x => x.ord == n) (fun x => { x with l := some p, c := some p, s := some p }) k.window })
      let s3 := ((chainIds.foldl State.mark s2).modHere (fun k => k.opened e)).finishStep n
      let back := s3.core.returning && (match s3.core.phase with
        | .run | .retry _ => true
        | _ => false)
      if s3.core.stop.isSome then .ok (.took ((s3.modCore (fun k => k.count 1 1)).beginSave false))
      else if back then .ok (.took ((s3.issued ord lpc).toSlices s3.core.ckpt))
      else .ok (.next (s3.landCoords d wbs e.coords))

/-- TSTEP (02 R32 to R35; 22 R368). -/
def execTstep (d : BitVec 5) (wbs : Bool) (b : Src) (mask : BitVec 32) : State → Out :=
  runWord (.tstep d wbs b mask) ⟨false, 0, 0⟩ { hub := true, handler := fun _ => true } (fun s => behindAppends s (
    match checkAlist s.core (s.src b) with
    | .error x => .error x
    | .ok _ =>
      if s.core.task.isNone then .error (.flt fltIllegal)
      else if (markedChains s.core.merged s.core.cur).any (fun ch => decide (31 ≤ (s.core.chain ch).slot)) then .error .wait
      else if s.core.merged then tstepMerged d wbs b mask s
      else tstepSliced d wbs b mask s))

end Sys2Proof.Machine
end

