-- ==== Sys2Proof/Machine/Barrier.lean ====
section
/-! DEFINITION. BSYNC: the gang barrier and reduction (20 R295, R296; 10 R184, R195). -/

namespace Sys2Proof.Machine

/-- The reduction of a BSYNC (20 R295). -/
def bsyncReduce (op : BsyncOp) (a b : Word) : Word :=
  match op with
  | .or => a ||| b
  | .and => a &&& b
  | .min => if a.toNat ≤ b.toNat then a else b
  | .max => if a.toNat ≤ b.toNat then b else a
  | .add => a + b

/-- The member that runs a task. -/
def Node.memberOf (n : Node) (task : BitVec 32) : Option Member := n.members.find? (fun x => x.task == task)

/-- Members still in the gang: one that ended by EXIT is left out (20 R296). -/
def Node.staying (n : Node) : List Member := n.members.filter (fun x => x.ended != some 0)

/-- A member has ended by ABORT or by a task-ending fault (20 R296). -/
def Node.broken (n : Node) : Bool := n.members.any (fun x => match x.ended with
  | some st => st != 0
  | none => false)

/-- Every member has arrived at its k-th BSYNC: the reduction by the op of the lowest member, and all snapshots. What the members
on other modules of a gang reduce to is a free value, with which the operands seen here are reduced (DESIGN CHOICE, logs 4, 49). -/
def Node.gather (n : Node) (k : Nat) (free : Word) : Option Gathered :=
  let stay := n.staying
  let arr := stay.filterMap (·.arrived)
  if arr.length ≠ stay.length ∨ arr.any (fun a => a.k != k) then none
  else
    let first := stay.foldl (fun (acc : Option Member) m => match acc with
      | some x => if m.idx < x.idx then some m else some x
      | none => some m) none
    let op := ((first.bind (·.arrived)).map (·.op)).getD .or
    match arr with
    | [] => none
    | a :: r =>
      let v := r.foldl (fun acc x => bsyncReduce op acc x.val) a.val
      some { k := k, val := if n.mods ≤ 1 then v else bsyncReduce op v free, entries := arr.flatMap (·.entries),
             evicted := arr.any (·.evicted) }

/-- A result for one BSYNC of the node. -/
def Node.gathered (n : Node) (k : Nat) : Option Gathered := n.results.find? (fun g => g.k == k)

/-- Arrive (or arrive again), and gather if every member has arrived. -/
def State.arriveBsync (s : State) (t : Task) (k : Nat) (op : BsyncOp) (v : Word) : State :=
  let a : Arrival := { k := k, op := op, val := v, entries := s.core.snapAt t t.region, evicted := t.sight.evicted }
  let put (n : Node) : Node :=
    let n1 : Node := { n with members := mapIf (fun x => x.task == t.num) (fun x => { x with arrived := some a }) n.members }
    match n1.gather k (Config.freeWord s.m.free) with
    | some g => { n1 with results := n1.results ++ [g], members := n1.members.map (fun x => { x with arrived := none }) }
    | none => n1
  s.modM (fun m => { (modNode m t.node put) with free := m.free + 1 })

/-- The reduction lands in all three contexts (03 R53). -/
def State.landBsync (s : State) (d : Dst) (v : Word) : State :=
  s.land { puts := if d.wbs then [] else [.reg .L d.reg v, .reg .C d.reg v, .reg .S d.reg v], lt := d.lt,
           cap := leBytes 8 v.toNat, lat := 4 }

/-- A replayed BSYNC takes its value from the journal: it is counted, and does nothing more (20 R296). -/
def State.bsyncAgain (s : State) (e : JEntry) : State :=
  (s.modTask (fun t => { t with bsyncs := t.bsyncs + 1 })).modCore (fun k =>
    { k with replayed := dropFirst e k.replayed, journal := k.journal ++ [e] })

/-- The word's completion: the race snapshots of all members merge, the count and the region advance, the value enters the
journal. (DEDUCED, log 48.) -/
def bsyncDone (s : State) (d : Dst) (g : Gathered) : Except Stop Fin :=
  let merge (t : Task) : Task := { t with sight := mergeSnap (some t.agent) t.sight g.entries g.evicted, bsyncs := g.k }
  match journalled s (fun s => .ok ([g.val], s.modTask merge)) with
  | .error x => .error x
  | .ok (v, t) => .ok (.next (t.syncDone.landBsync d (v.headD 0)))

/-- BSYNC in a gang: release, which covers the copy-outs and SENDs appended before (10 R182), then the barrier. -/
def bsyncBody (op : BsyncOp) (f : OpDA) : Body := fun s =>
  match s.core.task with
  | none => .error (.flt fltIllegal)
  | some t =>
    if t.pool then .error (.flt fltIllegal)
    else if let some e := s.journalHit then
      .ok (.next ((s.bsyncAgain e).landBsync f.d (e.vals.headD 0)))
    else if s.core.tco.counter ≠ s.core.tco.append ∨ s.core.tsx.counter ≠ s.core.tsx.append then .ok (.block s)
    else
      let k := t.bsyncs + 1
      match s.m.taskNode t with
      | none =>
        bsyncDone s f.d { k := k, val := s.src f.a, entries := [], evicted := false }
      | some n =>
        if let some g := n.gathered k then bsyncDone s f.d g
        else if n.broken then .ok (.took (s.endSoon (statusOf 0x42 0xFFFFFFF1)))
        else
          let covered := s.modCore (fun k => (k.acquired .tco (fun _ => true)).acquired .tsx (fun _ => true))
          let s1 := covered.arriveBsync t k op (s.src f.a)
          match (s1.m.taskNode t).bind (fun n => n.gathered k) with
          | some g => bsyncDone s1 f.d g
          | none => .ok (.block s1)

/-- BSYNC (20 R295). -/
def execBsync (op : BsyncOp) (f : OpDA) : State → Out :=
  runWord (.bsync op f) f.g { hub := true, handler := fun _ => true } (fun s => behindAppends s (bsyncBody op f s))

end Sys2Proof.Machine
end

