-- ==== Sys2Proof/Machine/Control.lean ====
section
/-! DEFINITION. Class C words but TSTEP, and class X: transfers, the end of a task, traps and their return, system
registers, TLBI (20 R280 to R297, 21 R307 to R317, 22 R337 to R367, 04 R84). -/

namespace Sys2Proof.Machine

/-! ### Transfers (04 R78) -/

/-- JMP (21 R316). -/
def execJmp (f : OpImm) : State → Out :=
  runWord (.jmp f) f.g {} (fun s => .ok (.goto s (s.here.pc + imm64 f.imm)))

/-- A target in a register: bits 1:0 nonzero raise the address fault, REASON 9 (21 R317). -/
def jumpTo (s : State) (t : Word) : Except Stop Fin :=
  if fld t.toNat 0 2 ≠ 0 then .error (.flt (fltAddr t 9)) else .ok (.goto s t)

/-- JMPR (21 R317). -/
def execJmpr (f : OpA) : State → Out := runWord (.jmpr f) f.g {} (fun s => jumpTo s (s.src f.a))

/-- CALL (20 R297): the link is the place of the word that follows. -/
def execCall (f : OpDImm) : State → Out :=
  runWord (.call f) f.g {} (fun s => .ok (.goto (s.landReg f.d (s.here.pc + 12) 1) (s.here.pc + imm64 f.imm)))

/-- RET (22 R343): the device's effect is that of JMPR. -/
def execRet (f : OpA) : State → Out := runWord (.ret f) f.g {} (fun s => jumpTo s (s.src f.a))

/-- NOP (22 R337). -/
def execNop (f : OpImm) : State → Out := runWord (.nop f) f.g {} (fun s => .ok (.next s))

/-! ### The end of a task -/

/-- Every chain's counter has reached its append number (21 R308). -/
def Core.quiet (k : Core) : Bool := chainIds.all (fun c => (k.chain c).counter == (k.chain c).append)

/-- EXIT (21 R308): every append of the words before it is made first. -/
def execExit (g : Guard) : State → Out :=
  runWord (.exit g) g { hub := true, handler := fun _ => true } (fun s => behindAppends s (
    if s.core.quiet then .ok (.took ((s.modCore (fun k => k.count 1 1)).endTask 0)) else .ok (.block s)))

/-- ABORT (20 R280); permitted in a handler (20 R281). -/
def execAbort (f : OpImm) : State → Out :=
  runWord (.abort f) f.g { hub := true } (fun s => .ok (.took ((s.modCore (fun k => k.count 1 1)).endSoon (statusOf 0x42 f.imm.toNat))))

/-! ### Traps and their return -/

/-- The emulation trap (04 R84). -/
def fltEmulation : Flt := { code := 0x19, addr := 0, lane := 0, aux := aux0 }

/-- TRAP (22 R367): on a hub core into mode M at the firmware trap vector. -/
def execTrap (f : OpImm) : State → Out :=
  runWord (.trap f) f.g {} (fun s =>
    if s.core.hub then .ok (.took ((s.modCore (fun k => k.count 1 1)).hubTrap .m 0x101)) else .error (.flt fltEmulation))

/-- A class X word traps whatever its guard (04 R84). -/
def execEmulationTrap (rest : BitVec 93) : State → Out :=
  runWord (.emulationTrap rest) ⟨false, 0, 0⟩ {} (fun _ => .error (.flt fltEmulation))

/-- The services the manual names (22 R361). -/
def knownService (n : BitVec 32) : Bool := [0x21, 0x30, 0x31, 0x40, 0x50].contains n.toNat

/-- Results of a service land in x1 and x2; it is a synchronising operation (22 R361). (DEDUCED, log 70.) -/
def State.serviceDone (s : State) (x1 : Word) (x2 : Option Word) : State :=
  ((s.modHere (fun k => let k1 := k.put 1 x1; match x2 with
    | some v => k1.put 2 v
    | none => k1)).modCore (fun k => { k with svc := none })).syncDone

/-- A system call of U-mode code begins (17 R266). -/
def Core.systemCall (k : Core) (wall : Nat) : Core := { k with called := if k.mode = .u then some wall else k.called }

/-- SVC (22 R361): the context blocks while the resident system runs the service; an unknown number returns all ones. -/
def execSvc (f : OpImm) : State → Out :=
  runWord (.svc f) f.g { handler := fun _ => true } (fun s =>
    if s.core.hub then .ok (.took ((s.modCore (fun k => (k.count 1 1).systemCall s.m.wall)).hubTrap .m 0x100))
    else drained s (
      match s.core.svc with
      | some (_, some (x1, x2)) => .ok (.next (s.serviceDone x1 x2))
      | some (_, none) => .ok (.block s)
      | none =>
        if knownService f.imm then .ok (.block (s.modCore (fun k => { k with svc := some (f.imm, none) })))
        else .ok (.next (s.serviceDone Config.allOnes none))))

/-- Pop the trap stack of a hub core (21 R307); a system call is over in mode U. A hub core enters mode U in no other way: the spec
gives the resident system's start of a process no word and no event (04 R89; DESIGN CHOICE, log 98). -/
def State.popTrap (s : State) (pc : Word) (mode : Mode) (rest : List (Word × Mode)) (skip : Bool) : State :=
  (s.modCore (fun k => { k with traps := rest, mode := mode, called := if mode = .u then none else k.called })).modHere (fun k =>
    { k with pc := if skip then pc + 12 else pc, issueAt := s.core.cyc + 2 })

/-- ERET and ERET.SKIP (21 R307). -/
def execEret (g : Guard) (skip : Bool) : State → Out :=
  runWord (.eret g skip) g {} (fun s =>
    let t := s.modCore (fun k => k.count 1 1)
    match s.here.trap, s.core.phase, s.core.traps with
    | some _, _, _ => .ok (.took (t.returnTrap s.core.cur skip))
    | none, .handler p, _ => .ok (.took (t.returnHandler p skip))
    | none, _, (pc, mode) :: rest =>
      if s.core.hub then .ok (.took (t.popTrap pc mode rest skip)) else .error (.flt fltIllegal)
    | none, _, [] => .error (.flt fltIllegal))

/-- BKPT (20 R294). Replay passes over one that had executed before the rebuild: the stop at it has been resumed already. -/
def execBkpt (f : OpImm) : State → Out :=
  runWord (.bkpt f) f.g {} (fun s =>
    let t := s.noteStop (f.imm.setWidth 64)
    let p := s.pendOf (.stop true) { code := 0, addr := 0, lane := 0, aux := aux0 }
    let after := (t.issued s.here.ord s.lpc).advance
    match (if s.core.again then .none else s.core.debugger) with
    | .none => .ok (.next s)
    | .slice =>
      if s.core.hub then .ok (.took (after.modCore (fun k => { k with phase := s.core.stopPhase p })))
      else .ok (.took (after.modCore (fun k => k.trapInPlace k.cur 0x200)))
    | .logical =>
      if s.place = .slice then .ok (.took (t.modCore (fun k => { k with phase := .pend p })))
      else .ok (.took (after.modCore (fun k => { k with phase := s.core.stopPhase p }))))

/-! ### System registers (04 R94, R95) -/

/-- `disc.geom` (04 R94). -/
def discGeom (s : State) : Nat :=
  s.core.num * 2 ^ 48 + (if s.core.hub then 0 else 12288) * 2 ^ 32 + (if s.core.hub then 0 else 512) * 2 ^ 12
    + s.m.number.toNat

/-- `ctx.status` as a context reads it (03 R54, R56). -/
def statusImage (s : State) : Word :=
  let k := s.here
  let c := match s.core.cur with
    | .L => 0
    | .C => 1
    | .S => 2
  w64 (k.hz.toNat * 2 ^ 16 + c * 2 ^ 14 + s.core.allFlags.toNat * 2 ^ 8 + (if k.strict then 8 else 0)
    + (if s.core.merged then 4 else 0) + (if k.dbg then 2 else 0) + (if k.sbm then 1 else 0))

/-- Which numbers a mode may read (04 R95, 17 R259, R262, R264). -/
def sysReadable (m : Mode) (n : Nat) : Bool :=
  decide (n ≤ 0x012) || n == 0x020 || n == 0x021 || (decide (0x030 ≤ n) && decide (n ≤ 0x033)) || n == 0x040
    || (decide (0x100 ≤ n) && decide (n ≤ 0x107)) || (decide (0x110 ≤ n) && decide (n ≤ 0x13F))
    || (decide (0x200 ≤ n) && decide (n ≤ 0x203)) || (m != .u && decide (0x300 ≤ n) && decide (n ≤ 0x303))

/-- Which numbers a mode may write. -/
def sysWritable (m : Mode) (n : Nat) : Bool :=
  (decide (0x010 ≤ n) && decide (n ≤ 0x012)) || n == 0x040 || (decide (0x100 ≤ n) && decide (n ≤ 0x107))
    || (m != .u && ((decide (0x110 ≤ n) && decide (n ≤ 0x13F)) || (decide (0x200 ≤ n) && decide (n ≤ 0x202))
      || (decide (0x300 ≤ n) && decide (n ≤ 0x303))))

/-- The value of a system register at issue (22 R355). -/
def sysValue (s : State) (n : Nat) : Word :=
  match n with
  | 0x000 => if s.core.hub then 0x0C1B320001000001 else 0x0C1B320001000000
  | 0x001 => if s.core.hub then 0x7C4 else 0xFFF
  | 0x003 => w64 (discGeom s)
  | 0x010 => statusImage s
  | 0x011 => s.here.round.setWidth 64
  | 0x012 => s.core.allFlags.setWidth 64
  | 0x020 => w64 s.core.nowAt
  | 0x021 => w64 Config.retention
  | 0x030 => w64 s.core.tci.counter
  | 0x031 => w64 s.core.tmx.counter
  | 0x032 => w64 s.core.tco.counter
  | 0x033 => w64 s.core.tsx.counter
  | 0x040 => s.core.seedNow
  | 0x200 => s.core.perf.sel
  | 0x201 => s.core.perf.val
  | 0x202 => s.core.perf.per
  | 0x300 => s.core.trace.base
  | 0x301 => s.core.trace.len
  | 0x302 => s.core.trace.head
  | 0x303 => s.core.trace.ctl
  | n =>
    if 0x100 ≤ n ∧ n < 0x108 then s.here.wp.toList.getD (n - 0x100) 0
    else if 0x110 ≤ n ∧ n < 0x120 then (s.m.gangWp s.core.gang).toList.getD (n - 0x110) 0
    else if 0x120 ≤ n ∧ n < 0x140 then s.m.wpDevice.toList.getD (n - 0x120) 0
    else 0

/-- SREADs whose value enters the journals (02 R40, 17 R267). -/
def sysJournalled (n : Nat) : Bool :=
  n == 0x020 || (decide (0x030 ≤ n) && decide (n ≤ 0x033)) || n == 0x040 || (decide (0x200 ≤ n) && decide (n ≤ 0x203))

/-- The read itself: `perf.red` awaits the reduction tree (17 R260); its journal entry is filled when it arrives. -/
def sreadBody (f : OpD) (n : Nat) : Body := fun s =>
  if !sysJournalled n then .ok (.next (s.landReg f.d (sysValue s n) 4))
  else
    match recorded s with
    | .diverges => .error .diverge
    | .entry i d0 _ => .ok (.next ((s.tookEntry i).landReg f.d d0 4))
    | .none =>
      match journalled s (fun s => .ok (if n = 0x203 then [] else [sysValue s n], s)) with
      | .error x => .error x
      | .ok (v, t) =>
        match recordEntry t v.head? 0 with
        | .error x => .error x
        | .ok u =>
          match v with
          | [] => .ok (.next (u.await f.d [.reg u.core.cur f.d.reg 0] 8 none))
          | v :: _ => .ok (.next (u.landReg f.d v 4))

/-- SREAD (22 R355). -/
def execSread (f : OpD) (num : BitVec 12) : State → Out :=
  runWord (.sread f num) f.g { mode := fun m => !sysReadable m num.toNat } (sreadBody f num.toNat)

/-- SWRITE (22 R362): at the end of the issue cycle (04 R96). -/
def execSwrite (f : OpA) (num : BitVec 12) : State → Out :=
  runWord (.swrite f num) f.g { mode := fun m => !sysWritable m num.toNat } (fun s =>
    .ok (.next (s.landLater [.sys s.core.cur num (s.src f.a)])))

/-- Does a cached translation map part of the range of a TLBI (22 R365)? -/
def tlbiHits (va root : Word) (n : Nat) (e : TlbEntry) : Bool :=
  let lo := fld va.toNat 0 56 / 65536 * 65536
  let page := e.vpage * 4096 / 2 ^ e.leaf * 2 ^ e.leaf
  (root == 0 || e.root == root) && (n == 0 || (decide (page < lo + 65536 * n) && decide (lo < page + 2 ^ e.leaf)))

/-- TLBI (22 R365): every translation cache of the module drops the named translations (07 R137). -/
def execTlbi (f : OpAB) (n : BitVec 32) : State → Out :=
  runWord (.tlbi f n) f.g { mode := fun m => m == .u } (fun s =>
    let drop (k : Core) : Core := { k with tlb := k.tlb.filter (fun e => !tlbiHits (s.src f.a) (s.src f.b) n.toNat e) }
    .ok (.next { s with core := drop s.core, others := s.others.map (fun p => (p.1, drop p.2)) }))

/-! ### The register writes that the table lists as steps of their own -/

/-- FFLAGS_WRITE: the flag value reaches all three contexts (03 R56). -/
def execFflagsWrite (v : BitVec 5) : State → Out :=
  runEvent (fun s => s.modCore (fun k => k.sysWrite k.cur 0x012 (v.setWidth 64)))

/-- ROUND_SEED_WRITE (04 R96). -/
def execRoundSeedWrite (v : BitVec 64) : State → Out :=
  runEvent (fun s => s.modCore (fun k => k.sysWrite k.cur 0x040 v))

/-- PERF_SEL_WRITE (17 R259). -/
def execPerfSelWrite (v : BitVec 64) : State → Out :=
  runEvent (fun s => s.modCore (fun k => k.sysWrite k.cur 0x200 v))

/-- DUTY_REGISTER_WRITE (12 R218): bits 63:6 are reserved. A bit says who performs a duty; only WALK shows on a core, whose context
then traps in place (03 R66): the other duties have the effects that their own rules give, whoever performs them (DEDUCED, log 94). -/
def execDutyRegisterWrite (v : BitVec 64) : State → Out :=
  runEvent (fun s => s.modM (fun m => { m with duty := v.extractLsb' 0 6 }))

end Sys2Proof.Machine
end

