-- ==== Sys2Proof/Machine/Float.lean ====
section
/-! DEFINITION. Class F words (21 R309 to R315): one rounding of an exact result, flags at landing. -/

namespace Sys2Proof.Machine

/-- A scalar operand's value (06 R112, R114). -/
def argVal (f : Fmt) (v : Word) : Val := value f (floatArg f v)

/-- Land a code of a format with its flags (21 R309). -/
def State.landCode (s : State) (d : Dst) (f : Fmt) (r : Nat × Flags) (lat : Nat) : State :=
  s.landReg d (scalarOf f r.1) lat r.2

/-- Two operands, one rounding. -/
def floatBinary (i : Instr) (o : FOp) (lat : Nat) (f : Rnd → Val → Val → Exact × Flags) : State → Out :=
  runWord i o.g {} (fun s =>
    let rc := s.rctx o.rnd
    .ok (.next (s.landCode o.d o.fmt
      (roundWith o.fmt rc 0 (f rc.mode (argVal o.fmt (s.src o.a)) (argVal o.fmt (s.src o.b)))) lat)))

/-- FADD (21 R310). -/
def execFadd (f : FOp) : State → Out := floatBinary (.fadd f) f 4 addEx

/-- FMUL (21 R315). -/
def execFmul (f : FOp) : State → Out := floatBinary (.fmul f) f 4 (fun _ a b => mulEx a b)

/-- FFMA (21 R314). -/
def execFfma (c : BitVec 5) (f : FOp) : State → Out :=
  runWord (.ffma c f) f.g {} (fun s =>
    let rc := s.rctx f.rnd
    .ok (.next (s.landCode f.d f.fmt
      (roundWith f.fmt rc 0
        (fmaEx rc.mode (argVal f.fmt (s.src f.a)) (argVal f.fmt (s.src f.b)) (argVal f.fmt (s.reg c)))) 5)))

/-- FCMP (21 R311). -/
def execFcmp (c : FCond) (f : FOp) : State → Out :=
  runWord (.fcmp c f) f.g {} (fun s =>
    let r := fcompare f.fmt c (floatArg f.fmt (s.src f.a)) (floatArg f.fmt (s.src f.b))
    .ok (.next (s.landReg f.d (if r.1 then 1 else 0) 4 r.2)))

/-- FCVT (21 R312). -/
def execFcvt (f : FCvtOp) : State → Out :=
  runWord (.fcvt f) f.g {} (fun s =>
    .ok (.next (s.landCode f.d f.fmt2 (convert f.fmt f.fmt2 (s.rctx f.rnd) 0 (floatArg f.fmt (s.src f.a))) 3)))

end Sys2Proof.Machine
end

