-- ==== Sys2Proof/Machine/MemWords.lean ====
section
/-! DEFINITION. Memory words of class M: loads, stores, atomics, fences, monitors, tags (20 R289 to R299, 21 R313 to
R335, 22 R340 to R364). -/

namespace Sys2Proof.Machine

/-- A word with SPACE 1 is illegal on a hub core (04 R83 step 3). -/
def barScratch (sp : Space) : Bars := { hub := sp == .scratch }

/-- Acquire and release parts of ORDER (10 R180). A private allocation has no home, so an access to it leaves and meets no
snapshot: every scope orders it as core scope does; one through a window has the scope of the mapped address (10 R175). -/
def syncOf (o : Order) (p : Scope) : Sync :=
  match o with
  | .relaxed => { acq := none, rel := none }
  | .acquire => { acq := some p, rel := none }
  | .release => { acq := none, rel := some p }
  | .acqRel => { acq := some p, rel := some p }

/-- A loaded value, zero- or sign-extended (21 R318). -/
def extend (sx : Bool) (bs : Bytes) : Word :=
  if sx then w64 (wrap (sgn (leNat bs) (8 * bs.length)) 64) else w64 (leNat bs)

/-- The layout tag of a scratch allocation becomes linear (08 R158). -/
def State.linear (s : State) (sp : Space) (p : Word) : State :=
  match sp with
  | .global => s
  | .scratch => s.modCore (fun k => modAlloc k (ptrId p) (Alloc.unlayout s.here.ord))

/-- LD (21 R319). -/
def execLd (f : LoadOp) : State → Out :=
  runWord (.ld f) f.g (barScratch f.space) (fun s =>
    match mAddr s f.space (s.src f.a) f.off with
    | .error x => .error x
    | .ok p =>
      match memRead s f.space p (sizeBytes f.size) false none 0 with
      | .error x => .error x
      | .ok (bs, t) => .ok (.next (t.landReg f.d (extend f.sx bs) 8 0 (outsideCore s f.space p (sizeBytes f.size)))))

/-- LDA (21 R320): acquire; its result is journalled (02 R40); the region counter advances (10 R194). -/
def execLda (scope : Scope) (f : LoadOp) : State → Out :=
  runWord (.lda scope f) f.g (barScratch f.space) (fun s =>
    let n := sizeBytes f.size
    let far : Bool := match mAddr s f.space (s.src f.a) f.off with
      | .ok p => s.journalHit.isNone && outsideCore s f.space p n
      | .error _ => false
    let read (s : State) : Except Stop (List Word × State) :=
      match mAddr s f.space (s.src f.a) f.off n with
      | .error x => .error x
      | .ok p =>
        match memRead s f.space p n true (some (syncOf .acquire scope)) 0 with
        | .error x => .error x
        | .ok (bs, t) => .ok ([extend f.sx bs], t)
    let met (t : State) : State := if s.core.again then t.modSight (fun k => k.revive s.here.ord s.lpc) else t
    match journalled s read with
    | .error x => .error x
    | .ok (v, t) => .ok (.next ((met t).syncDone.landReg f.d (v.headD 0) 8 0 far)))

/-- A handler may write its own fault record (15 R243); every other ST to global memory is illegal there (22 R356). (DEDUCED, log 25.) -/
def inRecord (s : State) (p : Word) (n : Nat) : Bool :=
  match s.core.task with
  | some t => decide (fld t.faultAddr.toNat 0 56 ≤ fld p.toNat 0 56) &&
      decide (fld p.toNat 0 56 + n ≤ fld t.faultAddr.toNat 0 56 + 128)
  | none => false

/-- A write that reaches the notify page is a notify write (12 R205): a release at system scope, of which the tasks of the queue
learn, and the register takes it. -/
def State.notifyStore (s : State) (sp : Space) (p : Word) (n : Nat) (v : Word) : State :=
  match sp, translate s s.root (fld p.toNat 0 56) with
  | .global, .ok (e, _) =>
    let pa := 4096 * e.frame + fld p.toNat 0 12
    let register := (s.m.notifyPage.filter (fun base => decide (base ≤ pa ∧ pa < base + 8 * Config.queues ∧ n = 8 ∧ (pa - base) % 8 = 0))).map
      (fun base => (pa - base) / 8)
    let mine (q : Nat) (m : Module) : Module :=
      { m.putSnap (s.snapHere pa 8 [.system]) with queues := mapIf (fun x => x.num == q) (fun x => { x with called := s.core.called }) m.queues }
    let t := match register with
      | some q => if s.core.again then s else s.modM (mine q)
      | none => s
    t.notified pa n v (if s.core.again then none else some (s.snapEntries, s.sight.evicted))
  | _, _ => s

/-- The body of ST and STL (22 R356). (DEDUCED, log 9.) -/
def storeBody (f : StoreOp) (align : Bool) (sync : Option Sync) (s : State) : Except Stop State :=
  match mAddr s f.space (s.src f.a) f.off (if align then sizeBytes f.size else 1) with
  | .error x => .error x
  | .ok p =>
    match memWrite s f.space p (leBytes (sizeBytes f.size) (s.src f.b).toNat) align sync 0 with
    | .error x => .error x
    | .ok t => .ok ((t.linear f.space p).notifyStore f.space p (sizeBytes f.size) (s.src f.b))

/-- A word whose checks are those of its access (20 R289, R298; 22 R356): in a handler it makes them, and is illegal. -/
def outwardAccess (bars : State → Bool) (body : Body) : Body := outward bars body body

/-- ST (22 R357). -/
def execSt (f : StoreOp) : State → Out :=
  runWord (.st f) f.g (barScratch f.space)
    (outwardAccess (fun s => f.space == .global && !inRecord s (s.src f.a + f.off.signExtend 64) (sizeBytes f.size))
      (fun s => (storeBody f false none s).map .next))

/-- STL (22 R358). -/
def execStl (scope : Scope) (f : StoreOp) : State → Out :=
  runWord (.stl scope f) f.g (barScratch f.space) (outwardAccess (fun _ => true) (fun s =>
    (storeBody f true (some (syncOf .release scope)) s).map (fun t => .next t.syncDone)))

/-- f(old, y) of ATOM on w-bit values (20 R290). -/
def atomValue (op : AtomOp) (w old y : Nat) : Nat :=
  match op with
  | .add => (old + y) % 2 ^ w
  | .xchg => y
  | .and => old &&& y
  | .or => old ||| y
  | .min => Nat.min old y
  | .max => Nat.max old y
  | .smin => if sgn y w < sgn old w then y else old
  | .smax => if sgn old w < sgn y w then y else old
  | .xor => old ^^^ y

/-- ATOM and CAS: one atomic access; record and replay mode journal the result (17 R267). -/
def atomicBody (f : AtomOpF) (g : State → Nat → Option Nat) : Body := fun s =>
  match recorded s with
  | .diverges => .error .diverge
  | .entry i d0 _ => .ok (.next ((s.tookEntry i).syncDone.landReg f.d d0 8))
  | .none =>
    match mAddr s f.space (s.src f.a) f.off (sizeBytes f.size) with
    | .error x => .error x
    | .ok p =>
      let new (old : Bytes) : Option Bytes := (g s (leNat old)).map (leBytes (sizeBytes f.size))
      match memAtomic s f.space p (sizeBytes f.size) (syncOf f.order f.scope) new with
      | .error x => .error x
      | .ok (old, t) =>
        let noted : State := match g s (leNat old) with
          | some v => t.notifyStore f.space p (sizeBytes f.size) (w64 v)
          | none => t
        match recordEntry noted (some (w64 (leNat old))) 0 with
        | .error x => .error x
        | .ok u =>
          .ok (.next (u.syncDone.landReg f.d (w64 (leNat old)) 8 0 (outsideCore s f.space p (sizeBytes f.size))))

/-- The checks of an ATOM or a CAS, made once as for a write (20 R289, R298). -/
def atomicChecks (f : AtomOpF) : Body := fun s =>
  match mAddr s f.space (s.src f.a) f.off (sizeBytes f.size) with
  | .error x => .error x
  | .ok p => (memAtomic s f.space p (sizeBytes f.size) (syncOf f.order f.scope) (fun _ => none)).map (fun r => .next r.2)

/-- ATOM and CAS: outward, and not idempotent. -/
def atomicWord (f : AtomOpF) (g : State → Nat → Option Nat) : Body :=
  outward (fun _ => true) (atomicChecks f) (nonIdempotent (atomicBody f g))

/-- The low w bits of a source. -/
def lowBits (f : AtomOpF) (v : Word) : Nat := fld v.toNat 0 (8 * sizeBytes f.size)

/-- ATOM (20 R289, R290). -/
def execAtom (op : AtomOp) (f : AtomOpF) : State → Out :=
  runWord (.atom op f) f.g (barScratch f.space)
    (atomicWord f (fun s old => some (atomValue op (8 * sizeBytes f.size) old (lowBits f (s.src f.b)))))

/-- CAS (20 R298). -/
def execCas (c : BitVec 5) (f : AtomOpF) : State → Out :=
  runWord (.cas c f) f.g (barScratch f.space)
    (atomicWord f (fun s old => if old = lowBits f (s.reg c) then some (lowBits f (s.src f.b)) else none))

/-- The acquire half of a fence: what the last synchronising read of its slice met, at the fence's scope; in merged running,
the last of all (10 R181, 21 R313). (DEDUCED, log 10.) -/
def fenceAcquire (who : Option (BitVec 32 × Nat)) (die : Nat) (p : Scope) (side : Option Ctx) (k : Sight) : Sight :=
  let met := ((k.readSnaps.find? (fun r => r.live && sameSide r.ctx side)).map (·.snaps)).getD []
  (met.filter (fun sn => synchronises sn who die [p])).foldl (fun k sn => mergeSnap who k sn.entries sn.evicted) k

/-- The release fence that the word at issue is. -/
def State.fenceHere (s : State) (scope : Scope) : Fenced :=
  { ctx := s.core.side, ord := s.here.ord, lpc := s.lpc, scope := scope, used := none, live := true }

/-- FENCE (21 R313). In replay a release fence that ran before is live again, for the synchronising write that comes after it (10 R181,
R198). -/
def execFence (g : Guard) (order : Order) (scope : Scope) : State → Out :=
  runWord (.fence g order scope) g {} (fun s =>
    let a := match order with
      | .acquire | .acqRel => s.modSight (fenceAcquire s.agent s.core.die scope s.core.side)
      | _ => s
    let r := match order with
      | .release | .acqRel => a.modSight (fun k => k.putFence (s.fenceHere scope) s.core.ckpt.ord)
      | _ => a
    .ok (.next (if s.core.again then s.modSight (fun k => k.refence s.here.ord s.lpc) else r.syncDone)))

/-- MONITOR (21 R329): R133 global steps 1, 3 and 5. -/
def execMonitor (f : OpA) (off : BitVec 12) : State → Out :=
  runWord (.monitor f off) f.g {} (fun s =>
    match mAddr s .global (s.src f.a) off with
    | .error x => .error x
    | .ok p =>
      match checkGlobal s s.root p 1 { wr := false, poison := false, race := false } none none 0 with
      | .error x => .error x
      | .ok (ps, t) =>
        .ok (.next (t.modHere (fun k => { k with monitor := ps.head?.map (fun p => { line := p.pa / 128, event := false }) }))))

/-- The wake code of MWAIT, once there is one (21 R335): the timeout runs from the moment the block began. -/
def wakeCode (s : State) (b : Src) : Option Word :=
  match s.here.monitor with
  | none => some 2
  | some m =>
    if m.event then some 0
    else match s.here.wait with
      | some (_, since) => if s.here.draining = false ∧ s.src b ≠ 0 ∧ (s.src b).toNat ≤ s.m.now - since then some 1 else none
      | none => none

/-- The MWAIT at issue is the first one of a task that was resumed, beyond those that replay takes from the journal: it returns 2 at once
(15 R250; 21 R335; DEDUCED, log 108). -/
def State.cutHere (s : State) : Bool := s.core.cutWait && s.journalHit.isNone

/-- MWAIT (21 R335): the wake code is journalled; replay does not block. -/
def execMwait (g : Guard) (d : Dst) (b : Src) : State → Out :=
  runWord (.mwait g d b) g { hub := true, handler := fun _ => true } (fun s => drained s (
    let disarm (t : State) : State :=
      (t.modHere (fun k => { k with monitor := none })).modCore (fun k => { k with cutWait := k.cutWait && !s.cutHere })
    if s.core.inReplay || s.cutHere || (wakeCode s b).isSome then
      match journalled s (fun s => .ok ([if s.cutHere then 2 else (wakeCode s b).getD 0], s)) with
      | .error x => .error x
      | .ok (v, t) => .ok (.next ((disarm t).landReg d (v.headD 0) 4))
    else .ok (.block s)))

/-- CFLUSH of lines (20 R299): Dirty becomes Writing; INV asks for Invalid once nothing is left to write back, but not for a pinned line
of a window that the word names; a global line is dropped whether pinned or not. -/
def flushLines (k : Core) (glob inv : Bool) (mine : Line → Bool) (a : Alloc) : Alloc :=
  let step (l : Line) : Line :=
    { l with st := if l.st = .dirty then .writing else l.st, inv := l.inv || (inv && !glob && !pinnedIn k a l.num),
             drop := l.drop || (inv && glob) }
  { a with lines := (mapIf mine step a.lines).filter (fun l => !(mine l && (l.inv || l.drop) && l.st == .clean)) }

/-- CFLUSH of a global line: every copy of it that a window holds, on any core, pinned or not (20 R299; 07 R138). -/
def State.flushGlobal (s : State) (inv : Bool) (line : Nat) : State :=
  let go (k : Core) : Core := { k with allocs := k.allocs.map (flushLines k true inv (fun l => l.pa == line)) }
  { s with core := go s.core, others := s.others.map (fun p => (p.1, go p.2)) }

/-- CFLUSH (20 R299). -/
def execCflush (f : OpA) (space : Space) (off : BitVec 12) (inv : Bool) : State → Out :=
  runWord (.cflush f space off inv) f.g (barScratch space) (fun s =>
    match mAddr s space (s.src f.a) off with
    | .error x => .error x
    | .ok p =>
      match space with
      | .global =>
        match checkGlobal s s.root p 1 { wr := false, poison := false, tag := false, race := false } none none 0 with
        | .error x => .error x
        | .ok (ps, t) => .ok (.next (t.flushGlobal inv ((ps.head?.map (·.pa)).getD 0 / 128)))
      | .scratch =>
        match checkScratch12 s.core p 1 0 false with
        | .error x => .error x
        | .ok a =>
          .ok (.next (if a.backed then s.modCore (fun k => modAlloc k a.id
            (flushLines k false inv (fun l => l.num == ptrOff p / 128))) else s)))

/-- TAGSET (22 R364). -/
def execTagset (f : OpAB) (space : Space) (off : BitVec 12) (n : BitVec 12) : State → Out :=
  runWord (.tagset f space off n) f.g (barScratch space) (outwardAccess (fun _ => space == .global) (fun s =>
    let tag : BitVec 4 := (s.src f.b).extractLsb' 0 4
    match mAddr s space (s.src f.a) off with
    | .error x => .error x
    | .ok p =>
      match space with
      | .global =>
        if fld p.toNat 0 5 ≠ 0 then .error (.flt (fltAddr p 2))
        else
          match checkGlobal s s.root p (32 * (n.toNat + 1)) { wr := true, poison := false, tag := false, race := false }
              none none 0 with
          | .error x => .error x
          | .ok (ps, t) =>
            let gs := (ps.filter (fun q => q.entry.tg)).flatMap (fun q => (granules q.pa q.n).map (·.1))
            let put (l : List (Nat × BitVec 4)) (g : Nat) : List (Nat × BitVec 4) := upsert (·.1) (g, tag) l
            .ok (.next (t.modM (fun m => { m with gtags := gs.foldl put m.gtags })))
      | .scratch =>
        match checkScratch12 s.core p 1 0 false with
        | .error x => .error x
        | .ok a =>
          .ok (.next ((s.modCore (fun k => modAlloc k a.id (Alloc.note s.here.ord))).landLater [.tag a.id tag]))))

/-- TAGGET (22 R363). -/
def execTagget (f : OpDA) (space : Space) (off : BitVec 12) : State → Out :=
  runWord (.tagget f space off) f.g (barScratch space) (fun s =>
    match mAddr s space (s.src f.a) off with
    | .error x => .error x
    | .ok p =>
      match space with
      | .global =>
        match checkGlobal s s.root p 1 { wr := false, poison := false, tag := false, race := false } none none 0 with
        | .error x => .error x
        | .ok (ps, t) =>
          let v : Word := match ps.head? with
            | some q => if q.entry.tg then w64 (16 + (gtag t.m (q.pa / 32)).toNat) else 0
            | none => 0
          .ok (.next (t.landReg f.d v 4 0 true))
      | .scratch =>
        match checkScratch12 s.core p 1 0 false with
        | .error x => .error x
        | .ok a => .ok (.next (s.landReg f.d (w64 (16 + a.tag.toNat)) 4)))

/-- PTRTAG (22 R340). -/
def execPtrtag (f : AluRR) : State → Out :=
  runWord (.ptrtag f) f.g {} (fun s =>
    .ok (.next (s.landReg f.d (w64 (fld (s.src f.a).toNat 0 60 + 2 ^ 60 * fld (s.src f.b).toNat 0 4)) 4)))

end Sys2Proof.Machine
end

