-- ==== Sys2Proof/Machine/Pool.lean ====
section
/-! DEFINITION. The Marble pool (13 R219 to R237): pools, elements, fences, the four pool words, and the events that serve
their requests. -/

namespace Sys2Proof.Machine

/-! ### Order and fences (13 R222, R225) -/

/-- The stamp of an element, exact (13 R222). -/
def Pool.stamp (p : Pool) (key : Word) (tick : Nat) : Nat := if p.age then key.toNat + tick / 2 ^ p.shift else key.toNat

/-- The place of an element in pool order. -/
def Pool.rank (p : Pool) (e : Elem) : Nat × Nat × Nat := (p.stamp e.key e.tick, e.origin, e.seq)

/-- Pool order on places: stamp, origin, sequence number. -/
def before (a b : Nat × Nat × Nat) : Bool :=
  decide (a.1 < b.1) || (a.1 == b.1 && (decide (a.2.1 < b.2.1) || (a.2.1 == b.2.1 && decide (a.2.2 < b.2.2))))

/-- A place precedes a fence; everything precedes infinity. -/
def precedes (a : Nat × Nat × Nat) : Fence → Bool
  | none => true
  | some f => before a f

/-- One fence is strictly below another. -/
def Fence.below : Fence → Fence → Bool
  | some a, some b => before a b
  | some _, none => true
  | none, _ => false

/-- Insert an element in pool order. -/
def Pool.place (p : Pool) (e : Elem) : List Elem → List Elem
  | [] => [e]
  | x :: r => if before (p.rank e) (p.rank x) then e :: x :: r else x :: p.place e r

/-- The q-th element's place; infinity where there are fewer. -/
def Pool.fence (p : Pool) (q : Nat) (es : List Elem) : Fence := ((es.drop (q - 1)).head?).map p.rank

/-- The lower of two fences. -/
def lowerFence (a b : Fence) : Fence := if Fence.below b a then b else a

def Pool.shard (p : Pool) (d : Nat) : Option Shard := p.shards.find? (fun s => s.die == d)

def Pool.modShard (p : Pool) (d : Nat) (f : Shard → Shard) : Pool := { p with shards := mapIf (fun s => s.die == d) f p.shards }

/-- One element is another: its origin and its number in it (13 R222). -/
def Elem.same (a b : Elem) : Bool := a.origin == b.origin && a.seq == b.seq

/-- A rolling move of an element that a predicate takes is under way: it is inserted at its destination, and has still to leave its
source, which the predicate sees too (13 R230). -/
def Pool.moves (p : Pool) (f : Nat → Elem → Bool) : Bool :=
  p.shards.any (fun x => x.notice.any (fun n => n.move.any (fun v => f v.1 v.2)))

/-- A rolling move has inserted an element of a shard at its destination: it has still to leave its source (13 R230). -/
def Pool.leaving (p : Pool) (d : Nat) (e : Elem) : Bool := p.moves (fun src x => src == d && x.same e)

/-- The elements that a shard holds: those that can be taken from it, each counted at one shard (13 R230). -/
def Pool.held (p : Pool) (s : Shard) : List Elem := s.elems.filter (fun e => !p.leaving s.die e)

/-- Those that a rolling move may take from it: an element of one move is free for the next once that is over (13 R230). -/
def Pool.movable (p : Pool) (s : Shard) : List Elem := (p.held s).filter (fun e => !p.moves (fun _ x => x.same e))

/-- The published fence of a shard: the q-th element that it holds (13 R225). -/
def Pool.published (p : Pool) (s : Shard) : Fence := p.fence p.q (p.held s)

/-- The fence that a shard has once an element is inserted. -/
def Pool.fenceWith (p : Pool) (s : Shard) (e : Elem) : Fence := p.fence p.q (p.place e (p.held s))

/-- What shard s knows of shard d. -/
def Pool.knows (p : Pool) (s : Shard) (d : Nat) : Fence :=
  if s.die = d then p.published s else ((s.known.find? (fun k => k.1 == d)).map (·.2)).getD none

def Pool.count (p : Pool) : Nat := (p.shards.map (fun s => (p.held s).length)).foldl (· + ·) 0

/-- Set what a shard knows of another. -/
def Shard.learn (s : Shard) (d : Nat) (f : Fence) : Shard := { s with known := (d, f) :: s.known.filter (fun k => k.1 != d) }

/-- Shard s publishes a lower fence: a notice to every other shard of the pool (13 R226). A notice still on its way takes the
lower fence and is to be acknowledged anew: R226 lets an MPUT wait for it, and R234 does not say how the notice of an MCTL, which does
not wait, meets it (DESIGN CHOICE, log 115). -/
def Pool.lower (p : Pool) (d : Nat) (f : Fence) (move : Option (Nat × Elem)) : Pool :=
  let others := (p.shards.map (·.die)).filter (· != d)
  p.modShard d (fun s =>
    { s with notice := some { fence := match s.notice with
                                | some n => lowerFence f n.fence
                                | none => f
                              pending := others, move := move } })

/-! ### Pools of the module -/

def Module.pool (m : Module) (n : Nat) : Option Pool := m.pools.find? (fun p => p.num == n)

def Module.modPool (m : Module) (n : Nat) (f : Pool → Pool) : Module := { m with pools := mapIf (fun p => p.num == n) f m.pools }

def Module.req (m : Module) (n : Nat) : Option Req := m.reqs.find? (fun r => r.num == n)

def Module.modReq (m : Module) (n : Nat) (f : Req → Req) : Module := { m with reqs := mapIf (fun r => r.num == n) f m.reqs }

def Module.answer (m : Module) (n : Nat) (a : Answer) : Module := m.modReq n (fun r => { r with answer := some a })

/-- The tenant of the focused core's task; the resident system acts as tenant 0 (DESIGN CHOICE, log 21). -/
def State.tenant (s : State) : Nat := (s.core.task.map (·.tenant)).getD 0

/-- The fault of a bad handle (13 R220). -/
def fltHandle (h : Word) : Flt := fltAddr h 8

/-- The pool a handle names, for a caller of a tenant (13 R220). Hub cores are of no tenant and pass. -/
def poolOf (s : State) (h : Word) : Option Pool :=
  if fld h.toNat 32 32 ≠ 0 then none
  else
    (s.m.pool (fld h.toNat 0 8)).filter (fun p =>
      p.gen.toNat == fld h.toNat 8 24 && !p.shards.isEmpty && (s.core.hub || p.tenant == s.tenant))

/-! ### The local shard (13 R223, R224) -/

/-- Columns between two dies of one row, around the ring (01 R8). -/
def ringDist (a b : Nat) : Nat := let d := if a % 8 < b % 8 then b % 8 - a % 8 else a % 8 - b % 8; min d (8 - d)

/-- First of the best by a measure; the list is ascending, so ties go to the lower number. -/
def leastBy (f : Nat → Nat) : List Nat → Option Nat
  | [] => none
  | x :: r => match leastBy f r with
    | some y => if f y < f x then some y else some x
    | none => some x

/-- The local shard of a core among the dies of a pool, ascending. A hub die reaches the dies of R8. -/
def localShard (num : Nat) (dies : List Nat) : Nat :=
  let any := dies.headD 0
  if num < 768 then
    let d := num / Config.coresPerDie
    if dies.contains d then d
    else
      match leastBy (ringDist d) (dies.filter (fun x => x / 8 == d / 8)) with
      | some x => x
      | none => any
  else if num < 784 then
    if dies.contains 0 then 0 else (([0, 2, 4, 6].find? dies.contains).getD any)
  else if dies.contains 25 then 25 else (([25, 27, 29, 31].find? dies.contains).getD any)

def Pool.dies (p : Pool) : List Nat := p.shards.map (·.die)

/-! ### The words (13 R235, 21 R325) -/

/-- The snapshot that a put leaves beside its element (10 R195): at device scope, and at that of every release fence that pairs with it
(10 R180, R181). -/
def putSnap (s : State) : Snap := s.snapHere 0 0 (.device :: s.openScopes)

/-- Ask the pool: the request stands at the local shard, and its result is awaited (13 R235). -/
def State.askPool (s : State) (p : Pool) (handle : Word) (ask : Ask) (puts : List Put) (d : Dst) (done : Option Answer)
    (applied : Bool) (caused : List Nat := []) : State :=
  let f := fltHandle handle
  let r : Req :=
    { num := s.m.nextReq, core := s.core.num, ctx := s.core.cur, pool := p.num, ask := ask, snap := putSnap s,
      pend := s.pendOf .fault f,
      shard := match ask with
        | .ctl _ => p.dies.headD 0
        | _ => localShard s.core.num p.dies,
      tries := 0, forwards := 0, sync := false,
      inserted := applied, caused := caused, poll := none, answer := done }
  (s.modM (fun m => { m with reqs := m.reqs ++ [r], nextReq := m.nextReq + 1 })).await d puts 8 (some r.num)

/-- Registers d, d+1, … that a pool word writes. -/
def poolPuts (c : Ctx) (d : Dst) (n : Nat) : List Put := (List.range n).map (fun i => .reg c (d.reg + BitVec.ofNat 5 i) 0)

/-- Results read from a replay journal: entries of two dwords each (17 R267), as many as the results need. -/
def replayedResults (s : State) (n : Nat) : Except Stop (Option (List Word × State)) :=
  match recorded s with
  | .none => .ok none
  | .diverges => .error .diverge
  | .entry i d0 d1 =>
    let s1 := s.tookEntry i
    if n ≤ 2 then .ok (some ([d0, d1].take n, s1))
    else
      match recorded s1 with
      | .entry j e0 e1 => .ok (some ([d0, d1, e0, e1].take n, s1.tookEntry j))
      | _ => .error .diverge

/-- Results that are there at once land together. -/
def State.landPool (s : State) (d : Dst) (vals : List Word) : State :=
  let c := s.core.cur
  s.land { puts := if d.wbs then [] else vals.zipIdx.map (fun v => .reg c (d.reg + BitVec.ofNat 5 v.2) v.1), lt := d.lt,
           cap := leBytes 8 (vals.headD 0).toNat, lat := 8 }

/-- Entries that record mode keeps for n results, their dwords still to come. -/
def holdRecords (s : State) (n : Nat) : Except Stop State :=
  match recordEntry s none 0 with
  | .error x => .error x
  | .ok s1 => if n ≤ 2 then .ok s1 else recordEntry s1 none 0

/-- A put is a synchronising write: the release fences before it pair with it (10 R181). -/
def Ask.pairs (a : Ask) (s : State) : State :=
  match a with
  | .put _ _ => s.takeFences
  | _ => s

/-- MPUT and MTAKE: synchronising, non-idempotent, recorded. -/
def poolBody (h : Word) (ask : Ask) (n : Nat) (d : Dst) : Body := fun s =>
  match replayedResults s n with
  | .error x => .error x
  | .ok (some (vals, t)) => .ok (.next ((ask.pairs t).syncDone.landPool d vals))
  | .ok none =>
    match poolOf s h with
    | none => .error (.flt (fltHandle h))
    | some p =>
      match holdRecords s n with
      | .error x => .error x
      | .ok t => .ok (.next ((ask.pairs (t.askPool p h ask (poolPuts s.core.cur d n) d none false)).syncDone))

/-- The check that every pool word makes first (21 R325). -/
def handleCheck (a : Src) : Body := fun s => if (poolOf s (s.src a)).isSome then .ok (.next s) else .error (.flt (fltHandle (s.src a)))

/-- MPUT (21 R330). -/
def execMput (g : Guard) (d : Dst) (a : Src) (b : BitVec 5) : State → Out :=
  runWord (.mput g d a b) g {} (outward (fun _ => true) (handleCheck a) (nonIdempotent (fun s =>
    poolBody (s.src a) (.put (s.reg b) (s.reg (b + 1))) 1 d s)))

/-- MTAKE (21 R332). (DEDUCED, log 43.) -/
def execMtake (f : OpDA) : State → Out :=
  runWord (.mtake f) f.g {} (outward (fun _ => true) (handleCheck f.a) (nonIdempotent (fun s => poolBody (s.src f.a) (.take true) 3 f.d s)))

/-- An effective key (13 R232). -/
def Pool.effective (p : Pool) (now stamp : Nat) : Word := if p.age then w64 (stamp - now / 2 ^ p.shift) else w64 stamp

/-- The two results of MSTAT at a shard (13 R233). -/
def Pool.stat (p : Pool) (now d : Nat) : List Word :=
  match p.shard d with
  | none => [0, Config.allOnes]
  | some s =>
    let own : Nat × Option Nat := ((p.held s).length, (p.held s).head?.map (fun e => p.stamp e.key e.tick))
    let all := own :: (s.summaries.filter (fun x => x.src != d && (p.shard x.src).isSome)).map (fun x => (x.count, x.first))
    let n := (all.map (·.1)).foldl (· + ·) 0
    match all.filterMap (·.2) with
    | [] => [w64 n, Config.allOnes]
    | x :: r => [w64 n, if n = 0 then Config.allOnes else p.effective now (r.foldl min x)]

/-- MSTAT (21 R331): it may run in a handler. -/
def execMstat (f : OpDA) : State → Out :=
  runWord (.mstat f) f.g {} (fun s =>
    match poolOf s (s.src f.a) with
    | none => .error (.flt (fltHandle (s.src f.a)))
    | some p =>
      let vals := p.stat s.m.now (localShard s.core.num p.dies)
      .ok (.next (s.askPool p (s.src f.a) .stat (poolPuts s.core.cur f.d 2) f.d (some (.done vals none)) false)))

/-- q is a power of two from 1 to 1,024 (13 R221). -/
def powerOfTwo (q : Nat) : Bool := (List.range 11).any (fun i => q == 2 ^ i)

/-- A control word lies within the limits of a pool (13 R221). -/
def ctlOk (qmax : Nat) (ageok : Bool) (shiftmin : Nat) (w : Nat) : Bool :=
  fld w 23 41 == 0 && fld w 11 5 == 0 && powerOfTwo (fld w 0 11) && decide (fld w 0 11 ≤ qmax)
    && (!bitOf w 22 || (ageok && decide (shiftmin ≤ fld w 16 6)))

/-- The status of an MCTL (13 R234). -/
def Pool.ctlStatus (p : Pool) (w : Nat) : Nat :=
  if !ctlOk p.qmax p.ageok p.shiftmin w then 1
  else if (bitOf w 22 != p.age || fld w 16 6 != p.shift) && p.shards.any (fun s => !s.elems.isEmpty || !s.queued.isEmpty) then 2
  else 0

/-- The pool under a control word, its fences as they were. -/
def Pool.withCtl (p : Pool) (w : Nat) : Pool := { p with q := fld w 0 11, age := bitOf w 22, shift := fld w 16 6 }

/-- The shards whose fences fall under a control word (13 R234). -/
def Pool.falling (p : Pool) (w : Nat) : List Shard :=
  p.shards.filter (fun s => Fence.below ((p.withCtl w).published s) (p.published s))

/-- Apply a control word: every shard recomputes its fence; one that falls sends a notice (13 R234). -/
def Pool.applyCtl (p : Pool) (w : Nat) : Pool :=
  (p.falling w).foldl (fun acc s => acc.lower s.die ((p.withCtl w).published s) (s.notice.bind (·.move))) (p.withCtl w)

/-- MCTL (21 R326): applied in the order in which the words reach the lowest-numbered shard (13 R224, R234), here that of issue: it is
applied at every shard as it issues. When it takes effect at each the spec does not say (DESIGN CHOICE, log 116). -/
def execMctl (f : AluRR) : State → Out :=
  runWord (.mctl f) f.g {} (outward (fun _ => true) (handleCheck f.a) (fun s =>
    let h := s.src f.a
    match poolOf s h with
    | none => .error (.flt (fltHandle h))
    | some p =>
      let w := (s.src f.b).toNat
      let st := p.ctlStatus w
      let puts := poolPuts s.core.cur f.d 1
      if st = 0 then
        .ok (.next ((s.modM (fun m => m.modPool p.num (fun p => p.applyCtl w))).askPool p h (.ctl (s.src f.b)) puts f.d none true
          ((p.falling w).map (·.die))))
      else .ok (.next (s.askPool p h (.ctl (s.src f.b)) puts f.d (some (.done [w64 st] none)) false))))

/-- MCTL_COMPLETION: every notice that the word caused is acknowledged, by the shards that are left (13 R234; 21 R326). -/
def execMctlCompletion (req : Nat) : State → Out :=
  runEvent (fun s =>
    match s.m.req req with
    | some r =>
      match r.ask, r.answer, s.m.pool r.pool with
      | .ctl _, none, some p =>
        if r.inserted && p.shards.all (fun x => !r.caused.contains x.die) then s.modM (fun m => m.answer req (.done [0] none)) else s
      | _, _, _ => s
    | none => s)

/-! ### Puts (13 R223, R226) -/

/-- Count a forward for the core that asked (17 R259 event 7). -/
def State.countForward (s : State) (r : Req) : State :=
  let up (k : Core) : Core := { k with perf := k.perf.count 7 1 r.ctx }
  if s.core.num = r.core then s.modCore up
  else { s with others := mapIf (fun p => p.1 == r.core) (fun p => (p.1, up p.2)) s.others }

/-- The shard with the most free room (13 R223), of equals the lower number (DESIGN CHOICE, log 117). -/
def Pool.roomiest (p : Pool) : Option Nat :=
  leastBy (fun d => ((p.shard d).map (fun s => s.elems.length)).getD 0) p.dies

/-- A put waits at a shard no longer. -/
def Shard.unqueue (x : Shard) (n : Nat) : Shard := { x with queued := x.queued.filter (fun q => q.1 != n) }

def Shard.waits (x : Shard) (n : Nat) : Bool := x.queued.any (fun q => q.1 == n)

/-- A put waits at a shard, behind those that came before it; `out` while the notice it waits for is not acknowledged. -/
def Shard.enqueue (x : Shard) (n : Nat) (out : Bool) : Shard :=
  { x with queued := if x.waits n then mapIf (fun q => q.1 == n) (fun q => (q.1, out)) x.queued else x.queued ++ [(n, out)] }

/-- Insert the element of a put at a shard: the linearisation point. A fence that falls sends a notice, and the put then
waits for it; else the put completes at once (13 R226). -/
def insertPut (s : State) (p : Pool) (sh : Shard) (r : Req) (key payload : Word) : State :=
  let e : Elem := { key := key, payload := payload, origin := sh.die, seq := sh.seq, tick := s.m.now, snap := r.snap }
  let falls := Fence.below (p.fenceWith sh e) (p.published sh)
  let p1 := p.modShard sh.die (fun x => { x.unqueue r.num with elems := p.place e sh.elems, seq := x.seq + 1 })
  let alone := p.shards.length ≤ 1
  if falls && !alone then
    s.modM (fun m => (m.modPool p.num (fun _ => p1.lower sh.die (p.fenceWith sh e) none)).modReq r.num (fun r => { r with inserted := true }))
  else
    s.modM (fun m => (m.modPool p.num (fun _ => p1.modShard sh.die (fun x => { x with completed := x.completed + 1 }))).answer r.num
      (.done [0] none))

/-- A put at its shard: FULL, forwarded, queued behind a notice and the puts that wait there already, or inserted. -/
def putAt (s : State) (p : Pool) (r : Req) (key payload : Word) : State :=
  match p.shard r.shard with
  | none => s
  | some sh =>
    if p.shards.length * p.caps ≤ p.count then
      s.modM (fun m => (m.modPool p.num (fun p => p.modShard sh.die (fun x => x.unqueue r.num))).answer r.num (.done [1] none))
    else if p.caps ≤ sh.elems.length then
      let d := p.roomiest.getD sh.die
      (s.countForward r).modM (fun m => (m.modPool p.num (fun p => p.modShard sh.die (fun x => x.unqueue r.num))).modReq r.num (fun r =>
          { r with shard := d, forwards := r.forwards + 1 }))
    else if (sh.notice.isSome || (!sh.queued.isEmpty && !sh.waits r.num)) &&
        precedes (p.stamp key s.m.now, sh.die, sh.seq) (p.published sh) then
      s.modM (fun m => m.modPool p.num (fun p => p.modShard sh.die (fun x => x.enqueue r.num sh.notice.isSome)))
    else insertPut s p sh r key payload

/-- POOL_PUT_INSERTION: a put arrives at its shard. -/
def execPoolPutInsertion (req : Nat) : State → Out :=
  runEvent (fun s =>
    match s.m.req req with
    | some r =>
      match r.ask, r.answer, s.m.pool r.pool with
      | .put key payload, none, some p =>
        if r.inserted || p.shards.any (fun x => x.waits req) then s else putAt s p r key payload
      | _, _, _ => s
    | none => s)

/-- QUEUED_PUT_INSERTION: the first queued put of a shard whose notice has been acknowledged; one that would need another notice while
one is out waits for that one (13 R226). -/
def execQueuedPutInsertion (pool shard : Nat) : State → Out :=
  runEvent (fun s =>
    match s.m.pool pool with
    | none => s
    | some p =>
      match p.shard shard with
      | some sh =>
        match sh.queued.find? (fun q => !q.2) with
        | some (q, _) =>
          match s.m.req q with
          | some r => match r.ask with
            | .put key payload => putAt s p r key payload
            | _ => s
          | none => s.modM (fun m => m.modPool pool (fun p => p.modShard shard (fun x => x.unqueue q)))
        | none => s
      | none => s)

/-- LOWERING_NOTICE_ARRIVAL: applied the moment it arrives, then acknowledged (13 R225). -/
def execLoweringNoticeArrival (pool src dst : Nat) : State → Out :=
  runEvent (fun s =>
    match (s.m.pool pool).bind (fun p => p.shard src) with
    | some sh =>
      match sh.notice with
      | some n =>
        if n.pending.contains dst then
          s.modM (fun m => m.modPool pool (fun p =>
            (p.modShard dst (fun x => x.learn src (lowerFence (p.knows x src) n.fence))).modShard src (fun x =>
              { x with notice := some { n with pending := n.pending.filter (· != dst) } })))
        else s
      | none => s
    | none => s)

/-- An element that a rolling move has inserted at its destination leaves its source (13 R230). -/
def Pool.finishMove (p : Pool) (mv : Option (Nat × Elem)) : Pool :=
  match mv with
  | none => p
  | some (src, e) => p.modShard src (fun x => { x with elems := x.elems.filter (fun y => !e.same y) })

/-- LOWERING_NOTICE_ACKNOWLEDGED: every shard has acknowledged: the put that sent the notice completes, a moved element leaves its
source, the puts queued behind it wait no longer, and an MCTL that caused it has one less to wait for. -/
def execLoweringNoticeAcknowledged (pool shard : Nat) : State → Out :=
  runEvent (fun s =>
    match (s.m.pool pool).bind (fun p => p.shard shard) with
    | some sh =>
      match sh.notice with
      | some n =>
        if !n.pending.isEmpty then s
        else
          let waiting (r : Req) : Bool := r.pool == pool && r.shard == shard && r.inserted && r.answer.isNone && (match r.ask with
            | .put _ _ => true
            | _ => false)
          let puts := (s.m.reqs.filter waiting).length
          let free (x : Shard) : Shard :=
            { x with notice := none, completed := x.completed + puts, queued := x.queued.map (fun q => (q.1, false)) }
          let s1 := s.modM (fun m => m.modPool pool (fun p => (p.modShard shard free).finishMove n.move))
          let acked (r : Req) : Req := { r with caused := r.caused.filter (· != shard) }
          s1.modM (fun m => { m with reqs := mapIf (fun r => r.pool == pool) acked
                                       (mapIf waiting (fun r => { r with answer := some (.done [0] none) }) m.reqs) })
      | none => s
    | none => s)

/-! ### Takes (13 R227, R228, R231) -/

/-- An element is taken: it is in no shard any more, and a move of it is over. -/
def Pool.remove (p : Pool) (e : Elem) : Pool :=
  { p with shards := p.shards.map (fun x =>
      { x with elems := x.elems.filter (fun y => !e.same y),
               notice := x.notice.map (fun n => { n with move := n.move.filter (fun v => !e.same v.2) }) }) }

/-- Remove the first element of a shard and answer a take with it. -/
def giveFirst (s : State) (p : Pool) (d : Nat) (r : Req) (e : Elem) : State :=
  s.modM (fun m => (m.modPool p.num (fun p => p.remove e)).modReq r.num (fun r =>
    { r with shard := d, answer := some (.done [0, e.key, e.payload] (some e.snap)) }))

/-- Shards of a pool by the fences that one of them knows, the least first found. -/
def Pool.leastKnown (p : Pool) (s : Shard) : Option Nat :=
  p.dies.foldl (fun (acc : Option Nat) d => match acc with
    | none => some d
    | some a => if Fence.below (p.knows s d) (p.knows s a) then some d else some a) none

/-- POOL_TAKE_ARRIVAL: one round of the loop of R227 at the shard where the take stands. -/
def execPoolTakeArrival (req : Nat) : State → Out :=
  runEvent (fun s =>
    match s.m.req req with
    | none => s
    | some r =>
      match r.ask, r.answer, (s.m.pool r.pool) with
      | .take _, none, some p =>
        match r.sync || r.poll.isSome, p.shard r.shard with
        | false, some sh =>
          let first := (p.held sh).head?
          let fits := match first with
            | some e => p.dies.all (fun d => match p.knows sh d with
              | some f => !before f (p.rank e)
              | none => true)
            | none => false
          match first with
          | some e =>
            if fits then giveFirst s p sh.die r e
            else if r.tries = 8 then s.modM (fun m => m.modReq req (fun r => { r with sync := true }))
            else (s.countForward r).modM (fun m => m.modReq req (fun r =>
              { r with shard := (p.leastKnown sh).getD r.shard, tries := r.tries + 1, forwards := r.forwards + 1 }))
          | none =>
            if p.dies.all (fun d => p.knows sh d == none) then s.modM (fun m => m.modReq req (fun r => { r with poll := some none }))
            else if r.tries = 8 then s.modM (fun m => m.modReq req (fun r => { r with sync := true }))
            else (s.countForward r).modM (fun m => m.modReq req (fun r =>
              { r with shard := (p.leastKnown sh).getD r.shard, tries := r.tries + 1, forwards := r.forwards + 1 }))
        | _, _ => s
      | _, _, _ => s)

/-- The shard that a synchronous take serves from, and its first element: the least published fence among those that hold one; ties,
which are of infinite fences, by pool order of the first element (13 R228). -/
def Pool.syncShard (p : Pool) : Option (Nat × Elem) :=
  p.shards.foldl (fun (acc : Option (Nat × Elem)) s => match (p.held s).head?, acc with
    | none, _ => acc
    | some e, none => some (s.die, e)
    | some e, some (d, x) =>
      let fd := ((p.shard d).map p.published).getD none
      let fs := p.published s
      if Fence.below fs fd || (!Fence.below fd fs && before (p.rank e) (p.rank x)) then some (s.die, e) else acc) none

/-- SYNCHRONOUS_TAKE: under the fence lock, whole. -/
def execSynchronousTake (req : Nat) : State → Out :=
  runEvent (fun s =>
    match s.m.req req with
    | none => s
    | some r =>
      match r.ask, r.answer, s.m.pool r.pool with
      | .take _, none, some p =>
        if !r.sync then s
        else
          match p.syncShard with
          | some (d, e) => giveFirst s p d r e
          | none => s.modM (fun m => m.answer req (.done [1, 0, 0] none))
      | _, _, _ => s)

/-- POLL_ROUND (13 R231). -/
def execPollRound (req : Nat) : State → Out :=
  runEvent (fun s =>
    match s.m.req req with
    | none => s
    | some r =>
      match r.answer, r.poll, s.m.pool r.pool with
      | none, some prev, some p =>
        match p.shards.find? (fun x => !(p.held x).isEmpty || !x.queued.isEmpty) with
        | some x => s.modM (fun m => m.modReq req (fun r => { r with poll := none, shard := x.die, tries := 0 }))
        | none =>
          let sum := (p.shards.map (·.completed)).foldl (· + ·) 0
          if prev = some sum then s.modM (fun m => m.answer req (.done [1, 0, 0] none))
          else s.modM (fun m => m.modReq req (fun r => { r with poll := some (some sum) }))
      | _, _, _ => s)

/-! ### Summaries and rolling (13 R230) -/

/-- POOL_SUMMARY: a shard sends its summary to every other; it raises what they know, and never lowers it. -/
def execPoolSummary (pool shard : Nat) : State → Out :=
  runEvent (fun s =>
    match s.m.pool pool with
    | none => s
    | some p =>
      match p.shard shard with
      | none => s
      | some sh =>
        let f := p.published sh
        let sum : Summary :=
          { src := shard, count := (p.held sh).length, first := (p.held sh).head?.map (fun e => p.stamp e.key e.tick), fence := f }
        let take (x : Shard) : Shard :=
          if x.die = shard then x
          else
            let k := p.knows x shard
            { (x.learn shard (if Fence.below f k then k else f)) with summaries := upsert Summary.src sum x.summaries }
        s.modM (fun m => m.modPool pool (fun p => { p with shards := p.shards.map take })))

/-- Every shard's published fence is at or above that of one, or at or below. -/
def Pool.leastFence (p : Pool) (f : Fence) : Bool := p.shards.all (fun s => !Fence.below (p.published s) f)
def Pool.greatestFence (p : Pool) (f : Fence) : Bool := p.shards.all (fun s => !Fence.below f (p.published s))

/-- ROLLING_MOVE: one element from a shard of least fence to one of greatest. Which of its elements is left open: a free
value (DESIGN CHOICE, log 4); one that a move has inserted here already waits for the end of that move. It is inserted at its destination. Where the destination's fence falls, which waits for a notice that is
out, the notice follows, and the element leaves its source once it is acknowledged (13 R230). -/
def execRollingMove (pool src dst : Nat) : State → Out :=
  runEvent (fun s =>
    match s.m.pool pool with
    | none => s
    | some p =>
      match p.shard src, p.shard dst with
      | some a, some b =>
        let (w, s1) := s.draw
        match (p.movable a)[w.toNat % (p.movable a).length]? with
        | none => s
        | some e =>
          let f := p.fenceWith b e
          let falls := Fence.below f (p.published b)
          if src = dst ∨ !p.leastFence (p.published a) ∨ !p.greatestFence (p.published b) ∨ (falls && b.notice.isSome)
              ∨ p.caps ≤ b.elems.length then s
          else
            let p1 := p.modShard dst (fun x => { x with elems := p.place e x.elems })
            s1.modM (fun m => m.modPool pool (fun _ => if falls then p1.lower dst f (some (src, e)) else p1.finishMove (some (src, e))))
      | _, _ => s)

/-! ### The answer arrives (13 R235, R237; 03 R64) -/

/-- A value for each register that the answer writes. -/
def withValues (vals : List Word) (f : Flight) : Flight :=
  let put (p : Put × Nat) : Put := match p.1 with
    | .reg c n _ => .reg c n (vals.getD p.2 0)
    | x => x
  { f with puts := f.puts.zipIdx.map put, cap := leBytes 8 (vals.headD 0).toNat }

/-- Fill the dwords of journal entries of record mode that wait for this word's results (17 R267). -/
def fillRecords (ord : Nat) (lpc : Word) : List Word → List RecEntry → List RecEntry
  | vals, e :: r =>
    if e.ord = ord ∧ e.lpc = lpc ∧ e.d0.isNone then
      { e with d0 := some (vals.headD 0), d1 := (vals.drop 1).headD 0 } :: fillRecords ord lpc (vals.drop 2) r
    else e :: fillRecords ord lpc vals r
  | _, [] => []

/-- The body of a pool record (17 R258): key, pool number, serving shard, forwards, status. -/
def poolTrace (r : Req) (vals : List Word) : Nat × Bytes :=
  let tail := leBytes 1 r.pool ++ leBytes 1 r.shard ++ leBytes 1 r.forwards ++ leBytes 1 (vals.headD 0).toNat
  match r.ask with
  | .put key _ => (2, leBytes 8 key.toNat ++ tail)
  | _ => (3, leBytes 8 ((vals.drop 1).headD 0).toNat ++ tail)

/-- A request in flight fails, answered or not, since its status has not landed (15 R254). -/
def Req.fail (code : BitVec 8) (r : Req) : Req :=
  match r.answer with
  | some (.failed _) => r
  | _ => { r with answer := some (.failed code) }

/-- Record mode's entries of a pool word take its results; of one that has failed, and so had no effect, none is kept (17 R267). -/
def State.recordAnswer (s : State) (r : Req) (a : Answer) : State :=
  let held (e : RecEntry) : Bool := e.ord == r.pend.ord && e.lpc == r.pend.lpc && e.d0.isNone
  s.modTask (fun t => { t with recBuf := match a with
    | .failed _ => t.recBuf.filter (fun e => !held e)
    | .done vals _ => fillRecords r.pend.ord r.pend.lpc vals t.recBuf })

/-- A take that has returned an element is a synchronising read of it, met by a later acquire fence (10 R180, R181). -/
def Req.seen (r : Req) (k : Core) (sn : Snap) : ReadSeen :=
  { ctx := if r.pend.merged then none else some r.ctx, ord := r.pend.ord, sec := (k.ctx r.ctx).secNo, lpc := r.pend.lpc, snaps := [sn], live := true }

/-- The task learns what a take acquires with its element, at device scope. -/
def State.takeLearns (s : State) (r : Req) (snap : Option Snap) : State :=
  match snap with
  | none => s
  | some sn =>
    let keep (x : ReadSeen) : Bool := s.core.task.isSome && decide (s.core.ckpt.ord ≤ x.ord)
    s.modSight (fun k =>
      (if synchronises sn s.agent s.core.die [.device] then mergeSnap s.agent k sn.entries sn.evicted else k).putRead (r.seen s.core sn) keep)

/-- The answer of a request reaches its word: its results arrive, or it fails (13 R237, 21 R325). A failed operation had no
effect, so nothing non-idempotent has been done. -/
def State.poolLands (s0 : State) (r : Req) (a : Answer) : State :=
  let s := s0.recordAnswer r a
  let mine (f : Flight) : Bool := f.req == some r.num
  match a with
  | .failed code =>
    let p : Pend := { r.pend with flt := { r.pend.flt with code := code, aux := if code = 0x11 then r.pend.flt.aux else aux0 } }
    let s1 := s.modCore (fun k => { k with flights := k.flights.filter (fun f => !mine f), nonIdem := false })
    if s.core.hub then s1.hubFault p.lpc p.flt
    else if code ≠ 0x11 then s1.failTask p code
    else s1.raise p
  | .done vals snap =>
    let s2 := (s.takeLearns r snap).modCore (fun k => k.arrive mine (withValues vals))
    match r.ask with
    | .put _ _ | .take _ => s2.traceAt (poolTrace r vals).1 (r.pend.slice, r.pend.spc) r.pend.lpc (poolTrace r vals).2
    | _ => s2

/-- A request that the loss of its shard failed, as it is reported to the resident system (13 R237; 15 R254). -/
def Req.report (r : Req) : Report := { code := 0x32, core := r.core, chain := none, num := r.num }

/-- The answer of a request of a task that is ending: its result lands nowhere (20 R280), and the loss of its shard is reported (13
R237; 15 R254). -/
def State.lateAnswer (s : State) (r : Req) (a : Answer) : State :=
  ((s.recordAnswer r a).modM (fun m => { m with reports := m.reports ++ if a = .failed 0x32 then [r.report] else [] })).settleEnd

/-- A request of the focused core is answered. -/
def State.poolAnswer (s : State) (r : Req) : State :=
  let s1 := s.modM (fun m => { m with reqs := m.reqs.filter (fun x => x.num != r.num) })
  match r.answer, s.core.phase with
  | none, _ => s
  | some a, .ending _ _ => s1.lateAnswer r a
  | some a, _ => s1.poolLands r a

end Sys2Proof.Machine
end

