-- ==== Sys2Proof/Machine/Rebuild.lean ====
section
/-! DEFINITION. Rebuild, replay and stops: PRECISE_FAULT_REBUILD with the early TSTEP, MERGED_REPLAY, HANDLER_ENTRY (02 R38 to
R44, 15 R243), traps in place and stops for `tdb` (03 R66 to R69; 02 R44; 16 R257; 17 R263), rollbacks (15 R251) and replay
that diverges (17 R267). -/

namespace Sys2Proof.Machine

/-! ### The early TSTEP (02 R39) -/

/-- The word at a place of the image that a context runs. -/
def State.wordOf (s : State) (c : Ctx) (pc : Nat) : Option Instr :=
  match s.core.task with
  | none => none
  | some t =>
    let base := if s.core.merged then t.img.pimg else (t.img.slice c).img
    s.imageWord (base.toNat + pc)

/-- Where the TSTEP of a context's next step stands: the first word of the section whose header it has reached, or the word
it is at. -/
def State.tstepAt (s : State) (c : Ctx) : Nat :=
  let k := s.core.ctx c
  if !s.core.merged && k.hdr then k.pc.toNat + 8 else k.pc.toNat

/-- The part a context contributes to an early TSTEP, from the mask of its own TSTEP word, as its registers stand. -/
def State.earlyPart (s : State) (c : Ctx) : Part :=
  let at' := s.tstepAt c
  let k := s.core.ctx c
  let lpc := if s.core.merged then k.pc else (mapLpc s (s.sliceOf c) at').getD 0
  let sec : BitVec 20 :=
    if s.core.merged then (if regionStart s k.pc then k.secNo - 1 else k.secNo) else if k.hdr && k.strings.isEmpty then k.secNo else k.secNo - 1
  match s.wordOf c at' with
  | some (.tstep _ _ b mask) => s.capture c mask (k.src b) lpc sec
  | _ => s.capture c 0 0 lpc sec

/-- S issues its TSTEP before it stops; a context without a part of its own contributes one; L claims if it had not. In
merged running C does all of it. -/
def State.earlyTstep (s : State) : State :=
  let driver : Ctx := if s.core.merged then .C else .S
  let n := (s.core.ctx driver).ord + 1
  let own := s.earlyPart driver
  let at' (x : Context) : Context := { x with pc := w64 (s.tstepAt driver), hdr := false }
  let s0 := s.modCore (fun k => ({ k with cur := driver } : Core).modCtx driver at')
  let s1 :=
    if (s0.core.nextEntry driver).isSome then s0
    else match s0.claimStep driver own.lpc with
      | .ok t => t
      | .error _ => s0.claimTile driver s0.walkerTile
  let all : Part := { own with flags := s.core.allFlags }
  let fillIn (e : StepEntry) : StepEntry :=
    if s.core.merged then { e with l := some all, c := some all, s := some all }
    else { e with l := some (e.l.getD (s.earlyPart .L)), c := some (e.c.getD (s.earlyPart .C)), s := some own }
  (s1.modCore (fun k => { k with window := mapIf (fun e => e.ord == n) fillIn k.window })).finishStep n

/-! ### PRECISE_FAULT_REBUILD (02 R38) -/

/-- A chain set back to the checkpoint (08 R155): its append number from the step record, its counter no higher. -/
def Chain.setBack (c : Chain) (tline : Nat) : Chain :=
  { c with append := tline, counter := min c.counter tline, prior := max c.prior c.counter, priorFin := c.finished ++ c.priorFin,
           owed := c.owed.filter (fun o => decide (o.1 ≤ tline)),
           finished := c.finished.filter (fun n => decide (n ≤ tline)),
           entries := c.entries.filter (fun e => decide (e.num ≤ tline)) }

/-- Reader entries of the discarded steps leave the granule tags (10 R198). -/
def dropReaders (m : Module) (task : BitVec 32) (c : Ckpt) : Module :=
  let gone (r : Reader) : Bool :=
    r.task == task && (c.ord == 0 || (r.step != Config.allOnes && decide (c.idx.toNat ≤ r.step.toNat)))
  { m with races := m.races.map (fun x => (x.1, { x.2 with readers := x.2.readers.filter (fun r => !gone r) })) }

/-- Context C at the checkpoint's logical PC; L and S hold the same registers and issue nothing. -/
def Context.rebuilt (k : Context) (c : Ckpt) (cyc : Nat) : Context :=
  { k.load c with pc := c.lpc, wait := none, woken := false, hdr := false, strings := [], secNo := c.secNo, secDone := c.secNo,
                  retired := c.secNo, last := false, ended := false, monitor := none, trap := none, sbm := false, ord := c.ord - 1,
                  step := c.before, hist := [], held := none, pass := false, draining := false, full := false, issueAt := cyc + 1 }

/-- Words executed since the checkpoint, as often as each has been: in the slices, or in a replay that came less far than the
run before it (10 R198). -/
def Core.executed (k : Core) : List (Nat × Word) :=
  let new := k.l.hist ++ k.c.hist ++ k.s.hist
  k.ran.diff new ++ new

/-- Results in flight of every context, and those on landing lists: a rebuild lets them land (02 R38 step 1). -/
def Core.landing (k : Core) : List Flight :=
  k.flights ++ [k.l, k.c, k.s].flatMap (fun x => (x.trap.map (·.list)).getD [])

/-- Steps 1 to 5 of R38, up to the first word of the replay. -/
def State.rebuild (s : State) (p : Pend) : State :=
  let s0 := (s.modCore (fun k => { k with flights := [] })).applyFlights s.core.landing
  let s1 := if s0.core.nonIdem then s0.earlyTstep else s0
  let c := s1.core.ckpt
  let rings := s1.core.restoredRings s.m.now
  let allocs := s1.core.restoredAllocs s.m.free
  let back (t : Task) : Task :=
    { t with seed := c.seed, bsyncs := c.bsyncs, sight := t.sight.setBack c.ord, recBuf := [], jused := t.jused.filter (fun u => decide (u.2 < c.ord)) }
  let chainBack (k : Core) : Core :=
    chainIds.foldl (fun k ch => k.modChain ch (fun x => x.setBack (c.tline.getD (chainCode ch) 0))) k
  let s2 := s1.modCore (fun k =>
    { ((chainBack k).modAll (fun x => x.rebuilt c k.cyc)) with
      rings := rings, allocs := allocs, merged := true, cur := .C, slot := .l,
      returning := (match k.task with
        | some t => !t.kmerged
        | none => false),
      window := k.window.map (fun e => { e with l := none, c := none, s := none }), lates := [],
      ran := k.executed, nonIdem := false, replayed := k.journal ++ k.replayed, journal := [], svc := none, secAppends := [], phase := .rebuilt p })
  let s3 := (s2.modTask back).loseSpaces
  let withdrawn (t : Task) (m : Module) : Module :=
    dropReaders (modNode m t.node (fun n =>
      { n with members := mapIf (fun x => x.task == t.num) (fun x => { x with arrived := none }) n.members })) t.num c
  let s4 := match s.core.task with
    | some t => s3.modM (withdrawn t)
    | none => s3
  s4.reach

/-- A result or a template is still to come from outside. -/
def Core.awaits (k : Core) : Bool := k.flights.any (fun f => !f.arrived) || k.lates.any (fun l => !l.arrived)

/-- PRECISE_FAULT_REBUILD: once every result has arrived and every issued entry has completed. A mid-step stop saves the
rebuilt state and replays on resume (15 R246). -/
def execPreciseFaultRebuild : State → Out :=
  runEvent (fun s =>
    match s.core.phase with
    | .pend p =>
      if p.early || s.core.busy || s.core.awaits then s
      else if p.why = .save then
        (s.rebuild p).beginSave true
      else s.rebuild p
    | _ => s)

/-- MERGED_REPLAY: the plain image runs again from the checkpoint, up to the faulting word. -/
def execMergedReplay : State → Out :=
  runEvent (fun s =>
    match s.core.phase with
    | .rebuilt p => s.modCore (fun k => { k with phase := .replay p })
    | _ => s)

/-- Replay has come to the faulting word: its step, its logical PC, issued as often as then. (DEDUCED, log 8.) -/
def Core.atTarget (k : Core) (p : Pend) : Bool := k.c.pc == p.lpc && k.c.ord == p.ord && k.c.occ p.ord p.lpc == p.occ

/-- HANDLER_ENTRY (15 R243). -/
def execHandlerEntry : State → Out :=
  runEvent (fun s =>
    match s.core.phase with
    | .replay p => if p.why = .fault && s.core.atTarget p then s.enterHandler p else s
    | _ => s)

/-! ### Stops for `tdb` (02 R44; 20 R294) -/

/-- DEBUG_LOGICAL_STOP: the debugger takes the place of the handler. After a breakpoint word the stop is after it. -/
def execDebugLogicalStop (c : Ctx) : State → Out :=
  runEvent (fun s =>
    match s.core.phase with
    | .replay p =>
      if c ≠ .C ∨ !s.core.atTarget p then s
      else
        match p.why with
        | .stop after =>
          let s1 := s.modCore (fun k => { k.endReplay with phase := .stopped p none })
          if after then (s1.issued s1.here.ord s1.lpc).advance else s1
        | _ => s
    | _ => s)

/-- How running goes on after a stop: a handler or a replay with what it was, else merged running to the next TSTEP. -/
def resumePhase (hub : Bool) (p : Pend) (within : Option (Bool × Pend)) : Phase :=
  match within, p.why with
  | some (true, q), _ => .handler q
  | some (false, q), _ => .replay q
  | none, .stop true => .run
  | none, _ => if hub then .run else .retry p

/-- DEBUGGER_RESUME. A stop before a word runs that word without stopping again. -/
def execDebuggerResume : State → Out :=
  runEvent (fun s =>
    match s.core.phase with
    | .stopped p within =>
      (s.modHere (fun x => { x with pass := p.why != .stop true })).modCore (fun k => { k with phase := resumePhase k.hub p within })
    | _ => s)

/-- The stop before the word at issue in the logical view: sliced running asks for a rebuild, other running stands still. -/
def State.stopLogical (s : State) : State :=
  let p := s.pendOf (.stop false) { code := 0, addr := 0, lane := 0, aux := aux0 }
  s.modCore (fun k => { k with phase := if s.place = .slice then .pend p else k.stopPhase p })

/-- The stop before the word at issue. -/
def State.stopHere (s : State) (vector : Nat) : State :=
  match s.core.debugger with
  | .none => s
  | .slice => if s.core.hub then s.stopLogical else s.modCore (fun k => k.trapInPlace k.cur vector)
  | .logical => s.stopLogical

/-- WATCHPOINT_STOP (17 R263): before the access of the word at issue, which has told `tdb` of the watchpoints it met. -/
def execWatchpointStop (c : Ctx) : State → Out :=
  runEvent (fun s => if c = s.core.cur && s.core.stopping then s.stopHere 0x201 else s)

/-- IN_PLACE_TRAP (03 R66; 04 R89; 07 R137): in host-assisted mode a word that misses a translation traps in place before it issues,
and the translation-miss firmware runs on the context. (DEDUCED, log 94.) -/
def execInPlaceTrap (c : Ctx) : State → Out :=
  runEvent (fun s =>
    if s.m.duty.getLsbD 0 && s.core.trappable c then s.modCore (fun k => k.trapInPlace c 0x01) else s)

/-- HAZARD_STOP (03 R69): with DBG the context stops in place before the word, and HZ names the hazard. -/
def execHazardStop (c : Ctx) (hz : BitVec 4) : State → Out :=
  runEvent (fun s =>
    if (s.core.ctx c).dbg && s.core.trappable c && decide (1 ≤ hz.toNat ∧ hz.toNat ≤ 5) then
      s.modCore (fun k => (k.modCtx c (fun x => { x with hz := hz })).trapInPlace c 0x203)
    else s)

/-- A value that a logpoint lists, as the context at issue sees it; `life` of a pointer that names no allocation of its tag has
none: all ones here (DESIGN CHOICE, log 86). -/
def State.logValue (s : State) : LogItem → Word
  | .sys n => sysValue s n.toNat
  | .reg n => s.reg n
  | .life n =>
    match checkScratch124 s.core (s.reg n) with
    | .ok a => w64 (lifeOf s.core a (ptrOff (s.reg n)) s.core.nowAt)
    | .error _ => Config.allOnes

/-- LOGPOINT (16 R257): an in-place trap before the word that hands its listed values to `tdb` and returns, without a rebuild. -/
def execLogpoint (l : LogPoint) : State → Out :=
  runEvent (fun s =>
    if s.core.debugger != .none && s.core.trappable l.ctx then
      let s1 : State := { s with core := { s.core with cur := l.ctx } }
      ((s1.noteStop 0 [] (l.items.map s1.logValue)).modCore (fun k => k.trapInPlace l.ctx 0)).returnTrap l.ctx false
    else s)

/-! ### Rollback and divergence -/

/-- After a pipeline error every entry behind the oldest open step's marker counts as withdrawn (15 R251). -/
def Core.withdrawAll (k : Core) : Core :=
  chainIds.foldl (fun k ch => k.modChain ch (fun c =>
    { c with entries := c.entries.filter (fun e => decide (e.num ≤ k.ckpt.tline.getD (chainCode ch) 0)) })) k

/-- The entry that the engine of a unit (15 R242) has in progress. -/
def Core.failing (k : Core) (unit : BitVec 8) : Option (ChainId × Entry) :=
  let chains : List ChainId := if unit = 3 then [.tmx] else if unit = 4 then [.tci, .tco] else if unit = 5 then [.tsx] else []
  chains.findSome? (fun ch => ((k.chain ch).entries.find? (·.begun)).map (fun e => (ch, e)))

/-- What the record of a core with a failing unit names: of an engine, the entry in progress (15 R241). -/
def State.pendUnit (s : State) (unit : BitVec 8) (code : BitVec 8) : Pend :=
  let f : Flt := { code := code, addr := 0, lane := 0, aux := pad [unit] 16 }
  match s.core.failing unit with
  | some (ch, e) => s.pendEntry ch e f
  | none => { s.pendOf .fault f with eng := none }

/-- PIPELINE_ERROR_ROLLBACK (15 R251): the failing result is discarded with everything after the checkpoint. Where S has issued a
non-idempotent operation, the checkpoint is the one that the early TSTEP writes (02 R39), and the rebuild withdraws behind that.
The third in a row in one tile step ends the task, and the core goes out of service. -/
def execPipelineErrorRollback (unit : BitVec 8) : State → Out :=
  runEvent (fun s =>
    let p : Pend :=
      { s.pendOf .rollback { code := 0x30, addr := 0, lane := 0, aux := pad [unit] 16 } with eng := none }
    match s.core.task, s.core.phase with
    | none, _ => s
    | some _, .pend _ => s
    | some _, .rebuilt _ => s
    | some _, .stopped _ _ => s
    | some _, .ending _ _ => s
    | some _, _ =>
      let s1 := s.modCore (fun k => { (k.count 9 1) with rollbacks := k.rollbacks + 1 })
      if 3 ≤ s1.core.rollbacks then
        (s1.modCore (fun k => { k with inService := false })).failTask (s.pendUnit unit 0x31) 0x31
      else s1.modCore (fun k => { (if k.nonIdem then k else k.withdrawAll) with phase := .pend p }))

/-- REPLAY_DIVERGENCE (17 R267, 15 R409). -/
def execReplayDivergence : State → Out :=
  runEvent (fun s =>
    match s.core.task with
    | none => s
    | some t =>
      if !t.replay then s
      else if s.core.debugger ≠ .none then (s.noteStop Config.allOnes).stopLogical
      else s.endSoon (statusOf 0x42 0xFFFFFFF0))

end Sys2Proof.Machine
end

