-- ==== Sys2Proof/Machine/Sequencer.lean ====
section
/-! DEFINITION. The sequencer's own steps: the end of a cycle (03 R62 to R64), results from outside, blocked contexts (03 R65),
section headers, strings and retirement (02 R26 to R31), and the stall watchdog (02 R30). -/

namespace Sys2Proof.Machine

/-! ### The end of a cycle -/

/-- A result or a template from outside the core is overdue (03 R64): the context whose word asked for it. -/
def Core.overdue (k : Core) : Option Ctx :=
  ((k.flights.find? (fun f => !f.arrived && decide (f.dueBy < k.cyc))).map (·.ctx)).or
    ((k.lates.find? (fun l => !l.arrived && decide (l.landAt < k.cyc))).map (·.ctx))

/-- All three contexts stand still: something from outside the core is overdue (03 R64), or the die throttles (01 R18). -/
def Core.frozen (k : Core) : Bool := k.throttled || k.overdue.isSome

/-- A result lands at the end of this cycle; none of a task that is ending does (20 R280): a landing list stays for its dump (17
R265). -/
def Core.lands (k : Core) (f : Flight) : Bool :=
  f.arrived && decide (f.landAt ≤ k.cyc) && (match k.phase with
    | .ending _ _ => false
    | _ => true)

/-- Results due at the end of this cycle: writes of system registers, scratch and tags first, then L, C and S, so that S
prevails over C and C over L (03 R58). -/
def Core.due (k : Core) : List Flight :=
  let l := k.flights.filter k.lands
  l.filter (fun f => !f.counted) ++ bySlice (l.filter (·.counted))

/-- Accesses of this cycle to a bank. -/
def bankLoad (banks : List (Ctx × Nat)) (b : Nat) : Nat := (banks.filter (fun x => x.2 == b)).length

/-- Frozen cycles that the accesses of this cycle cost: ⌈k/2⌉ − 1 of the busiest bank (03 R64). -/
def overcommit (banks : List (Ctx × Nat)) : Nat :=
  let most := (banks.map (fun b => bankLoad banks b.2)).foldl max 0
  (most + 1) / 2 - 1

/-- The context whose word overcommitted the busiest bank: the last one to access it. -/
def crowder (banks : List (Ctx × Nat)) (other : Ctx) : Ctx :=
  let most := (banks.map (fun b => bankLoad banks b.2)).foldl max 0
  ((banks.reverse.find? (fun b => bankLoad banks b.2 == most)).map (·.1)).getD other

/-- The listed results of an in-place trap have all landed: scoreboard mode ends (03 R67). -/
def Core.endScoreboard (k : Core) : Core :=
  let one (c : Ctx) (k : Core) : Core :=
    k.modCtx c (fun x => { x with sbm := x.sbm && k.flights.any (fun f => f.ctx == c && f.listed) })
  one .S (one .C (one .L k))

/-- A cycle of a core in units of 0.1 ns: 1.25 GHz, and 2.0 GHz on a hub die (01 R10, R13). -/
def Core.period (k : Core) : Nat := if k.hub then 5 else 8

/-- Time passes by n cycles of the focused core: 100 ns make a fade tick (07 R142; DESIGN CHOICE, log 3). -/
def State.tickWall (s : State) (n : Nat) : State :=
  let w := s.m.wall + n * s.core.period
  let s1 := s.modM (fun m => { m with wall := w })
  if w / 1000 = s.m.wall / 1000 then s1 else { s1 with agenda := .row .fadeTick :: s1.agenda }

/-- A string is satisfied: (retired − w) mod 2^20 < 2^19 (02 R28). -/
def Core.satisfied (k : Core) (w : Ctx × BitVec 20) : Bool := decide (((k.ctx w.1).retired - w.2).toNat < 524288)

/-- The first context that is blocked on a string: it has drained, and some string of its header is not satisfied (03 R65). -/
def Core.onString (k : Core) : Option Ctx :=
  [Ctx.L, .C, .S].find? (fun c => (k.ctx c).hdr && k.drained c && (k.ctx c).strings.any (fun w => !k.satisfied w))

/-- A cycle passes with a context blocked on a string (17 R259 event 3): n cycles of it. -/
def Core.countStrings (k : Core) (n : Nat) : Core :=
  match k.onString with
  | some c => k.countFor c 3 n
  | none => k

/-- A context that has reached a blocking event blocks once its results have landed: the block begins now (03 R65). -/
def Core.beginBlocks (k : Core) (now : Nat) : Core :=
  let one (c : Ctx) (k : Core) : Core :=
    k.modCtx c (fun x => if x.draining && k.drained c then { x with draining := false, wait := x.wait.map (fun w => (w.1, now)) } else x)
  one .S (one .C (one .L k))

/-- What a cycle of the core that has ended leaves for the next one, which begins at tick `now` (07 R142). -/
def Core.nextCycle (k : Core) (banks : List (Ctx × Nat)) (now : Nat) : Core :=
  let k1 := (k.countFor (crowder banks k.cur) 2 (overcommit banks)).countStrings (1 + overcommit banks)
  { (k1.endScoreboard.beginBlocks now) with
    cyc := k.cyc + 1, slot := .l, banks := [], banksWas := [], nowAt := now,
    allocs := k1.allocs.map (fun a => { a with sweep := a.sweep - 1 }) }

/-- What stays in flight at the end of a cycle. -/
def Core.staying (k : Core) : List Flight := yielding k.flights k.lands

/-- A cycle of the core ends: results due land. -/
def State.endCycle (s : State) : State :=
  let rest := s.core.staying
  ((s.modCore (fun k => { k with flights := rest })).applyFlights s.core.due).modCore (fun k => k.nextCycle s.core.banks s.m.now)

/-- RESULT_LANDING (03 R62): results due land; the next cycle begins. A frozen cycle only passes (17 R259 event 2); a cycle that has
begun unfrozen ends unfrozen, whatever has come meanwhile (03 R64). -/
def execResultLanding : State → Out :=
  runEvent (fun s =>
    if s.core.slot = .hold ∨ (s.core.slot = .l ∧ s.core.frozen = true) then
      (s.modCore (fun k =>
        { (((k.countFor (k.overdue.getD k.cur) 2 1).countStrings 1).beginBlocks s.m.now) with slot := .l, nowAt := s.m.now })).tickWall 1
    else s.endCycle.tickWall (1 + overcommit s.core.banks))

/-- EXTERNAL_RESULT_ARRIVAL (03 R64): an answered pool request of this core, the oldest result whose data come over the die's
links, or the oldest template. -/
def execExternalResultArrival : State → Out :=
  runEvent (fun s =>
    match s.m.reqs.find? (fun r => r.core == s.core.num && r.answer.isSome) with
    | some r => s.poolAnswer r
    | none =>
      match s.core.flights.find? (fun f => f.ext && !f.arrived) with
      | some f => s.modCore (fun k => k.arrive (fun x => x == f) id)
      | none => s.lateArrives)

/-! ### CONTEXT_UNBLOCK (03 R65) -/

/-- Is what a blocked word waits for there? A word of another kind tries again. -/
def ready (s : State) (i : Instr) : Bool :=
  match i with
  | .awaitf n _ => s.journalHit.isSome || (match s.core.ring n.toNat with
      | some r => r.filled != 0
      | none => true)
  | .rels _ n => s.core.inReplay || (match s.core.ring n.toNat with
      | some r => r.filled != 0
      | none => true)
  | .mwait _ _ b => s.core.inReplay || s.cutHere || (wakeCode s b).isSome
  | .waitc ch f => decide ((s.src f.a).toNat ≤ (s.core.chain ch).counter)
  | .svc _ => match s.core.svc with
      | some (_, none) => false
      | _ => true
  | .exit _ => s.core.quiet && (s.core.interlocked || s.core.appended s.core.cur)
  | _ => true

/-- A word whose template has come, and that a ring or a segment has blocked, can go on as a cycle begins (22 R341): its context has
drained (03 R65), and there is room. -/
def Core.lateReady (k : Core) (l : Late) : Bool :=
  !k.interlocked && l.arrived && k.slot == .l && !k.frozen && k.flights.all (fun f => f.ctx != l.ctx || !f.counted) && (match l.i, l.at'.held with
    | .copy _, some (body, _) =>
      let n := nestOf body
      !k.appendWaits (if n.dsp = .global then .tco else .tci) && (!n.re || (k.ring n.ring).all (fun r => !r.isFull))
    | .mma _, _ => !k.appendWaits .tmx
    | .send _, _ => !k.appendWaits .tsx
    | _, _ => true)

/-- The device may wake a context from MWAIT when no write has come (02 R49; 21 R335): as a write of the line would. -/
def deviceWakes : Instr → Bool
  | .mwait _ _ _ => true
  | _ => false

/-- CONTEXT_UNBLOCK: what a word whose template has come waits for is there, and it takes effect, whatever a later word waits for; or
what the word at issue waits for is there, and it comes to issue again. At an MWAIT whose wake is not there yet it is the device that
wakes. -/
def execContextUnblock (c : Ctx) : State → Out :=
  runEvent (fun s =>
    let t : State := { s with core := { s.core with cur := c } }
    match t.core.lates.find? (fun l => l.ctx == c && t.core.lateReady l), t.here.wait with
    | some l, _ => t.lateEffect l
    | none, none => s
    | none, some (i, _) =>
      if !t.here.woken && (t.core.interlocked || t.core.drained c) then
        if ready t i then s.modCore (fun k => k.modCtx c (fun x => { x with woken := true }))
        else if deviceWakes i then
          s.modCore (fun k => k.modCtx c (fun x =>
            { x with woken := true, monitor := x.monitor.map (fun m => { m with event := true }) }))
        else s
      else s)

/-! ### Sections and strings (02 R26 to R31) -/

/-- The slice whose retirements a wait field names: the lower-ordered other slice, and the higher-ordered one (02 R28). -/
def waitNames : Ctx → Ctx × Ctx
  | .L => (.C, .S)
  | .C => (.L, .S)
  | .S => (.L, .C)

/-- The strings of header h of section n. -/
def stringsOf (c : Ctx) (h : Nat) (n : BitVec 20) : List (Ctx × BitVec 20) :=
  let one (f : Nat) (x : Ctx) : List (Ctx × BitVec 20) := if f = 0 then [] else [(x, n - BitVec.ofNat 20 f + 1)]
  one (fld h 28 20) (waitNames c).1 ++ one (fld h 8 20) (waitNames c).2

/-- The context enters the section whose header it has passed. -/
def Context.enter (k : Context) : Context := { k with hdr := false, strings := [], pc := w64 (k.secStart + 8) }

/-- The report of a sequencer's own fault on a context: code, slice, slice PC, and a logical PC. At a header that is the one of the last
word (02 R27), which R27 does not name while results are in flight: here, the last one that has issued (DESIGN CHOICE, log 46). -/
def State.seqReport (s : State) (c : Ctx) (code : BitVec 8) (lpc : Word) : State :=
  let x := s.core.ctx c
  let p : Pend :=
    { why := .fault, flt := { code := code, addr := 0, lane := 0, aux := aux0 }, step := x.step, ord := x.ord, lpc := lpc,
      occ := 0, slice := s.sliceCode c, spc := x.pc, eng := none, merged := s.core.merged, early := false, time := s.m.now }
  s.failTask p code

/-- May the contexts of this core go on? -/
def Core.running (k : Core) : Bool :=
  k.task.isSome && !k.merged && (k.stop.all (fun r => !r.saving)) && (match k.phase with
    | .run => true
    | _ => false)

/-- SECTION_HEADER_CHECK (02 R27, R28): a failed check ends the task with code 0x20. -/
def execSectionHeaderCheck (c : Ctx) : State → Out :=
  runEvent (fun s =>
    let x := s.core.ctx c
    if !(s.core.running && x.hdr && x.strings.isEmpty && !x.ended && x.trap.isNone) then s
    else
      match devRead s s.root ((s.sliceOf c).img + x.pc).toNat 8 with
      | none => s.seqReport c 0x20 x.lastLpc
      | some b =>
        let h := leNat b
        if !hdrOk h then s.seqReport c 0x20 x.lastLpc
        else
          let n := x.secNo + 1
          let open' := (stringsOf c h n).filter (fun w => !s.core.satisfied w)
          let y : Context :=
            { x with secNo := n, secStart := x.pc.toNat, secEnd := x.pc.toNat + 8 + 12 * hdrLen h, last := bitOf h 1,
                     strings := open', stringSince := s.m.now }
          s.modCore (fun k => k.setCtx c (if open'.isEmpty then y.enter else y)))

/-- STRING_WAIT_SATISFIED: the context has drained, and every string of its header is satisfied. -/
def execStringWaitSatisfied (c : Ctx) : State → Out :=
  runEvent (fun s =>
    let x := s.core.ctx c
    if s.core.running && x.hdr && !x.strings.isEmpty && s.core.drained c && x.strings.all s.core.satisfied then
      s.modCore (fun k => k.modCtx c Context.enter)
    else s)

/-- A section issued whole is still to retire, and all of its results have landed: none is in flight, and none on the landing
list of an in-place trap (02 R29). -/
def Core.canRetire (k : Core) (c : Ctx) : Bool :=
  let x := k.ctx c
  let listed := (x.trap.map (·.list)).getD []
  x.retired != x.secDone && (k.flights ++ listed).all (fun f => f.ctx != c || f.sec != x.retired + 1)
    && k.lates.all (fun l => l.ctx != c || l.at'.secNo != x.retired + 1)

/-- SECTION_RETIRE (02 R29, R39): the append numbers at the retirement are kept for S until S has retired that section. -/
def execSectionRetire (c : Ctx) : State → Out :=
  runEvent (fun s =>
    if !(s.core.running && s.core.canRetire c) then s
    else
      let n := (s.core.ctx c).retired + 1
      let ahead := decide (524288 ≤ (s.core.s.retired - n).toNat)
      let nums := chainIds.map (fun ch => (s.core.chain ch).append)
      s.modCore (fun k =>
        { (k.modCtx c (fun x => { x with retired := n })) with
          secAppends := if c = .S then k.secAppends.filter (fun e => e.2.1 != n)
            else if ahead then (c, n, nums) :: k.secAppends else k.secAppends }))

/-- STALL_WATCHDOG (02 R30; 16 R255; 22 R361): an unsatisfied string, a wait for a counter or a ring, or a service outlasts the
stall timeout: the task ends with code 0x21, and its record names the word that is blocked (15 R241). How the resident system sets the timeout is left open: here it stays at its default
(DESIGN CHOICE, log 87). -/
def execStallWatchdog (c : Ctx) : State → Out :=
  runEvent (fun s =>
    let x := s.core.ctx c
    let late (since : Nat) : Bool := decide (s.m.stallTimeout < s.m.now - since)
    let note (w : BitVec 20) (t : State) : State :=
      t.modM (fun m => { m with stalls := m.stalls ++ [(s.core.num, s.sliceCode c, x.secNo, w)] })
    if s.core.task.isNone then s
    else if x.hdr && x.strings.any (fun w => !s.core.satisfied w) && late x.stringSince then
      (note (((x.strings.filter (fun w => !s.core.satisfied w)).map (·.2)).headD 0) s).seqReport c 0x21 x.lastLpc
    else
      match x.wait with
      | some (i, since) =>
        let watched := match i with
          | .waitc _ _ | .awaitf _ _ | .rels _ _ | .svc _ => true
          | _ => false
        if watched && late since then (note 0 s).seqReport c 0x21 (s.nextLpc c) else s
      | none => s)

end Sys2Proof.Machine
end

