-- ==== Sys2Proof/Machine/Start.lean ====
section
/-! DEFINITION. From descriptors to a task on a core: reading node, kernel, parameter and image descriptors (12 R209, R210, R213;
04 R91), the dependence rule (12 R211), and the start of a task (03 R53; 12 R212; 17 R268). -/

namespace Sys2Proof.Machine

/-! ### Descriptors -/

/-- Bytes n to n + k of a record are zero. -/
def reservedZero (b : Bytes) (l : List (Nat × Nat)) : Bool := l.all (fun r => zeroAt b r.1 r.2)

/-- An operand of 32 bytes: none where it is not valid; `none` outside for a reserved value. -/
def operandOf (b : Bytes) : Option (Option Operand) :=
  let fl := le b 28 1
  if fld fl 3 5 ≠ 0 ∨ !zeroAt b 29 3 then none
  else if !bitOf fl 0 then some none
  else
    let o : Operand :=
      { base := le b 0 8, run := le b 8 4, n1 := le b 12 2, n2 := le b 14 2, str1 := leInt b 16 6, str2 := leInt b 22 6,
        rd := bitOf fl 1, wr := bitOf fl 2 }
    if o.run = 0 ∨ o.n1 = 0 ∨ o.n2 = 0 then none else some (some o)

/-- All eight operands of a node descriptor; none if one has a reserved value. -/
def operandsOf (b : Bytes) : Option (List Operand) :=
  let l := (List.range 8).map (fun j => operandOf (slice b (64 + 32 * j) 32))
  if l.any (·.isNone) then none else some (l.filterMap (fun x => x.bind id))

def sliceOfDesc (b : Bytes) (o : Nat) : Slice := { img := w64 (le b o 8), len := le b (o + 8) 4, idx := w64 (le b (o + 16) 8) }

def imageOf (b : Bytes) : Image :=
  { pimg := w64 (le b 0 8), pwords := fld (le b 8 8) 0 28, regbits := w64 (le b 16 8), l := sliceOfDesc b 24,
    c := sliceOfDesc b 48, s := sliceOfDesc b 72 }

def paramsOf (b : Bytes) : Params :=
  { count := six b 0 2, cbase := (List.range 6).map (fun j => w64 (le b (16 + 8 * j) 8)),
    cstep := (List.range 36).map (fun i => leInt b (64 + 4 * i) 4) }

/-- A status of the scheduler's own failures (15 R409). -/
def schedStatus (detail : Nat) : Word := statusOf 0x42 detail

/-- A node that failed as it was read (12 R209). -/
def brokenNode (id q pkt order : Nat) (desc cmdp root : Word) (tenant prio detail : Nat) : Node :=
  { id := id, q := q, pkt := pkt, order := order, desc := desc, cmdp := cmdp, gang := true, cores := 0, mods := 1, root := root,
    tenant := tenant, prio := prio, kdesc := 0, idesc := 0, image := imageOf [], kflags := 0, handler := Config.allOnes,
    emul := Config.allOnes, jrnl := 0, params := paramsOf [], opnds := [], st := .done, entered := 0, headSince := none,
    members := [], next := 0, returned := [], results := [], status := schedStatus detail, sight := Sight.new, began := none,
    ended := none, journals := none }

/-- Read the node of a descriptor under the queue's root. (DESIGN CHOICE, log 46.) -/
def readNode (s : State) (q : Queue) (cmdp : Word) (id pkt order : Nat) (desc : Word) : Node :=
  let bad := brokenNode id q.num pkt order desc cmdp q.root q.tenant q.prio
  match devRead s q.root desc.toNat 320 with
  | none => bad 0xFFFFFFF5
  | some b =>
    let mode := le b 28 1
    match operandsOf b, devRead s q.root (le b 8 8) 64, devRead s q.root (le b 16 8) 256 with
    | none, _, _ => bad 0xFFFFFFF4
    | some _, none, _ => bad 0xFFFFFFF5
    | some _, _, none => bad 0xFFFFFFF5
    | some ops, some k, some p =>
      match devRead s q.root (le k 0 8) 128 with
      | none => bad 0xFFFFFFF5
      | some im =>
        let cores := le b 30 2
        let mods := le b 29 1
        let ok := reservedZero b [(0, 8), (24, 4), (32, 32)] && fld mode 1 7 == 0 && decide (1 ≤ cores ∧ cores ≤ 768)
          && decide (1 ≤ mods ∧ mods ≤ 64) && (mode == 0 || mods == 1) && reservedZero k [(40, 24)] && fld (le k 32 8) 5 59 == 0
          && reservedZero p [(12, 4), (208, 48)] && (paramsOf p).count.all (· != 0)
        if !ok then bad 0xFFFFFFF4
        else
          { id := id, q := q.num, pkt := pkt, order := order, desc := desc, cmdp := cmdp, gang := mode == 0, cores := cores,
            mods := mods, root := q.root, tenant := q.tenant, prio := q.prio, kdesc := w64 (le b 8 8), idesc := w64 (le k 0 8), image := imageOf im,
            kflags := BitVec.ofNat 5 (le k 32 8), handler := w64 (le k 16 8), emul := w64 (le k 24 8), jrnl := w64 (le k 8 8),
            params := paramsOf p, opnds := ops, st := .pending, entered := 0, headSince := none, members := [], next := 0,
            returned := [], results := [], status := 0, sight := Sight.new, began := none, ended := none, journals := none }

/-! ### Dependences (12 R211) -/

/-- First and last 128-byte line of each run of an operand. -/
def Operand.runs (o : Operand) : List (Int × Int) :=
  (List.range o.n2).flatMap (fun b => (List.range o.n1).map (fun a =>
    let lo : Int := (o.base : Int) + a * o.str1 + b * o.str2
    (lo / 128, (lo + o.run - 1) / 128)))

/-- Two operands touch a common line, and at least one is written. -/
def Operand.conflicts (x y : Operand) : Bool :=
  (x.wr || y.wr) && x.runs.any (fun a => y.runs.any (fun b => decide (a.1 ≤ b.2) && decide (b.1 ≤ a.2)))

/-- Node i precedes node j in one queue and has not completed. -/
def precedesNode (i j : Node) : Bool :=
  i.q == j.q && i.st != .done && (decide (i.pkt < j.pkt) || (i.pkt == j.pkt && decide (i.order < j.order)))

def Node.dependsOn (j i : Node) : Bool := precedesNode i j && i.opnds.any (fun a => j.opnds.any (fun b => a.conflicts b))

/-! ### The start of a task (03 R53, 12 R212) -/

/-- Addresses the scheduler assigns: free values, page-aligned and within 56 bits (DESIGN CHOICE, log 4). -/
def drawPage (n : Nat) : Word := Config.freeWord n &&& 0x00FFFFFFFFFFF000

/-- A context at task start: every register zero; latches are lost where the core last ran another task (03 R61). -/
def Context.start (t : Task) (ranBefore : Bool) (k : Context) : Context :=
  { Context.reset with
    latch := Vector.replicate 16 (if ranBefore then none else some []), dbg := t.dbg, strict := t.strict, wp := k.wp,
    hdr := !t.kmerged }

/-- Segments of a task's chains: each begins with no next segment (08 R153). -/
def linkSegments (s : State) (root : Word) (segs : List Word) : State :=
  segs.foldl (fun s a => devWrite s root (a.toNat + 128 * 31) (linkSlot 0)) s

/-- Put a task at its launch state on the focused core, with the segments of its chains. -/
def State.launchTask (s : State) (t : Task) (segs : List Word) : State :=
  let chain (i : Nat) : Chain := { Chain.reset with seg := segs.getD i 0 }
  let s1 := (linkSegments s t.root segs).modCore (fun k =>
    { (k.clearTask.modAll (Context.start t k.ranBefore)) with
      task := some t, mode := .u, merged := t.kmerged, cur := if t.kmerged then .C else .L, slot := .l,
      tci := chain 0, tmx := chain 1, tco := chain 2, tsx := chain 3,
      ckpt := { Ckpt.launch with alist := 0 }, stop := none, claim := none, dir := [], lastTask := none, wb := [], wbGen := s.m.free })
  (s1.modM (fun m => { m with free := m.free + 1 })).reach

/-- The journal of the next task of a node in record mode (17 R268): the directory entry it takes and the room, or none where
the directory is full or there is none. -/
def takeJournal (s : State) (n : Node) (area : Word) : State × Option Word :=
  if n.jrnl = 0 then (s, none)
  else
    match devRead s n.root n.jrnl.toNat 64 with
    | none => (s, none)
    | some h =>
      let cap := le h 0 8
      let used := le h 8 8
      if used < cap then
        let e := n.jrnl.toNat + 64 + 16 * used
        let s1 := devWrite (devWrite s n.root e (leBytes 8 area.toNat ++ leBytes 8 0)) n.root (n.jrnl.toNat + 8) (leBytes 8 (used + 1))
        (s1, some (w64 e))
      else (devWrite s n.root (n.jrnl.toNat + 16) (leBytes 1 (le h 16 1 ||| 1)), none)

/-- A completed node that a later one would have waited for: it precedes it, and their operands conflict (12 R211). -/
def Past.before (p : Past) (n : Node) : Bool :=
  (decide (p.pkt < n.pkt) || (p.pkt == n.pkt && decide (p.order < n.order)))
    && p.opnds.any (fun a => n.opnds.any (fun b => a.conflicts b))

/-- What one sight learns from others. -/
def Module.learn (m : Module) (k : Sight) (l : List Sight) : Sight := l.foldl (fun k x => m.hand k x.cache x.evicted) k

/-- What a task knows at its start: the dispatch acquires what the nodes it depends on released, and what the notifies, WAITs and
BARRIERs of its queue hand on (10 R187; 12 R205, R207). (DEDUCED, log 64.) -/
def startSight (m : Module) (n : Node) : Sight :=
  match m.queues.find? (fun x => x.num == n.q) with
  | some x => m.learn Sight.new (x.sight :: (x.past.filter (fun p => p.before n)).map (·.sight))
  | none => Sight.new

/-- Parts of a task's save area: behind the directory's page and the bytes of its allocations lie its dumps, then its journal (17
R265, R268; DESIGN CHOICE, log 33). -/
def dumpArea (save : Word) : Word := save + w64 (4096 + Config.scratchBytes)
def journalArea (save : Word) : Word := save + w64 (4096 + Config.scratchBytes + 2 ^ 24)

/-- Start the task of a node with a gang index on a core (12 R212). The step record, save area, journal area and segments are
the scheduler's choice: free values (DESIGN CHOICE, log 4). -/
def State.startMember (s : State) (n : Node) (idx core : Nat) : State :=
  let f := s.m.free
  let record := n.kflags.getLsbD 3
  let replay := n.kflags.getLsbD 4
  let save := drawPage f
  let area := journalArea save
  let (s1, jent) := if record then takeJournal s n area else (s, none)
  let played : Bytes := ((devRead s n.root (n.jrnl.toNat + 64 + 16 * idx) 16).getD [])
  let t : Task :=
    { num := s.m.nextTask, root := n.root, img := n.image, kmerged := n.kflags.getLsbD 0, dbg := n.kflags.getLsbD 1,
      strict := n.kflags.getLsbD 2, record := record && jent.isSome, replay := replay, handler := n.handler, emul := n.emul,
      node := n.id, member := idx, pool := !n.gang, tenant := n.tenant, ndesc := n.desc, cmdp := n.cmdp, region := 0, lost := false,
      sight := startSight s.m n, seed := 0, seedBy := .C, recAddr := drawPage (f + 2), saveArea := save,
      journal := if replay then w64 (le played 0 8) else if jent.isSome then area else 0, jpos := 0, jdir := jent.getD 0,
      recBuf := [], jused := [], jcap := if replay then le played 8 8 / 32 else (Config.freeWord (f + 3)).toNat, bsyncs := 0,
      spent := false }
  let member : Member := { idx := idx, task := t.num, core := core, ended := none, arrived := none }
  let s2 := s1.modM (fun m =>
    { (modNode m n.id (fun n => { n with st := .running, members := n.members ++ [member] })) with
      nextTask := m.nextTask + 1, free := m.free + 8 })
  s2.onCore core (fun x => x.launchTask t [drawPage (f + 4), drawPage (f + 5), drawPage (f + 6), drawPage (f + 7)])

end Sys2Proof.Machine
end

