-- ==== Sys2Proof/Machine/Stash.lean ====
section
/-! DEFINITION. Events of memory: walks, chain extension, copy on write (02 R43; 07 R137; 08 R153; 15 R252), the fade clock
and what follows from it (07 R142, R143, R141), the lines of stash windows (07 R148), and the poison map (07 R137). -/

namespace Sys2Proof.Machine

/-- TRANSLATION_MISS_WALK: a walk fills the translation cache of the core, and is traced (07 R137; 15 R240). -/
def execTranslationMissWalk (va : BitVec 64) : State → Out :=
  runEvent (fun s =>
    match translate s s.root (fld va.toNat 0 56) with
    | .ok (_, t) => if (s.walkedTo t).isEmpty then t else t.traceServed 0x01 (fld va.toNat 0 56)
    | .error _ => s)

/-- CHAIN_EXTENSION: the link slot is written and appends go on in the new segment; with no memory for one, code 0x23 ends
the task (15 R240). -/
def execChainExtension (ch : ChainId) (seg : Option (BitVec 48)) : State → Out :=
  runEvent (fun s =>
    let c := s.core.chain ch
    if s.core.task.isNone || decide (c.slot < 31) then s
    else
      match seg with
      | some a =>
        let t := (devWrite (devWrite s s.root (c.seg.toNat + 128 * 31) (linkSlot a.toNat)) s.root (a.toNat + 128 * 31) (linkSlot 0)).modCore (fun k =>
          k.modChain ch (fun c => { c with seg := w64 a.toNat, slot := 0 }))
        ((t.modCore (fun k => { k with cur := chainOwner s.core ch })).traceServed 0x02 c.seg.toNat).modCore (fun k => { k with cur := s.core.cur })
      | none =>
        let t : State := { s with core := { s.core with cur := chainOwner s.core ch } }
        t.failTask (t.pendOf .fault { code := 0x23, addr := 0, lane := 0, aux := aux0 }) 0x23)

/-! ### Copy on write (15 R252) -/

/-- The leaf entry of a virtual address: where it stands, its value, and the log2 of its page. -/
def leafAt (s : State) (va : Nat) : Nat → List (Nat × Nat × Nat) → Option (Nat × Nat × Nat)
  | _, [] => none
  | base, (shift, width, _) :: rest =>
    let pa := base + 8 * fld va shift width
    let e := leNat (s.physRun pa 8)
    if !bitOf e 0 then none
    else if bitOf e 1 then some (pa, e, shift)
    else leafAt s va (fld e 8 40 * 256) rest

/-- The monitors on the lines of a frame go to the frame that takes their page over (21 R329; 15 R252). -/
def Context.moveMonitor (old new : Nat) (x : Context) : Context :=
  { x with monitor := x.monitor.map (fun m => if m.line / 32 = old then { m with line := 32 * new + m.line % 32 } else m) }

def State.moveMonitors (s : State) (old new : Nat) : State :=
  let move (k : Core) : Core := k.modAll (Context.moveMonitor old new)
  { s with core := move s.core, others := s.others.map (fun p => (p.1, move p.2)) }

/-- Copy a page frame by frame; granule tags and the snapshots of releases go with the bytes (DEDUCED, log 32), and the monitors. The
home takes the copies of both frames back, since the page's accesses go to the new one from here on (07 R138). -/
def copyPage (s : State) (old new shift : Nat) : Nat → State
  | 0 => s
  | n + 1 =>
    let a := 4096 * leafFrame old (4096 * n) shift
    let b := 4096 * leafFrame new (4096 * n) shift
    let t := copyPage s old new shift n
    let tags := (List.range 128).map (fun i => (b / 32 + i, gtag s.m (a / 32 + i)))
    let forget (m : Module) : Module :=
      { (List.range 128).foldl (fun m i => raceForget m (b / 32 + i)) m with
        gtags := tags.foldl (fun l x => upsert (·.1) x l) m.gtags,
        snaps := ((snapsAt m a 4096).map (fun sn => { sn with addr := sn.addr - a + b })) ++ m.snaps }
    (((((t.snoop true none a 4096).physWriteRun b (s.physRun a 4096)).sawWrite b 4096).modM forget).moveMonitors (a / 4096) (b / 4096))

/-- Every core drops the translations of a page. -/
def State.dropPage (s : State) (root : Word) (page bytes : Nat) : State :=
  let keep (e : TlbEntry) : Bool := !(e.root == root && decide (page ≤ e.vpage * 4096) && decide (e.vpage * 4096 < page + bytes))
  let drop (k : Core) : Core := { k with tlb := k.tlb.filter keep }
  { s with core := drop s.core, others := s.others.map (fun p => (p.1, drop p.2)) }

/-- Serve the first write to a COW page under a root (15 R252): the page is copied to the other buffer, GEN flips and COW
clears, a write of the leaf as any other (07 R138; 21 R329); only then is the write performed. With no frame the access takes the address
fault, REASON 10. -/
def State.copyOnWrite (s : State) (root : Word) (v : Nat) (frame : Option (BitVec 48)) : State :=
  match leafAt s v root.toNat levels with
  | none => s
  | some (pa, e, shift) =>
    if !(bitOf e 7 && bitOf e 2) then s
    else
      let page := v / 2 ^ shift * 2 ^ shift
      match frame with
      | some f =>
        let e1 := e % 256 + fld f.toNat 8 40 * 256
        let flipped := (if bitOf e1 6 then e1 - 64 else e1 + 64) - 128
        let s1 := copyPage s e flipped shift (2 ^ shift / 4096)
        ((s1.physWriteRun pa (leBytes 8 flipped)).sawWrite pa 8).dropPage root page (2 ^ shift)
      | none =>
        match walk s root v with
        | .ok t => (s.dropPage root page (2 ^ shift)).modCore (fun k => { k with tlb := { t with noFrame := true } :: k.tlb })
        | .error _ => s

/-- A copy that has been made is traced (15 R240). -/
def State.traceCopy (s : State) (va : Nat) (frame : Option (BitVec 48)) : State := if frame.isSome then s.traceServed 0x03 va else s

/-- COPY_ON_WRITE_FIRST_WRITE: for the task of the core in focus. -/
def execCopyOnWriteFirstWrite (va : BitVec 64) (frame : Option (BitVec 48)) : State → Out :=
  runEvent (fun s => (s.copyOnWrite s.root (fld va.toNat 0 56) frame).traceCopy (fld va.toNat 0 56) frame)

/-! ### The fade clock (07 R142) -/

/-- Cores that await the reduction tree, which samples at the tick (17 R260). -/
def Core.awaitsTree (k : Core) : Bool := k.flights.any (fun f => !f.arrived && f.req.isNone && !f.ext)

/-- `now` is sampled as a cycle begins: a core in the middle of one goes on with the tick it began with (07 R142). -/
def Core.sample (k : Core) (now : Nat) : Core := if k.slot = .l then { k with nowAt := now } else k

/-- FADE_TICK: the clock of the whole module advances. What the tick brings follows: reductions are sampled, and every tenth
tick each pool shard sends its summaries (13 R230). -/
def execFadeTick : State → Out :=
  runEvent (fun s =>
    let now := s.m.now + 1
    let waiting := (s.others.filter (fun p => p.2.awaitsTree)).map (·.1)
    let reads : List Act :=
      (if s.core.awaitsTree then [.row .perfRedRead] else []) ++ waiting.flatMap (fun n => [.focus n, .row .perfRedRead])
        ++ (if waiting.isEmpty then [] else [.focus s.core.num])
    let sums : List Act :=
      if now % 10 = 0 then s.m.pools.flatMap (fun p => p.shards.map (fun x => .row (.poolSummary p.num x.die))) else []
    { (s.modM (fun m => { m with now := now })) with
      core := s.core.sample now, others := s.others.map (fun p => (p.1, p.2.sample now)), agenda := reads ++ sums ++ s.agenda })

/-- ALLOCATION_EXPIRY (07 R143): Live becomes Expired. (DESIGN CHOICE, log 51.) -/
def execAllocationExpiry (id : BitVec 8) : State → Out :=
  runEvent (fun s => s.modCore (fun k => modAlloc k id (fun a =>
    if !a.backed && decide (a.expiry ≤ s.core.nowAt) then { a with expired := true } else a)))

/-- ZERO_PENDING_CLEAR (07 R141): a row is cleared in the background; what it reads stays 0, and its words, written whole, hold no error. -/
def execZeroPendingClear (id : BitVec 8) (row : Nat) : State → Out :=
  runEvent (fun s =>
    match s.core.alloc id with
    | none => s
    | some a =>
      if a.zeroPending row && decide (256 * row < a.size) then
        s.modCore (fun k => modAlloc (k.healScratch id (256 * row) 256) id (fun a => { a with cleared := a.cleared ++ [row] }))
      else s)

/-! ### Lines of a window (07 R148) -/

/-- Change one line; `none` makes it Invalid. -/
def Alloc.modLine (a : Alloc) (num : Nat) (f : Line → Option Line) : Alloc :=
  { a with lines := a.lines.filterMap (fun l => if l.num = num then f l else some l) }

def onLine (id : BitVec 8) (num : Nat) (f : State → Alloc → Line → Option Line) : State → Out :=
  runEvent (fun s => s.modCore (fun k => modAlloc k id (fun a => a.modLine num (f s a))))

/-- Change an allocation of an id where it stands in use, or parked by a stopped task (15 R249): what the lines of a window do with time
they do in both. -/
def Core.modWindow (k : Core) (id : BitVec 8) (f : Alloc → Alloc) : Core :=
  { k with allocs := mapIf (fun a => a.id == id && a.freed.isNone) f k.allocs }

/-- The same for one line. -/
def onAnyLine (id : BitVec 8) (num : Nat) (f : State → Alloc → Line → Option Line) : State → Out :=
  runEvent (fun s => s.modCore (fun k => k.modWindow id (fun a => a.modLine num (f s a))))

/-- STASH_LINE_FILL: an Invalid line of the window is filled as a sharer, or with ownership. -/
def execStashLineFill (id : BitVec 8) (line : Nat) (own : Bool) : State → Out :=
  runEvent (fun s =>
    match s.core.alloc id with
    | none => s
    | some a =>
      match a.window with
      | none => s
      | some (g, n) =>
        if n ≤ 128 * line ∨ a.lines.any (fun l => l.num == line && !l.lapsed s.core.nowAt) then s
        else
          let chk : Chk := { wr := false, poison := false, tag := false, race := false }
          match checkVirtual s s.root 0 (g + 128 * line) 128 chk none none 0 with
          | .error _ => s
          | .ok (ps, t) =>
            (ps.foldl (fun s p => s.snoop own (some id) p.pa p.n) t).modCore (fun k =>
              modAlloc (k.healFills id (128 * line) ps) id (fun a => touchLines k s.core.nowAt own a (128 * line) ps)))

/-- STASH_DIRTY_WRITEBACK: 160 ticks before its row expires a Dirty line begins its write-back. -/
def execStashDirtyWriteback (id : BitVec 8) (line : Nat) : State → Out :=
  onAnyLine id line (fun s _ l => some (if l.st = .dirty ∧ l.expiry ≤ s.core.nowAt + 160 then { l with st := .writing } else l))

/-- STASH_ROW_WIND: 16 ticks before it expires, a row with a line still to be written back is wound. -/
def execStashRowWind (id : BitVec 8) (row : Nat) : State → Out :=
  runEvent (fun s => s.modCore (fun k => k.modWindow id (fun a =>
    let mine (l : Line) : Bool := rowOf a l.num == row
    let due (l : Line) : Bool := mine l && l.st != .clean && decide (l.expiry ≤ s.core.nowAt + 16)
    if a.lines.any due then { a with lines := mapIf mine (fun l => { l with expiry := s.core.nowAt + Config.retention }) a.lines } else a)))

/-- STASH_CLEAN_EXPIRY: a Clean line whose row has expired is Invalid. -/
def execStashCleanExpiry (id : BitVec 8) (line : Nat) : State → Out :=
  onAnyLine id line (fun s _ l => if l.st = .clean ∧ l.expiry ≤ s.core.nowAt then none else some l)

/-- STASH_HOME_INVALIDATE: the home takes a Clean line back for another writer. -/
def execStashHomeInvalidate (id : BitVec 8) (line : Nat) : State → Out :=
  onLine id line (fun _ _ l => if l.st = .clean then none else some l)

/-- STASH_HOME_RECALL: the home recalls a Dirty line: written back, then Invalid. -/
def execStashHomeRecall (id : BitVec 8) (line : Nat) : State → Out :=
  onLine id line (fun _ _ l => if l.st = .dirty then none else some l)

/-- STASH_WRITEBACK_ACK: Writing becomes Clean, or Dirty where it was written again; a CFLUSH.INV then takes the line, of a window unless
it is pinned (20 R299). -/
def execStashWritebackAck (id : BitVec 8) (line : Nat) : State → Out :=
  onAnyLine id line (fun s a l => match l.st with
    | .writing => if l.drop || (l.inv && !pinnedIn s.core a l.num) then none else some { l with st := .clean }
    | .rewritten => some { l with st := .dirty }
    | _ => some l)

/-! ### The poison map (07 R137, 15 R252) -/

/-- POISON_MAP_UPDATE: every cached copy of the bit is dropped. -/
def execPoisonMapUpdate (frame : Nat) (poisoned : Bool) : State → Out :=
  runEvent (fun s =>
    let drop (k : Core) : Core := { k with tlb := k.tlb.filter (fun e => e.frame != frame) }
    let map' := s.m.poison.filter (· != frame)
    let s1 := s.modM (fun m => { m with poison := if poisoned then frame :: map' else map' })
    { s1 with core := drop s1.core, others := s1.others.map (fun p => (p.1, drop p.2)) })

end Sys2Proof.Machine
end

