-- ==== Sys2Proof/Machine/Schedule.lean ====
section
/-! DEFINITION. Scheduling: notify registers and slots (12 R205, R206), packets (12 R207, R208), the ready pool and dispatch
(12 R212), and the completion of nodes (12 R214). -/

namespace Sys2Proof.Machine

/-! ### Queues (12 R204 to R206) -/

def Module.queue (m : Module) (q : Nat) : Option Queue := m.queues.find? (fun x => x.num == q)

def Module.modQueue (m : Module) (q : Nat) (f : Queue → Queue) : Module := { m with queues := mapIf (fun x => x.num == q) f m.queues }

/-- A write of value v to a queue's notify register (12 R205), at a tick and a wall time. -/
def Queue.notify (x : Queue) (v now wall : Nat) : Queue :=
  if x.st = .error ∨ v ≤ x.widx then { x with called := none }
  else if v - x.ridx ≤ 2 ^ x.size then
    { x with widx := v, st := .active, notified := now, notes := x.notes ++ [(v, x.called.getD wall, wall)], called := none,
             waiting := if x.slot.isSome then none else some (x.waiting.getD now) }
  else { x with st := .error, called := none }

/-- NOTIFY_WRITE: before stage 8 the page is not mapped, and a write of another form is ignored (12 R205, 18 R273). -/
def execNotifyWrite (off size : Nat) (value : BitVec 64) : State → Out :=
  runEvent (fun s =>
    if s.m.stage = 8 ∧ size = 8 ∧ off % 8 = 0 ∧ off / 8 < Config.queues then
      s.modM (fun m => m.modQueue (off / 8) (fun x => x.notify value.toNat m.now m.wall))
    else s)

/-- Effective PRIO of a queue in the wait list. -/
def Queue.effective (x : Queue) (now : Nat) : Nat := min 7 (x.prio + (now - x.waiting.getD now) / Config.ticks1ms)

/-- Queues that hold slots. -/
def Module.slotted (m : Module) : List Queue := m.queues.filter (fun x => x.slot.isSome)

/-- A queue waits for a slot. -/
def Queue.waits (x : Queue) : Bool := x.waiting.isSome && x.slot.isNone && x.st == .active && x.ridx != x.widx

/-- The queue mapper is enabled, and nodes are dispatched: stage 7 is over (18 R269), and the module has not halted. -/
def Module.mapperOn (m : Module) : Bool := m.stage == 8

/-- The head of the wait list: greatest effective PRIO, then oldest notify. -/
def Module.waitHead (m : Module) : Option Queue :=
  (m.queues.filter (fun x => m.mapperOn && x.waits)).foldl (fun acc x => match acc with
    | none => some x
    | some y =>
      if y.effective m.now < x.effective m.now ∨ (y.effective m.now = x.effective m.now ∧ x.notified < y.notified) then some x
      else some y) none

/-- QUEUE_SLOT_GRANT: the head of the wait list takes a free slot. -/
def execQueueSlotGrant (q : Nat) : State → Out :=
  runEvent (fun s =>
    if s.m.slotted.length < Config.activeSlots ∧ (s.m.waitHead.map (·.num)) = some q then
      s.modM (fun m => m.modQueue q (fun x => { x with slot := some m.now, waiting := none }))
    else s)

/-- A queue loses its slot; one with packets left waits again. -/
def Queue.evict (x : Queue) (now : Nat) : Queue :=
  if x.ridx = x.widx then { x with slot := none, waiting := none, st := if x.st = .active then .idle else x.st }
  else { x with slot := none, waiting := some now }

/-- QUEUE_IDLE_EVICTION: no packet in flight and the last notify 100 µs past. -/
def execQueueIdleEviction (q : Nat) : State → Out :=
  runEvent (fun s =>
    match s.m.queue q with
    | some x =>
      if x.slot.isSome && s.m.packets.all (fun p => p.q != q) && decide (x.notified + Config.ticks100us ≤ s.m.now) then
        s.modM (fun m => m.modQueue q (fun x => x.evict m.now))
      else s
    | none => s)

/-- The active queue that gives way: the lowest PRIO, and the oldest notify among equals. -/
def Module.lowest (m : Module) : Option Queue :=
  m.slotted.foldl (fun acc x => match acc with
    | none => some x
    | some y => if x.prio < y.prio ∨ (x.prio = y.prio ∧ x.notified < y.notified) then some x else some y) none

/-- QUEUE_PRIORITY_EVICTION: all slots are taken, and the queue gives way to one of higher effective PRIO, which takes the
slot. -/
def execQueuePriorityEviction (q : Nat) : State → Out :=
  runEvent (fun s =>
    match s.m.waitHead, s.m.lowest with
    | some w, some x =>
      if x.num = q ∧ Config.activeSlots ≤ s.m.slotted.length ∧ x.prio < w.effective s.m.now then
        s.modM (fun m => (m.modQueue q (fun x => x.evict m.now)).modQueue w.num (fun y => { y with slot := some m.now, waiting := none }))
      else s
    | _, _ => s)

/-- The queue that has held its slot longest. -/
def Module.longest (m : Module) : Option Queue :=
  m.slotted.foldl (fun acc x => match acc with
    | none => some x
    | some y => if x.slot.getD 0 < y.slot.getD 0 then some x else some y) none

/-- A queue has waited 8 ms for a slot. -/
def Queue.starves (x : Queue) (now : Nat) : Bool := x.waits && decide (x.waiting.getD now + Config.ticks8ms ≤ now)

/-- QUEUE_STARVATION_TAKEOVER: after 8 ms a waiting queue takes that slot. -/
def execQueueStarvationTakeover (q : Nat) : State → Out :=
  runEvent (fun s =>
    match s.m.queue q, s.m.longest with
    | some w, some x =>
      if s.m.mapperOn && w.starves s.m.now && decide (Config.activeSlots ≤ s.m.slotted.length) then
        s.modM (fun m => (m.modQueue x.num (fun x => x.evict m.now)).modQueue q (fun y => { y with slot := some m.now, waiting := none }))
      else s
    | _, _ => s)

/-- The resident system takes a queue out of its error state, with a RIDX up to WIDX from which the ring holds every packet (12 R205,
R207); of any other queue it resets nothing (DESIGN CHOICE, log 120). -/
def Queue.reset (x : Queue) (ridx now : Nat) : Queue :=
  if x.st != .error || decide (x.widx < ridx) || decide (2 ^ x.size < x.widx - ridx) then x
  else if ridx = x.widx then { x with ridx := ridx, st := .idle, waiting := none }
  else { x with ridx := ridx, st := .active, waiting := if x.slot.isSome then none else some (x.waiting.getD now) }

/-- The resident system destroys a queue, once no packet of it is in flight (12 R205; DESIGN CHOICE, log 120). -/
def Module.dropQueue (m : Module) (q : Nat) : Module :=
  if m.packets.any (fun p => p.q == q) then m else { m with queues := m.queues.filter (fun x => x.num != q) }

/-! ### Packets (12 R207) -/

/-- Nodes that the tracker holds pending (12 R211): R211 does not say which nodes count as pending, here every one that has not completed
(DESIGN CHOICE, log 121). -/
def Module.tracked (m : Module) : Nat := (m.nodes.filter (fun n => n.st != .done)).length

/-- Nodes that a packet submits (12 R207). -/
def packetNodes (b : Bytes) : Nat :=
  match le b 0 1 with
  | 1 => 1
  | 2 => le b 32 4
  | _ => 0

/-- The 64 bytes of the packet at RIDX (12 R204): of device memory, or of the host's. -/
def packetBytes (s : State) (x : Queue) : Option Bytes :=
  let at' := x.base.toNat + 64 * (x.ridx % 2 ^ x.size)
  match x.hostRing with
  | some c => some (c.getRun at' 64)
  | none => devRead s x.root at' 64

/-- The next packet of a queue, where the reader may read one: active, slotted, not held, the tracker not full. -/
def nextPacket (s : State) (q : Nat) : Option (Queue × Bytes) :=
  match s.m.queue q with
  | none => none
  | some x =>
    if x.st != .active || x.slot.isNone || x.ridx == x.widx || x.held.isSome
        || decide (Config.trackerMax ≤ s.m.tracked) then none
    else (packetBytes s x).map (fun b => (x, b))

/-- A packet the reader takes: no reserved kind, byte or count. (DESIGN CHOICE, log 46.) -/
def packetOk (b : Bytes) : Bool :=
  zeroAt b 1 7 && (match le b 0 1 with
    | 1 => zeroAt b 32 32
    | 2 => zeroAt b 36 28 && decide (1 ≤ le b 32 4) && decide (le b 32 4 ≤ 4096)
    | 3 => zeroAt b 40 24
    | 4 | 5 => zeroAt b 24 40
    | _ => false)

/-- The packet is taken: RIDX advances and it is in flight with its nodes. (DESIGN CHOICE, log 63.) -/
def State.takePacket (s : State) (x : Queue) (b : Bytes) (kind : PKind) (descs : List Word) : State :=
  let cmdp := x.base + w64 (64 * (x.ridx % 2 ^ x.size))
  let first := s.m.nextNode
  let note := ((x.notes.find? (fun e => decide (x.ridx < e.1))).map (·.2)).getD (s.m.wall, s.m.wall)
  let nodes := descs.zipIdx.map (fun d => readNode s x cmdp (first + d.2) x.ridx d.2 d.1)
  let p : Packet :=
    { q := x.num, idx := x.ridx, kind := kind, sig := w64 (le b 8 8), addend := w64 (le b 16 8), nodes := nodes.map (·.id),
      met := kind != .wait, since := note.1, told := note.2, status := 0 }
  s.modM (fun m =>
    { (m.modQueue x.num (fun y => { y with ridx := y.ridx + 1, notes := y.notes.filter (fun e => decide (y.ridx + 1 < e.1)) })) with
      packets := m.packets ++ [p], nodes := m.nodes ++ nodes, nextNode := m.nextNode + nodes.length })

/-- Read a packet of one kind; one whose nodes the tracker has no room for waits (12 R211; DEDUCED, log 91). -/
def onPacket (code : Nat) (f : State → Queue → Bytes → State) (q : Nat) : State → Out :=
  runEvent (fun s =>
    match nextPacket s q with
    | some (x, b) =>
      if packetOk b && le b 0 1 == code && decide (s.m.tracked + packetNodes b ≤ Config.trackerMax) then f s x b else s
    | none => s)

/-- LAUNCH: one node. -/
def execLaunch (q : Nat) : State → Out :=
  onPacket 1 (fun s x b => s.takePacket x b .launch [w64 (le b 24 8)]) q

/-- GRAPH: nodes in array order. -/
def execGraph (q : Nat) : State → Out :=
  onPacket 2 (fun s x b =>
    s.takePacket x b .graph ((List.range (le b 32 4)).map (fun i => w64 (le b 24 8 + 320 * i)))) q

/-- WAIT: no later packet is read until the word is there. -/
def execWait (q : Nat) : State → Out :=
  onPacket 3 (fun s x b =>
    (s.takePacket x b .wait []).modM (fun m => m.modQueue x.num (fun y =>
      { y with held := some (w64 (le b 24 8), w64 (le b 32 8)) }))) q

/-- SIGNAL. -/
def execSignal (q : Nat) : State → Out := onPacket 4 (fun s x b => s.takePacket x b .signal []) q

/-- BARRIER. -/
def execBarrier (q : Nat) : State → Out := onPacket 5 (fun s x b => s.takePacket x b .barrier []) q

/-- PACKET_ERROR: a reserved kind, byte or count, or a packet that cannot be read, puts the queue into its error state. -/
def execPacketError (q : Nat) : State → Out :=
  runEvent (fun s =>
    let bad : Bool := match nextPacket s q with
      | some (_, b) => !packetOk b
      | none => match s.m.queue q with
        | some x => x.st == .active && x.slot.isSome && x.ridx != x.widx && x.held.isNone
            && (packetBytes s x).isNone
        | none => false
    if bad then s.modM (fun m => m.modQueue q (fun x => { x with st := .error })) else s)

/-- The first piece of a signal word, for the key of its synchronising access. -/
def signalPiece (s : State) (root addr : Word) : Option Piece :=
  match checkVirtual s root 0 addr.toNat 8 { wr := false, poison := false, tag := false, race := false } none none 0 with
  | .ok (ps, _) => ps.head?
  | .error _ => none

/-- Snapshots that the acquire of a WAIT at system scope synchronises with (12 R207, 10 R195). -/
def waitSnaps (s : State) (root addr : Word) : List Snap :=
  match signalPiece s root addr with
  | some p => (snapsAt s.m p.pa 8).filter (fun sn => synchronises sn none 0 [.system])
  | none => []

/-- WAIT_CONDITION_MET: the word, read with an acquire at system scope, is at least the value. -/
def execWaitConditionMet (q : Nat) : State → Out :=
  runEvent (fun s =>
    match s.m.queue q with
    | some x =>
      match x.held with
      | some (a, v) =>
        match devRead s x.root a.toNat 8 with
        | some b =>
          if v.toNat ≤ leNat b then
            let learnt := (waitSnaps s x.root a).foldl (fun k sn => s.m.hand k sn.entries sn.evicted) x.sight
            let meet (p : Packet) : Packet := { p with met := true }
            s.modM (fun m => { (m.modQueue q (fun x => { x with held := none, sight := learnt })) with
              packets := mapIf (fun p => p.q == q) meet m.packets })
          else s
        | none => s
      | none => s
    | none => s)

/-- Nodes of a packet, in node order. -/
def Module.packetNodes (m : Module) (p : Packet) : List Node := p.nodes.filterMap m.node

/-- Has a packet done all its work? -/
def Module.packetDone (m : Module) (p : Packet) : Bool :=
  match p.kind with
  | .launch | .graph => (m.packetNodes p).all (fun n => n.st == .done)
  | .wait => p.met
  | .signal | .barrier => m.packets.all (fun o => o.q != p.q || decide (p.idx ≤ o.idx))

/-- The part of a launch record that a nanosecond belongs to, by what the work on the packet holds then (17 R266): fault service before a
storage or network wait, engine execution, queueing, system-call entry. Parts are numbered in the record's order. -/
def launchPart (w : BitVec 2) (runs told : Bool) : Nat :=
  if w.getLsbD 0 then 2 else if w.getLsbD 1 then 3 else if runs then 4 else if told then 1 else 0

/-- The six times of a launch record, in ns (17 R266): the wall time from the system call, or from the notify write without one, to the
signal write, and its five parts. An engine runs the packet from the dispatch of a node of it to that node's completion, before the
notify write it is system-call entry, and else it is queued (DESIGN CHOICE, log 122); whether fault service or a wait holds it as well is
a free value (DESIGN CHOICE, log 4). -/
def launchTimes (p : Packet) (nodes : List Node) (wall : Nat) : List Word :=
  let ns := (wall - p.since) / 10
  let part (n : Nat) : Nat :=
    let t := p.since + 10 * n
    let runs := nodes.any (fun x => x.began.any (fun a => decide (a ≤ t)) && x.ended.all (fun b => decide (t < b)))
    launchPart (Config.packetWork p.q p.idx n) runs (decide (p.told ≤ t))
  (ns :: (List.range 5).map (fun k => ((List.range ns).map part).count k)).map w64

/-- What the completion of a packet releases (12 R208, 10 R187): of LAUNCH and GRAPH what their nodes' tasks knew, of the others
what every completed node of the queue did. -/
def signalSights (m : Module) (x : Queue) (p : Packet) : List Sight :=
  match p.kind with
  | .launch | .graph => (m.packetNodes p).map (·.sight)
  | _ => x.sight :: (x.past.filter (fun n => decide (n.pkt < p.idx))).map (·.sight)

/-- What a completion signal hands on. -/
def signalSight (m : Module) (x : Queue) (p : Packet) : Sight := m.learn Sight.new (signalSights m x p)

/-- The device writes a dword of a completion signal: one that is a notify register takes it (12 R205). -/
def signalWrite (s : State) (x : Queue) (p : Packet) (addr : Nat) (v : Word) : State :=
  let w := devWrite s x.root addr (leBytes 8 v.toNat)
  let k := signalSight s.m x p
  match signalPiece s x.root (w64 addr) with
  | some q => w.notified q.pa 8 v (some (k.cache, k.evicted))
  | none => w

/-- The release of a completion signal, at system scope: what it hands on stands beside the word. -/
def signalRelease (s : State) (x : Queue) (p : Packet) : State :=
  match signalPiece s x.root p.sig with
  | some w =>
    let k := signalSight s.m x p
    let sn : Snap := { addr := w.pa, size := 8, agent := none, die := 0, scopes := [.system], entries := k.cache, evicted := k.evicted }
    s.modM (fun m => m.putSnap sn)
  | none => s

/-- A completed BARRIER hands on to every later node what the nodes before it released (12 R207; DEDUCED, log 64). -/
def Queue.barred (m : Module) (p : Packet) (x : Queue) : Queue :=
  if p.kind = .barrier then
    { x with sight := m.learn x.sight ((x.past.filter (fun n => decide (n.pkt < p.idx))).map (·.sight)),
             past := x.past.filter (fun n => decide (p.idx ≤ n.pkt)) }
  else x

/-- PACKET_COMPLETION (12 R208): the status dword, then the add with release; then nothing of the packet is left but its
launch record. (DESIGN CHOICE, log 55.) -/
def execPacketCompletion (q idx : Nat) : State → Out :=
  runEvent (fun s =>
    match s.m.packets.find? (fun p => p.q == q && p.idx == idx), s.m.queue q with
    | some p, some x =>
      if !s.m.packetDone p then s
      else
        let status := (((s.m.packetNodes p).map (·.status)).find? (· != 0)).getD 0
        let s1 := if p.sig = 0 then s
          else
            let w := signalWrite s x p (p.sig.toNat + 8) status
            match devRead w x.root p.sig.toNat 8 with
            | some b => signalRelease (signalWrite w x p p.sig.toNat (w64 (leNat b + p.addend.toNat))) x p
            | none => w
        s1.modM (fun m =>
          { (m.modQueue q (Queue.barred m p)) with
                   packets := m.packets.filter (fun o => !(o.q == q && o.idx == idx)),
                   nodes := m.nodes.filter (fun n => !p.nodes.contains n.id),
                   launches := m.launches ++ [{ q := q, idx := idx, times := launchTimes p (s.m.packetNodes p) m.wall }] })
    | _, _ => s)

/-! ### The ready pool and dispatch (12 R211, R212) -/

/-- The loader has rejected the image of a descriptor, and has not accepted it since: no kernel of it is dispatched (04 R93, 05
R110; DEDUCED, log 92). -/
def Module.rejected (m : Module) (desc root : Word) : Bool :=
  (m.loads.reverse.find? (fun x => !x.object && x.desc == desc && x.root == root)).any (fun x => x.reject.isSome)

/-- NODE_READY: no unfinished dependence, and no BARRIER before it. -/
def execNodeReady (n : Nat) : State → Out :=
  runEvent (fun s =>
    match s.m.node n with
    | some x =>
      let barred := s.m.packets.any (fun p => p.q == x.q && decide (p.idx < x.pkt) && p.kind == .barrier)
      if x.st = .pending ∧ !barred ∧ !s.m.rejected x.idesc x.root ∧ s.m.nodes.all (fun i => !x.dependsOn i) then
        s.modM (fun m => modNode m n (fun x => { x with st := .ready, entered := m.now }))
      else s
    | none => s)

/-- Effective priority in the pool. -/
def Node.effective (n : Node) (now : Nat) : Nat := min 7 (n.prio + (now - n.entered) / Config.ticks1ms)

/-- A pool-mode node can have further tasks: tiles are left for them, or, in replay mode, journals (12 R212; 17 R268). -/
def Node.more (n : Node) : Bool :=
  match n.journals with
  | some r => decide (n.members.length < r)
  | none => !n.exhausted

/-- Nodes that stand in the pool: ready ones, and pool-mode nodes that can take further cores. -/
def Node.inPool (n : Node) : Bool :=
  n.st == .ready || (n.st == .running && !n.gang && n.more
    && decide ((n.members.filter (fun x => x.ended.isNone)).length < n.cores))

/-- One node ranks before another: of two equal in priority and in entry, the one read earlier (DESIGN CHOICE, log 104). -/
def ranksBefore (now : Nat) (a b : Node) : Bool :=
  decide (b.effective now < a.effective now) || (a.effective now == b.effective now &&
    (decide (a.entered < b.entered) || (a.entered == b.entered && decide (a.id < b.id))))

/-- The node of the pool that ranks first among those a predicate takes. -/
def Module.ranked (m : Module) (p : Node → Bool) : Option Node :=
  (m.nodes.filter (fun n => n.inPool && p n)).foldl (fun acc x => match acc with
    | none => some x
    | some y => if ranksBefore m.now x y then some x else some y) none

/-- The head of the pool. -/
def Module.head (m : Module) : Option Node := m.ranked (fun _ => true)

/-- The hold, while its node stands at the head of the pool. -/
def Module.held (m : Module) : Option (Nat × List Nat) := m.hold.filter (fun h => m.head.map (·.id) == some h.1)

/-- The hold leaves a core to a node: its own, or a core that was free when it began. -/
def Module.spares (m : Module) (node core : Nat) : Bool := m.held.all (fun h => h.1 == node || h.2.contains core)

/-- READY_POOL_AGING: ranks follow the clock; the node at the head is noted with the tick it came there, and the hold of one that has
left the head ends. -/
def execReadyPoolAging : State → Out :=
  runEvent (fun s => s.modM (fun m =>
    let h := m.head.map (·.id)
    { m with hold := m.held, nodes := m.nodes.map (fun n =>
        if h = some n.id then { n with headSince := some (n.headSince.getD m.now) } else { n with headSince := none }) }))

def Module.tenant (m : Module) (n : Nat) : Option Tenant := m.tenants.find? (fun t => t.num == n)

/-- No other node that stands in the pool has had this core cleared for it (15 R250). -/
def Core.unclaimed (k : Core) (m : Module) (node : Option Nat) : Bool :=
  k.claim.all (fun c => some c == node || (m.node c).all (fun n => !n.inPool))

/-- A core that could take a task of a tenant, for a node in the pool or for a stopped task (12 R216): in service, on a die in
service, in the allotment of a running tenant, and free. -/
def freeFor (s : State) (node : Option Nat) (tenant core : Nat) : Bool :=
  let k := s.coreAt core
  k.unclaimed s.m node &&
  decide (core < Config.computeCores) && k.inService && k.task.isNone && k.stop.isNone && !s.m.dieOut.getLsbD (core / Config.coresPerDie)
    && s.m.running.contains tenant && (s.m.tenant tenant).any (fun t => t.allot.contains core)

/-- Free cores for a node, but those held for the head. (DESIGN CHOICE, log 57.) -/
def freeCores (s : State) (n : Node) : List Nat :=
  (List.range Config.computeCores).filter (fun c => freeFor s (some n.id) n.tenant c && s.m.spares n.id c)

/-- Tasks that replay mode asks for: one for each used entry (17 R268); none where the node says how many. -/
def replayTasks (s : State) (n : Node) : Option Nat :=
  if n.kflags.getLsbD 4 then (devRead s n.root n.jrnl.toNat 64).map (fun h => le h 8 8) else none

/-- Where in the fade tick under way an instant of a START falls, in ns, or later: EPOCH + m·PERIOD + START of the IEEE 1588 time,
for the next whole m (12 R215). -/
def Module.instantOff (m : Module) (start : Nat) : Nat :=
  (((m.sched.epoch + start : Int) - (Config.ptpStart + 100 * m.now : Nat)) % m.sched.period).toNat

/-- The fade tick under way holds an instant of a START that is still to come: none later in the tick has been taken. -/
def Module.instantDue (m : Module) (start : Nat) : Bool :=
  m.sched.period != 0 && decide (m.instantOff start < 100)
    && m.instant.all (fun t => t.1 != m.now || decide (t.2 < m.instantOff start))

/-- The instant that comes next in this tick. -/
def Module.nextInstant (m : Module) : Option Nat :=
  ((m.sched.entries.map (·.2)).filter m.instantDue).foldl (fun acc x => match acc with
    | none => some x
    | some y => if m.instantOff x < m.instantOff y then some x else some y) none

/-- Its modules may start now: a gang of several starts at a tenant instant, with the time locked (12 R212, R217; 18 R271). -/
def Node.together (m : Module) (n : Node) : Bool := n.mods == 1 || (m.ptpLock && m.instant.map (·.1) == some m.now)

/-- Does a node fit on the cores now free? -/
def Node.fits (s : State) (n : Node) : Bool :=
  let have' := (freeCores s n).length
  n.together s.m && !s.m.rejected n.idesc n.root && (match n.gang, replayTasks s n with
    | true, r => decide (r.getD n.cores ≤ have')
    | false, some r => decide (0 < have') && decide (n.members.length < r)
    | false, none => decide (0 < have'))

/-- HEAD_NODE_HOLD: after 1 ms at the head, counted from when it came there (DESIGN CHOICE, log 105), cores that become free from now on
are held for it. (DEDUCED, log 74.) -/
def execHeadNodeHold : State → Out :=
  runEvent (fun s =>
    match s.m.head, s.m.held with
    | some n, none =>
      if (n.headSince.map (fun t => decide (t + Config.ticks1ms ≤ s.m.now))).getD false && !n.fits s then
        s.modM (fun m => { m with hold := some (n.id, (List.range Config.computeCores).filter (fun c => (s.coreAt c).task.isNone)) })
      else s
    | _, _ => s)

/-- Record and replay mode are set up wrongly (17 R268). -/
def badModes (s : State) (n : Node) : Bool :=
  let rec' := n.kflags.getLsbD 3
  let rep := n.kflags.getLsbD 4
  (rec' && rep) || (rep && (n.jrnl == 0 || (match devRead s n.root n.jrnl.toNat 64 with
    | some h => bitOf (le h 16 1) 0
    | none => true)))

/-- Cores that a node may take at once: a gang all of its own, a pool-mode node up to CORES in all (12 R212), and in replay mode no more
than it has journals left (17 R268). -/
def Node.wants (s : State) (n : Node) (free : Nat) : Nat :=
  let alive := (n.members.filter (fun x => x.ended.isNone)).length
  if n.gang then (replayTasks s n).getD n.cores
  else min (min (n.cores - alive) free) (((replayTasks s n).map (fun r => r - n.members.length)).getD free)

/-- May the node take these cores? CORES counts the cores of this module, of a gang on several too (DESIGN CHOICE, log 106). -/
def canDispatch (s : State) (n : Node) (cores : List Nat) : Bool :=
  let alive := (n.members.filter (fun x => x.ended.isNone)).length
  let count := if n.gang then n.st == .ready && cores.length == (replayTasks s n).getD n.cores
    else n.inPool && decide (1 ≤ cores.length) && decide (alive + cores.length ≤ n.cores)
      && (replayTasks s n).all (fun r => decide (n.members.length + cores.length ≤ r))
  let turn := s.m.nodes.all (fun x => !(x.inPool && x.id != n.id && ranksBefore s.m.now x n && x.fits s))
  s.m.mapperOn && !s.m.rejected n.idesc n.root && count && cores.all (freeCores s n).contains && cores.eraseDups.length == cores.length
    && turn && n.together s.m

/-- Cores are taken: none of them counts as free since before the hold any more (12 R212). -/
def Module.takeHeld (m : Module) (cores : List Nat) : Module :=
  { m with hold := m.hold.map (fun h => (h.1, h.2.filter (fun c => !cores.contains c))) }

/-- NODE_DISPATCH (12 R212): the node's tasks start on the cores; wrong record or replay modes fail the node at once. -/
def execNodeDispatch (n : Nat) (cores : List Nat) : State → Out :=
  runEvent (fun s =>
    match s.m.node n with
    | none => s
    | some x =>
      if x.st = .ready ∧ badModes s x then
        s.modM (fun m => modNode m n (fun x => { x with st := .done, status := schedStatus 0xFFFFFFF3, ended := some m.wall }))
      else if canDispatch s x cores then
        let s1 := (cores.zipIdx).foldl (fun s c => s.startMember x (x.members.length + c.2) c.1) s
        let mark (m : Module) : Module :=
          modNode m n (fun y => { y with began := some (y.began.getD m.wall), journals := y.journals.or (replayTasks s x) })
        s1.modM (fun m => let m := mark m; if m.hold.map (·.1) = some n then { m with hold := none } else m.takeHeld cores)
      else s)

/-- NODE_COMPLETION (12 R214). -/
def execNodeCompletion (n : Nat) : State → Out :=
  runEvent (fun s =>
    match s.m.node n with
    | none => s
    | some x =>
      let allEnded := x.members.all (fun m => m.ended.isSome)
      if x.st = .running ∧ allEnded ∧ (x.gang ∨ (x.exhausted ∧ !x.more)) then
        let st := if x.status = 0 ∧ x.gang ∧ !x.exhausted then schedStatus 0xFFFFFFF2 else x.status
        let p : Past := { pkt := x.pkt, order := x.order, opnds := x.opnds, sight := x.sight }
        s.modM (fun m => (modNode m n (fun x => { x with st := .done, status := st, ended := some m.wall })).modQueue x.q (fun q =>
          { q with past := if x.sight.cache.isEmpty && !x.sight.evicted then q.past else q.past ++ [p] }))
      else s)

end Sys2Proof.Machine
end

