-- ==== Sys2Proof/Machine/Save.lean ====
section
/-! DEFINITION. Stops, saves and restores (12 R215 to R217; 15 R245 to R250), parking (15 R249), and the failure of a die (15
R253; 13 R237). -/

namespace Sys2Proof.Machine

/-! ### Stop requests (12 R217, 15 R250) -/

/-- A stop request meets the one a core holds (15 R250). -/
def Core.askStop (k : Core) (now prio : Nat) (incoming : Option Nat) (instant : Bool := false) : Core :=
  if k.task.isNone && k.lastTask.isNone then k
  else
    let fresh : StopReq := { since := now, prio := prio, incoming := incoming, instant := instant, saving := false, midStep := false }
    match k.stop with
    | none => { k with stop := some fresh }
    | some r =>
      if r.prio < prio then { k with stop := some (if r.saving then { r with prio := prio, incoming := incoming } else fresh) } else k

/-- STOP_REQUEST. -/
def execStopRequest (core prio : Nat) (incoming : Option Nat) : State → Out :=
  runEvent (fun s => s.onCore core (fun t => t.modCore (fun k => k.askStop s.m.now prio incoming)))

/-- A mid-step stop has halted its task: it is being rebuilt for its save (15 R246). -/
def Core.cutting (k : Core) : Bool :=
  match k.phase with
  | .pend p => p.why == .save
  | _ => false

/-- A core at a tenant instant: a task whose tenant does not run on it is asked to stop. Where its tenant is a running tenant
again, the stop that an earlier instant asked is withdrawn, unless the task has halted (12 R215). -/
def Core.atInstant (k : Core) (before : List Nat) (m : Module) : Core :=
  match k.task with
  | none => k
  | some t =>
    if m.running.contains t.tenant && (m.tenant t.tenant).any (fun x => x.allot.contains k.num) then
      if before.contains t.tenant || k.cutting then k else { k with stop := k.stop.filter (fun r => r.saving || !r.instant) }
    else if k.stop.isSome then k
    else k.askStop m.now 0 none true

/-- TENANT_INSTANT: the tenants of the entries with this START become the running ones. -/
def execTenantInstant (start : Nat) : State → Out :=
  runEvent (fun s =>
    let es := s.m.sched.entries.filter (fun e => e.2 == start)
    if es.isEmpty || !s.m.instantDue start then s
    else
      let s1 := s.modM (fun m => { m with running := es.map (·.1), instant := some (m.now, m.instantOff start) })
      let meet (k : Core) : Core := k.atInstant s.m.running s1.m
      { s1 with core := meet s1.core, others := s1.others.map (fun p => (p.1, meet p.2)) })

/-- STEP_BUDGET_EXPIRY: in merged running the step is pre-empted mid-step, by a rebuild whose state is saved (12 R217, 15 R246).
(DEDUCED, log 65.) -/
def execStepBudgetExpiry (core : Nat) : State → Out :=
  runEvent (fun s => s.onCore core (fun t =>
    match t.core.task, t.core.stop with
    | some k, some r =>
      let budget := ((t.m.tenant k.tenant).map (·.budget)).getD Config.ticks100us
      let late := decide (r.since + budget ≤ t.m.now)
      let p := { t.pendOf .save { code := 0, addr := 0, lane := 0, aux := aux0 } with eng := none }
      let open' := match t.core.phase with
        | .ending _ _ => false
        | .pend q => !q.early
        | _ => true
      if late && open' && !r.saving && t.core.merged then t.modCore (fun k => { k with phase := .pend p }) else t
    | _, _ => t))

/-! ### Node boundaries (15 R245) -/

/-- The task has not issued its first word. -/
def Core.notStarted (k : Core) : Bool := !k.started && k.phase == .run

/-- The 64-byte record of a stop at a node boundary. -/
def boundaryBytes (t : Task) (status : Nat) : Bytes :=
  leBytes 8 t.ndesc.toNat ++ leBytes 8 t.cmdp.toNat ++ leBytes 8 t.recAddr.toNat
    ++ leBytes 8 t.num.toNat ++ leBytes 8 (status + 65536 * (t.member % 65536)) ++ leBytes 24 0

/-- A stop has cleared the core: it goes to the node that the request came with, if any (15 R250). -/
def Core.cleared (k : Core) : Core := { k with stop := none, claim := k.stop.bind (·.incoming) }

/-- NODE_BOUNDARY_STOP. -/
def execNodeBoundaryStop (core : Nat) : State → Out :=
  runEvent (fun s => s.onCore core (fun x =>
    if x.core.stop.all (·.saving) then x
    else
      match x.core.task, x.core.lastTask with
      | some t, _ =>
        if !x.core.notStarted then x
        else
          let y := devWrite x t.root t.saveArea.toNat (boundaryBytes t 0)
          let sv : Saved := { task := t, core := core, boundary := some 0, ckpt := Ckpt.launch, dir := [], midStep := false, hz := [],
                              redo := [], chains := [] }
          (y.modM (fun m => { m with saved := m.saved ++ [sv] })).modCore (fun k => k.clearTask.cleared)
      | none, some (t, st) =>
        (devWrite x t.root t.saveArea.toNat (boundaryBytes t (if st = 0 then 1 else 2))).modCore (fun k =>
          { k.cleared with lastTask := none })
      | none, none => x))

/-! ### The save (15 R246, R247, R249) -/

/-- The checkpoint as it is saved: with its rings as they stand now, since the entries issued before the stop have completed
(08 R160, 15 R248). -/
def Core.saved (k : Core) : Ckpt := { k.ckpt with rings := k.rings }

/-- expiry(i): of the allocation and of the Filled slots of its ring, the earliest. -/
def saveExpiry (c : Ckpt) (a : Alloc) : Nat :=
  ((c.rings.filter (fun r => r.alloc == a.id)).flatMap (fun r => (r.exps.filter (fun e => decide (r.rels ≤ e.1))).map (·.2))).foldl min
    a.expiry

/-- The bound t_s of a save, in ticks. -/
def saveTime (size : Nat) : Nat := 2 + (size + 16383) / 16384

/-- The 32 bytes of a directory entry. -/
def DirEntry.bytes (e : DirEntry) : Bytes :=
  leBytes 1 e.id.toNat ++ leBytes 1 (match e.ring with
      | some r => 8 + r % 8
      | none => 0)
    ++ leBytes 1 e.tag.toNat ++ leBytes 1 e.state.toNat ++ leBytes 2 e.layout.toNat ++ leBytes 2 e.rem ++ leBytes 4 e.size
    ++ leBytes 4 ((e.window.map (·.2)).getD 0) ++ leBytes 8 ((e.window.map (·.1)).getD 0) ++ leBytes 8 e.data.toNat

/-- The directory: 16 entries, unused ones with STATE 0xFF. -/
def dirBytes (l : List DirEntry) : Bytes :=
  let unused := leBytes 3 0 ++ [0xFF] ++ leBytes 28 0
  (List.range 16).flatMap (fun i => match l[i]? with
    | some e => e.bytes
    | none => unused)

/-- Where the bytes of an allocation are saved: behind the directory's page, by its base (DESIGN CHOICE, log 33). -/
def saveData (area : Word) (a : Alloc) : Word := area + w64 (4096 + a.base)

/-- How an allocation is saved at tick `now`: its entry, the allocation as it stays, and whether bytes are copied. -/
def saveOne (c : Ckpt) (area : Word) (now : Nat) (a : Alloc) : DirEntry × Alloc × Bool :=
  let e : DirEntry :=
    { id := a.id, ring := (c.rings.find? (fun r => r.alloc == a.id)).map (·.num), tag := a.tag, state := 3, layout := a.layout,
      rem := 0, size := a.size, window := a.window, data := 0 }
  if a.backed then (e, { a with lines := [] }, false)
  else
    let x := saveExpiry c a
    if x ≤ now then ({ e with state := 2 }, { a with expired := true }, false)
    else
      let y := if x - now < saveTime a.size then now + Config.retention else x
      ({ e with state := 0, rem := y - now, data := saveData area a }, { a with expiry := if y = x then a.expiry else y }, true)

/-- How a parked allocation is recorded: it stays in place (15 R249). -/
def parkOne (c : Ckpt) (now : Nat) (task : BitVec 32) (a : Alloc) : DirEntry × Alloc :=
  let e : DirEntry :=
    { id := a.id, ring := (c.rings.find? (fun r => r.alloc == a.id)).map (·.num), tag := a.tag, state := 1, layout := a.layout,
      rem := min Config.retention (saveExpiry c a - now), size := a.size, window := a.window, data := 0 }
  (e, { a with parked := some task })

/-- Copy the bytes of an allocation out; none where the save area cannot be written. Whether the copy meets a double-bit error that one of
its words holds R247 and R251 do not say: here the bytes are copied as they stand (DESIGN CHOICE, log 119). -/
def copyOut (s : State) (root area : Word) (a : Alloc) : Option State :=
  if (devRead s root (saveData area a).toNat a.size).isSome then some (devWrite s root (saveData area a).toNat (a.run 0 a.size))
  else none

/-- The next allocation to save: ascending expiry, then id. -/
def Core.nextSave (k : Core) : Option Alloc :=
  let todo := k.allocs.filter (fun a => a.parked.isNone && a.freed.isNone && !k.dir.any (fun e => e.id == a.id))
  todo.foldl (fun acc a => match acc with
    | none => some a
    | some b =>
      let x := saveExpiry k.saved a
      let y := saveExpiry k.saved b
      if x < y ∨ (x = y ∧ a.id.toNat < b.id.toNat) then some a else some b) none

/-- A task-ending report that no word raises, as its record names it: at the task's checkpoint, which stands in the step record. -/
def Ckpt.pend (c : Ckpt) (now : Nat) (code : BitVec 8) : Pend :=
  { why := .fault, flt := { code := code, addr := 0, lane := 0, aux := aux0 }, step := c.idx, ord := c.ord, lpc := c.lpc, occ := 0,
    slice := 3, spc := 0, eng := none, merged := false, early := false, time := now }

/-- A save that cannot write ends the task with code 0x24; its allocations are lost (15 R249), those that it has just parked too. -/
def State.saveFails (s : State) : State :=
  let mine (a : Alloc) : Bool := a.parked.isNone || a.parked == s.core.task.map (·.num)
  (s.modCore (fun k => { k.cleared with allocs := k.allocs.filter (fun a => !mine a) })).failTask (s.core.ckpt.pend s.m.now 0x24) 0x24

/-- The save is complete: the directory is written, and the task leaves the core. -/
def State.saveEnds (s : State) (t : Task) (mid : Bool) : State :=
  if (devRead s t.root t.saveArea.toNat 512).isNone then s.saveFails
  else
    let s1 := devWrite s t.root t.saveArea.toNat (dirBytes s.core.dir)
    let sv : Saved := { task := t, core := s.core.num, boundary := none, ckpt := s.core.saved, dir := s.core.dir, midStep := mid,
                        hz := [s.core.l.hz, s.core.c.hz, s.core.s.hz], redo := if mid then s.core.ran else [],
                        chains := chainIds.map s.core.chain }
    (s1.modM (fun m => { m with saved := m.saved ++ [sv] })).modCore (fun k => { k.clearTask.cleared with dir := [] })

/-- ALLOCATION_SAVE: the save reaches its next allocation at the first fade tick after the last copy; once none is left the task is
saved. (DEDUCED, log 73.) -/
def execAllocationSave (core : Nat) : State → Out :=
  runEvent (fun s => s.onCore core (fun x =>
    match x.core.task, x.core.stop with
    | some t, some r =>
      if !r.saving || !x.core.allEntries.isEmpty then x
      else
        match x.core.nextSave with
        | none => x.saveEnds t r.midStep
        | some a =>
          if x.core.saveTick.any (fun t => decide (x.m.now ≤ t)) then x
          else
          let put (e : DirEntry) (b : Alloc) (y : State) : State :=
            y.modCore (fun k => { k with dir := k.dir ++ [e], allocs := mapIf (fun z => z.id == a.id && z.parked.isNone) (fun _ => b) k.allocs })
          if ((x.m.tenant t.tenant).map (·.park)).getD 0 = 0 then
            let (e, b, copies) := saveOne x.core.saved t.saveArea x.m.now a
            if copies then
              match copyOut x t.root t.saveArea a with
              | some y => put e b (y.modCore (fun k => { k with saveTick := some x.m.now }))
              | none => x.saveFails
            else put e b x
          else
            let (e, b) := parkOne x.core.saved x.m.now t.num a
            put e b x
    | _, _ => x))

/-! ### Restore (15 R248) -/

/-- Restore one directory entry on a core; none where it finds no room. Words of scratch that its bytes are copied back into hold no error
any more (DESIGN CHOICE, log 81). -/
def restoreOne (s : State) (t : Task) (e : DirEntry) : Option State :=
  if e.state = 1 then
    let back (a : Alloc) : Alloc := { a with parked := none, made := 0, undo := [] }
    some (s.modCore (fun k => { k with allocs := mapIf (fun a => a.parked == some t.num && a.id == e.id) back k.allocs }))
  else
    match placeAlloc s.core e.size with
    | none => none
    | some base =>
      let bytes := if e.state = 0 then (devRead s t.root e.data.toNat e.size).getD [] else []
      let a : Alloc :=
        { id := e.id, base := base, size := e.size, backed := e.state == 3, tag := e.tag,
          expiry := if e.state = 0 then s.m.now + e.rem else if e.state = 3 then 0 else s.m.now, expired := e.state == 2,
          layout := e.layout, data := Cells.putRun [] 0 bytes, gen := s.m.free, zero := false, cleared := [], window := e.window,
          lines := [], ahead := [], made := 0, freed := none, undo := [], sweep := 0, parked := none }
      let ring (r : Ring) : Ring := if r.alloc = e.id then { r with exps := r.exps.map (fun x => (x.1, a.expiry)) } else r
      some ((s.modCore (fun k =>
        { k with allocs := k.allocs ++ [a], badScratch := healed k.badScratch base bytes.length, ckpt := { k.ckpt with rings := k.ckpt.rings.map ring },
                 rings := k.rings.map ring })).modM (fun m => { m with free := m.free + 1 }))

def restoreAll (t : Task) : List DirEntry → State → Option State
  | [], s => some s
  | e :: r, s =>
    match restoreOne s t e with
    | some u => restoreAll t r u
    | none => none

/-- A chain of a resumed task: at the checkpoint's append number, in a fresh segment. The entries up to it that the task has not acquired
stay so (10 R182), and what a rebuild keeps of the later ones is kept (10 R194, R198; DEDUCED, log 111). -/
def Chain.resumed (c : Chain) (tline : Nat) (seg : Word) : Chain :=
  { Chain.reset with append := tline, counter := tline, seg := seg, owed := c.owed.filter (fun o => decide (o.1 ≤ tline)),
                     regions := c.regions, prior := c.prior, priorFin := c.priorFin }

/-- A saved task goes on with its checkpoint: in slices at the TS sections, in merged mode at LPC (15 R248 steps 6 and 7). Its contexts
keep HZ, which no rule clears but SWRITE (03 R69); its first MWAIT returns at once (15 R250). DBG and STRICT take the
kernel descriptor's values again, which R54 gives them at task start and no rule at a restore (DESIGN CHOICE, log 96). -/
def State.resumeTask (s : State) (sv : Saved) : Option State :=
  let c := sv.ckpt
  let chain (i : Nat) : Chain := (sv.chains.getD i Chain.reset).resumed (c.tline.getD i 0) (drawPage (s.m.free + i))
  let s0 := linkSegments s sv.task.root ((List.range 4).map (fun i => drawPage (s.m.free + i)))
  let s1 := s0.modCore (fun k =>
    { k.clearTask with
      task := some { sv.task with seed := c.seed }, allocs := k.allocs, mode := .u, merged := sv.task.kmerged, cur := .C,
      tci := chain 0, tmx := chain 1, tco := chain 2, tsx := chain 3, ckpt := c, rings := c.rings, stop := none, claim := none, started := true,
      lastTask := none, cutWait := true, redo := sv.redo,
      l := { k.clearTask.l with hz := sv.hz.getD 0 0 }, c := { k.clearTask.c with hz := sv.hz.getD 1 0 },
      s := { k.clearTask.s with hz := sv.hz.getD 2 0 } })
  let s2 := (s1.modM (fun m => { m with free := m.free + 4 })).loseSpaces
  match restoreAll sv.task sv.dir s2 with
  | none => none
  | some s3 =>
    let flags (k : Context) : Context := { k with dbg := sv.task.dbg, strict := sv.task.strict }
    some (if sv.task.kmerged then (s3.modCore (fun k => k.modAll (fun x => flags (x.rebuilt c k.cyc)))).reach
      else (s3.modCore (fun k => k.modAll flags)).toSlices c)

/-- The saved tasks that resume with one: those of its gang, in member order, or it alone. -/
def resumeGroup (m : Module) (sv : Saved) : List Saved :=
  if sv.task.pool then [sv]
  else (m.saved.filter (fun v => v.task.node == sv.task.node && !v.task.pool)).foldl (fun l v => insertBy (fun v => v.task.member) v l) []

/-- A task with a parked allocation resumes only on the core it left. -/
def Saved.fitsOn (v : Saved) (s : State) (core : Nat) : Bool :=
  freeFor s none v.task.tenant core && (!v.dir.any (fun e => e.state == 1) || core == v.core)

/-- Resume one saved task on a core: one that had not started at its first word. -/
def State.resumeOn (s : State) (sv : Saved) (core : Nat) : Option State :=
  let moved (m : Module) : Module :=
    { (modNode m sv.task.node (fun n =>
        { n with members := mapIf (fun x => x.task == sv.task.num) (fun x => { x with core := core }) n.members })) with
      saved := m.saved.filter (fun v => v.task.num != sv.task.num) }
  let run (x : State) : Option State :=
    if sv.boundary.isSome then
      some (((x.launchTask sv.task ((List.range 4).map (fun i => drawPage (x.m.free + 1 + i)))).modCore (fun k =>
        { k with cutWait := true })).modM (fun m => { m with free := m.free + 4 }))
    else x.resumeTask sv
  (run (s.focus core)).map (fun y => (y.modM moved).focus s.core.num)

/-- Resume the tasks of a list each on its core; none if one of them finds no room. -/
def resumeEach : List (Saved × Nat) → State → Option State
  | [], s => some s
  | (v, c) :: r, s =>
    match s.resumeOn v c with
    | some t => resumeEach r t
    | none => none

/-- TASK_RESTORE: onto free cores of the tenant's allotment, a gang's stopped members together. (DEDUCED, log 47.) -/
def execTaskRestore (task : Nat) (cores : List Nat) : State → Out :=
  runEvent (fun s =>
    match s.m.saved.find? (fun v => v.task.num.toNat == task) with
    | none => s
    | some sv =>
      let each := (resumeGroup s.m sv).zip cores
      if cores.length != (resumeGroup s.m sv).length || cores.eraseDups.length != cores.length || !each.all (fun v => v.1.fitsOn s v.2)
      then s
      else
        match resumeEach each s with
        | some t => t.modM (fun m => m.takeHeld cores)
        | none => s)

/-! ### Parked allocations (15 R249) -/

/-- The parked allocations of a core that have an id, each with the saved task it belongs to. -/
def parkedAt (s : State) (id : BitVec 8) : List (Alloc × Saved) :=
  (s.core.allocs.filter (fun a => a.id == id)).filterMap (fun a =>
    (s.m.saved.find? (fun v => some v.task.num == a.parked)).map (fun v => (a, v)))

/-- Remaining life of a parked allocation: of a window, that of its rows (07 R146, R148). -/
def parkedLife (c : Ckpt) (now : Nat) (a : Alloc) : Nat :=
  if a.backed then (a.lines.map (fun l => l.expiry - now)).foldl min Config.retention else saveExpiry c a - now

/-- A parked allocation is wound, with the Filled slots of its ring (07 R145; 23 R406). -/
def State.windParked (s : State) (p : Alloc × Saved) : State :=
  let till := s.m.now + Config.retention
  let ring (r : Ring) : Ring := if r.alloc = p.1.id then { r with exps := r.exps.map (fun e => (e.1, till)) } else r
  let wind (w : Saved) : Saved := { w with ckpt := { w.ckpt with rings := w.ckpt.rings.map ring } }
  let wound (a : Alloc) : Alloc :=
    if a.backed then { a with lines := a.lines.map (fun l => { l with expiry := till }) } else { a with expiry := till }
  (s.modCore (fun k => { k with allocs := mapIf (fun b => b.id == p.1.id && b.parked == p.1.parked) wound k.allocs })).modM
    (fun m => { m with saved := mapIf (fun w => w.task.num == p.2.task.num) wind m.saved })

/-- PARK_SWEEPER_WIND: under policy 1, with 160 ticks or fewer to live, an allocation and its slots are wound. -/
def execParkSweeperWind (core : Nat) (id : BitVec 8) : State → Out :=
  runEvent (fun s => s.onCore core (fun x =>
    let due (p : Alloc × Saved) : Bool :=
      let left := parkedLife p.2.ckpt x.m.now p.1
      ((x.m.tenant p.2.task.tenant).map (·.park)).getD 0 == 1 && decide (0 < left) && decide (left ≤ 160)
    ((parkedAt x id).filter due).foldl State.windParked x))

/-- A saved task ends with a code: its fault record is written (15 R241), its node learns the status, and nothing of it stays on the
core it left. -/
def State.endSaved (s0 : State) (v : Saved) (code : BitVec 8) : State :=
  let c := v.ckpt
  let status := statusOf code.toNat c.lpc.toNat
  let s := devWrite s0 v.task.root v.task.faultAddr.toNat (faultRecord (c.pend s0.m.now code) code (c.xs.getD 1 0) (c.xs.getD 2 0))
  let upd (n : Node) : Node :=
    { n with members := mapIf (fun x => x.task == v.task.num) (fun x => { x with ended := some status }) n.members,
             status := if n.status = 0 then status else n.status,
             sight := s.m.hand n.sight v.task.sight.cache v.task.sight.evicted }
  let s1 := s.modM (fun m =>
    { (modNode m v.task.node upd) with
      saved := m.saved.filter (fun w => w.task.num != v.task.num), endedTasks := v.task.num :: m.endedTasks })
  s1.onCore v.core (fun x => x.modCore (fun k => { k with allocs := k.allocs.filter (fun a => a.parked != some v.task.num) }))

/-- PARKED_EVICTION: a task's allocation is saved as R247 says, and its entry becomes STATE 0, 2 or, of a window, 3. -/
def execParkedEviction (core : Nat) (q : ParkedAlloc) : State → Out :=
  runEvent (fun s => s.onCore core (fun x =>
    match (parkedAt x q.id).find? (fun p => p.2.task.num.toNat == q.task) with
    | none => x
    | some (a, v) =>
      let (e, b, copies) := saveOne v.ckpt v.task.saveArea x.m.now a
      let writes := (devRead x v.task.root v.task.saveArea.toNat 512).isSome
      let after := if !writes then none else if copies then copyOut x v.task.root v.task.saveArea b else some x
      match after with
      | none => x.endSaved v 0x24
      | some y =>
        let dir := v.dir.map (fun d => if d.id = q.id then e else d)
        let z := devWrite y v.task.root v.task.saveArea.toNat (dirBytes dir)
        (z.modCore (fun k => { k with allocs := k.allocs.filter (fun c => !(c.id == q.id && c.parked == a.parked)) })).modM (fun m =>
          { m with saved := mapIf (fun w => w.task.num == v.task.num) (fun w => { w with dir := dir }) m.saved })))

/-! ### The boot status word (18 R272) -/

/-- The boot status word (18 R272). -/
def Module.bootWord (m : Module) : Word :=
  m.stage ++ m.reason ++ (0 : BitVec 15) ++ BitVec.ofBool m.ptpLock ++ m.dieOut

/-- The resident system's mapping shows the word as it stands: a load from it returns the whole word. -/
def State.showBoot (s : State) : State :=
  match s.m.bootPage with
  | some p => s.physWriteRun p (leBytes 8 s.m.bootWord.toNat)
  | none => s

/-! ### Die failure (15 R253; 13 R237) -/

/-- What a core on a failed die loses of a chain: every entry is reported, a SEND with 0x32 (15 R254). -/
def lostEntries (k : Core) (ch : ChainId) : List Report :=
  (k.chain ch).entries.map (fun e => { code := if ch = .tsx then 0x32 else 0x40, core := k.num, chain := some ch, num := e.num })

/-- The task of a core ends with code 0x32: a record is written (15 R241), and no dump is taken. On the failed die nothing completes:
each entry and pool request in flight is reported (15 R254). On another die it ends as ABORT ends a task. -/
def State.dieEnds (s : State) (dead : Bool) (core : Nat) : State :=
  s.onCore core (fun x =>
    if x.core.task.isNone then x
    else
      let p := x.pendOf .fault { code := 0x32, addr := 0, lane := 0, aux := aux0 }
      let status := statusOf 0x32 x.lpc.toNat
      let y := (x.noteFault p 0x32).writeRecord p 0x32
      if !dead then y.endSoon status
      else
        let pool := (x.m.reqs.filter (fun r => r.core == x.core.num)).map Req.report
        (y.modM (fun m => { m with reports := m.reports ++ chainIds.flatMap (lostEntries x.core) ++ pool })).endTask status)

/-- 4 KiB ranges homed elsewhere of which the cores of a failed die held modified lines, the only copies (15 R253; 07 R138, R148). -/
def lostRanges (die : Nat) (k : Core) : List Nat :=
  if k.hub || k.num / Config.coresPerDie != die then []
  else ((k.allocs.flatMap (·.lines)).filter (fun l => l.st != .clean)).map (fun l => l.pa / 32)

/-- The shard of a failed die is lost, with what stands at it. (DEDUCED, log 44.) -/
def loseShard (m : Module) (die : Nat) : Module :=
  let pools := m.pools.map (fun p0 =>
    -- an element that a move has inserted there is lost with it
    let p := ((p0.shard die).bind (·.notice)).elim p0 (fun n => p0.finishMove n.move)
    { p with shards := (p.shards.filter (fun x => x.die != die)).map (fun x =>
        { x with known := x.known.filter (fun k => k.1 != die), summaries := x.summaries.filter (fun y => y.src != die),
                 notice := x.notice.map (fun n => { n with pending := n.pending.filter (· != die) }) }) })
  { m with pools := pools, reqs := mapIf (fun r => r.shard == die) (Req.fail 0x32) m.reqs }

/-- DIE_FAILURE. -/
def execDieFailure (die : Nat) : State → Out :=
  runEvent (fun s =>
    if Config.dies ≤ die ∨ s.m.dieOut.getLsbD die then s
    else
      let onDie := (List.range Config.coresPerDie).map (· + Config.coresPerDie * die)
      let saved (x : Member) : Bool := s.m.saved.any (fun v => v.task.num == x.task)
      let alive (x : Member) : Bool := x.ended.isNone && !saved x
      let parked (task : BitVec 32) : Bool :=
        s.m.saved.any (fun v => v.task.num == task && onDie.contains v.core && v.dir.any (fun e => e.state == 1))
      let gangs := s.m.nodes.filter (fun n => n.gang && n.st == .running
        && n.members.any (fun x => (alive x && onDie.contains x.core) || parked x.task))
      let others := (gangs.flatMap (fun n => (n.members.filter alive).map (·.core))).filter (fun c => !onDie.contains c)
      let stopped := s.m.saved.filter (fun v => gangs.any (fun n => n.id == v.task.node) || parked v.task.num)
      let s0 := stopped.foldl (fun x v => x.endSaved v 0x32) (others.foldl (State.dieEnds · false ·) (onDie.foldl (State.dieEnds · true ·) s))
      let lost := (s.core :: s.others.map (·.2)).flatMap (lostRanges die)
      let s1 := s0.modM (fun m => { m with poison := (lost.filter (fun f => dieOf f != die)) ++ m.poison })
      let s2 := s1.modM (fun m => loseShard { m with dieOut := m.dieOut ||| BitVec.ofNat 32 (2 ^ die), failed := die :: m.failed } die)
      let gone (k : Core) : Core :=
        { (if k.num / Config.coresPerDie = die ∧ !k.hub then { k with inService := false } else k) with
          tlb := k.tlb.filter (fun e => dieOf e.frame != die && !lost.contains e.frame) }
      State.showBoot { s2 with core := gone s2.core, others := s2.others.map (fun p => (p.1, gone p.2)) })

end Sys2Proof.Machine
end

