-- ==== Sys2Proof/Machine/Services.lean ====
section
/-! DEFINITION. The services of the resident system that SVC calls (22 R361): queue repair (11 R201), creating and destroying
a pool (13 R219), launch records (17 R266) and attestation (18 R274). -/

namespace Sys2Proof.Machine

/-- The context whose SVC awaits its service. -/
def Core.svcCtx (k : Core) : Context :=
  let waits (c : Context) : Bool := match c.wait with
    | some (.svc _, _) => true
    | _ => false
  (([k.s, k.c, k.l].find? waits).getD k.s)

/-- What the service, which runs on a hub core, acquires at device scope as it reads pieces (11 R201): the task acquires it from the
service in turn (22 R361). -/
def svcAcquire (s : State) (ps : List Piece) : State :=
  let met := (ps.flatMap (fun p => snapsAt s.m p.pa p.n)).filter (fun sn => synchronises sn none 0 [.device])
  s.modSight (fun k => met.foldl (fun k sn => mergeSnap s.agent k sn.entries sn.evicted) k)

/-- What a release at device scope by the service leaves beside a word: what the calling task has released to it (22 R361). -/
def svcRelease (s : State) (ps : List Piece) : State :=
  match ps with
  | [] => s
  | p :: _ =>
    let sn : Snap := { addr := p.pa, size := 8, agent := none, die := 0, scopes := [.device], entries := s.snapEntries, evicted := s.sight.evicted }
    s.modM (fun m => m.putSnap sn)

/-- The service runs on a hub core and walks there: the calling core's translations are not used, and its cache and counters stay
as they are (07 R137; 17 R259; 11 R201). -/
def svcCheck (s : State) (p : Word) (n : Nat) (wr : Bool) : Except Stop (List Piece × State) :=
  match checkGlobal (s.modCore (fun k => { k with tlb := [] })) s.root p n { wr := wr, race := false } none none 0 with
  | .ok (ps, t) => .ok (ps, { t with core := s.core })
  | .error x => .error x

/-- An argument of a service, read under the calling task's translation and rights; race rules do not apply (22 R361, 10
R197). As every read from global memory, it takes the copies back that windows hold (07 R138). -/
def svcRead (s : State) (p : Word) (n : Nat) (acquire : Bool := false) : Except Stop (Bytes × State) :=
  match svcCheck s p n false with
  | .ok (ps, t) => let u := t.snoopReads none ps; .ok (readPieces u ps, if acquire then svcAcquire u ps else u)
  | .error x => .error x

/-- A result of a service, written under the same rights; a write of the resident system sets writers to none. -/
def svcWrite (s : State) (p : Word) (bs : Bytes) (release : Bool := false) : Except Stop State :=
  match svcCheck s p bs.length true with
  | .ok (ps, t) =>
    let u := writePieces t none true none none ps bs
    .ok (if release then svcRelease u ps else u)
  | .error x => .error x

/-- What a service body answers: x1, and the state it leaves. -/
abbrev Service := State → Context → Except Stop (Word × State)

/-- Run the service that SVC has called. An argument that cannot be read, or a result that cannot be written, changes nothing
and gives all ones; a write that meets a COW page waits for its copy. (DESIGN CHOICE, log 58.) -/
def runService (num : BitVec 32) (body : Service) : State → Out :=
  runEvent (fun s =>
    let answer (t : State) (x1 : Word) : State := t.modCore (fun k => { k with svc := some (num, some (x1, none)) })
    match s.core.svc with
    | some (n, none) =>
      if n ≠ num then s
      else
        match body s s.core.svcCtx with
        | .ok (x1, t) => answer t x1
        | .error (.cow va) => s.copyFirst va
        | .error _ => answer s Config.allOnes
    | _ => s)

/-- SVC_REPAIR_QUEUE, 0x21: STATE is read with an acquire; if it is 1, NEXT := ESEQ + 1, then STATE := 0 with a release, and x1 = 0;
else x1 = 1 and nothing changes. -/
def execSvcRepairQueue : State → Out :=
  runService 0x21 (fun s k =>
    let cb := k.get 1
    match svcRead s (cb + 8) 8 true with
    | .error x => .error x
    | .ok (st, s1) =>
      if leNat st ≠ 1 then .ok (1, s1)
      else
        match svcRead s1 (cb + 16) 8 with
        | .error x => .error x
        | .ok (e, s2) =>
          match svcWrite s2 (cb + 24) (leBytes 8 ((leNat e + 1) % 2 ^ 64)) with
          | .error x => .error x
          | .ok s3 => (svcWrite s3 (cb + 8) (leBytes 8 0) true).map (fun s4 => (0, s4)))

/-! ### Pools (13 R219) -/

/-- The grant record is within its ranges. -/
def grantOk (b : Bytes) : Bool :=
  let ctl := le b 0 8
  let lim := le b 8 4
  let sramq := le b 12 4
  let caps := le b 16 8
  zeroAt b 24 40 && decide (fld caps 32 32 = 0 ∧ 1024 ≤ caps ∧ caps ≤ 2 ^ 26)
    && decide (64 ≤ sramq ∧ sramq ≤ Config.poolSram ∧ sramq % 64 = 0)
    && powerOfTwo (fld lim 0 11) && decide (fld lim 11 5 = 0 ∧ fld lim 17 7 = 0 ∧ fld lim 30 2 = 0)
    && ctlOk (fld lim 0 11) (bitOf lim 16) (fld lim 24 6) ctl && decide (2 * fld lim 0 11 ≤ sramq)

/-- Pool-SRAM entries that pools have reserved on a die. -/
def Module.sramUsed (m : Module) (die : Nat) : Nat :=
  ((m.pools.filter (fun p => (p.shard die).isSome)).map (·.sramq)).foldl (· + ·) 0

/-- The first of the candidates from a starting value on that is not taken. -/
def firstFree (taken : Nat → Bool) (size start : Nat) : Nat → Nat
  | 0 => start % size
  | n + 1 => if taken (start % size) then firstFree taken size (start + 1) n else start % size

/-- An empty shard. -/
def freshShard (die : Nat) : Shard :=
  { die := die, elems := [], seq := 0, known := [], notice := none, queued := [], completed := 0, summaries := [] }

/-- The pool that a grant record makes: number and generation are free values, distinct from those in use (13 R220). -/
def newPool (m : Module) (tenant : Nat) (dies : List Nat) (b : Bytes) (n0 g0 : Nat) : Pool :=
  let num := firstFree (fun n => (m.pool n).isSome) 256 n0 256
  let used (g : Nat) : Bool := m.gens.any (fun x => x.1 == num && x.2.toNat == g)
  let gen := firstFree used (2 ^ 24) g0 m.gens.length
  let ctl := le b 0 8
  let lim := le b 8 4
  { num := num, gen := BitVec.ofNat 24 gen, tenant := tenant, q := fld ctl 0 11, age := bitOf ctl 22, shift := fld ctl 16 6,
    qmax := fld lim 0 11, ageok := bitOf lim 16, shiftmin := fld lim 24 6, caps := le b 16 8, sramq := le b 12 4,
    shards := dies.map freshShard }

def Pool.handle (p : Pool) : Word := w64 (p.num + 256 * p.gen.toNat)

/-- Compute dies in service. -/
def Module.diesIn (m : Module) : List Nat := (List.range Config.dies).filter (fun d => !m.dieOut.getLsbD d)

/-- SVC_CREATE_POOL, 0x30: the handle, or all ones with nothing created. Whether the backing region can be reserved is the
resident system's matter: a free value (DESIGN CHOICE, log 4). -/
def execSvcCreatePool : State → Out :=
  runService 0x30 (fun s k =>
    match svcRead s (k.get 1) 64 with
    | .error x => .error x
    | .ok (b, s1) =>
      let dies := s.m.diesIn
      let room := dies.all (fun d => decide (s.m.sramUsed d + le b 12 4 ≤ Config.poolSram))
      let backed := (Config.freeWord s.m.free).getLsbD 0
      let n0 := (Config.freeWord (s.m.free + 1)).toNat
      let g0 := (Config.freeWord (s.m.free + 2)).toNat
      if grantOk b && decide (s.m.pools.length < Config.pools) && !dies.isEmpty && room && backed then
        let p := newPool s.m s.tenant dies b n0 g0
        .ok (p.handle, s1.modM (fun m =>
          { m with pools := m.pools ++ [p], gens := (p.num, p.gen) :: m.gens, free := m.free + 3 }))
      else .ok (Config.allOnes, s1.modM (fun m => { m with free := m.free + 3 })))

/-- SVC_DESTROY_POOL, 0x31: the elements are discarded, and operations in flight fail (13 R237). -/
def execSvcDestroyPool : State → Out :=
  runService 0x31 (fun s k =>
    match poolOf s (k.get 1) with
    | none => .ok (1, s)
    | some p =>
      let gone (m : Module) : Module :=
        { m with pools := m.pools.filter (fun x => x.num != p.num),
                 reqs := mapIf (fun r => r.pool == p.num) (Req.fail 0x11) m.reqs }
      .ok (0, s.modM gone))

/-! ### Launch records and attestation -/

/-- The 64 bytes of a launch record (17 R266). -/
def LaunchRec.bytes (r : LaunchRec) : Bytes := r.times.flatMap (fun t => leBytes 8 t.toNat) ++ leBytes 16 0

/-- A result the spec does not state, other than 1 (17 R266; DESIGN CHOICE, log 4). -/
def notOne (w : Word) : Word := if w = 1 then 0 else w

/-- SVC_LAUNCH_RECORD, 0x40: the record of (queue, index) in x1 is copied to x2; x1 = 1 for a packet no longer kept. -/
def execSvcLaunchRecord : State → Out :=
  runService 0x40 (fun s k =>
    let q := fld (k.get 1).toNat 32 32
    let i := fld (k.get 1).toNat 0 32
    match s.m.launches.find? (fun r => r.q == q && r.idx % 2 ^ 32 == i) with
    | none => .ok (1, s)
    | some r =>
      (svcWrite s (k.get 2) (pad r.bytes 64)).map (fun t =>
        (notOne (Config.freeWord s.m.free), t.modM (fun m => { m with free := m.free + 1 }))))

/-- The core map: bit c is 1 for a compute core in service. -/
def coreMap (out : List Nat) : BitVec 768 :=
  BitVec.ofNat 768 ((List.range Config.computeCores).foldl (fun n c => if out.contains c then n else n + 2 ^ c) 0)

/-- The report over a nonce, from the values measured at boot (18 R274): 1,024 bytes or less. R274 lists what it holds, and gives
neither places nor widths (DESIGN CHOICE, log 14). -/
def Module.report (m : Module) (nonce : Bytes) : Bytes :=
  let body := Config.attestHead.take 512 ++ leBytes 4 m.bootDies.toNat ++ leBytes 96 (coreMap m.bootCores).toNat ++ nonce
  (body ++ Config.attestSign body).take 1024

/-- SVC_ATTESTATION, 0x50: once the module is ready, a report over the nonce at x1 is written at x2, and x1 is its length. -/
def execSvcAttestation : State → Out :=
  runService 0x50 (fun s k =>
    if s.m.stage ≠ 8 then .ok (Config.allOnes, s)
    else
      match svcRead s (k.get 1) 32 with
      | .error x => .error x
      | .ok (nonce, s1) =>
        let report := s.m.report nonce
        (svcWrite s1 (k.get 2) report).map (fun t => (w64 report.length, t)))

end Sys2Proof.Machine
end

