-- ==== Sys2Proof/Machine/Observing.lean ====
section
/-! DEFINITION. Observing the device: the reduction tree (17 R260), counter samples (17 R261), gap records (17 R264) and core
dumps (17 R265). -/

namespace Sys2Proof.Machine

/-! ### The reduction tree (17 R260) -/

/-- Cores of the scope `RSCOPE` of a reader: itself, its die (compute or hub), the device. -/
def redScope (num scope : Nat) : List Nat :=
  match scope with
  | 0 => [num]
  | 1 =>
    if num < Config.computeCores then (List.range Config.coresPerDie).map (· + Config.coresPerDie * (num / Config.coresPerDie))
    else
      let hub := (num - Config.computeCores) / Config.hubCoresPerHub
      (List.range Config.hubCoresPerHub).map (· + Config.computeCores + Config.hubCoresPerHub * hub)
  | _ => List.range (Config.computeCores + 2 * Config.hubCoresPerHub)

/-- Combine contributions by REDOP; with none, the sum is 0, the minimum all ones and the maximum 0. -/
def reduce (op : Nat) (vals : List Word) : Word :=
  match op with
  | 0 => vals.foldl (· + ·) 0
  | 1 => w64 ((vals.map (·.toNat)).foldl min (2 ^ 64 - 1))
  | _ => w64 ((vals.map (·.toNat)).foldl max 0)

/-- What the tree gives the focused core now. -/
def State.reduction (s : State) : Word :=
  let sel := s.core.perf.sel.toNat
  let cores := (redScope s.core.num (fld sel 24 2)).map s.coreAt
  let same := cores.filter (fun k => fld k.perf.sel.toNat 0 16 == fld sel 0 16)
  reduce (fld sel 16 2) (same.map (·.perf.val))

/-- Entries of record mode that await the reduction: not those of pool words. -/
def fillReduction (reqs : List Req) (num : Nat) (v : Word) (e : RecEntry) : RecEntry :=
  let pool := reqs.any (fun r => r.core == num && r.pend.ord == e.ord && r.pend.lpc == e.lpc)
  if e.d0.isNone && !pool then { e with d0 := some v } else e

/-- A step-journal entry that awaits the reduction takes it (02 R40). -/
def fillJournal (v : Word) (e : JEntry) : JEntry := if e.vals.isEmpty then { e with vals := [v] } else e

/-- PERF_RED_READ: at the fade tick after the request the contributions are sampled, and the result arrives. -/
def execPerfRedRead : State → Out :=
  runEvent (fun s =>
    if !s.core.awaitsTree then s
    else
      let v := s.reduction
      let s1 := s.modTask (fun t => { t with recBuf := t.recBuf.map (fillReduction s.m.reqs s.core.num v) })
      s1.modCore (fun k =>
        ({ k with journal := k.journal.map (fillJournal v) }).arrive
          (fun f => f.req.isNone && !f.ext) (withValues [v])))

/-! ### Samples and gaps -/

/-- COUNTER_SAMPLE: a frozen cycle, then a record of the counter, naming the context's next word (17 R261). The frozen cycle is an event
itself, as is a string that a context waits on in it (17 R259), and may make the next sample due. -/
def execCounterSample : State → Out :=
  runEvent (fun s =>
    match s.core.perf.sample with
    | [] => s
    | d :: rest =>
      let p := s.samplePlace d
      let s1 := s.modCore (fun k => (({ k with perf := { k.perf with sample := rest } } : Core).countFor d.ctx 2 1).countStrings 1)
      (s1.traceAt 1 p.1 p.2 (leBytes 8 s.core.perf.val.toNat ++ leBytes 2 (fld s.core.perf.sel.toNat 0 16))).tickWall 1)

/-- TRACE_GAP_RECORD: records were dropped, or the page has moved: a gap record is put as soon as it can be. -/
def execTraceGapRecord : State → Out :=
  runEvent (fun s => if s.core.traces && s.gapDue && s.traceMapped then s.putGap (s.sliceCode s.core.cur, s.here.pc) else s)

/-! ### Core dumps (17 R265) -/

/-- One write of a result in flight, as a dump holds it: what it writes, where, and the bytes (DESIGN CHOICE, log 31). -/
def putImage : Put → Bytes
  | .reg _ n v => leBytes 1 1 ++ leBytes 8 n.toNat ++ leBytes 8 v.toNat
  | .view _ w v => leBytes 1 2 ++ leBytes 8 w.toNat ++ leBytes 8 v.toNat
  | .bytes a bs _ => leBytes 1 3 ++ leBytes 8 a ++ leBytes 8 bs.length ++ bs
  | .sys _ n v => leBytes 1 4 ++ leBytes 8 n.toNat ++ leBytes 8 v.toNat
  | .scratch id off bs => leBytes 1 5 ++ leBytes 8 (id.toNat * 2 ^ 24 + off) ++ leBytes 8 bs.length ++ bs
  | .expiry id t => leBytes 1 6 ++ leBytes 8 id.toNat ++ leBytes 8 t
  | .tag id t => leBytes 1 7 ++ leBytes 8 id.toNat ++ leBytes 8 t.toNat
  | .free id _ => leBytes 1 8 ++ leBytes 8 id.toNat ++ leBytes 8 0
  | .unpin _ id ls => leBytes 1 9 ++ leBytes 8 id.toNat ++ leBytes 8 ls.length

/-- A listed result: what remains of its latency, its latch and writes. -/
def flightBytes (f : Flight) : Bytes :=
  leBytes 8 f.landAt ++ leBytes 1 f.lt.toNat ++ leBytes 1 f.puts.length ++ f.puts.flatMap putImage

/-- A context in a dump: registers, `ctx` registers with all fields of `ctx.status`, latches, views, landing list (17 R265; DESIGN CHOICE,
log 31). -/
def contextBytes (merged : Bool) (x : Context) (list : List Flight) : Bytes :=
  x.x.toList.flatMap (fun v => leBytes 8 v.toNat) ++ leBytes 8 x.pc.toNat ++ leBytes 8 x.step.toNat ++ leBytes 8 x.secNo.toNat
    ++ leBytes 1 x.hz.toNat ++ leBytes 1 x.strict.toNat ++ leBytes 1 x.dbg.toNat ++ leBytes 1 x.sbm.toNat
    ++ leBytes 1 x.fflags.toNat ++ leBytes 2 x.round.toNat ++ leBytes 1 merged.toNat
    ++ x.latch.toList.flatMap (fun l => leBytes 1 l.isSome.toNat ++ leBytes 2 (l.getD []).length ++ l.getD [])
    ++ x.view.toList.flatMap (fun v => leBytes 8 v.toNat) ++ leBytes 8 list.length ++ list.flatMap flightBytes

/-- The bytes of a dump. -/
def Dump.bytes (d : Dump) : Bytes :=
  leBytes 1 d.trunc.toNat ++ leBytes 1 d.ctxs.length ++ leBytes 6 0 ++ d.ctxs.flatMap (fun c => contextBytes d.merged c.2.1 c.2.2)
    ++ d.ckpt.bytes ++ pad d.record 128 ++ pad (d.rings.flatMap ringBytes) 64 ++ leBytes 8 d.sources.length
    ++ d.sources.flatMap (fun e => leBytes 8 e.1 ++ leBytes 8 e.2.toNat) ++ dirBytes d.dir ++ d.extra.flatMap id

/-- Write the dumps of the ending task into its save area, one after another (17 R265). -/
def State.putDumps (s : State) : State :=
  match s.core.task with
  | none => s
  | some t => devWrite s t.root (dumpArea t.saveArea).toNat ((s.core.dumps.filter (fun d => d.task == t.num)).reverse.flatMap Dump.bytes)

/-- The allocation directory of a dump: no bytes are saved, so DATA is 0. -/
def Core.dumpDir (k : Core) (now : Nat) : List DirEntry :=
  (k.allocs.filter (fun a => a.parked.isNone && a.freed.isNone)).map (fun a => { (saveOne k.saved 0 now a).1 with data := 0 })

/-- A dump begins: of the first fault of the ending task with the record that stands in memory, of a further one with its own. -/
def State.newDump (s : State) : Dump :=
  let k := s.core
  let num := (k.task.map (·.num)).getD 0
  let record := if k.dumps.any (fun d => d.task == num) then k.fatal.headD []
    else ((k.task.bind (fun t => devRead s t.root t.faultAddr.toNat 128)).getD [])
  { task := num, merged := k.merged, ctxs := [], ckpt := k.ckpt, record := record, rings := k.rings.filter (fun r => r.ended.isNone),
    sources := k.tsx.entries.map (fun e => (e.num, e.src)), dir := k.dumpDir s.m.now, extra := [], trunc := false }

/-- CORE_DUMP: the next context of an ending task is written, L, C, S; a dump of its own begins after each three. A further fatal
fault in the context ends the dump, with TRUNC set and that fault's record. -/
def execCoreDump : State → Out :=
  runEvent (fun s =>
    match s.core.phase with
    | .ending st (c :: rest) =>
      let k := s.core
      let new := rest.length % 3 == 2
      let further := new && k.dumps.any (fun d => d.task == (k.task.map (·.num)).getD 0)
      let d := if new then s.newDump else k.dumps.headD s.newDump
      let old := if new then k.dumps else k.dumps.drop 1
      let item := (c, k.ctx c, ((k.ctx c).trap.map (·.list)).getD [] ++ k.flights.filter (fun f => f.ctx == c && f.listed))
      let d1 : Dump := if k.cutDump.isEmpty then { d with ctxs := d.ctxs ++ [item] } else { d with extra := d.extra ++ k.cutDump, trunc := true }
      let left := if k.cutDump.isEmpty then rest else rest.drop (rest.length % 3)
      (s.modCore (fun k => { k with phase := .ending st left, dumps := d1 :: old, cutDump := [],
                                    fatal := if further then k.fatal.drop 1 else k.fatal })).putDumps.settleEnd
    | _ => s)

end Sys2Proof.Machine
end

