-- ==== Sys2Proof/Machine/Loader.lean ====
section
/-! DEFINITION. The loader: the checks of an image (04 R93), code objects with their parts, symbols and relocation records (05 R105 to
R111), and KERNEL_IMAGE_LOAD. -/

namespace Sys2Proof.Machine

/-! ### Images (04 R93) -/

/-- The word at a slice or image position, with its decoding. -/
def loadWord (s : State) (root : Word) (va : Nat) : Option (IWord × Option Instr) :=
  (devRead s root va 12).map (fun b =>
    let w : IWord := BitVec.ofNat 96 (leNat b)
    (w, match decodeWord w with
      | .ok i => some i
      | .error _ => none))

/-- A latch select, LT or D.WBS of a word (04 R71, R79): bits 71, 59, 47, 35:32, and C.LS of class V. -/
def latchFields (w : IWord) : Bool :=
  w.getLsbD 71 || w.getLsbD 59 || w.getLsbD 47 || w.extractLsb' 32 4 != 0 || (w.extractLsb' 93 3 == 4 && w.getLsbD 23)

/-- Non-idempotent words (02 R25). -/
def Instr.nonIdempotent : Instr → Bool
  | .atom _ _ | .cas _ _ | .mtake _ | .mput _ _ _ _ | .send _ => true
  | _ => false

/-- Class and OP of a word (04 R70). -/
def wordClass (w : IWord) : BitVec 3 := w.extractLsb' 93 3
def wordOp (w : IWord) : BitVec 9 := w.extractLsb' 84 9

/-- The target of JMP and CALL in the plain image (04 R78), by class and OP: a word that does not decode has one too. -/
def jumpTarget (pc : Nat) (w : IWord) : Option Int :=
  if wordClass w = 3 ∧ (wordOp w = 1 ∨ wordOp w = 3) then some (pc + (w.extractLsb' 0 32).toInt) else none

/-- Is the plain word j an offence? Static faults are looked for only in a kernel that is to be sliced (04 R87). -/
def plainBad (s : State) (root : Word) (img : Image) (merged : Bool) (j : Nat) : Bool :=
  match loadWord s root ((img.pimg + w64 (12 * j)).toNat) with
  | none => true
  | some (w, i) =>
    let followed := match loadWord s root ((img.pimg + w64 (12 * j + 12)).toNat) with
      | some (_, some (.tstep _ _ _ _)) => decide (j + 1 < img.pwords)
      | _ => false
    let target := match jumpTarget (12 * j) w with
      | none => true
      | some t => decide (0 ≤ t ∧ t % 12 = 0 ∧ t < 12 * img.pwords)
    latchFields w || !target || (match i with
      | none => !merged
      | some x => (!merged && x.check.isSome) || (Instr.nonIdempotent x && !followed))

/-- The first offence of the plain image from word j on. -/
def plainScan (s : State) (root : Word) (img : Image) (merged : Bool) : Nat → Nat → Option Nat
  | 0, _ => none
  | n + 1, j => if plainBad s root img merged j then some j else plainScan s root img merged n (j + 1)

/-- A word whose effect is visible outside the core: it stands in S only (02 R24). -/
def Instr.outward : Instr → Bool
  | .st f => f.space == .global
  | .stl _ _ | .atom _ _ | .cas _ _ | .mput _ _ _ _ | .mtake _ | .mstat _ | .mctl _ | .send _ | .exit _ | .abort _
  | .bsync _ _ | .svc _ => true
  | .tagset _ sp _ _ => sp == .global
  | _ => false

/-- Words of class V, MMA, ACLR and ADRAIN: they stand in C only (03 R51). -/
def onlyC (w : IWord) : Instr → Bool
  | .mma _ | .aclr _ _ _ | .adrain _ _ _ _ _ => true
  | _ => w.extractLsb' 93 3 == 4

/-- May no word of a slice stand there, since it has a static fault (04 R87) or belongs to another slice? -/
def sliceWordBad (s : State) (root : Word) (sl : Slice) (c : Ctx) (off : Nat) : Bool :=
  match loadWord s root ((sl.img + w64 off).toNat) with
  | some (w, some i) => i.check.isSome || (c != .S && Instr.outward i) || (c != .C && onlyC w i)
  | _ => true

/-- Map entry i of a slice names no word of the plain image. -/
def mapBad (s : State) (root : Word) (img : Image) (sl : Slice) (i : Nat) : Bool :=
  match devRead s root (sl.idx + w64 (4 * i)).toNat 4 with
  | none => true
  | some b => decide (img.pwords ≤ fld (leNat b) 0 28)

/-- The first bad word of a section: n words from an offset on, the first of which is word i of the slice. -/
def sectionScan (s : State) (root : Word) (img : Image) (sl : Slice) (c : Ctx) : Nat → Nat → Nat → Option Nat
  | 0, _, _ => none
  | n + 1, off, i =>
    if sliceWordBad s root sl c off || mapBad s root img sl i then some off
    else sectionScan s root img sl c n (off + 12) (i + 1)

/-- The first offence of a slice from the header at `off` on, whose first word is word i: the header, where LAST stands and the slice
ends, then its words with their map entries. -/
def sliceScan (s : State) (root : Word) (img : Image) (sl : Slice) (c : Ctx) : Nat → Nat → Nat → Option Nat
  | 0, off, _ => some off
  | n + 1, off, i =>
    match devRead s root (sl.img + w64 off).toNat 8 with
    | none => some off
    | some b =>
      let h := leNat b
      let next := off + 8 + 12 * hdrLen h
      let last := decide (sl.len ≤ next)
      if !hdrOk h ∨ 2 ^ 19 ≤ fld h 28 20 ∨ 2 ^ 19 ≤ fld h 8 20 ∨ sl.len < next ∨ bitOf h 1 != last then some off
      else
        match sectionScan s root img sl c (hdrLen h) (off + 8) i with
        | some o => some o
        | none => if last then none else sliceScan s root img sl c n next (i + hdrLen h)

/-- The first offence of a slice, by its byte. -/
def sliceOffence (s : State) (root : Word) (img : Image) (c : Ctx) : Option Nat :=
  sliceScan s root img (img.slice c) c ((img.slice c).len / 20 + 1) 0 0

/-- The first offence of the plain image. -/
def plainOffence (s : State) (root : Word) (img : Image) (merged : Bool) : Option Reject :=
  if img.pwords = 0 ∨ 2 ^ 28 ≤ img.pwords then some (.place 3 0 0)
  else (plainScan s root img merged img.pwords 0).map (fun j => .place 3 0 (12 * j))

/-- What the loader finds: the first offence, the plain image first, then L, C and S. (DESIGN CHOICE, log 52.) -/
def loadCheck (s : State) (root : Word) (img : Image) (merged : Bool) : Option Reject :=
  match plainOffence s root img merged with
  | some x => some x
  | none =>
    if merged then none
    else
      ((sliceOffence s root img .L).map (fun o => Reject.place 0 o 0)).or (((sliceOffence s root img .C).map (fun o => Reject.place 1 o 0)).or
        ((sliceOffence s root img .S).map (fun o => Reject.place 2 o 0)))

/-! ### Code objects (05 R105 to R107) -/

/-- The first multiple of k at or above n. -/
def alignUp (k n : Nat) : Nat := (n + k - 1) / k * k

/-- A symbol entry (05 R107). -/
structure Sym where
  flags : Nat
  part : Nat
  /-- Bytes 3:2, reserved. -/
  zero : Nat
  name : Nat
  size : Nat
  value : Nat
  deriving DecidableEq, Repr

def symOf (b : Bytes) : Sym :=
  { flags := le b 0 1, part := le b 1 1, zero := le b 2 2, name := le b 4 4, size := le b 8 8, value := le b 16 8 }

/-- FLAGS of a symbol. -/
def Sym.isGlobal (y : Sym) : Bool := bitOf y.flags 0
def Sym.isExtern (y : Sym) : Bool := bitOf y.flags 1
def Sym.isKernel (y : Sym) : Bool := bitOf y.flags 2
def Sym.hasGot (y : Sym) : Bool := bitOf y.flags 3
def Sym.isBlock (y : Sym) : Bool := bitOf y.flags 4

/-- A symbol entry is one: FLAGS bits 7:5 and bytes 3:2 zero, PART none of the reserved ones, and an extern one of PART 0 with VALUE 0
(05 R107). -/
def Sym.ok (y : Sym) : Bool :=
  decide (y.flags < 32 ∧ y.zero = 0 ∧ y.part < 4) && (y.part == 0) == y.isExtern && (!y.isExtern || y.value == 0)

/-- A relocation record (05 R107). -/
structure Reloc where
  off : Nat
  type : Nat
  sym : Nat
  add : Int
  deriving DecidableEq, Repr

def relocOf (b : Bytes) : Reloc := { off := le b 0 8, type := le b 8 4, sym := le b 12 4, add := leInt b 16 8 }

/-- A code object as its file holds it (05 R105). -/
structure Cho where
  text : Bytes
  const : Bytes
  data : Bytes
  got : Nat
  syms : List Sym
  relocs : List Reloc
  strs : Bytes
  deriving DecidableEq, Repr

/-- Read n entries of 24 bytes. -/
def entries24 (b : Bytes) (n : Nat) : List Bytes := (List.range n).map (fun i => slice b (24 * i) 24)

/-- The 64-byte header is one: MAGIC, VERSION, PBASE a multiple of 64 KiB below 2^56, and the reserved bytes zero. -/
def choHeaderOk (h : Bytes) : Bool :=
  le h 0 4 == 0x314F4843 && le h 4 4 == 1 && zeroAt h 44 20 && zeroAt h 8 2 && zeroAt h 15 1

/-- The code object at an address; none where it cannot be read or is none. -/
def choAt (s : State) (root : Word) (file : Nat) : Option Cho :=
  match devRead s root file 64 with
  | none => none
  | some h =>
    if !choHeaderOk h then none
    else
      let text := 64
      let const := alignUp 8 (text + le h 16 4)
      let data := alignUp 8 (const + le h 20 4)
      let syms := alignUp 8 (data + le h 24 4)
      let recs := syms + 24 * le h 32 4
      let strs := recs + 24 * le h 36 4
      match devRead s root file (strs + le h 40 4) with
      | none => none
      | some b =>
        let table := (entries24 (b.drop syms) (le h 32 4)).map symOf
        if !table.all Sym.ok then none
        else
          some
          { text := slice b text (le h 16 4), const := slice b const (le h 20 4), data := slice b data (le h 24 4), got := le h 28 4,
            syms := table, relocs := (entries24 (b.drop recs) (le h 36 4)).map relocOf,
            strs := b.drop strs }

/-- Image offsets of the const part, the data part and the GOT (05 R106). -/
def Cho.constOff (o : Cho) : Nat := alignUp 65536 o.text.length
def Cho.dataOff (o : Cho) : Nat := ((o.constOff + o.const.length) / 65536 + 1) * 65536
def Cho.gotOff (o : Cho) : Nat := o.dataOff + alignUp 8 o.data.length

/-- The zero-terminated name of a symbol: what is left of the string table where no zero follows, R107 being silent on it (DESIGN CHOICE,
log 113). -/
def Cho.name (o : Cho) (y : Sym) : Bytes := (o.strs.drop y.name).takeWhile (· != 0)

/-- The name of the slice block of a kernel: `<name>.slices` (05 R111). -/
def sliceName (name : Bytes) : Bytes := name ++ [0x2E, 0x73, 0x6C, 0x69, 0x63, 0x65, 0x73]

/-- The slice block of a kernel. -/
def Cho.block (o : Cho) (k : Sym) : Option Sym := o.syms.find? (fun y => y.isBlock && o.name y == sliceName (o.name k))

/-! ### Staging and relocation (05 R108, R110, R111) -/

/-- An image under construction: its parts, each with its image offset. -/
abbrev Img := List (Nat × Bytes)

/-- A part holds n bytes from an image offset on. -/
def holds (p : Nat × Bytes) (off n : Nat) : Bool := decide (p.1 ≤ off ∧ off + n ≤ p.1 + p.2.length)

/-- n bytes of the image; none outside it. -/
def Img.get (m : Img) (off n : Nat) : Option Bytes := (m.find? (fun p => holds p off n)).map (fun p => slice p.2 (off - p.1) n)

def Img.put (m : Img) (off : Nat) (b : Bytes) : Img :=
  mapIf (fun p => holds p off b.length) (fun p => (p.1, p.2.take (off - p.1) ++ b ++ p.2.drop (off - p.1 + b.length))) m

/-- The address of a symbol: base + VALUE, or the address an extern resolves to. -/
def symAddr (base : Nat) (externs : List (Option (BitVec 64))) (i : Nat) (y : Sym) : Option Nat :=
  if y.isExtern then (externs.getD i none).map (·.toNat) else some (base + y.value)

/-- What externs resolve to: the address given, or else the global symbol of that name of an object committed before under the root
(05 R103, R110), of several the one committed first, R110 being silent on it (DESIGN CHOICE, log 113). -/
def Cho.resolve (o : Cho) (m : Module) (root : Word) (externs : List (Option (BitVec 64))) : List (Option (BitVec 64)) :=
  let known := (m.loads.filter (fun x => x.root == root)).flatMap (·.exports)
  o.syms.zipIdx.map (fun y =>
    if y.1.isExtern then (externs.getD y.2 none).or ((known.find? (fun e => e.1 == o.name y.1)).map (·.2)) else none)

/-- The global symbols that the object defines, with their addresses. -/
def Cho.exports (o : Cho) (base : Nat) : List (Bytes × Word) :=
  (o.syms.filter (fun y => y.isGlobal && !y.isExtern)).map (fun y => (o.name y, w64 (base + y.value)))

/-- The address of a symbol's GOT entry: entries stand in symbol-table order. -/
def Cho.gotAddr (o : Cho) (base i : Nat) : Option Nat :=
  if (o.syms[i]?).any Sym.hasGot then some (base + o.gotOff + 8 * ((o.syms.take i).filter Sym.hasGot).length) else none

/-- The staged image: the parts, and the GOT with the address of each of its symbols. It takes the 8·GOTCNT bytes of the header, also where
GOTCNT is not the number of those symbols, for which R105 gives no outcome (DESIGN CHOICE, log 113). -/
def Cho.stage (o : Cho) (base : Nat) (externs : List (Option (BitVec 64))) : Img :=
  let addrs := (o.syms.zipIdx.filter (fun y => y.1.hasGot)).flatMap (fun y => leBytes 8 ((symAddr base externs y.2 y.1).getD 0))
  [(0, o.text), (o.constOff, o.const), (o.dataOff, o.data), (o.gotOff, pad addrs (8 * o.got))]

/-- The field of a type in its word: lowest bit and width. -/
def relocField : Nat → Option (Nat × Nat)
  | 1 => some (0, 64)
  | 2 | 5 => some (12, 20)
  | 3 | 6 => some (12, 12)
  | 4 | 7 => some (0, 32)
  | _ => none

/-- The value a type writes, of X + A and of X + A − P for its X; none where it overflows (05 R108). -/
def relocValue (type : Nat) (xa xap : Int) : Option Int :=
  match type with
  | 1 => some xa
  | 2 | 5 => let v := (xap + 0x800) / 4096; if -(2 ^ 19) ≤ v ∧ v < 2 ^ 19 then some v else none
  | 4 => let v := xap % 4096; some (if 2048 ≤ v then v - 4096 else v)
  | 7 => if -(2 ^ 31) ≤ xap ∧ xap < 2 ^ 31 ∧ xap % 4 = 0 then some xap else none
  | _ => some xap

/-- Class and OP that a type asks of its target word (05 R110). -/
def relocTarget (type : Nat) (w : IWord) : Bool :=
  let c := wordClass w
  let op := (wordOp w).toNat
  match type with
  | 2 | 5 => c == 0 && op == 0x17
  | 3 | 6 => c == 2
  | 4 => c == 0 && (op == 0x16 || decide (0x101 ≤ op ∧ op ≤ 0x115))
  | 7 => c == 3 && (op == 0x01 || op == 0x03)
  | _ => true

/-- A value written into a field of a word in place of what it held. -/
def putField (old lo width : Nat) (v : Int) : Nat := old - fld old lo width * 2 ^ lo + (v % 2 ^ width).toNat * 2 ^ lo

/-- Bytes from `off` on meet those of a symbol. -/
def Sym.meets (y : Sym) (off n : Nat) : Bool := decide (off < y.value + y.size ∧ y.value < off + n)

/-- May a record of a type stand there (05 R111)? -/
def Cho.relocPlace (o : Cho) (r : Reloc) (n : Nat) : Bool :=
  o.syms.all (fun y => !(y.isBlock && y.meets r.off n) && (!(y.isKernel && y.meets r.off n) || [2, 3, 4, 5, 6].contains r.type))

/-- Apply one record; none where it fails (05 R110). `done` holds the bits of the image that earlier records wrote. -/
def Cho.applyReloc (o : Cho) (base : Nat) (externs : List (Option (BitVec 64))) (r : Reloc) (m : Img) (done : List (Nat × Nat)) :
    Option (Img × Nat × Nat) :=
  match relocField r.type, o.syms[r.sym]? with
  | some (lo, width), some y =>
    let n := if r.type = 1 then 8 else 4
    let x := if r.type = 5 ∨ r.type = 6 then o.gotAddr base r.sym else symAddr base externs r.sym y
    let bits := (8 * r.off + lo, 8 * r.off + lo + width)
    let clear := done.all (fun d => decide (d.2 ≤ bits.1 ∨ bits.2 ≤ d.1))
    match symAddr base externs r.sym y, x, m.get r.off (if r.type = 1 then 8 else 12) with
    | some _, some a, some w =>
      let fits := if r.type = 1 then r.off % 8 == 0 else relocTarget r.type (BitVec.ofNat 96 (leNat w))
      if !fits || !clear || !o.relocPlace r n then none
      else
        (relocValue r.type (a + r.add) (a + r.add - (base + r.off : Nat))).map (fun v =>
          (m.put r.off (leBytes n (putField (leNat (w.take n)) lo width v)), bits))
    | _, _, _ => none
  | _, _ => none

/-- Apply the records in table order, from index i on. -/
def Cho.applyRelocs (o : Cho) (base : Nat) (externs : List (Option (BitVec 64))) :
    List Reloc → Nat → Img → List (Nat × Nat) → Except Reject Img
  | [], _, m, _ => .ok m
  | r :: l, i, m, done =>
    match o.applyReloc base externs r m done with
    | none => .error (.record i)
    | some (m1, bits) => o.applyRelocs base externs l (i + 1) m1 (bits :: done)

/-- Offsets, in a slice block, of the words of a slice that begins at `at'`: over its headers from offset `pos` of the slice on. -/
def blockWords (b : Bytes) (at' len : Nat) : Nat → Nat → List Nat
  | 0, _ => []
  | n + 1, pos =>
    if len ≤ pos then []
    else
      let k := hdrLen (le b (at' + pos) 8)
      (List.range k).map (fun i => at' + pos + 8 + 12 * i) ++ blockWords b at' len n (pos + 8 + 12 * k)

/-- A slice block with the relocated 32-bit tails of a kernel's words, in the words of its slices whose map entries name them (05
R111). -/
def blockTails (relocs : List Reloc) (k : Sym) (m : Img) (b : Bytes) : Bytes :=
  let tail (x : Bytes) (w : Nat × Nat) : Bytes :=
    let p := k.value + 12 * fld (le b (w.2) 4) 0 28
    match m.get p 4 with
    | some t => if relocs.any (fun r => r.off == p) then x.take w.1 ++ t ++ x.drop (w.1 + 4) else x
    | none => x
  let words (c : Nat) : List (Nat × Nat) :=
    (blockWords b (le b (8 * c) 8) (le b (8 * (7 + c)) 8) (le b (8 * (7 + c)) 8 / 20 + 1) 0).zipIdx.map
      (fun w => (w.1, le b (8 * (3 + c)) 8 + 4 * w.2))
  ((List.range 3).flatMap words).foldl tail b

/-- The same for the slice block that stands in the object. -/
def copyTails (relocs : List Reloc) (k y : Sym) (m : Img) : Img :=
  match m.get y.value y.size with
  | none => m
  | some b => m.put y.value (blockTails relocs k m b)

/-- The image with every extern resolved, the GOT filled, the records applied and the tails copied. -/
def Cho.build (o : Cho) (base : Nat) (externs : List (Option (BitVec 64))) : Except Reject Img :=
  match o.applyRelocs base externs o.relocs 0 (o.stage base externs) [] with
  | .error x => .error x
  | .ok m =>
    match o.syms.zipIdx.find? (fun y => (symAddr base externs y.2 y.1).isNone) with
    | some y => .error (.symbol y.2)
    | none =>
      .ok ((o.syms.filter Sym.isKernel).foldl (fun m k => match o.block k with
        | some y => copyTails o.relocs k y m
        | none => m) m)

/-- The image descriptor of a kernel (04 R91): from its plain image and, unless it runs merged, from its slice block. A SIZE that is no
multiple of 12, for which R107 gives no outcome, counts whole words only (DESIGN CHOICE, log 113). -/
def descBytes (base : Nat) (k : Sym) (block : Option (Nat × Bytes)) : Bytes :=
  let head := leBytes 8 (base + k.value) ++ leBytes 8 (k.size / 12)
  match block with
  | none => pad head 128
  | some (a, b) =>
    let d (i : Nat) : Nat := le b (8 * i) 8
    pad (head ++ leBytes 8 (a + d 6) ++ (List.range 3).flatMap (fun c =>
      leBytes 8 (a + d c) ++ leBytes 8 (d (7 + c)) ++ leBytes 8 (a + d (3 + c)))) 128

/-- A kernel of an object with its descriptor, and its slices where Xiene has made them: addresses and bytes. -/
structure LoadedKernel where
  desc : Word
  bytes : Bytes
  merged : Bool
  made : Option (Word × Bytes)
  deriving DecidableEq, Repr

/-- The slices of a kernel of a built object: none run merged; else its slice block, or what Xiene has made of its relocated plain
image, in which every copy of a word carries the relocated field (05 R111). -/
def Cho.slices (o : Cho) (base : Nat) (m : Img) (k : ObjectKernel) (y : Sym) : Option (Nat × Bytes) :=
  if k.merged then none
  else match o.block y with
    | some z => (m.get z.value z.size).map (fun b => (base + z.value, b))
    | none => k.slices.map (fun x => (x.at'.toNat, blockTails o.relocs y m x.block))

def Cho.ready (o : Cho) (base : Nat) (m : Img) (k : ObjectKernel) : Option LoadedKernel :=
  ((o.syms[k.sym]?).filter (·.isKernel)).map (fun y =>
    let block := o.slices base m k y
    { desc := k.desc, bytes := descBytes base y block, merged := k.merged,
      made := if (o.block y).isSome then none else block.map (fun b => (w64 b.1, b.2)) })

/-- The loader has all that it commits: every kernel of the object is given, and of one to be sliced its slices (05 R111). -/
def Cho.given (o : Cho) (ks : List ObjectKernel) : Bool :=
  o.syms.zipIdx.all (fun y => !y.1.isKernel ||
    ks.any (fun k => k.sym == y.2 && (k.merged || (o.block y.1).isSome || k.slices.isSome)))

/-- Write the slices that Xiene has made. -/
def State.putSlices (s : State) (root : Word) (l : List LoadedKernel) : State :=
  l.foldl (fun s r => match r.made with
    | some (a, b) => devWrite s root a.toNat b
    | none => s) s

/-- The first offence of the kernels of a staged object. -/
def readyCheck (s : State) (root : Word) (l : List LoadedKernel) : Option Reject :=
  l.findSome? (fun r => loadCheck s root { imageOf r.bytes with pwords := le r.bytes 8 8 } r.merged)

/-- Load a code object: nothing of a rejected one is left in memory; a committed one stands at its base, with the slices and the
descriptors of its kernels; its global symbols are known (05 R110, R111). (DESIGN CHOICE, log 88.) A part of it whose place has no
translation is not written, and the object is committed all the same (DESIGN CHOICE, log 99). -/
def State.loadObject (s : State) (file root : Word) (o : CodeObject) :
    Except Reject (State × List LoadedKernel × List (Bytes × Word)) :=
  if o.base.toNat % 65536 ≠ 0 then .error .base
  else
    match choAt s root file.toNat with
    | none => .error .object
    | some c =>
      match c.build o.base.toNat (c.resolve s.m root o.externs) with
      | .error x => .error x
      | .ok m =>
        let l := o.kernels.filterMap (c.ready o.base.toNat m)
        let staged := (m.foldl (fun s p => devWrite s root (o.base.toNat + p.1) p.2) s).putSlices root l
        match readyCheck staged root l with
        | some x => .error x
        | none => .ok (l.foldl (fun s r => devWrite s root r.desc.toNat r.bytes) staged, l, c.exports o.base.toNat)

/-- A load step names all that its object needs; one that does not is none. -/
def objectGiven (s : State) (file root : Word) (o : CodeObject) : Bool :=
  match choAt s root file.toNat with
  | some c => c.given o.kernels
  | none => true

/-- The verdict on an image is kept. An image descriptor that cannot be read gives none. -/
def State.loadImage (s : State) (desc root : Word) (merged : Bool) : State :=
  match devRead s root desc.toNat 128 with
  | none => s
  | some b =>
    let img := { imageOf b with pwords := le b 8 8 }
    s.modM (fun m => { m with loads := m.loads ++
      [{ desc := desc, root := root, object := false, reject := loadCheck s root img merged, exports := [] }] })

/-- KERNEL_IMAGE_LOAD: an image that stands in memory is judged, or a code object is staged, relocated, judged and committed. -/
def execKernelImageLoad (at' root : Word) (l : LoadStep) : State → Out :=
  runEvent (fun s =>
    match l with
    | .image merged => s.loadImage at' root merged
    | .object o =>
      let said (reject : Option Reject) (exports : List (Bytes × Word)) : Load :=
        { desc := at', root := root, object := true, reject := reject, exports := exports }
      if !objectGiven s at' root o then s
      else match s.loadObject at' root o with
      | .error x => s.modM (fun m => { m with loads := m.loads ++ [said (some x) []] })
      | .ok (t, l, out) =>
        let image (r : LoadedKernel) : Load := { desc := r.desc, root := root, object := false, reject := none, exports := [] }
        t.modM (fun m => { m with loads := m.loads ++ said none out :: l.map image }))

end Sys2Proof.Machine
end

