-- ==== Sys2Proof/Machine/Outside.lean ====
section
/-! DEFINITION. Power-up with the links of the module (18 R269 to R273; 01 R8), clock throttling (01 R18), and what arrives from outside the
module: a remote SEND (08 R169), a write by the host (10 R197), the retraining of a link (12 R218). -/

namespace Sys2Proof.Machine

/-! ### Links (01 R8) -/

/-- The dies a link joins, for the 56 links between compute dies: 0 to 31 the row rings, link d from die d to the next column; 32 to
55 the column mesh, link 32 + d from die d to the next row (DESIGN CHOICE, log 89). -/
def linkDies (l : Nat) : Nat × Nat := if l < 32 then (l, l / 8 * 8 + (l + 1) % 8) else (l - 32, l - 24)

/-- The die a hub's link goes to: hub 0 to row 0, columns 0, 2, 4, 6, by links 56 to 59; hub 1 to row 3, columns 1, 3, 5, 7, by
links 60 to 63. -/
def hubLinkDie (hub i : Nat) : Nat := if hub = 0 then 2 * i else 24 + 2 * i + 1

/-- The dies that a hub's working links reach at once. -/
def hubStart (down : BitVec 64) (hub : Nat) : BitVec 32 :=
  (List.range 4).foldl (fun acc i => if down.getLsbD (56 + 4 * hub + i) then acc else acc ||| BitVec.ofNat 32 (2 ^ hubLinkDie hub i)) 0

/-- One working link further, over each link. -/
def linkStep (down : BitVec 64) (set : BitVec 32) : BitVec 32 :=
  (List.range 56).foldl (fun acc l =>
    let (a, b) := linkDies l
    if !down.getLsbD l && (acc.getLsbD a || acc.getLsbD b) then acc ||| BitVec.ofNat 32 (2 ^ a + 2 ^ b) else acc) set

/-- The dies with a path to a hub over working links. Whether such a path may run over the links of the other hub R8 and R269 do not
say: here it runs over links between compute dies and ends with a link of its own hub (DESIGN CHOICE, log 114). -/
def hubReach (down : BitVec 64) (hub : Nat) : BitVec 32 := (List.range 32).foldl (fun set _ => linkStep down set) (hubStart down hub)

/-- Dies left without a path to both hubs (18 R269 stage 2; DEDUCED, log 93: to the one and to the other). -/
def unreached (down : BitVec 64) : BitVec 32 := ~~~(hubReach down 0 &&& hubReach down 1)

/-- A hub has no working link. -/
def hubCut (down : BitVec 64) : Bool := hubStart down 0 == 0 || hubStart down 1 == 0

/-! ### The host port (18 R273) -/

/-- What the host port answers to a read (18 R273): nothing before it has trained, Configuration Request Retry Status to a
configuration request until stage 1 ends, a value from then on, or a response whose value the spec does not give. -/
inductive HostAnswer where
  | silent | retry | value (w : Word) | responds
  deriving DecidableEq, Repr

/-- Stage 1 has ended, and has not halted the module. -/
def Module.hostUp (m : Module) : Bool := decide (2 ≤ m.stage.toNat) && !(m.reason == 1 || m.reason == 2 || m.reason == 3)

/-- A configuration request. -/
def Module.configRead (m : Module) : HostAnswer :=
  if m.pcie.1 = 0 then .silent else if m.hostUp then .responds else .retry

/-- A read of BAR0: an aligned 8-byte read at offset 0 returns the boot status word whole. -/
def Module.barRead (m : Module) (off size : Nat) : HostAnswer :=
  if m.pcie.1 = 0 ∨ !m.hostUp then .silent else if off = 0 ∧ size = 8 then .value m.bootWord else .responds

/-! ### Power-up (18 R269 to R273) -/

/-- STAGE of a halted module. -/
def haltedStage : BitVec 8 := 0xFF

/-- The module has halted: nothing runs on it any more (18 R269, R272). -/
def Module.halted (m : Module) : Bool := m.stage == haltedStage

/-- The module halts with a reason. -/
def Module.halt (m : Module) (reason : BitVec 8) : Module := { m with stage := haltedStage, reason := reason }

/-- Stage 5 leaves the register space zero, and scratch and weight buffer unspecified; a core that fails goes out of
service. Its test writes every word of the three (DESIGN CHOICE, log 81). -/
def Core.marchTest (k : Core) (out : List Nat) (gen : Nat) : Core :=
  { k with rs := [], rsGen := none, wb := [], wbGen := gen, allocs := [], badScratch := [], badRegs := [], badWeights := [], inService := k.inService && !out.contains k.num }

/-- Dies with no compute core left. -/
def emptyDies (out : List Nat) : BitVec 32 :=
  (List.range Config.dies).foldl (fun acc d =>
    if ((List.range Config.coresPerDie).map (· + Config.coresPerDie * d)).all out.contains then acc ||| BitVec.ofNat 32 (2 ^ d)
    else acc) 0

/-- Stage 5 on every core; a core that fails is kept as one out of service. -/
def State.marchAll (s : State) (out : List Nat) : State :=
  let bad := out.filter (fun c => decide (c < Config.computeCores))
  let s1 := bad.foldl (fun s c => s.onCore c (fun x => x)) s
  let gen := s1.m.free
  let compute (k : Core) : Core := if k.hub then k else k.marchTest bad gen
  { (s1.modM (fun m => { m with dieOut := m.dieOut ||| emptyDies bad, free := m.free + 1 })) with
    core := compute s1.core, others := s1.others.map (fun p => (p.1, compute p.2)) }

/-- Compute cores out of service, by the core map: out themselves, or on a die that is. -/
def State.coresOut (s : State) : List Nat :=
  (List.range Config.computeCores).filter (fun c => !(s.coreAt c).inService || s.m.dieOut.getLsbD (c / Config.coresPerDie))

/-- A queue descriptor is one (12 R204). -/
def queueOk (q : QueueMade) : Bool :=
  decide (q.num < Config.queues ∧ q.tenant < 16 ∧ q.prio < 8 ∧ 4 ≤ q.size ∧ q.size ≤ 16 ∧ q.base.toNat % 64 = 0)

/-- A queue as the resident system creates it: idle, with nothing notified and nothing read (DESIGN CHOICE, log 56). -/
def queueOf (q : QueueMade) : Queue :=
  { num := q.num, root := q.root, widx := 0, ridx := 0, st := .idle, tenant := q.tenant, prio := q.prio, size := q.size, base := q.base,
    slot := none, notified := 0, notes := [], called := none, waiting := none, held := none, sight := Sight.new, past := [],
    hostRing := if q.inHost then some [] else none }

/-- The queues that the resident system creates beside those there are: of one number the first (12 R204; 18 R269). -/
def makeQueues (old : List Queue) (l : List QueueMade) : List Queue :=
  (l.filter queueOk).foldl (fun qs q => if qs.any (fun x => x.num == q.num) then qs else qs ++ [queueOf q]) old

/-- The resident system has started: its queues are created, the duty register is 0, the queue mapper is enabled and the notify page is
mapped (12 R205; 18 R269, R273; its place is a free value, DESIGN CHOICE, log 4), and attestation reports what is in service now. -/
def State.ready (s : State) (r : StageReport) : State :=
  s.modM (fun m =>
    { m with stage := 8, duty := 0, number := r.number, queues := makeQueues [] r.queues, notifyPage := some (drawPage m.free).toNat,
             bootDies := m.dieOut, bootCores := s.coresOut, free := m.free + 1 })

/-- Stage 7 begins: the resident system starts, and reads the boot status word through its own mapping (18 R269, R272; its place is a free
value, DESIGN CHOICE, log 4). The mapping is read-only: no core keeps a translation of its frame from before. -/
def State.startResident (s : State) (locked : Bool) : State :=
  let page := (drawPage s.m.free).toNat
  let drop (k : Core) : Core := { k with tlb := k.tlb.filter (fun e => e.frame != frameOf page) }
  { s.modM (fun m => { m with stage := 7, ptpLock := locked, bootPage := some page, free := m.free + 1 }) with
    core := drop s.core, others := s.others.map (fun p => (p.1, drop p.2)) }

/-- Ticks of the 10 s in which the PTP time source must lock (18 R271). -/
def ptpTicks : Nat := 100000000

/-- The 10 s of stage 6 are over: it ends unlocked (18 R271). -/
def Module.ptpOver (m : Module) : Bool := decide (m.ptpSince + ptpTicks ≤ m.now)

/-- The work of a stage. -/
def State.endStage (s : State) (r : StageReport) : State :=
    let go (m : Module) : Module := { m with stage := m.stage + 1 }
    match s.m.stage.toNat with
    | 0 => s.modM go
    | 1 =>
      if r.ok then s.modM go
      else if r.reason = 1 ∨ r.reason = 2 ∨ r.reason = 3 then s.modM (fun m => m.halt r.reason) else s
    | 2 =>
      let s1 := s.modM (fun m => { m with linksDown := r.linksDown, dieOut := m.dieOut ||| unreached r.linksDown })
      if hubCut r.linksDown then s1.modM (fun m => m.halt 4) else s1.modM go
    | 3 => s.modM (fun m => go { m with dieOut := m.dieOut ||| r.diesOut, gtags := [] })
    | 4 => s.modM (fun m => go { m with dieOut := m.dieOut ||| r.diesOut })
    | 5 => (s.marchAll r.coresOut).modM (fun m => go { m with ptpSince := m.now })
    | 6 =>
      let s1 := s.modM (fun m => { m with ports := r.portsUp })
      if s.m.ptpOver then s1.startResident false else if r.ptpLocked then s1.startResident true else s1
    | 7 => if r.ok then s.ready r else s.modM (fun m => m.halt 5)
    | _ => s

/-- POWER_UP: the stage in progress ends with what its work found, and the next begins. A report whose reason is none of its
stage's changes nothing. (DESIGN CHOICE, log 56.) -/
def execPowerUp (r : StageReport) : State → Out := runEvent (fun s => (s.endStage r).showBoot)

/-- PTP_LOCK_TIMEOUT: 10 s into stage 6 it ends unlocked. -/
def execPtpLockTimeout : State → Out :=
  runEvent (fun s =>
    if s.m.stage = 6 ∧ s.m.ptpOver then (s.startResident false).showBoot else s)

/-- PTP_LOCK_CHANGE: a later gain or loss is recorded in the boot status word. -/
def execPtpLockChange (locked : Bool) : State → Out :=
  runEvent (fun s => if s.m.stage = 7 ∨ s.m.stage = 8 then (s.modM (fun m => { m with ptpLock := locked })).showBoot else s)

/-- Rates of the host port by PCIe generation 1 to 6, and its widths (18 R273). -/
def pcieOk (rate width : Nat) : Bool := decide (1 ≤ rate ∧ rate ≤ 6) && [1, 2, 4, 8, 16].contains width

/-- PCIE_TRAINING: at power-up, alongside stage 1, the port comes up at a rate and a width. -/
def execPcieTraining (rate width : Nat) : State → Out :=
  runEvent (fun s => if pcieOk rate width && (s.m.stage == 0 || s.m.stage == 1) then s.modM (fun m => { m with pcie := (rate, width) }) else s)

/-! ### Clock throttling (01 R18) -/

/-- Every compute core of a die. -/
def State.onDie (s : State) (die : Nat) (f : Core → Core) : State :=
  if Config.dies ≤ die then s
  else ((List.range Config.coresPerDie).map (· + Config.coresPerDie * die)).foldl (fun s c => s.onCore c (fun x => x.modCore f)) s

/-- CLOCK_THROTTLING: all 24 cores of the die stand still; the fade clock runs on. (DESIGN CHOICE, log 54.) -/
def execClockThrottling (die : Nat) : State → Out :=
  runEvent (fun s => s.onDie die (fun k => { k with throttled := true }))

/-- CLOCK_THROTTLING_END. -/
def execClockThrottlingEnd (die : Nat) : State → Out :=
  runEvent (fun s => s.onDie die (fun k => { k with throttled := false }))

/-! ### What arrives from outside -/

/-- Write for a SEND of another module under the local gang's root: checked for translation, rights, poison and tags, never for
races; writers become none (08 R169, 10 R197). A notify register takes it (12 R205). -/
def remoteWrite (s : State) (root p : Word) (f : Bytes → Bytes) (n : Nat) : Except Stop State :=
  match checkGlobal s root p n { wr := true, race := false } none none 0 with
  | .error x => .error x
  | .ok (ps, t) =>
    let new := f (readPieces t ps)
    .ok ((writePieces t none true none none ps new).notified ((ps.map (·.pa)).headD 0) n (w64 (leNat new)) none)

/-- REMOTE_SEND_ARRIVAL: the payload, then the flag add. A failed access writes nothing; the sender's module reports it. -/
def execRemoteSendArrival (r : RemoteSend) : State → Out :=
  runEvent (fun s =>
    let again (va : Nat) : State :=
      let t := s.copyOnWrite r.root va (cowFrame s.m.free)
      { t with agenda := .row (.remoteSendArrival r) :: t.agenda, m := { t.m with free := t.m.free + 1 } }
    match remoteWrite s r.root r.dst (fun _ => r.payload) r.payload.length with
    | .error (.cow va) => again va
    | .error _ => s
    | .ok t =>
      if r.flag = 0 then t
      else
        match remoteWrite t r.root r.flag (fun b => leBytes 8 ((leNat b + r.addend.toNat) % 2 ^ 64)) 8 with
        | .error (.cow va) => again va
        | .error _ => t
        | .ok u => u)

/-- Granules of 32 bytes that a physical range touches. -/
def rangeGranules (pa n : Nat) : List Nat := (List.range ((pa + n + 31) / 32 - pa / 32)).map (· + pa / 32)

/-- HOST_WRITE: performed in device memory, but for the boot status word, which is read-only (18 R272); monitors see it, writers
become none, and a notify register takes it (12 R205). -/
def execHostWrite (pa : Nat) (data : Bytes) : State → Out :=
  runEvent (fun s =>
    if !populated pa data.length || data.isEmpty || (rangeGranules pa data.length).any (fun g => s.m.showsBoot (g / 128)) then s
    else
      (((s.physWriteRun pa data).sawWrite pa data.length).modM (fun m =>
        (rangeGranules pa data.length).foldl (fun m g => raceForget m g) (dropSnaps m pa data.length))).notified pa data.length
          (w64 (leNat data)) none)

/-- LINK_RETRAINING: the link is in use again, with no effect but latency (01 R9); a link that start-up marked down stays
down (18 R269). (DESIGN CHOICE, log 53.) -/
def execLinkRetraining (_link : Nat) : State → Out := runEvent (fun s => s)

end Sys2Proof.Machine
end

