-- ==== Sys2Proof/Machine/Vector.lean ====
section
/-! DEFINITION. Class V words (23 R371 to R403, 22 R369): the element-wise mould, comparison, conversion, reduction, and
the scratch accesses of vectors. -/

namespace Sys2Proof.Machine

/-! ### Lane functions (23 R372, R373) -/

/-- A lane result without flags. -/
def quiet (v : Nat) : Nat × Flags := (v, 0)

/-- A rounding lane: floating formats round the exact result, SR draws with the lane number. -/
def rounded (f : Fmt) (rc : RCtx) (j : Nat) (r : Exact × Flags) : Nat × Flags := roundWith f rc j r

def sumLane (f : Fmt) (rc : RCtx) (j : Nat) (neg : Bool) (a b : Nat) : Nat × Flags :=
  if f.floatLane then
    let vb := value f b
    rounded f rc j (addEx rc.mode (value f a) (if neg then negVal vb else vb))
  else quiet (wrap (if neg then (a : Int) - b else (a : Int) + b) f.bits)

def mulLane (f : Fmt) (rc : RCtx) (j a b : Nat) : Nat × Flags :=
  if f.floatLane then rounded f rc j (mulEx (value f a) (value f b)) else quiet (a * b % 2 ^ f.bits)

/-- VABS: clears the sign; a NaN is canonical; the most negative integer stays (23 R373). -/
def absLane (f : Fmt) (a : Nat) : Nat :=
  match floatFmt f with
  | some p => if isNan (value f a) then p.nan.getD 0 else a % 2 ^ (f.bits - 1)
  | none => wrap (sgn a f.bits).natAbs f.bits

/-- VNEG: inverts the sign. -/
def negLane (f : Fmt) (a : Nat) : Nat :=
  match floatFmt f with
  | some p => if isNan (value f a) then p.nan.getD 0 else (a + 2 ^ (f.bits - 1)) % 2 ^ f.bits
  | none => wrap (-(a : Int)) f.bits

/-- VMIN and VMAX. -/
def pickLane (f : Fmt) (wantMax sg : Bool) (a b : Nat) : Nat :=
  if f.floatLane then minMax f wantMax a b
  else
    let less (x y : Nat) : Bool := if sg then decide (sgn x f.bits < sgn y f.bits) else decide (x < y)
    if wantMax then (if less a b then b else a) else (if less b a then b else a)

def shlLane (f : Fmt) (a b : Nat) : Nat := a * 2 ^ (b % f.bits) % 2 ^ f.bits
def shrLane (f : Fmt) (arith : Bool) (a b : Nat) : Nat :=
  if arith then wrap (sgn a f.bits / 2 ^ (b % f.bits)) f.bits else a / 2 ^ (b % f.bits)

/-- Does a lane condition hold, and what flag does the comparison set (23 R378)? -/
def cmpLane (f : Fmt) (c : VCond) (a b : Nat) : Nat × Flags :=
  let full (x : Bool) : Nat := if x then 2 ^ f.bits - 1 else 0
  match c with
  | .flt fc => let r := fcompare f fc a b; (full r.1, r.2)
  | .int ic =>
    let sa := sgn a f.bits
    let sb := sgn b f.bits
    quiet (full (match ic with
      | .eq => a == b
      | .ne => a != b
      | .lt => decide (sa < sb)
      | .ge => decide (sb ≤ sa)
      | .ltu => decide (a < b)
      | .geu => decide (b ≤ a)))

/-! ### Shapes -/

/-- A vector word: operand checks, then one function over the enabled lanes of its sources read at issue (23 R371,
R372). -/
def vecWord (i : Instr) (g : Guard) (d : VDst) (srcs : List VSrc) (mask : BitVec 5) (f : Fmt) (lat : Nat)
    (fn : State → List Bytes → Nat → Nat × Flags) : State → Out :=
  runWord i g { hub := true } (fun s =>
    match checkVec s [d.el] (srcs.flatMap vsrcEls) with
    | .error x => .error x
    | .ok _ =>
      let bs := srcs.map s.vsrc
      .ok (.next (s.landLanes d f (overLanes s mask f (fn s bs)) lat)))

/-- The lane of source k. -/
def laneOf (f : Fmt) (bs : List Bytes) (k j : Nat) : Nat := lane f (bs.getD k []) j

def vec1 (i : Instr) (o : VOp1) (lat : Nat) (fn : RCtx → Nat → Nat → Nat × Flags) : State → Out :=
  vecWord i o.g o.d [o.a] o.mask o.fmt lat (fun s bs j => fn (s.rctx o.rnd) j (laneOf o.fmt bs 0 j))

def vec2 (i : Instr) (o : VOp2) (lat : Nat) (fn : RCtx → Nat → Nat → Nat → Nat × Flags) : State → Out :=
  vecWord i o.g o.d [o.a, o.b] o.mask o.fmt lat
    (fun s bs j => fn (s.rctx o.rnd) j (laneOf o.fmt bs 0 j) (laneOf o.fmt bs 1 j))

def vec3 (i : Instr) (o : VOp3) (lat : Nat) (fn : RCtx → Nat → Nat → Nat → Nat → Nat × Flags) : State → Out :=
  vecWord i o.g o.d [o.a, o.b, o.c] o.mask o.fmt lat
    (fun s bs j => fn (s.rctx o.rnd) j (laneOf o.fmt bs 0 j) (laneOf o.fmt bs 1 j) (laneOf o.fmt bs 2 j))

/-- Latency 2 on integer formats, 4 on floating ones (03 R62). -/
def intOrFloat (f : Fmt) : Nat := if f.floatLane then 4 else 2

/-! ### The element-wise words -/

/-- VABS (23 R374). -/
def execVabs (f : VOp1) : State → Out := vec1 (.vabs f) f 2 (fun _ _ a => quiet (absLane f.fmt a))

/-- VADD (23 R375). -/
def execVadd (f : VOp2) : State → Out := vec2 (.vadd f) f (intOrFloat f.fmt) (fun rc j a b => sumLane f.fmt rc j false a b)

/-- VSUB (23 R402). -/
def execVsub (f : VOp2) : State → Out := vec2 (.vsub f) f (intOrFloat f.fmt) (fun rc j a b => sumLane f.fmt rc j true a b)

/-- VAND (23 R376). -/
def execVand (f : VOp2) : State → Out := vec2 (.vand f) f 2 (fun _ _ a b => quiet (a &&& b))

/-- VOR (23 R391). -/
def execVor (f : VOp2) : State → Out := vec2 (.vor f) f 2 (fun _ _ a b => quiet (a ||| b))

/-- VXOR (23 R403). -/
def execVxor (f : VOp2) : State → Out := vec2 (.vxor f) f 2 (fun _ _ a b => quiet (a ^^^ b))

/-- VBCAST (23 R377). -/
def execVbcast (g : Guard) (d : VDst) (a : Src) (mask : BitVec 5) (fmt : Fmt) : State → Out :=
  vecWord (.vbcast g d a mask fmt) g d [] mask fmt 2 (fun s _ _ => quiet ((s.src a).toNat % 2 ^ fmt.bits))

/-- VEXP2 (23 R380). -/
def execVexp2 (f : VOp1) : State → Out := vec1 (.vexp2 f) f 12 (fun rc j a => rounded f.fmt rc j (exp2Ex (value f.fmt a)))

/-- VLOG2 (23 R385). -/
def execVlog2 (f : VOp1) : State → Out := vec1 (.vlog2 f) f 12 (fun rc j a => rounded f.fmt rc j (log2Ex (value f.fmt a)))

/-- VRCP (23 R393). -/
def execVrcp (f : VOp1) : State → Out := vec1 (.vrcp f) f 12 (fun rc j a => rounded f.fmt rc j (rcpEx (value f.fmt a)))

/-- VRSQ (23 R395). -/
def execVrsq (f : VOp1) : State → Out := vec1 (.vrsq f) f 12 (fun rc j a => rounded f.fmt rc j (rsqEx (value f.fmt a)))

/-- VFMA (23 R381). -/
def execVfma (f : VOp3) : State → Out :=
  vec3 (.vfma f) f 5 (fun rc j a b c =>
    rounded f.fmt rc j (fmaEx rc.mode (value f.fmt a) (value f.fmt b) (value f.fmt c)))

/-- VMAX (23 R386). -/
def execVmax (sgn : Bool) (f : VOp2) : State → Out :=
  vec2 (.vmax sgn f) f (intOrFloat f.fmt) (fun _ _ a b => quiet (pickLane f.fmt true sgn a b))

/-- VMIN (23 R387). -/
def execVmin (sgn : Bool) (f : VOp2) : State → Out :=
  vec2 (.vmin sgn f) f (intOrFloat f.fmt) (fun _ _ a b => quiet (pickLane f.fmt false sgn a b))

/-- VMOV (23 R388). -/
def execVmov (f : VOp1) : State → Out := vec1 (.vmov f) f 2 (fun _ _ a => quiet a)

/-- VMUL (23 R389): latency 4 in every format. -/
def execVmul (f : VOp2) : State → Out := vec2 (.vmul f) f 4 (fun rc j a b => mulLane f.fmt rc j a b)

/-- VNEG (23 R390). -/
def execVneg (f : VOp1) : State → Out := vec1 (.vneg f) f 2 (fun _ _ a => quiet (negLane f.fmt a))

/-- VPERM (23 R392): every lane of a is read before any is written. -/
def execVperm (f : VOp2) : State → Out :=
  vecWord (.vperm f) f.g f.d [f.a, f.b] f.mask f.fmt 3
    (fun _ bs j => quiet (laneOf f.fmt bs 0 (laneOf f.fmt bs 1 j % lanes f.fmt)))

/-- VSCALE (23 R396). -/
def execVscale (f : VOp2) : State → Out :=
  vec2 (.vscale f) f 4 (fun rc j a b => rounded f.fmt rc j (scaleEx (value f.fmt a) (sgn b f.fmt.bits)))

/-- VSEL (23 R398). -/
def execVsel (f : VOp3) : State → Out := vec3 (.vsel f) f 2 (fun _ _ a b c => quiet (if c % 2 = 1 then a else b))

/-- VSHL (23 R399). -/
def execVshl (f : VOp2) : State → Out := vec2 (.vshl f) f 2 (fun _ _ a b => quiet (shlLane f.fmt a b))

/-- VSHR (23 R400). -/
def execVshr (arith : Bool) (f : VOp2) : State → Out :=
  vec2 (.vshr arith f) f 2 (fun _ _ a b => quiet (shrLane f.fmt arith a b))

/-- VCMP (23 R378). -/
def execVcmp (c : VCond) (f : VOp2) : State → Out :=
  vec2 (.vcmp c f) f (intOrFloat f.fmt) (fun _ _ a b => cmpLane f.fmt c a b)

/-! ### VCVT (23 R379) -/

/-- Element e of a packed array of b-bit elements (06 R113). -/
def packed (b : Nat) (bs : Bytes) (e : Nat) : Nat := leNat bs / 2 ^ (b * e) % 2 ^ b

/-- The wider of two formats. -/
def wider (a b : Fmt) : Fmt := if a.bits < b.bits then b else a

/-- Elements of the narrower format in 256 bytes. -/
def narrowCount (a b : Fmt) : Nat := 2048 / min a.bits b.bits

/-- A narrowing conversion's elements: (element, code, flags), for enabled lanes whose element exists. -/
def narrowElems (s : State) (part : Nat) (src dst : Fmt) (mask : BitVec 5) (rc : RCtx) (bs : Bytes) :
    List (Nat × Nat × Flags) :=
  ((laneList src).filter (fun j => enabled s mask src j && decide (part * lanes src + j < narrowCount src dst))).map
    (fun j => (part * lanes src + j, convert src dst rc j (lane src bs j)))

/-- VCVT (23 R379). A narrowing VCVT writes single bits; a widening or equal one writes whole lanes. -/
def execVcvt (part : BitVec 3) (fmt2 : Fmt) (f : VOp1) : State → Out :=
  runWord (.vcvt part fmt2 f) f.g { hub := true } (fun s =>
    match checkVec s [f.d.el] (vsrcEls f.a) with
    | .error x => .error x
    | .ok _ =>
      let bs := s.vsrc f.a
      let rc := s.rctx f.rnd
      if fmt2.bits < f.fmt.bits then
        let es := narrowElems s part.toNat f.fmt fmt2 f.mask rc bs
        let word (v : Nat → Nat) : Bytes :=
          leBytes 256 ((es.map (fun e => v e.2.1 * 2 ^ (fmt2.bits * e.1))).foldl (· + ·) 0)
        .ok (.next (s.landBytes f.d (word id) (word (fun _ => 2 ^ fmt2.bits - 1)) 4
          ((es.map (fun e => e.2.2)).foldl (· ||| ·) 0)))
      else
        let elem (j : Nat) : Nat := if fmt2.bits = f.fmt.bits then j else part.toNat * lanes fmt2 + j
        let one (j : Nat) : Nat × Flags :=
          if elem j < narrowCount f.fmt fmt2 then convert f.fmt fmt2 rc j (packed f.fmt.bits bs (elem j)) else (0, 0)
        .ok (.next (s.landLanes f.d fmt2 (overLanes s f.mask fmt2 one) 4)))

/-! ### VRED (23 R394) -/

/-- The exact sum of lanes, kept as a value. -/
def sumVals (mode : Rnd) : List Val → Exact × Flags
  | [] => (.num false 0 0 false, 0)
  | v :: vs => vs.foldl (fun acc w => match acc.1 with
      | .num n m e _ => addEx mode (.fin n m e) w
      | .inf n => addEx mode (.inf n) w
      | .nan n => (.nan n, acc.2)) (v.exact, 0)

/-- Value of a reduction over the enabled lanes. -/
def reduceLanes (op : VredOp) (sg : Bool) (f : Fmt) (rc : RCtx) (ls : List Nat) : Nat × Flags :=
  let w := f.bits
  match op with
  | .add =>
    if f.floatLane then
      let vs := ls.map (value f)
      if vs.any isNan then roundWith f rc 0 (.nan false, 0) else roundWith f rc 0 (sumVals rc.mode vs)
    else quiet ((ls.foldl (· + ·) 0) % 2 ^ w)
  | .min | .max =>
    let wantMax := op == .max
    if f.floatLane then
      let nan := ((floatFmt f).bind (·.nan)).getD 0
      let inf := ((floatFmt f).bind (·.inf)).getD 0
      if ls.isEmpty then quiet (if wantMax then inf + 2 ^ (w - 1) else inf)
      else quiet (ls.foldl (minMax f wantMax) nan)
    else
      let top := if sg then 2 ^ (w - 1) - 1 else 2 ^ w - 1
      let bottom := if sg then 2 ^ (w - 1) else 0
      quiet (ls.foldl (pickLane f wantMax sg) (if wantMax then bottom else top))
  | .and => quiet (ls.foldl (· &&& ·) (2 ^ w - 1))
  | .or => quiet (ls.foldl (· ||| ·) 0)
  | .xor => quiet (ls.foldl (· ^^^ ·) 0)

/-- VRED (23 R394): a scalar result, placed by R112. -/
def execVred (op : VredOp) (sgn : Bool) (g : Guard) (d : Dst) (a : VSrc) (mask : BitVec 5) (fmt : Fmt) (rnd : Rnd) :
    State → Out :=
  runWord (.vred op sgn g d a mask fmt rnd) g { hub := true } (fun s =>
    match checkVec s [] (vsrcEls a) with
    | .error x => .error x
    | .ok _ =>
      let bs := s.vsrc a
      let ls := ((laneList fmt).filter (enabled s mask fmt)).map (lane fmt bs)
      let r := reduceLanes op sgn fmt (s.rctx rnd) ls
      .ok (.next (s.landReg d (scalarOf fmt r.1) 6 r.2)))

/-! ### Scratch accesses -/

/-- Read w bytes per lane, in ascending order: (lane, pointer). The first failing lane faults. -/
def gather (s : State) (w : Nat) : List (Nat × Except Stop Word) → Except Stop (List (Nat × Bytes) × State)
  | [] => .ok ([], s)
  | (j, p) :: r =>
    match p with
    | .error x => .error x
    | .ok q =>
      match memRead s .scratch q w false none j with
      | .error x => .error x
      | .ok (bs, t) =>
        match gather t w r with
        | .error x => .error (x.after s t)
        | .ok (l, u) => .ok ((j, bs) :: l, u)

/-- Check w bytes per lane as writes, in ascending order; nothing is written before every check has passed. -/
def scatterCheck (s : State) (w : Nat) : List (Nat × Except Stop Word × Bytes) → Except Stop (List (Target × Bytes) × State)
  | [] => .ok ([], s)
  | (j, p, bs) :: r =>
    match p with
    | .error x => .error x
    | .ok q =>
      match checkScratch s s.core.cur q w { wr := true } s.who none j with
      | .error x => .error x
      | .ok (t, s1) =>
        if watched s .scratch q w true then .error (stopAt s .scratch q w true)
        else
          match scatterCheck s1 w r with
          | .error x => .error (x.after s s1)
          | .ok (l, u) => .ok ((t, bs) :: l, u)

/-- Offset of a scratch target. -/
def Target.off : Target → Nat
  | .priv _ off _ | .stash _ off _ _ => off
  | .glob _ => 0

/-- What lanes write to an allocation, a higher lane over a lower one, as runs: a word of scratch that several lanes write between them is
written whole (01 R11; DESIGN CHOICE, log 81). -/
def laneRuns (l : List (Target × Bytes)) : List (Nat × Bytes) := Cells.runs (l.foldl (fun c x => Cells.putRun c x.1.off x.2) [])

/-- A write of each lane through a window. -/
def writeLanes (s : State) (l : List (Target × Bytes)) : State := l.foldl (fun s x => performWrite s s.who s.unchecked none x.2 x.1) s

/-- Private bytes are written at the end of the issue cycle; a window is written through (23 R397, R401). All lanes lie in the allocation
that x[A] names (07 R131). -/
def scatterWrite (s : State) (l : List (Target × Bytes)) : State :=
  match l with
  | (.priv id _ _, _) :: _ =>
    let noted (a : Alloc) : Alloc := if a.layout = 0 then a else a.note s.here.ord
    (s.modCore (fun k => modAlloc k id noted)).landLater ((laneRuns l).map (fun r => .scratch id r.1 r.2))
  | (.stash id _ _ _, _) :: _ =>
    let heal (k : Core) (r : Nat × Bytes) : Core := (cutAt 256 r.1 r.2.length).foldl (fun k x => k.healScratch id x.1 x.2) k
    (writeLanes s l).modCore (fun k => modAlloc ((laneRuns l).foldl heal k) id (Alloc.unlayout s.here.ord))
  | _ => s

/-- Enabled lanes with the pointer of each, behind one pointer, or each with its own offset added. -/
def lanePtrs (s : State) (mask : BitVec 5) (f : Fmt) (add : State → Word → Nat → Nat → Except Stop Word) (base : Word)
    (off : Nat → Nat) : List (Nat × Except Stop Word) :=
  ((laneList f).filter (enabled s mask f)).map (fun j => (j, add s base (off j) j))

/-- Land gathered lanes. -/
def State.landGathered (s : State) (d : VDst) (f : Fmt) (l : List (Nat × Bytes)) (lat : Nat) (ext : Bool) : State :=
  s.landLanes d f ((laneList f).map (fun j => ((l.find? (fun e => e.1 == j)).map (fun e => leNat e.2), 0))) lat ext

/-- Some enabled lane reads a line that its window does not hold (03 R64: a stash miss). -/
def lanesOutside (s : State) (w : Nat) (ps : List (Nat × Except Stop Word)) : Bool :=
  ps.any (fun e => match e.2 with
    | .ok q => outsideCore s .scratch q w
    | .error _ => false)

/-- VLD (23 R384). -/
def execVld (g : Guard) (d : VDst) (a : Src) (off : BitVec 6) (mask : BitVec 5) (fmt : Fmt) : State → Out :=
  runWord (.vld g d a off mask fmt) g { hub := true } (fun s =>
    match checkEls s [d.el] with
    | .error x => .error x
    | .ok _ =>
      match vAddr s (s.src a) (256 * off.toNat) 0 with
      | .error x => .error x
      | .ok p =>
        let ps := lanePtrs s mask fmt laneAddr p (fun j => j * laneBytes fmt)
        match gather s (laneBytes fmt) ps with
        | .error x => .error x
        | .ok (l, t) => .ok (.next (t.landGathered d fmt l 8 (lanesOutside s (laneBytes fmt) ps))))

/-- VGATH (23 R382). -/
def execVgath (g : Guard) (d : VDst) (a : Src) (b : VSrc) (mask : BitVec 5) (fmt : Fmt) : State → Out :=
  runWord (.vgath g d a b mask fmt) g { hub := true } (fun s =>
    match checkVec s [d.el] (vsrcEls b) with
    | .error x => .error x
    | .ok _ =>
      let bs := s.vsrc b
      let ps := lanePtrs s mask fmt vAddr (s.src a) (lane fmt bs)
      match gather s (laneBytes fmt) ps with
      | .error x => .error x
      | .ok (l, t) => .ok (.next (t.landGathered d fmt l 12 (lanesOutside s (laneBytes fmt) ps))))

/-- A store of enabled lanes of `data` at their pointers. -/
def storeLanes (s : State) (mask : BitVec 5) (f : Fmt) (add : State → Word → Nat → Nat → Except Stop Word) (base : Word)
    (off : Nat → Nat) (data : Bytes) : Except Stop Fin :=
  let ps := (lanePtrs s mask f add base off).map (fun e => (e.1, e.2, leBytes (laneBytes f) (lane f data e.1)))
  match scatterCheck s (laneBytes f) ps with
  | .error x => .error x
  | .ok (l, t) => .ok (.next (scatterWrite t l))

/-- VST (23 R401). -/
def execVst (g : Guard) (a : Src) (b : VSrc) (off : BitVec 6) (mask : BitVec 5) (fmt : Fmt) : State → Out :=
  runWord (.vst g a b off mask fmt) g { hub := true } (fun s =>
    match checkVec s [] (vsrcEls b) with
    | .error x => .error x
    | .ok _ =>
      match vAddr s (s.src a) (256 * off.toNat) 0 with
      | .error x => .error x
      | .ok p => storeLanes s mask fmt laneAddr p (fun j => j * laneBytes fmt) (s.vsrc b))

/-- VSCAT (23 R397). -/
def execVscat (g : Guard) (a : Src) (b : VSrc) (c : VSrc) (mask : BitVec 5) (fmt : Fmt) : State → Out :=
  runWord (.vscat g a b c mask fmt) g { hub := true } (fun s =>
    match checkVec s [] (vsrcEls b ++ vsrcEls c) with
    | .error x => .error x
    | .ok _ => storeLanes s mask fmt vAddr (s.src a) (lane fmt (s.vsrc b)) (s.vsrc c))

/-! ### VIEW (23 R383) -/

def viewKindCode : ViewKind → Nat
  | .vec => 1
  | .tile => 2
  | .acc => 3

/-- VIEW (23 R383): the base must be a multiple of 256 below 2^19. -/
def execView (g : Guard) (v : BitVec 3) (a : Src) (kind : ViewKind) (fmt : Fmt) : State → Out :=
  runWord (.view g v a kind fmt) g { hub := true } (fun s =>
    let base := (s.src a).toNat
    if base / 2 ^ 19 ≠ 0 ∨ base % 256 ≠ 0 then .error (.flt (fltAddr (s.src a) 6))
    else .ok (.next (s.land
      { puts := [.view s.core.cur v (w64 (fmt.code.toNat * 2 ^ 22 + viewKindCode kind * 2 ^ 20 + base))], lat := 1 })))

/-! ### TTRN (22 R369) -/

/-- Transpose 128 × 128 elements of w bytes, row by row. -/
def transpose (w : Nat) (bs : Bytes) : Bytes :=
  (List.range 128).flatMap (fun j => (List.range 128).flatMap (fun i => slice bs ((128 * i + j) * w) w))

/-- Reach of a tile operand: the whole tile lies in the register space. -/
def tileReach (s : State) (es : List VEl) (n : Nat) : Except Stop Unit :=
  if es.any (fun e => s.elKind e != 2 && s.elKind e != 3) then .error (.flt fltIllegal)
  else
    match es.find? (fun e => decide (Config.regSpace < s.elBase e + n)) with
    | some e => .error (.flt (fltReg (s.elBase e)))
    | none => .ok ()

/-- TTRN's operand checks: reach, then what it reads. -/
def tileChecks (s : State) (d a : VEl) (n : Nat) : Except Stop Unit :=
  match tileReach s [d, a] n with
  | .error x => .error x
  | .ok _ => checkReads s n [a]

/-- TTRN (22 R369). Where both operands reach past the register space the fault names d: R369 and R371 give no order (DESIGN
CHOICE, log 77). -/
def execTtrn (g : Guard) (d : VEl) (wbs : Bool) (a : VEl) (fmt : Fmt) : State → Out :=
  runWord (.ttrn g d wbs a fmt) g { hub := true } (fun s =>
    let n := 2048 * fmt.bits
    match tileChecks s d a n with
    | .error x => .error x
    | .ok _ =>
      let bs := transpose (fmt.bits / 8) (s.core.rsRun (s.elBase a) n)
      .ok (.next (s.land { puts := if wbs then [] else [.bytes (s.elBase d) bs (List.replicate n 0xFF)], lat := 16 })))

end Sys2Proof.Machine
end

