-- ==== Sys2Proof/Machine/Dispatch.lean ====
section
/-! DEFINITION. One arm for each constructor of Instr. -/

namespace Sys2Proof.Machine

def exec (i : Instr) (s : State) : Host.Outcome State Fault Refusal :=
  match i with
  | .add f => Sys2Proof.Machine.execAdd f s
  | .addImmediate f => Sys2Proof.Machine.execAddImmediate f s
  | .sub f => Sys2Proof.Machine.execSub f s
  | .subImmediate f => Sys2Proof.Machine.execSubImmediate f s
  | .mul f => Sys2Proof.Machine.execMul f s
  | .mulImmediate f => Sys2Proof.Machine.execMulImmediate f s
  | .mulh sgn f => Sys2Proof.Machine.execMulh sgn f s
  | .mulhImmediate sgn f => Sys2Proof.Machine.execMulhImmediate sgn f s
  | .div sgn f => Sys2Proof.Machine.execDiv sgn f s
  | .divImmediate sgn f => Sys2Proof.Machine.execDivImmediate sgn f s
  | .rem sgn f => Sys2Proof.Machine.execRem sgn f s
  | .remImmediate sgn f => Sys2Proof.Machine.execRemImmediate sgn f s
  | .and f => Sys2Proof.Machine.execAnd f s
  | .andImmediate f => Sys2Proof.Machine.execAndImmediate f s
  | .andn f => Sys2Proof.Machine.execAndn f s
  | .andnImmediate f => Sys2Proof.Machine.execAndnImmediate f s
  | .or f => Sys2Proof.Machine.execOr f s
  | .orImmediate f => Sys2Proof.Machine.execOrImmediate f s
  | .xor f => Sys2Proof.Machine.execXor f s
  | .xorImmediate f => Sys2Proof.Machine.execXorImmediate f s
  | .shl f => Sys2Proof.Machine.execShl f s
  | .shlImmediate f => Sys2Proof.Machine.execShlImmediate f s
  | .shr arith f => Sys2Proof.Machine.execShr arith f s
  | .shrImmediate arith f => Sys2Proof.Machine.execShrImmediate arith f s
  | .rot f => Sys2Proof.Machine.execRot f s
  | .rotImmediate f => Sys2Proof.Machine.execRotImmediate f s
  | .clz f => Sys2Proof.Machine.execClz f s
  | .popc f => Sys2Proof.Machine.execPopc f s
  | .bext f => Sys2Proof.Machine.execBext f s
  | .bextImmediate f => Sys2Proof.Machine.execBextImmediate f s
  | .bins f => Sys2Proof.Machine.execBins f s
  | .binsImmediate f => Sys2Proof.Machine.execBinsImmediate f s
  | .cmp c f => Sys2Proof.Machine.execCmp c f s
  | .cmpImmediate c f => Sys2Proof.Machine.execCmpImmediate c f s
  | .sel f => Sys2Proof.Machine.execSel f s
  | .min sgn f => Sys2Proof.Machine.execMin sgn f s
  | .minImmediate sgn f => Sys2Proof.Machine.execMinImmediate sgn f s
  | .max sgn f => Sys2Proof.Machine.execMax sgn f s
  | .maxImmediate sgn f => Sys2Proof.Machine.execMaxImmediate sgn f s
  | .ldi f => Sys2Proof.Machine.execLdi f s
  | .addpc f => Sys2Proof.Machine.execAddpc f s
  | .fadd f => Sys2Proof.Machine.execFadd f s
  | .fmul f => Sys2Proof.Machine.execFmul f s
  | .ffma c f => Sys2Proof.Machine.execFfma c f s
  | .fcmp c f => Sys2Proof.Machine.execFcmp c f s
  | .fcvt f => Sys2Proof.Machine.execFcvt f s
  | .ld f => Sys2Proof.Machine.execLd f s
  | .lda scope f => Sys2Proof.Machine.execLda scope f s
  | .st f => Sys2Proof.Machine.execSt f s
  | .stl scope f => Sys2Proof.Machine.execStl scope f s
  | .atom op f => Sys2Proof.Machine.execAtom op f s
  | .cas c f => Sys2Proof.Machine.execCas c f s
  | .fence g order scope => Sys2Proof.Machine.execFence g order scope s
  | .monitor f off => Sys2Proof.Machine.execMonitor f off s
  | .mwait g d b => Sys2Proof.Machine.execMwait g d b s
  | .bsync op f => Sys2Proof.Machine.execBsync op f s
  | .send f => Sys2Proof.Machine.execSend f s
  | .waitc ch f => Sys2Proof.Machine.execWaitc ch f s
  | .tlrd ch ap f => Sys2Proof.Machine.execTlrd ch ap f s
  | .ringi f => Sys2Proof.Machine.execRingi f s
  | .awaitf n f => Sys2Proof.Machine.execAwaitf n f s
  | .rels g n => Sys2Proof.Machine.execRels g n s
  | .mput g d a b => Sys2Proof.Machine.execMput g d a b s
  | .mtake f => Sys2Proof.Machine.execMtake f s
  | .mstat f => Sys2Proof.Machine.execMstat f s
  | .mctl f => Sys2Proof.Machine.execMctl f s
  | .tagset f space off n => Sys2Proof.Machine.execTagset f space off n s
  | .tagget f space off => Sys2Proof.Machine.execTagget f space off s
  | .ptrtag f => Sys2Proof.Machine.execPtrtag f s
  | .cflush f space off inv => Sys2Proof.Machine.execCflush f space off inv s
  | .jmp f => Sys2Proof.Machine.execJmp f s
  | .jmpr f => Sys2Proof.Machine.execJmpr f s
  | .call f => Sys2Proof.Machine.execCall f s
  | .ret f => Sys2Proof.Machine.execRet f s
  | .exit g => Sys2Proof.Machine.execExit g s
  | .abort f => Sys2Proof.Machine.execAbort f s
  | .nop f => Sys2Proof.Machine.execNop f s
  | .tstep d wbs b mask => Sys2Proof.Machine.execTstep d wbs b mask s
  | .trap f => Sys2Proof.Machine.execTrap f s
  | .svc f => Sys2Proof.Machine.execSvc f s
  | .eret g skip => Sys2Proof.Machine.execEret g skip s
  | .bkpt f => Sys2Proof.Machine.execBkpt f s
  | .sread f num => Sys2Proof.Machine.execSread f num s
  | .swrite f num => Sys2Proof.Machine.execSwrite f num s
  | .tlbi f n => Sys2Proof.Machine.execTlbi f n s
  | .vabs f => Sys2Proof.Machine.execVabs f s
  | .vadd f => Sys2Proof.Machine.execVadd f s
  | .vand f => Sys2Proof.Machine.execVand f s
  | .vbcast g d a mask fmt => Sys2Proof.Machine.execVbcast g d a mask fmt s
  | .vcmp c f => Sys2Proof.Machine.execVcmp c f s
  | .vcvt part fmt2 f => Sys2Proof.Machine.execVcvt part fmt2 f s
  | .vexp2 f => Sys2Proof.Machine.execVexp2 f s
  | .vfma f => Sys2Proof.Machine.execVfma f s
  | .vgath g d a b mask fmt => Sys2Proof.Machine.execVgath g d a b mask fmt s
  | .vld g d a off mask fmt => Sys2Proof.Machine.execVld g d a off mask fmt s
  | .vlog2 f => Sys2Proof.Machine.execVlog2 f s
  | .vmax sgn f => Sys2Proof.Machine.execVmax sgn f s
  | .vmin sgn f => Sys2Proof.Machine.execVmin sgn f s
  | .vmov f => Sys2Proof.Machine.execVmov f s
  | .vmul f => Sys2Proof.Machine.execVmul f s
  | .vneg f => Sys2Proof.Machine.execVneg f s
  | .vor f => Sys2Proof.Machine.execVor f s
  | .vperm f => Sys2Proof.Machine.execVperm f s
  | .vrcp f => Sys2Proof.Machine.execVrcp f s
  | .vred op sgn g d a mask fmt rnd => Sys2Proof.Machine.execVred op sgn g d a mask fmt rnd s
  | .vrsq f => Sys2Proof.Machine.execVrsq f s
  | .vscale f => Sys2Proof.Machine.execVscale f s
  | .vscat g a b c mask fmt => Sys2Proof.Machine.execVscat g a b c mask fmt s
  | .vsel f => Sys2Proof.Machine.execVsel f s
  | .vshl f => Sys2Proof.Machine.execVshl f s
  | .vshr arith f => Sys2Proof.Machine.execVshr arith f s
  | .vst g a b off mask fmt => Sys2Proof.Machine.execVst g a b off mask fmt s
  | .vsub f => Sys2Proof.Machine.execVsub f s
  | .vxor f => Sys2Proof.Machine.execVxor f s
  | .view g v a kind fmt => Sys2Proof.Machine.execView g v a kind fmt s
  | .ttrn g d wbs a fmt => Sys2Proof.Machine.execTtrn g d wbs a fmt s
  | .copy f => Sys2Proof.Machine.execCopy f s
  | .wbld f len => Sys2Proof.Machine.execWbld f len s
  | .mma f => Sys2Proof.Machine.execMma f s
  | .aclr g a n => Sys2Proof.Machine.execAclr g a n s
  | .adrain g d a fmt rnd => Sys2Proof.Machine.execAdrain g d a fmt rnd s
  | .salloc g d wbs units bk z => Sys2Proof.Machine.execSalloc g d wbs units bk z s
  | .sfree f => Sys2Proof.Machine.execSfree f s
  | .wind f => Sys2Proof.Machine.execWind f s
  | .life g d wbs a => Sys2Proof.Machine.execLife g d wbs a s
  | .smap f len => Sys2Proof.Machine.execSmap f len s
  | .sunmap f => Sys2Proof.Machine.execSunmap f s
  | .lock f => Sys2Proof.Machine.execLock f s
  | .unlock f => Sys2Proof.Machine.execUnlock f s
  | .emulationTrap rest => Sys2Proof.Machine.execEmulationTrap rest s
  | .resultLanding => Sys2Proof.Machine.execResultLanding s
  | .externalResultArrival => Sys2Proof.Machine.execExternalResultArrival s
  | .contextUnblock c => Sys2Proof.Machine.execContextUnblock c s
  | .sectionHeaderCheck c => Sys2Proof.Machine.execSectionHeaderCheck c s
  | .stringWaitSatisfied c => Sys2Proof.Machine.execStringWaitSatisfied c s
  | .sectionRetire c => Sys2Proof.Machine.execSectionRetire c s
  | .stallWatchdog c => Sys2Proof.Machine.execStallWatchdog c s
  | .preciseFaultRebuild => Sys2Proof.Machine.execPreciseFaultRebuild s
  | .mergedReplay => Sys2Proof.Machine.execMergedReplay s
  | .handlerEntry => Sys2Proof.Machine.execHandlerEntry s
  | .earlyEngineFault ch => Sys2Proof.Machine.execEarlyEngineFault ch s
  | .inPlaceTrap c => Sys2Proof.Machine.execInPlaceTrap c s
  | .hazardStop c hz => Sys2Proof.Machine.execHazardStop c hz s
  | .debugLogicalStop c => Sys2Proof.Machine.execDebugLogicalStop c s
  | .watchpointStop c => Sys2Proof.Machine.execWatchpointStop c s
  | .logpoint l => Sys2Proof.Machine.execLogpoint l s
  | .engineEntryBegin ch num => Sys2Proof.Machine.execEngineEntryBegin ch num s
  | .copyChunk ch num k => Sys2Proof.Machine.execCopyChunk ch num k s
  | .engineEntryCompletion ch num => Sys2Proof.Machine.execEngineEntryCompletion ch num s
  | .wbldChunk num k => Sys2Proof.Machine.execWbldChunk num k s
  | .mmaPass num => Sys2Proof.Machine.execMmaPass num s
  | .aclrExecute num => Sys2Proof.Machine.execAclrExecute num s
  | .adrainExecute num => Sys2Proof.Machine.execAdrainExecute num s
  | .sendPayload num => Sys2Proof.Machine.execSendPayload num s
  | .sendFlagAdd num => Sys2Proof.Machine.execSendFlagAdd num s
  | .sendCompletion num => Sys2Proof.Machine.execSendCompletion num s
  | .translationMissWalk va => Sys2Proof.Machine.execTranslationMissWalk va s
  | .chainExtension ch seg => Sys2Proof.Machine.execChainExtension ch seg s
  | .copyOnWriteFirstWrite va frame => Sys2Proof.Machine.execCopyOnWriteFirstWrite va frame s
  | .fadeTick => Sys2Proof.Machine.execFadeTick s
  | .allocationExpiry id => Sys2Proof.Machine.execAllocationExpiry id s
  | .zeroPendingClear id row => Sys2Proof.Machine.execZeroPendingClear id row s
  | .stashLineFill id line own => Sys2Proof.Machine.execStashLineFill id line own s
  | .stashDirtyWriteback id line => Sys2Proof.Machine.execStashDirtyWriteback id line s
  | .stashRowWind id row => Sys2Proof.Machine.execStashRowWind id row s
  | .stashCleanExpiry id line => Sys2Proof.Machine.execStashCleanExpiry id line s
  | .stashHomeInvalidate id line => Sys2Proof.Machine.execStashHomeInvalidate id line s
  | .stashHomeRecall id line => Sys2Proof.Machine.execStashHomeRecall id line s
  | .stashWritebackAck id line => Sys2Proof.Machine.execStashWritebackAck id line s
  | .notifyWrite off size value => Sys2Proof.Machine.execNotifyWrite off size value s
  | .queueSlotGrant q => Sys2Proof.Machine.execQueueSlotGrant q s
  | .queueIdleEviction q => Sys2Proof.Machine.execQueueIdleEviction q s
  | .queuePriorityEviction q => Sys2Proof.Machine.execQueuePriorityEviction q s
  | .queueStarvationTakeover q => Sys2Proof.Machine.execQueueStarvationTakeover q s
  | .launch q => Sys2Proof.Machine.execLaunch q s
  | .graph q => Sys2Proof.Machine.execGraph q s
  | .wait q => Sys2Proof.Machine.execWait q s
  | .waitConditionMet q => Sys2Proof.Machine.execWaitConditionMet q s
  | .signal q => Sys2Proof.Machine.execSignal q s
  | .barrier q => Sys2Proof.Machine.execBarrier q s
  | .packetCompletion q idx => Sys2Proof.Machine.execPacketCompletion q idx s
  | .nodeReady n => Sys2Proof.Machine.execNodeReady n s
  | .nodeDispatch n cores => Sys2Proof.Machine.execNodeDispatch n cores s
  | .readyPoolAging => Sys2Proof.Machine.execReadyPoolAging s
  | .headNodeHold => Sys2Proof.Machine.execHeadNodeHold s
  | .nodeCompletion n => Sys2Proof.Machine.execNodeCompletion n s
  | .tenantInstant start => Sys2Proof.Machine.execTenantInstant start s
  | .stepBudgetExpiry core => Sys2Proof.Machine.execStepBudgetExpiry core s
  | .nodeBoundaryStop core => Sys2Proof.Machine.execNodeBoundaryStop core s
  | .allocationSave core => Sys2Proof.Machine.execAllocationSave core s
  | .taskRestore task cores => Sys2Proof.Machine.execTaskRestore task cores s
  | .parkSweeperWind core id => Sys2Proof.Machine.execParkSweeperWind core id s
  | .parkedEviction core a => Sys2Proof.Machine.execParkedEviction core a s
  | .pipelineErrorRollback unit => Sys2Proof.Machine.execPipelineErrorRollback unit s
  | .dieFailure die => Sys2Proof.Machine.execDieFailure die s
  | .poolPutInsertion req => Sys2Proof.Machine.execPoolPutInsertion req s
  | .queuedPutInsertion pool shard => Sys2Proof.Machine.execQueuedPutInsertion pool shard s
  | .loweringNoticeArrival pool src dst => Sys2Proof.Machine.execLoweringNoticeArrival pool src dst s
  | .loweringNoticeAcknowledged pool shard => Sys2Proof.Machine.execLoweringNoticeAcknowledged pool shard s
  | .poolTakeArrival req => Sys2Proof.Machine.execPoolTakeArrival req s
  | .synchronousTake req => Sys2Proof.Machine.execSynchronousTake req s
  | .poolSummary pool shard => Sys2Proof.Machine.execPoolSummary pool shard s
  | .rollingMove pool src dst => Sys2Proof.Machine.execRollingMove pool src dst s
  | .pollRound req => Sys2Proof.Machine.execPollRound req s
  | .mctlCompletion req => Sys2Proof.Machine.execMctlCompletion req s
  | .svcRepairQueue => Sys2Proof.Machine.execSvcRepairQueue s
  | .svcCreatePool => Sys2Proof.Machine.execSvcCreatePool s
  | .svcDestroyPool => Sys2Proof.Machine.execSvcDestroyPool s
  | .svcLaunchRecord => Sys2Proof.Machine.execSvcLaunchRecord s
  | .svcAttestation => Sys2Proof.Machine.execSvcAttestation s
  | .perfRedRead => Sys2Proof.Machine.execPerfRedRead s
  | .perfSelWrite v => Sys2Proof.Machine.execPerfSelWrite v s
  | .fflagsWrite v => Sys2Proof.Machine.execFflagsWrite v s
  | .roundSeedWrite v => Sys2Proof.Machine.execRoundSeedWrite v s
  | .dutyRegisterWrite v => Sys2Proof.Machine.execDutyRegisterWrite v s
  | .counterSample => Sys2Proof.Machine.execCounterSample s
  | .traceGapRecord => Sys2Proof.Machine.execTraceGapRecord s
  | .coreDump => Sys2Proof.Machine.execCoreDump s
  | .replayDivergence => Sys2Proof.Machine.execReplayDivergence s
  | .powerUp r => Sys2Proof.Machine.execPowerUp r s
  | .ptpLockTimeout => Sys2Proof.Machine.execPtpLockTimeout s
  | .ptpLockChange locked => Sys2Proof.Machine.execPtpLockChange locked s
  | .pcieTraining rate width => Sys2Proof.Machine.execPcieTraining rate width s
  | .kernelImageLoad desc root l => Sys2Proof.Machine.execKernelImageLoad desc root l s
  | .clockThrottling die => Sys2Proof.Machine.execClockThrottling die s
  | .clockThrottlingEnd die => Sys2Proof.Machine.execClockThrottlingEnd die s
  | .remoteSendArrival r => Sys2Proof.Machine.execRemoteSendArrival r s
  | .hostWrite pa data => Sys2Proof.Machine.execHostWrite pa data s
  | .packetError q => Sys2Proof.Machine.execPacketError q s
  | .stopRequest core prio incoming => Sys2Proof.Machine.execStopRequest core prio incoming s
  | .debuggerResume => Sys2Proof.Machine.execDebuggerResume s
  | .poisonMapUpdate frame poisoned => Sys2Proof.Machine.execPoisonMapUpdate frame poisoned s
  | .linkRetraining link => Sys2Proof.Machine.execLinkRetraining link s

end Sys2Proof.Machine
end

