-- ==== Sys2Proof/Machine/Hazard.lean ====
section
/-! DEFINITION. The hazard detector (03 R69): what a word reads, the scratch rows it touches, and the hazard that stops it. -/

namespace Sys2Proof.Machine

/-! ### What a word reads -/

/-- A source of a word: a scalar register, a latch, an element of the register space, bytes from an element on. -/
inductive Use where
  | reg (n : BitVec 5)
  | latch (n : BitVec 4)
  | el (e : VEl)
  | span (e : VEl) (n : Nat)
  deriving DecidableEq, Repr

def useS : Src → List Use
  | .reg n => [.reg n]
  | .latch n => [.latch n]

def useV : VSrc → List Use
  | .el e => [.el e]
  | .latch n => [.latch n]

def useG (g : Guard) : List Use := [.reg g.reg]
def useRR (f : AluRR) : List Use := useG f.g ++ useS f.a ++ useS f.b
def useRI (f : AluRI) : List Use := useG f.g ++ useS f.a
def useDA (f : OpDA) : List Use := useG f.g ++ useS f.a
def useA (f : OpA) : List Use := useG f.g ++ useS f.a
def useAB (f : OpAB) : List Use := useG f.g ++ useS f.a ++ useS f.b
def use3 (f : OpSrc3) : List Use := useG f.g ++ useS f.a ++ useS f.b ++ [.reg f.d]
def useF (f : FOp) : List Use := useG f.g ++ useS f.a ++ useS f.b
def useAt (f : AtomOpF) : List Use := useG f.g ++ useS f.a ++ useS f.b
def useV1 (f : VOp1) : List Use := useG f.g ++ [.reg f.mask] ++ useV f.a
def useV2 (f : VOp2) : List Use := useG f.g ++ [.reg f.mask] ++ useV f.a ++ useV f.b
def useV3 (f : VOp3) : List Use := useG f.g ++ [.reg f.mask] ++ useV f.a ++ useV f.b ++ useV f.c

/-- The sources of a word, guard and mask among them; an event has none. -/
def uses : Instr → List Use
  | .add f | .sub f | .mul f | .mulh _ f | .div _ f | .rem _ f | .and f | .andn f | .or f | .xor f | .shl f | .shr _ f
  | .rot f | .bext f | .cmp _ f | .min _ f | .max _ f | .ringi f | .mctl f | .ptrtag f | .lock f => useRR f
  | .bins f | .sel f => useRR f ++ [.reg f.d.reg]
  | .addImmediate f | .subImmediate f | .mulImmediate f | .mulhImmediate _ f | .divImmediate _ f | .remImmediate _ f
  | .andImmediate f | .andnImmediate f | .orImmediate f | .xorImmediate f | .shlImmediate f | .shrImmediate _ f
  | .rotImmediate f | .bextImmediate f | .cmpImmediate _ f | .minImmediate _ f | .maxImmediate _ f => useRI f
  | .binsImmediate f => useRI f ++ [.reg f.d.reg]
  | .clz f | .popc f | .bsync _ f | .mtake f | .mstat f | .tagget f _ _ => useDA f
  | .ldi f | .call f => useG f.g
  | .addpc f => useG f.g
  | .fadd f | .fmul f | .fcmp _ f => useF f
  | .ffma c f => useF f ++ [.reg c]
  | .fcvt f => useG f.g ++ useS f.a
  | .ld f | .lda _ f => useG f.g ++ useS f.a
  | .st f | .stl _ f => useG f.g ++ useS f.a ++ useS f.b
  | .atom _ f => useAt f
  | .cas c f => useAt f ++ [.reg c]
  | .fence g _ _ | .rels g _ | .exit g | .eret g _ => useG g
  | .monitor f _ | .waitc _ f | .cflush f _ _ _ | .jmpr f | .ret f | .swrite f _ | .sfree f | .sunmap f => useA f
  | .mwait g _ b => useG g ++ useS b
  | .send f | .copy f => use3 f
  | .tlrd _ _ f | .awaitf _ f | .sread f _ => useG f.g
  | .mput g _ a b => useG g ++ useS a ++ [.reg b, .reg (b + 1)]
  | .tagset f _ _ _ | .tlbi f _ | .wbld f _ | .mma f | .wind f | .smap f _ | .unlock f => useAB f
  | .jmp f | .abort f | .nop f | .trap f | .svc f | .bkpt f => useG f.g
  | .tstep _ _ b _ => useS b
  | .vabs f | .vcvt _ _ f | .vexp2 f | .vlog2 f | .vmov f | .vneg f | .vrcp f | .vrsq f => useV1 f
  | .vadd f | .vand f | .vcmp _ f | .vmax _ f | .vmin _ f | .vmul f | .vor f | .vperm f | .vscale f | .vshl f | .vshr _ f
  | .vsub f | .vxor f => useV2 f
  | .vfma f | .vsel f => useV3 f
  | .vbcast g _ a m _ | .vld g _ a _ m _ => useG g ++ [.reg m] ++ useS a
  | .vgath g _ a b m _ => useG g ++ [.reg m] ++ useS a ++ useV b
  | .vred _ _ g _ a m _ _ => useG g ++ [.reg m] ++ useV a
  | .vscat g a b c m _ => useG g ++ [.reg m] ++ useS a ++ useV b ++ useV c
  | .vst g a b _ m _ => useG g ++ [.reg m] ++ useS a ++ useV b
  | .view g _ a _ _ => useG g ++ useS a
  | .ttrn g _ _ a fmt => useG g ++ [.span a (2048 * fmt.bits)]
  | .aclr g _ _ | .salloc g _ _ _ _ _ => useG g
  | .adrain g _ a _ _ => useG g ++ [.el a]
  | .life g _ _ a => useG g ++ useS a
  | _ => []

/-! ### Scratch rows -/

/-- Distinct 256-byte rows of an allocation that bytes from a pointer touch. -/
def rowsAt (k : Core) (p : Word) (n : Nat) : List (Nat × Nat) :=
  let wrapTo (o : Nat) : Nat := match k.alloc (ptrId p) with
    | some a => if a.backed && a.size != 0 then o % a.size else o
    | none => o
  (List.range ((ptrOff p + n + 255) / 256 - ptrOff p / 256)).map (fun i => ((ptrId p).toNat, wrapTo (256 * (ptrOff p / 256 + i)) / 256))

/-- Rows of the enabled lanes of a vector word. -/
def laneRows (s : State) (mask : BitVec 5) (fmt : Fmt) (base : Word) (off : Nat → Nat) : List (Nat × Nat) :=
  ((laneList fmt).filter (enabled s mask fmt)).flatMap (fun j =>
    rowsAt s.core (base + w64 (off j)) (laneBytes fmt))

/-- Rows of scratch a word touches (03 R64); the guard of the word holds. -/
def scratchRows (s : State) (i : Instr) : List (Nat × Nat) :=
  let m (sp : Space) (a : Src) (off : BitVec 12) (n : Nat) : List (Nat × Nat) :=
    if sp = .scratch then rowsAt s.core (s.src a + off.signExtend 64) n else []
  (match i with
    | .ld f | .lda _ f => if s.here.guard f.g then m f.space f.a f.off (sizeBytes f.size) else []
    | .st f | .stl _ f => if s.here.guard f.g then m f.space f.a f.off (sizeBytes f.size) else []
    | .atom _ f | .cas _ f => if s.here.guard f.g then m f.space f.a f.off (sizeBytes f.size) else []
    | .vld g _ a off mask fmt | .vst g a _ off mask fmt =>
      if s.here.guard g then laneRows s mask fmt (s.src a) (fun j => 256 * off.toNat + j * laneBytes fmt) else []
    | .vgath g _ a b mask fmt => if s.here.guard g then laneRows s mask fmt (s.src a) (lane fmt (s.vsrc b)) else []
    | .vscat g a b _ mask fmt => if s.here.guard g then laneRows s mask fmt (s.src a) (lane fmt (s.vsrc b)) else []
    | _ => []).eraseDups

/-- The bank of each row: bits 12:8 of its offset (01 R12, 07 R140). -/
def scratchBanks (s : State) (i : Instr) : List Nat := (scratchRows s i).map (fun r => r.2 % 32)

/-! ### The hazards -/

/-- The word at issue would block: it waits, or it drains first, and lands nothing until it has (03 R65). -/
def trialBlocks (s : State) (i : Instr) : Bool :=
  match exec i { s with agenda := [] } with
  | .next t => t.here.wait.isSome
  | _ => false

/-- The core as the word at issue would leave it, tried with none in flight; none for a word that would block. -/
def trial (s : State) (i : Instr) : Option Core :=
  if trialBlocks s i then none
  else
    match exec i { s with core := { s.core with flights := [] }, agenda := [] } with
    | .next t => some t.core
    | _ => none

def putReg : Put → Option (Ctx × BitVec 5)
  | .reg c n _ => some (c, n)
  | _ => none

def putBytes : Put → Option (Nat × Nat)
  | .bytes a bs _ => some (a, a + bs.length)
  | _ => none

/-- HZ 2: two results in one cycle on one scalar register, or on register-space bytes of two contexts. -/
def collide (f g : Flight) : Bool :=
  f.landAt == g.landAt && (
    (f.puts.filterMap putReg).any (fun r => r.2 != 0 && (g.puts.filterMap putReg).contains r)
    || (f.ctx != g.ctx && (f.puts.filterMap putBytes).any (fun x => (g.puts.filterMap putBytes).any (fun y =>
        decide (x.1 < y.2) && decide (y.1 < x.2)))))

/-- A source has a result of this context, or of any for register space, in flight. -/
def pending (s : State) (u : Use) : Bool :=
  match u with
  | .reg n => n != 0 && s.core.flights.any (fun f => (f.puts.filterMap putReg).contains (s.core.cur, n))
  | .latch n => s.core.flights.any (fun f => f.ctx == s.core.cur && f.lt == n)
  | .el e => s.core.flights.any (fun f => (f.puts.filterMap putBytes).any (fun y =>
      decide (s.elBase e < y.2) && decide (y.1 < s.elBase e + elSize (s.elKind e))))
  | .span e n => s.core.flights.any (fun f => (f.puts.filterMap putBytes).any (fun y =>
      decide (s.elBase e < y.2) && decide (y.1 < s.elBase e + n)))

/-- A lost latch among the sources. -/
def lostLatch (s : State) (u : Use) : Bool :=
  match u with
  | .latch n => (s.here.latch[n.toNat]'n.isLt).isNone
  | _ => false

/-- The guard of a word, from its encoding. -/
def guardOf (i : Instr) : Guard := ((encode i).map (fun w => (Raw.unpack w).guard)).getD ⟨false, 0, 0⟩

/-- What the word at issue reads: its guard's register only, where it is guarded off (03 R59). -/
def reads (s : State) (i : Instr) : List Use := if s.here.guard (guardOf i) then uses i else useG (guardOf i)

/-- HZ 3: the accesses of the word would overcommit a bank. -/
def crowds (s : State) (i : Instr) : Bool :=
  let banks := scratchBanks s i
  banks.any (fun b => decide (2 < ((s.core.banks.map (·.2) ++ banks).filter (· == b)).length))

/-- The kind of hazard that stops the word at issue, if any (03 R69): of several the lowest, which R69 leaves open (DESIGN CHOICE, log
90). With interlocks a word meets none of kinds 2, 4 and 5 (DEDUCED, log 61). The words of an in-place handler are not checked: a stop
inside it has nowhere to return to (DESIGN CHOICE, log 97). -/
def hazard (s : State) (i : Instr) : Option (BitVec 4) :=
  if !s.here.dbg || s.core.hub || s.core.task.isNone || s.here.trap.isSome then none
  else if (reads s i).any (lostLatch s) then some 1
  else if s.core.interlocked then (if crowds s i then some 3 else none)
  else
    let new := trial s i
    let full := new.any (fun k => k.inFlight s.core.cur != 0 && decide (Config.inFlightMax < s.core.inFlight s.core.cur + k.inFlight s.core.cur))
    if new.any (fun k => k.flights.any (fun f => s.core.flights.any (collide f))) then some 2
    else if crowds s i then some 3
    else if full then some 4
    else if s.here.strict && (reads s i).any (pending s) then some 5
    else none

end Sys2Proof.Machine
end

