-- ==== Sys2Proof/Machine/Turn.lean ====
section
/-! DEFINITION. Who moves next (DESIGN CHOICE, log 3). The agenda comes first: it is plain data and may order the agents of the module in any
way. With an empty agenda the core in focus runs its cycle: what it must do before a word issues, its issue slots in the order
of 03 R50, one thing that goes on beside it, and the end of the cycle. -/

namespace Sys2Proof.Machine

/-- What the next step is. -/
inductive Turn where
  /-- A row of the table, on a state that has only chosen it. -/
  | row (i : Instr) (s : State)
  /-- There is no word at the program counter: a fault of the word at issue. -/
  | fault (f : Flt) (s : State)
  /-- No row: another core comes into focus, or a rollback has caught up. -/
  | idle (s : State)
  deriving DecidableEq, Repr

/-! ### What comes before the next word -/

/-- Contexts issue: the phase lets them, and no save is under way. -/
def Core.issuing (k : Core) : Bool :=
  k.stop.all (fun r => !r.saving) && (match k.phase with
    | .run | .handler _ | .retry _ | .replay _ => true
    | _ => false)

/-- The next event of a fault, a replay or an ending task. -/
def phaseRow (k : Core) : Option Instr :=
  match k.phase with
  | .pend p =>
    if p.early then some (.earlyEngineFault ((p.eng.map (·.1)).getD .tci))
    else if k.busy || k.awaits then none
    else some .preciseFaultRebuild
  | .rebuilt _ => some .mergedReplay
  | .replay p =>
    if k.atTarget p then (match p.why with
      | .fault => some .handlerEntry
      | .stop _ => some (.debugLogicalStop .C)
      | _ => none)
    else none
  | .ending _ (_ :: _) => some .coreDump
  | _ => none

/-- A rollback, or a mid-step stop that resumes, has replayed up to where it was. -/
def caughtUp (k : Core) : Bool :=
  match k.phase with
  | .replay p => k.atTarget p && (match p.why with
    | .rollback | .save => true
    | _ => false)
  | _ => false

/-- Events of one context: headers, strings, retirement, the watchdog, unblocking. -/
def ctxRow (s : State) (c : Ctx) : Option Instr :=
  let k := s.core
  let x := k.ctx c
  let late (t : Nat) : Bool := decide (s.m.stallTimeout < s.m.now - t)
  let here : State := { s with core := { k with cur := c } }
  if k.running && x.hdr && x.strings.isEmpty && !x.ended && x.trap.isNone then some (.sectionHeaderCheck c)
  else if k.running && x.hdr && !x.strings.isEmpty && k.drained c && x.strings.all k.satisfied then some (.stringWaitSatisfied c)
  else if k.running && k.canRetire c then some (.sectionRetire c)
  else if k.running && x.hdr && x.strings.any (fun w => !k.satisfied w) && late x.stringSince then some (.stallWatchdog c)
  else if k.lates.any (fun l => l.ctx == c && k.lateReady l) then some (.contextUnblock c)
  else
    match x.wait with
    | none => none
    | some (i, since) =>
      if !x.woken && (here.core.interlocked || k.drained c) && ready here i then some (.contextUnblock c)
      else match i with
        | .waitc _ _ | .awaitf _ _ | .rels _ _ | .svc _ => if late since then some (.stallWatchdog c) else none
        | _ => none

/-- The service that runs for a waiting SVC. -/
def svcRow (k : Core) : Option Instr :=
  match k.svc with
  | some (n, none) =>
    if n = 0x21 then some .svcRepairQueue
    else if n = 0x30 then some .svcCreatePool
    else if n = 0x31 then some .svcDestroyPool
    else if n = 0x40 then some .svcLaunchRecord
    else if n = 0x50 then some .svcAttestation
    else none
  | _ => none

/-- The page of a new chain segment, or none where there is no memory for one (08 R153, 15 R240; DESIGN CHOICE, log 4). -/
def segAt (n : Nat) : Option (BitVec 48) :=
  let w := Config.freeWord n
  if w.getLsbD 63 then none else some (w.extractLsb' 0 48 &&& 0xFFFFFFFFF000)

/-- A chain whose full segment a context waits on. -/
def fullChain (k : Core) : Option ChainId :=
  chainIds.find? (fun ch => decide (31 ≤ (k.chain ch).slot) &&
    ((k.ctx (chainOwner k ch)).wait.isSome || k.lates.any (fun l => l.ctx == chainOwner k ch && l.arrived)))

/-- A stop request that takes effect without the task: at a node boundary, or when the step budget is over, after the words of the
cycle, since a TSTEP of that cycle prevails (12 R217). -/
def stopRow (s : State) : Option Instr :=
  let k := s.core
  match k.stop with
  | none => none
  | some r =>
    let budget := ((k.task.bind (fun t => s.m.tenant t.tenant)).map (·.budget)).getD Config.ticks100us
    let busy := match k.phase with
      | .pend _ | .rebuilt _ | .ending _ _ => true
      | _ => false
    let ended := match k.slot with
      | .landing | .hold => true
      | _ => false
    if r.saving then none
    else if (k.task.isSome && k.notStarted) || (k.task.isNone && k.lastTask.isSome) then some (.nodeBoundaryStop k.num)
    else if k.task.isSome && k.merged && !busy && ended && decide (r.since + budget ≤ s.m.now) then some (.stepBudgetExpiry k.num)
    else none

/-- A result that has come from outside the core. When data come over the links is left open (DESIGN CHOICE, log 4). -/
def arrivalRow (s : State) : Option Instr :=
  if s.m.reqs.any (fun r => r.core == s.core.num && r.answer.isSome) then some .externalResultArrival
  else if (s.core.flights.any (fun f => f.ext && !f.arrived) || s.core.lates.any (fun l => !l.arrived)) && Config.linkArrives s.core.num s.m.wall then some .externalResultArrival
  else none

def sampleRow (s : State) : Option Instr :=
  if !s.core.perf.sample.isEmpty then some .counterSample
  else if s.core.traces && s.gapDue && s.traceMapped then some .traceGapRecord
  else none

/-- What must happen on the core in focus before its next word. -/
def urgent (s : State) : Option (Instr × State) :=
  let k := s.core
  let ctx (c : Ctx) : Option Instr := if k.issuing then ctxRow s c else none
  let row := (s.m.nextInstant.map Instr.tenantInstant).or <| (sampleRow s).or ((phaseRow k).or ((arrivalRow s).or ((svcRow k).or ((stopRow s).or
    ((ctx .L).or ((ctx .C).or (ctx .S)))))))
  match row with
  | some i => some (i, s)
  | none => (fullChain k).map (fun ch => (.chainExtension ch (segAt s.m.free), s.modM (fun m => { m with free := m.free + 1 })))

/-! ### Issue (03 R50 to R52) -/

/-- A context issues nothing: with interlocks while something is to come from outside; in an in-place handler while a result of its own
is in flight (03 R66); in a slice while a ring or a segment blocks a word whose template has come. -/
def Core.holds (k : Core) (c : Ctx) : Bool :=
  if k.merged then k.flights.any (fun f => f.ctx == c && !f.arrived) || k.lates.any (fun l => l.ctx == c && !l.arrived)
  else if (k.ctx c).trap.isSome then k.flights.any (fun f => f.ctx == c && f.late.isNone)
  else k.lates.any (fun l => l.ctx == c && l.arrived)

/-- May a context issue in this cycle? -/
def Core.canIssue (k : Core) (c : Ctx) : Bool :=
  let x := k.ctx c
  k.issuing && (if k.hub then k.inService else k.task.isSome) && decide (x.issueAt ≤ k.cyc) && (x.wait.isNone || x.woken)
    && (x.trap.isSome || k.merged || (!x.hdr && !x.ended))
    && !k.holds c

/-- CLS of a word (04 R71). -/
def cls (b : Bytes) : Nat := le b 0 12 / 2 ^ 93

/-- Classes V and E. -/
def isVE (b : Bytes) : Bool := cls b == 4 || cls b == 5

/-- Classes S, F, M, C, V and E: the ones that pair (03 R50). -/
def pairable (b : Bytes) : Bool := decide (cls b ≤ 5)

/-- Control transfers (03 R52). -/
def transfers : Instr → Bool
  | .jmp _ | .jmpr _ | .call _ | .ret _ | .eret _ _ => true
  | _ => false

/-- Past the last word of the plain image there is no word. (DEDUCED, log 23.) -/
def State.past (s : State) : Bool :=
  match s.place, s.core.task with
  | .plain, some t => decide (12 * t.img.pwords ≤ s.here.pc.toNat)
  | _, _ => false

/-- The slot after a word of C in its first slot. -/
def afterC1 (s : State) (i : Instr) (b : Bytes) : Slot :=
  if s.core.merged then .engine
  else if s.here.trap.isSome || transfers i || !pairable b then .s
  else .c2 (isVE b) (s.here.pc + 12)

/-- The translations of a fetch: a miss fills the cache and is counted (07 R137; 17 R259 event 6). -/
def State.walkFetch (s : State) : State :=
  let page (s : State) (va : Nat) : State := match translate s s.codeRoot va with
    | .ok (_, t) => t
    | .error _ => s
  page (page s s.fetchAddr) (s.fetchAddr + 11)

/-- A fetch that finds no translation: the first part of the word may have one, and the miss is counted. -/
def State.missFetch (s stop : State) : State :=
  stop.modCore (fun k => { (s.walkFetch.core.count 6 1) with slot := k.slot })

/-- The state a word issues on: its rows of scratch are counted, and the next slot is set. -/
def State.atIssue (s : State) (i : Instr) (after : Slot) : State :=
  s.walkFetch.modCore (fun k => { k with slot := after, banks := k.banks ++ (scratchBanks s i).map (fun b => (s.core.cur, b)), banksWas := k.banks })

/-- In host-assisted mode a translation miss of the word at issue traps in place (04 R89; DEDUCED, log 94). -/
def State.missTraps (s : State) : Bool := s.m.duty.getLsbD 0 && s.core.trappable s.core.cur

/-- Translation misses of the word at issue are served before it issues, as events of their own: in host-assisted mode they trap in
place, and with a trace buffer they are traced, those of a hub core too (04 R89; 15 R240; 17 R258; DEDUCED, log 94). Else its own access
walks. -/
def State.servesFirst (s : State) : Bool :=
  s.missTraps || (s.core.traces && (s.core.hub || s.core.trappable s.core.cur))

/-- The pages whose translations the fetch of the word at issue misses. -/
def State.fetchMisses (s : State) : List Nat := if s.servesFirst then s.walkedTo s.walkFetch else []

/-- The pages whose translations its accesses miss. -/
def State.misses (s : State) (i : Instr) : List Nat :=
  if !s.servesFirst then []
  else match exec i { s with agenda := [] } with
    | .next t => s.walkedTo t
    | _ => []

/-- The service of missed pages: the trap in host-assisted mode, then the walks; then the word comes to issue again. -/
def State.serve (s : State) (pages : List Nat) : Turn :=
  let walks := pages.map (fun p => Instr.translationMissWalk (w64 (4096 * p)))
  match (if s.missTraps then [Instr.inPlaceTrap s.core.cur] else []) ++ walks with
  | i :: r => .row i { s with agenda := r.map Act.row ++ s.agenda }
  | [] => .idle s

/-- The word at issue in s: it runs, or a hazard or a fault stops it, which `stop` goes on from. `after` is the slot that
follows. -/
def issueAt (s stop : State) (after : Instr → Bytes → Slot) : Turn :=
  if s.past then .fault fltIllegal stop
  else if !s.fetchMisses.isEmpty then s.serve s.fetchMisses
  else
    match s.fetch with
    | none => .fault (fltAddr (w64 s.fetchAddr) 3) (s.missFetch stop)
    | some b =>
      match decode b with
      | .error _ => .fault { fltIllegal with aux := pad b 16 } stop
      | .ok (i, _) =>
        match hazard s i with
        | some h => .row (.hazardStop s.core.cur h) stop
        | none => if (s.misses i).isEmpty then .row i (s.atIssue i (after i b)) else s.serve (s.misses i)

/-- Context c comes to issue. -/
def State.onCtx (s : State) (c : Ctx) : State := { s with core := { s.core with cur := c } }

/-- The word of a context comes to issue. -/
def issue (s : State) (c : Ctx) (after : State → Instr → Bytes → Slot) (bad : Slot) : Turn :=
  issueAt (s.onCtx c) ((s.onCtx c).modCore (fun k => { k with slot := bad })) (after (s.onCtx c))

/-- C's second slot: the next word of the section, where one of the two is of class S, F, M or C and the other of V or E. -/
def pairs (s : State) (ve : Bool) (pc : Word) : Bool :=
  let t : State := { s with core := { s.core with cur := .C } }
  !s.core.merged && s.core.canIssue .C && s.core.c.pc == pc && !s.core.c.hdr && s.core.c.trap.isNone && (match t.fetch with
    | some b => pairable b && isVE b != ve
    | none => false)

/-- The next word to issue from a slot on. -/
def issueFrom (s : State) : Slot → Option Turn
  | .l => if !s.core.merged && s.core.canIssue .L then some (issue s .L (fun _ _ _ => .c1) .c1) else fromC1
  | .c1 => fromC1
  | .c2 ve pc => if pairs s ve pc then some (issue s .C (fun _ _ _ => .s) .s) else fromS
  | .s => fromS
  | _ => none
where
  fromS : Option Turn :=
    if !s.core.merged && s.core.canIssue .S then some (issue s .S (fun _ _ _ => .engine) .engine) else none
  fromC1 : Option Turn :=
    if s.core.canIssue .C then some (issue s .C afterC1 (if s.core.merged then .engine else .s)) else fromS

/-! ### What goes on beside the contexts -/

/-- The next piece of work of a begun entry. -/
def workRow (ch : ChainId) (e : Entry) : Instr :=
  let missing := (List.range (entryWork e)).find? (fun k => !e.done.contains k)
  match e.kind, missing with
  | .copy, some k => .copyChunk ch e.num k
  | .wbld, some k => .wbldChunk e.num k
  | .mma, some _ => .mmaPass e.num
  | .aclr, some _ => .aclrExecute e.num
  | .adrain, some _ => .adrainExecute e.num
  | .send, _ =>
    if e.failed.isSome then .sendCompletion e.num
    else if e.done.isEmpty then .sendPayload e.num
    else if e.done == [1] && le e.body 8 8 != 0 then .sendFlagAdd e.num
    else .sendCompletion e.num
  | _, _ => .engineEntryCompletion ch e.num

def engineRows (k : Core) : List Instr :=
  chainIds.flatMap (fun ch =>
    let q := (k.chain ch).entries
    ((q.find? (fun e => !e.begun)).filter (mayBegin k ch)).toList.map (fun e => .engineEntryBegin ch e.num)
      ++ (q.filter (fun e => e.begun && k.working)).map (workRow ch))

/-- Allocations and lines of windows whose time has come. -/
def allocRows (k : Core) (now : Nat) : List Instr :=
  k.allocs.flatMap (fun a =>
    let line (l : Line) : List Instr :=
      match l.st with
      | .dirty => if l.expiry ≤ now + 160 then [.stashDirtyWriteback a.id l.num] else []
      | .writing | .rewritten => [.stashWritebackAck a.id l.num]
      | .clean => if l.expiry ≤ now then [.stashCleanExpiry a.id l.num] else []
    let winds := a.lines.filter (fun l => l.st != .clean && decide (l.expiry ≤ now + 16))
    (if a.parked.isSome then [.parkSweeperWind k.num a.id]
    else (if !a.backed && !a.expired && decide (a.expiry ≤ now) then [.allocationExpiry a.id] else [])
      ++ (if a.zero then ((List.range (a.size / 256)).find? (fun r => !a.cleared.contains r)).toList.map (.zeroPendingClear a.id) else []))
      ++ winds.map (fun l => .stashRowWind a.id (rowOf a l.num)) ++ a.lines.flatMap line)

/-- The next step of each pool request, and of each shard. -/
def poolRows (m : Module) : List Instr :=
  (m.reqs.filter (fun r => r.answer.isNone)).map (fun r => match r.ask with
    | .put _ _ => .poolPutInsertion r.num
    | .take _ => if r.poll.isSome then .pollRound r.num else if r.sync then .synchronousTake r.num else .poolTakeArrival r.num
    | _ => .mctlCompletion r.num)
  ++ m.pools.flatMap (fun p => p.shards.flatMap (fun x => match x.notice with
    | some n => match n.pending with
      | [] => [.loweringNoticeAcknowledged p.num x.die]
      | d :: _ => [.loweringNoticeArrival p.num x.die d]
    | none => []))
  ++ m.pools.flatMap (fun p => (p.shards.filter (fun x => x.queued.any (fun q => !q.2))).map (fun x => .queuedPutInsertion p.num x.die))
  ++ m.pools.flatMap (fun p =>
    let src := p.shards.find? (fun a => p.leastFence (p.published a) && !(p.movable a).isEmpty)
    let dst := p.shards.find? (fun b => p.greatestFence (p.published b) && b.notice.isNone && decide (b.elems.length < p.caps))
    match src, dst with
    | some a, some b => if Fence.below (p.published a) (p.published b) then [.rollingMove p.num a.die b.die] else []
    | _, _ => [])

/-- The packet reader's step on a queue. -/
def packetRow (s : State) (x : Queue) : List Instr :=
  if x.held.isSome then [.waitConditionMet x.num]
  else if x.st != .active || x.slot.isNone || x.ridx == x.widx then []
  else
    match nextPacket s x.num with
    | some (_, b) =>
      if !packetOk b then [.packetError x.num]
      else match le b 0 1 with
        | 1 => [.launch x.num]
        | 2 => [.graph x.num]
        | 3 => [.wait x.num]
        | 4 => [.signal x.num]
        | _ => [.barrier x.num]
    | none => [.packetError x.num]

/-- The queue mapper, the packet reader, the tracker and the ready pool. -/
def schedRows (s : State) : List Instr :=
  let m := s.m
  let grant := if m.slotted.length < Config.activeSlots then m.waitHead.toList.map (fun x => Instr.queueSlotGrant x.num)
    else (m.waitHead.toList.flatMap (fun w => (m.lowest.filter (fun x => decide (x.prio < w.effective m.now))).toList.map (fun x => Instr.queuePriorityEviction x.num)))
      ++ (m.queues.filter (fun w => m.mapperOn && w.starves m.now)).map (fun w => .queueStarvationTakeover w.num)
  let old := (m.queues.filter (fun x => x.slot.isSome && decide (x.notified + Config.ticks100us ≤ m.now))).map
    (fun x => Instr.queueIdleEviction x.num)
  let go := match m.ranked (fun n => n.fits s) with
    | none => []
    | some n =>
      let free := freeCores s n
      [.nodeDispatch n.id (free.take (n.wants s free.length))]
  let head := (if m.head.isSome || m.hold.isSome then [Instr.readyPoolAging] else [])
    ++ (if m.head.any (fun n => !n.fits s) then [.headNodeHold] else [])
  grant ++ old ++ m.queues.flatMap (packetRow s)
    ++ (m.nodes.filter (fun n => n.st == .pending)).map (fun n => .nodeReady n.id) ++ head ++ go
    ++ (m.nodes.filter (fun n => n.st == .running && n.members.all (fun x => x.ended.isSome))).map (fun n => .nodeCompletion n.id)
    ++ (m.packets.filter m.packetDone).map (fun p => .packetCompletion p.q p.idx)

/-- The next core in turn that has something to run. -/
def nextCore (s : State) : Option Nat :=
  let busy := (s.others.filter (fun p => p.2.task.isSome)).map (·.1)
  (busy.find? (fun n => decide (s.core.num < n))).or busy.head?

/-- Everything that may go on beside the contexts in this cycle. -/
def besideActs (s : State) : List Act :=
  let save := if s.core.stop.any (·.saving) && s.core.allEntries.isEmpty then [Instr.allocationSave s.core.num] else []
  ((engineRows s.core ++ save ++ allocRows s.core s.core.nowAt ++ poolRows s.m ++ schedRows s).map Act.row)
    ++ (nextCore s).toList.map Act.focus

/-- A SECDED error strikes a 64-bit word (15 R251): one bit is corrected and counted, two stay until the word is written whole. -/
def State.upset (s : State) (mem : Sram) (word : Nat) (two : Bool) : State :=
  let put (l : List Nat) : List Nat := if l.contains word then l else word :: l
  s.modCore (fun k =>
    if !two then { k with corrected := k.corrected + 1 }
    else match mem with
      | .scratch => { k with badScratch := put k.badScratch }
      | .regs => { k with badRegs := put k.badRegs }
      | .weights => { k with badWeights := put k.badWeights })

/-- One of the acts of a plan. -/
def State.act (s : State) : Act → Turn
  | .row i => .row i s
  | .focus n => .idle (s.focus n)
  | .upset mem word two => .idle (s.upset mem word two)
  | .makeQueue q => .idle (s.modM (fun m => { m with queues := makeQueues m.queues [q] }))
  | .dropQueue q => .idle (s.modM (fun m => m.dropQueue q))
  | .resetQueue q ridx => .idle (s.modM (fun m => m.modQueue q (fun x => x.reset ridx m.now)))

/-- One of them in turn, by the cycle; then the slot `next`. -/
def beside (s : State) (next : Slot) : Turn :=
  let acts := besideActs s
  let t : State := s.modCore (fun k => { k with slot := next })
  match acts[s.m.wall / s.core.period % acts.length]? with
  | some a => t.act a
  | none => .row .resultLanding t

/-- The turn of an issue slot, of the work beside the contexts, or of the end of the cycle. -/
def slotTurn (s : State) : Slot → Turn
  | .l => if s.core.frozen then beside s .hold else (issueFrom s .l).getD (beside s .landing)
  | .c1 => (issueFrom s .c1).getD (beside s .landing)
  | .c2 ve pc => (issueFrom s (.c2 ve pc)).getD (beside s .landing)
  | .s => (issueFrom s .s).getD (beside s .landing)
  | .engine => beside s .landing
  | .landing | .hold => .row .resultLanding s

/-- The turn. A halted module does nothing more (18 R269). -/
def turn (s : State) : Turn :=
  if s.m.halted then .idle s
  else match s.agenda with
  | a :: r => State.act { s with agenda := r } a
  | [] =>
    match urgent s with
    | some (i, t) => .row i t
    | none =>
      if caughtUp s.core then .idle (s.modCore (fun k => { k.endReplay with phase := .run }))
      else slotTurn s s.core.slot

/-! ### A word placed from outside (DESIGN CHOICE, log 40) -/

/-- The task that runs a placed word: merged execution of an image of 4,096 words at address 0. -/
def placedTask : Task :=
  { num := 0, root := 0, img := { pimg := 0, pwords := 4096, regbits := 0, l := noSlice, c := noSlice, s := noSlice }, kmerged := true,
    dbg := false, strict := false, record := false, replay := false, handler := Config.allOnes, emul := Config.allOnes, node := 0,
    member := 0, pool := false, tenant := 0, ndesc := 0, cmdp := 0, region := 0, lost := false, sight := Sight.new,
    seed := 0, seedBy := .C, recAddr := 0, saveArea := 0, journal := 0, jpos := 0, jdir := 0, recBuf := [], jused := [], jcap := 0,
    bsyncs := 0, spent := false }

/-- A cached translation of the page of a placed word. -/
def placedPage (root : Word) (vpage frame : Nat) : TlbEntry :=
  { root := root, vpage := vpage, frame := frame, w := false, tg := false, rc := false, cow := false, poison := false, leaf := 16,
    noFrame := false, start := frame }

/-- Load from outside: the 12 bytes of a word stand where C fetches next, in physical page 1, and nothing is pending that would
come before it. On a compute core a merged task runs them; a hub core fetches them at its pc. -/
def placeWord (s : State) (w : Nat) : State :=
  let hub := s.core.hub
  let pc : Word := if hub then s.core.c.pc else 0
  let root : Word := if hub then Config.hubRoot s.core.num else 0
  let page := pc.toNat / 4096
  let c : Context :=
    { s.core.c with pc := pc, wait := none, woken := false, issueAt := 0, hdr := false, strings := [], ended := false, trap := none }
  let k : Core :=
    { s.core with
      task := if hub then none else some placedTask, merged := true, slot := .c1, cur := .C, c := c, flights := [], phase := .run,
      stop := none, svc := none, throttled := false, inService := true, perf := { s.core.perf with sample := [] },
      trace := { s.core.trace with dropped := 0, pages := [] },
      l := { s.core.l with wait := none }, s := { s.core.s with wait := none },
      tlb := placedPage root page 1 :: placedPage root (page + 1) 2 :: s.core.tlb, lates := [], cutWait := false, redo := [] }
  { s with core := k, mem := s.mem.setRun (4096 + pc.toNat % 4096) (leBytes 12 w), agenda := [],
           m := { s.m with stage := if s.m.halted then 0 else s.m.stage, reqs := s.m.reqs.filter (fun r => r.core != s.core.num) } }

/-- The step of a place that holds no word. -/
def faultStep (f : Flt) (s : State) : Out := runEvent (fun t => t.takeFault f) s

end Sys2Proof.Machine
end

