-- ==== Sys2Proof/Safety.lean ====
section
/-! DEFINITION. The terms that claims use: what a safe state is, when a word is ready to issue, and the state in which it has
issued. -/

namespace Sys2Proof.Machine

/-- Between steps memory is in canonical form and the write log is empty (DESIGN CHOICE, log 5). -/
def Inv (s : State) : Prop := Memory.wf s.mem = true ∧ s.wlog = []

/-- One more result of the word at issue fits among the results in flight of its context (03 R63); with interlocks nothing
is in flight. -/
def Room (s : State) : Prop := s.core.interlocked = true ∨ s.core.inFlight s.core.cur < Config.inFlightMax

/-- n results of the word at issue fit. -/
def RoomFor (n : Nat) (s : State) : Prop := s.core.interlocked = true ∨ s.core.inFlight s.core.cur + n ≤ Config.inFlightMax

/-- Word i, of guard g, is at issue: the state is one between steps, the word has no static fault, its guard is true, and
its result has room. -/
structure Ready (i : Instr) (g : Guard) (s : State) : Prop where
  between : s.wlog = []
  formed : i.check = none
  guard : s.here.guard g = true
  room : Room s

/-- The same on a compute core, outside a handler. -/
structure ReadyOnCore (i : Instr) (g : Guard) (s : State) : Prop extends Ready i g s where
  compute : s.core.hub = false
  user : s.core.inHandler = false

/-- The writes that the step to t made are performed on the memory of s. -/
def settled (s t : State) : State := { t with mem := s.mem.commit t.wlog, wlog := [] }

/-- The word at issue in s has issued and the context goes on at the next word; u is s with the word's effect. -/
def passed (s u : State) : State := settled s (u.issued s.here.ord s.lpc).advance

/-- Instruction i completes in s with the effect u. -/
def Completes (i : Instr) (s u : State) : Prop := exec i s = .next (passed s u)

/-- Event i takes s to u. -/
def Takes (i : Instr) (s u : State) : Prop := exec i s = .next (settled s u)

/-- The step journal takes a result of the word at issue: no replay gives it, and there is room (02 R40). Code without a task
journals nothing. -/
def Journals (s : State) : Prop :=
  s.core.task = none ∨ (s.journalHit = none ∧ (s.core.journal.length < Config.journalMax ∨ s.core.window = []))

/-- The results v of the word at issue in s stand in the step journal of t (02 R40). -/
def noted (s : State) (v : List Word) (t : State) : State :=
  if s.core.task.isNone then t
  else t.modCore (fun k => { k with journal := k.journal ++ [{ ord := s.here.ord, lpc := s.lpc, vals := v }] })

/-- A non-idempotent operation may issue (02 R39). -/
def Unheld (s : State) : Prop :=
  s.core.task.isSome = true →
    s.idemReady = true ∧ (s.core.interlocked = true ∨ s.core.drained s.core.cur = true ∨ s.here.wait = none)

/-- It has issued: the TSTEP that follows is still to come (02 R39). -/
def marked (t : State) : State := t.modCore (fun k => { k with nonIdem := k.task.isSome })

/-- A blocking word may complete: its context has drained (03 R65). -/
def Drained (s : State) : Prop := s.core.interlocked = true ∨ s.core.drained s.core.cur = true

/-- The appends of the words before the one at issue are all made: no template is still to come, and none that has come is blocked (20
R302). -/
def Appended (s : State) : Prop := s.core.interlocked = true ∨ s.core.appended s.core.cur = true

/-- Word i transfers control to `target`: the context goes on there two cycles later (03 R52); registers other than x[d] and all
of memory stay. -/
def GoesTo (i : Instr) (s : State) (target : Word) (d : BitVec 5) : Prop :=
  ∃ t : State, exec i s = .next t ∧ t.here.pc = target ∧ t.here.issueAt = s.core.cyc + 2 ∧
    (∀ c n, (c ≠ s.core.cur ∨ n ≠ d) → (t.core.ctx c).get n = (s.core.ctx c).get n) ∧ t.mem = s.mem

/-- View elements that a vector word may use (03 R57): KIND VEC, and 256 bytes inside the register space. -/
def InView (s : State) (es : List VEl) : Prop := ∀ e ∈ es, s.elKind e = 1 ∧ s.elBase e + 256 ≤ Config.regSpace

/-- The n bytes of each of these elements lie in 64-bit words without a double-bit error (15 R251). -/
def Sound (s : State) (n : Nat) (es : List VEl) : Prop :=
  ∀ e ∈ es, ∀ w ∈ s.core.badRegs, 8 * w + 8 ≤ s.elBase e ∨ s.elBase e + n ≤ 8 * w

/-- Physical addresses of the bytes of global memory that a checked target reaches, in the order of the access. -/
def Target.places (t : Target) : List Nat := t.pieces.flatMap (fun q => (List.range q.n).map (q.pa + ·))

/-- What an append goes on with, in s1: what it reads now, or the body and source that it has kept since it blocked (20 R302). -/
def Took (s s1 : State) (body : Bytes) (src : Word) (now : Prop) : Prop :=
  (s.here.held = none ∧ now) ∨ (s.here.held = some (body, src) ∧ s1 = s)

/-- The template of the word at issue in s is there (20 R302; 21 R328; 22 R349): the word has blocked, and keeps what it read; or, with
interlocks, it was held until its template came. -/
def HasTemplate (i : Instr) (p : Word) (s : State) : Prop :=
  s.here.held.isSome = true ∨
  (s.here.held = none ∧ watched s .global p 112 false = false ∧ s.core.interlocked = true ∧ s.core.templateHere i = true)

/-- The state that the word with its template takes effect on. -/
def State.withTemplateTaken (s : State) : State :=
  if s.here.held.isSome then s else s.modCore (fun k => { k with lates := k.lates.filter (fun l => l.ctx != k.cur) })

/-- The state that a word of a slice takes effect on once its template has come: its context stands as at its issue. -/
def State.atLate (s : State) (l : Late) : State :=
  s.modCore (fun k => { (({ k with cur := l.ctx } : Core).setCtx l.ctx l.at') with lates := k.lates.erase l })

/-- That word has taken effect in u: the contexts of s go on as they stand in s. -/
def State.fromLate (s u : State) (l : Late) : State :=
  u.modCore (fun k => ({ k with cur := s.core.cur } : Core).setCtx l.ctx (s.core.ctx l.ctx))

/-- COPY with its template takes t to u (20 R302): the nest that template and operands make is appended, to the copy-out chain for a copy
to global memory, else to the copy-in chain; a ring fill takes the ring's next slot. `kept` is the template as it stood at the issue of a
slice's word (20 R303). -/
def CopyAppends (f : OpSrc3) (kept : Option Bytes) (t u : State) : Prop :=
  ∃ (t1 : State) (body : Bytes) (src : Word),
    Took t t1 body src (∃ x, readTemplate t (t.src f.a) kept = .ok (x, t1) ∧ src = 0 ∧
      body = leBytes 8 (t.src f.b).toNat ++ leBytes 8 (t.reg f.d).toNat ++ slice x 16 96) ∧
    nestOk body = true ∧ t.core.inHandler = false ∧
    (let n := nestOf body
     let ch : ChainId := if n.dsp = .global then .tco else .tci
     (t.core.merged = true ∨ t.core.cur = (if n.dsp = .global then .S else .L)) ∧
     ((n.re = false ∧ appendEntry t1 ch { kind := .copy, body := body, ranges := copyRanges n none } = .ok u) ∨
      (n.re = true ∧ ∃ r, t1.core.ring n.ring = some r ∧ r.isFull = false ∧
        (let slot := r.slotOf r.nextPos
         let taken (x : Ring) : Ring :=
           { x with pend := x.pend ++ [{ pos := x.nextPos, num := (t1.core.chain ch).append + 1, done := none }],
                    fills := x.fills ++ [(x.nextPos, (t1.core.chain ch).append + 1)] }
         appendEntry (t1.modCore (fun k => modRing k n.ring taken)) ch
           { kind := .copy, body := body, ranges := copyRanges n (some (r.alloc, slot * r.slotsz * 256)), ring := some (n.ring, slot) } =
             .ok u))))

/-- MMA with its template takes t to u (21 R328). -/
def MmaAppends (h : OpAB) (kept : Option Bytes) (t u : State) : Prop :=
  ∃ (t1 : State) (body : Bytes) (src : Word),
    Took t t1 body src (∃ x, readTemplate t (t.src h.a) kept = .ok (x, t1) ∧ (t.core.merged = true ∨ t.core.cur = .C) ∧ src = 0 ∧
      body = slice x 0 72 ++ leBytes 8 (t.src h.b).toNat ++ slice x 80 28
        ++ leBytes 4 ((t.here.viewOf (BitVec.ofNat 3 (le x 92 2 / 256))).toNat % 2 ^ 26) ∧ tableOk body = true) ∧
    appendEntry t1 .tmx { kind := .mma, body := body, src := src, ranges := mmaRanges (tableOf body) } = .ok u

/-- SEND with its template takes t to u (22 R349): alignment, then the checks of R133 on its source. -/
def SendAppends (f : OpSrc3) (kept : Option Bytes) (t u : State) : Prop :=
  ∃ (t1 : State) (body : Bytes) (src : Word),
    (let n := le body 28 4
     let sp := engSpace (le body 38 2 % 4)
     Took t t1 body src (∃ x v tg, readTemplate t (t.src f.a) kept = .ok (x, v) ∧ body = leBytes 8 (t.reg f.d).toNat ++ slice x 8 104 ∧
       src = t.src f.b ∧ sendOk body = true ∧ (t.core.merged = true ∨ t.core.cur = .S) ∧ t.core.inHandler = false ∧
       src.toNat % 16 = 0 ∧ (t.reg f.d).toNat % 16 = 0 ∧ le body 8 8 % 16 = 0 ∧
       checkEng v t.core.cur sp src n { wr := false } v.who 0 = .ok (tg, t1)) ∧
     let rs := rangeOf sp (ptrId src) (ptrStart sp src) (ptrStart sp src + n) false
     appendEntry t1 .tsx { kind := .send, body := body, src := src, ranges := rs } = .ok u)

/-- The effect of a vector word of one, two or three sources: `fn` on the enabled lanes. -/
def lanes1 (s : State) (f : VOp1) (lat : Nat) (fn : Nat → Nat → Nat × Flags) : State :=
  s.landLanes f.d f.fmt (overLanes s f.mask f.fmt (fun j => fn j (lane f.fmt (s.vsrc f.a) j))) lat

def lanes2 (s : State) (f : VOp2) (lat : Nat) (fn : Nat → Nat → Nat → Nat × Flags) : State :=
  s.landLanes f.d f.fmt (overLanes s f.mask f.fmt (fun j => fn j (lane f.fmt (s.vsrc f.a) j) (lane f.fmt (s.vsrc f.b) j))) lat

def lanes3 (s : State) (f : VOp3) (lat : Nat) (fn : Nat → Nat → Nat → Nat → Nat × Flags) : State :=
  s.landLanes f.d f.fmt (overLanes s f.mask f.fmt
    (fun j => fn j (lane f.fmt (s.vsrc f.a) j) (lane f.fmt (s.vsrc f.b) j) (lane f.fmt (s.vsrc f.c) j))) lat

/-! ### Classes of words that statements quantify over -/

/-- The destination of a word of class S or F (20 R279, 21 R309). -/
def scalarDst : Instr → Option Dst
  | .add f | .sub f | .mul f | .mulh _ f | .div _ f | .rem _ f | .and f | .andn f | .or f | .xor f | .shl f | .shr _ f | .rot f
  | .bext f | .bins f | .cmp _ f | .sel f | .min _ f | .max _ f => some f.d
  | .addImmediate f | .subImmediate f | .mulImmediate f | .mulhImmediate _ f | .divImmediate _ f | .remImmediate _ f
  | .andImmediate f | .andnImmediate f | .orImmediate f | .xorImmediate f | .shlImmediate f | .shrImmediate _ f
  | .rotImmediate f | .bextImmediate f | .binsImmediate f | .cmpImmediate _ f | .minImmediate _ f | .maxImmediate _ f => some f.d
  | .clz f | .popc f => some f.d
  | .ldi f => some f.d
  | .addpc f => some f.d
  | .fadd f | .fmul f | .ffma _ f | .fcmp _ f => some f.d
  | .fcvt f => some f.d
  | _ => none

/-- A word of class F. -/
def isFloat : Instr → Bool
  | .fadd _ | .fmul _ | .ffma _ _ | .fcmp _ _ | .fcvt _ => true
  | _ => false

/-- The words that 04 R83 step 3 makes illegal on a hub core. -/
def hubBarred : Instr → Bool
  | .awaitf _ _ | .rels _ _ | .ringi _ | .waitc _ _ | .tlrd _ _ _ | .bsync _ _ | .send _ | .mwait _ _ _ | .tstep _ _ _ _ | .exit _
  | .abort _ => true
  | .ld f | .lda _ f => f.space == .scratch
  | .st f | .stl _ f => f.space == .scratch
  | .atom _ f | .cas _ f => f.space == .scratch
  | .tagset _ sp _ _ | .tagget _ sp _ | .cflush _ sp _ _ => sp == .scratch
  | i => match encode i with
    | some w => (Raw.unpack w).cls == 4 || (Raw.unpack w).cls == 5
    | none => false

/-- May a word run in this mode (04 R88, R95)? -/
def allowed (i : Instr) (m : Mode) : Bool :=
  match i with
  | .tlbi _ _ => m != .u
  | .sread _ n => sysReadable m n.toNat
  | .swrite _ n => sysWritable m n.toNat
  | _ => true

end Sys2Proof.Machine
end

