-- ==== Sys2Proof/Certificates/Slice0/Obligations.lean ====
section
/-! DEFINITION. The statements for the provers. A statement of what an instruction does has as its conclusion that `exec`
answers a next state, written `Completes i s u` for a word (u is s with the word's effect; the word then counts as issued and
its context goes on at the next word) and `Takes i s u` for an event. -/

open Sys2Proof Sys2Proof.Machine

/-! ### Integer words (spec/20 R279 to R301, spec/21, spec/22) -/

/-- Class S words of two sources: each lands its value in x[D] with its latency (R62). -/
def Obligations.IntegerWordsComplete : Prop :=
  ∀ (s : State) (f : AluRR) (sg : Bool) (c : Cond),
    let a := s.src f.a
    let y := s.src f.b
    (Ready (.add f) f.g s → Completes (.add f) s (s.landReg f.d (a + y) 1)) ∧
    (Ready (.sub f) f.g s → Completes (.sub f) s (s.landReg f.d (a - y) 1)) ∧
    (Ready (.mul f) f.g s → Completes (.mul f) s (s.landReg f.d (a * y) 3)) ∧
    (Ready (.mulh sg f) f.g s → Completes (.mulh sg f) s (s.landReg f.d
      (BitVec.ofInt 64 ((if sg then a.toInt * y.toInt else (a.toNat * y.toNat : Nat)) / 2 ^ 64)) 3)) ∧
    (Ready (.div sg f) f.g s → Completes (.div sg f) s (s.landReg f.d
      (if y = 0 then -1 else if sg then BitVec.ofInt 64 (a.toInt.tdiv y.toInt) else a / y) 20)) ∧
    (Ready (.rem sg f) f.g s → Completes (.rem sg f) s (s.landReg f.d
      (if y = 0 then a else if sg then BitVec.ofInt 64 (a.toInt.tmod y.toInt) else a % y) 20)) ∧
    (Ready (.and f) f.g s → Completes (.and f) s (s.landReg f.d (a &&& y) 1)) ∧
    (Ready (.andn f) f.g s → Completes (.andn f) s (s.landReg f.d (a &&& ~~~y) 1)) ∧
    (Ready (.or f) f.g s → Completes (.or f) s (s.landReg f.d (a ||| y) 1)) ∧
    (Ready (.xor f) f.g s → Completes (.xor f) s (s.landReg f.d (a ^^^ y) 1)) ∧
    (Ready (.shl f) f.g s → Completes (.shl f) s (s.landReg f.d (a <<< (y.toNat % 64)) 1)) ∧
    (Ready (.shr sg f) f.g s → Completes (.shr sg f) s (s.landReg f.d
      (if sg then a.sshiftRight (y.toNat % 64) else a >>> (y.toNat % 64)) 1)) ∧
    (Ready (.rot f) f.g s → Completes (.rot f) s (s.landReg f.d (a.rotateRight (y.toNat % 64)) 1)) ∧
    (Ready (.bext f) f.g s → Completes (.bext f) s (s.landReg f.d (bextValue a y) 1)) ∧
    (Ready (.bins f) f.g s → Completes (.bins f) s (s.landReg f.d (binsValue (s.reg f.d.reg) a y) 1)) ∧
    (Ready (.cmp c f) f.g s → Completes (.cmp c f) s (s.landReg f.d (if condHolds c a y then 1 else 0) 1)) ∧
    (Ready (.sel f) f.g s → Completes (.sel f) s (s.landReg f.d (if (s.reg f.d.reg).getLsbD 0 then a else y) 1)) ∧
    (Ready (.min sg f) f.g s → Completes (.min sg f) s (s.landReg f.d
      (if sg then (if y.toInt < a.toInt then y else a) else (if y.toNat < a.toNat then y else a)) 1)) ∧
    (Ready (.max sg f) f.g s → Completes (.max sg f) s (s.landReg f.d
      (if sg then (if a.toInt < y.toInt then y else a) else (if a.toNat < y.toNat then y else a)) 1)) ∧
    (Ready (.ptrtag f) f.g s → Completes (.ptrtag f) s (s.landReg f.d
      (y.extractLsb' 0 4 ++ a.extractLsb' 0 60) 4))

/-- The immediate forms do the same with the sign-extended 32-bit immediate as second operand (R279). -/
def Obligations.ImmediateWordsComplete : Prop :=
  ∀ (s : State) (f : AluRI) (sg : Bool) (c : Cond),
    let a := s.src f.a
    let y := f.imm.signExtend 64
    (Ready (.addImmediate f) f.g s → Completes (.addImmediate f) s (s.landReg f.d (a + y) 1)) ∧
    (Ready (.subImmediate f) f.g s → Completes (.subImmediate f) s (s.landReg f.d (a - y) 1)) ∧
    (Ready (.mulImmediate f) f.g s → Completes (.mulImmediate f) s (s.landReg f.d (a * y) 3)) ∧
    (Ready (.mulhImmediate sg f) f.g s → Completes (.mulhImmediate sg f) s (s.landReg f.d
      (BitVec.ofInt 64 ((if sg then a.toInt * y.toInt else (a.toNat * y.toNat : Nat)) / 2 ^ 64)) 3)) ∧
    (Ready (.divImmediate sg f) f.g s → Completes (.divImmediate sg f) s (s.landReg f.d
      (if y = 0 then -1 else if sg then BitVec.ofInt 64 (a.toInt.tdiv y.toInt) else a / y) 20)) ∧
    (Ready (.remImmediate sg f) f.g s → Completes (.remImmediate sg f) s (s.landReg f.d
      (if y = 0 then a else if sg then BitVec.ofInt 64 (a.toInt.tmod y.toInt) else a % y) 20)) ∧
    (Ready (.andImmediate f) f.g s → Completes (.andImmediate f) s (s.landReg f.d (a &&& y) 1)) ∧
    (Ready (.andnImmediate f) f.g s → Completes (.andnImmediate f) s (s.landReg f.d (a &&& ~~~y) 1)) ∧
    (Ready (.orImmediate f) f.g s → Completes (.orImmediate f) s (s.landReg f.d (a ||| y) 1)) ∧
    (Ready (.xorImmediate f) f.g s → Completes (.xorImmediate f) s (s.landReg f.d (a ^^^ y) 1)) ∧
    (Ready (.shlImmediate f) f.g s → Completes (.shlImmediate f) s (s.landReg f.d (a <<< (y.toNat % 64)) 1)) ∧
    (Ready (.shrImmediate sg f) f.g s → Completes (.shrImmediate sg f) s (s.landReg f.d
      (if sg then a.sshiftRight (y.toNat % 64) else a >>> (y.toNat % 64)) 1)) ∧
    (Ready (.rotImmediate f) f.g s → Completes (.rotImmediate f) s (s.landReg f.d (a.rotateRight (y.toNat % 64)) 1)) ∧
    (Ready (.bextImmediate f) f.g s → Completes (.bextImmediate f) s (s.landReg f.d (bextValue a y) 1)) ∧
    (Ready (.binsImmediate f) f.g s →
      Completes (.binsImmediate f) s (s.landReg f.d (binsValue (s.reg f.d.reg) a y) 1)) ∧
    (Ready (.cmpImmediate c f) f.g s →
      Completes (.cmpImmediate c f) s (s.landReg f.d (if condHolds c a y then 1 else 0) 1)) ∧
    (Ready (.minImmediate sg f) f.g s → Completes (.minImmediate sg f) s (s.landReg f.d
      (if sg then (if y.toInt < a.toInt then y else a) else (if y.toNat < a.toNat then y else a)) 1)) ∧
    (Ready (.maxImmediate sg f) f.g s → Completes (.maxImmediate sg f) s (s.landReg f.d
      (if sg then (if a.toInt < y.toInt then y else a) else (if a.toNat < y.toNat then y else a)) 1))

/-- CLZ, POPC, LDI and ADDPC (R300, R339, R321, R284). ADDPC adds to the address of the plain-image copy of the word on a task,
and to the word's own address on a hub core and in firmware. -/
def Obligations.OneSourceWordsComplete : Prop :=
  ∀ (s : State) (f : OpDA) (m : OpDImm) (p : OpPc),
    (Ready (.clz f) f.g s → Completes (.clz f) s (s.landReg f.d (clzValue (s.src f.a)) 1)) ∧
    (Ready (.popc f) f.g s → Completes (.popc f) s (s.landReg f.d (popcValue (s.src f.a)) 1)) ∧
    (Ready (.ldi m) m.g s → Completes (.ldi m) s (s.landReg m.d (m.imm.signExtend 64) 1)) ∧
    (Ready (.addpc p) p.g s →
      (∀ t, s.place ≠ .flat → s.core.task = some t →
        Completes (.addpc p) s (s.landReg p.d (t.img.pimg + s.lpc + (p.imm.signExtend 64 <<< 12)) 1)) ∧
      (s.place = .flat → Completes (.addpc p) s (s.landReg p.d (s.here.pc + (p.imm.signExtend 64 <<< 12)) 1)))

/-- BEXT and BINS as their reference entries give them (R292, R293): y holds the low bit in bits 5:0 and the width in bits 13:8, where
width 0 means 64; every other bit of y is ignored; BEXT zero-extends the field of x[A], BINS puts the low bits of x[A] over the field
of x[D]; with the example word of each and its value. What CLZ and POPC count; the six conditions of CMP. -/
def Obligations.BitWordValues : Prop :=
  (∀ (s : State) (f : AluRR) (m : AluRI),
    (Ready (.bext f) f.g s → Completes (.bext f) s (s.landReg f.d (bextValue (s.src f.a) (s.src f.b)) 1)) ∧
    (Ready (.bextImmediate m) m.g s →
      Completes (.bextImmediate m) s (s.landReg m.d (bextValue (s.src m.a) (m.imm.signExtend 64)) 1)) ∧
    (Ready (.bins f) f.g s → Completes (.bins f) s (s.landReg f.d (binsValue (s.reg f.d.reg) (s.src f.a) (s.src f.b)) 1)) ∧
    (Ready (.binsImmediate m) m.g s →
      Completes (.binsImmediate m) s (s.landReg m.d (binsValue (s.reg m.d.reg) (s.src m.a) (m.imm.signExtend 64)) 1))) ∧
  (∀ d a y : Word,
    let low := y.toNat % 64
    let width := if y.toNat / 256 % 64 = 0 then 64 else y.toNat / 256 % 64
    (∀ i, i < 64 → (bextValue a y).getLsbD i = (decide (i < width) && a.getLsbD (low + i))) ∧
    (∀ i, i < 64 → (binsValue d a y).getLsbD i =
      if low ≤ i ∧ i < low + width then a.getLsbD (i - low) else d.getLsbD i) ∧
    ((clzValue a).toNat ≤ 64 ∧ a.toNat < 2 ^ (64 - (clzValue a).toNat) ∧
      (a ≠ 0 → 2 ^ (63 - (clzValue a).toNat) ≤ a.toNat ∧ (clzValue a).toNat < 64)) ∧
    (popcValue a).toNat = (Finset.univ.filter (fun i : Fin 64 => a.getLsbD i = true)).card ∧
    (condHolds .eq a y = true ↔ a = y) ∧ (condHolds .ne a y = true ↔ a ≠ y) ∧
    (condHolds .lt a y = true ↔ a.toInt < y.toInt) ∧ (condHolds .ge a y = true ↔ y.toInt ≤ a.toInt) ∧
    (condHolds .ltu a y = true ↔ a.toNat < y.toNat) ∧ (condHolds .geu a y = true ↔ y.toNat ≤ a.toNat)) ∧
  decodeWord 0x110000005006000000000804 = .ok (.bextImmediate ⟨⟨false, 0, 0⟩, ⟨5, false, 0⟩, .reg 6, 0x804⟩) ∧
  bextValue 0x12345678 0x804 = 0x67 ∧
  decodeWord 0x111000005006000000001008 = .ok (.binsImmediate ⟨⟨false, 0, 0⟩, ⟨5, false, 0⟩, .reg 6, 0x1008⟩) ∧
  binsValue 0xFFFFFFFFFFFFFFFF 0x1234 0x1008 = 0xFFFFFFFFFF1234FF

/-- Class F words (R309 to R315): one rounding of the exact result in the word's format, its flags landing with it; FCMP lands
1 or 0. -/
def Obligations.FloatWordsComplete : Prop :=
  ∀ (s : State) (f : FOp) (v : FCvtOp) (c : BitVec 5) (p : FCond),
    let a := argVal f.fmt (s.src f.a)
    let b := argVal f.fmt (s.src f.b)
    let rc := s.rctx f.rnd
    (Ready (.fadd f) f.g s →
      Completes (.fadd f) s (s.landCode f.d f.fmt (roundWith f.fmt rc 0 (addEx rc.mode a b)) 4)) ∧
    (Ready (.fmul f) f.g s → Completes (.fmul f) s (s.landCode f.d f.fmt (roundWith f.fmt rc 0 (mulEx a b)) 4)) ∧
    (Ready (.ffma c f) f.g s → Completes (.ffma c f) s (s.landCode f.d f.fmt
      (roundWith f.fmt rc 0 (fmaEx rc.mode a b (argVal f.fmt (s.reg c)))) 5)) ∧
    (Ready (.fcmp p f) f.g s → Completes (.fcmp p f) s
      (s.landReg f.d (if (fcompare f.fmt p (floatArg f.fmt (s.src f.a)) (floatArg f.fmt (s.src f.b))).1 then 1 else 0) 4
        (fcompare f.fmt p (floatArg f.fmt (s.src f.a)) (floatArg f.fmt (s.src f.b))).2)) ∧
    (Ready (.fcvt v) v.g s → Completes (.fcvt v) s
      (s.landCode v.d v.fmt2 (convert v.fmt v.fmt2 (s.rctx v.rnd) 0 (floatArg v.fmt (s.src v.a))) 3))

/-- Where results go (R60 to R63, R371). A scalar result: with interlocks it is there at once: the register D of the context at issue,
unless WBS suppresses it; the latch LT in bytes 7:0; the flags are OR-ed in. In sliced running it is a result in flight that
lands at the end of unfrozen cycle t + latency − 1, and no register has changed. x0 takes no write. A vector result, with interlocks:
the bytes of enabled lanes of D are written, those of disabled lanes and all other bytes of the register space stay; in sliced running the bytes go into flight. -/
def Obligations.ResultsLand : Prop :=
  (∀ (s : State) (d : Dst) (v : Word) (lat : Nat) (fl : BitVec 5),
    let t := s.landReg d v lat fl
    (s.core.interlocked = true →
      (∀ c n, (t.core.ctx c).get n =
        if c = s.core.cur ∧ n = d.reg ∧ n ≠ 0 ∧ d.wbs = false then v else (s.core.ctx c).get n) ∧
      (t.core.ctx s.core.cur).fflags = s.here.fflags ||| fl ∧
      (∀ l : BitVec 4, l ≠ 0 → (t.core.ctx s.core.cur).latchWord l = if l = d.lt then v else s.here.latchWord l) ∧
      t.core.flights = s.core.flights) ∧
    (s.core.interlocked = false →
      (∀ c, t.core.ctx c = s.core.ctx c) ∧
      ∃ f : Flight, t.core.flights = s.core.flights ++ [f] ∧ f.ctx = s.core.cur ∧ f.landAt = s.core.cyc + lat - 1 ∧
        f.puts = (if d.wbs then [] else [.reg s.core.cur d.reg v]) ∧ f.lt = d.lt ∧ f.flags = fl ∧ f.arrived = true) ∧
    t.mem = s.mem ∧ t.m = s.m ∧ t.others = s.others) ∧
  (∀ (s : State) (d : VDst) (f : Fmt) (rs : List (Option Nat × BitVec 5)) (lat : Nat),
    s.core.interlocked = true → d.wbs = false → 8 ≤ f.bits → rs.length = lanes f →
    let t := s.landLanes d f rs lat
    (∀ j r fl i, rs[j]? = some (some r, fl) → i < laneBytes f →
      t.core.rsByte (s.elBase d.el + j * laneBytes f + i) = BitVec.ofNat 8 (r / 2 ^ (8 * i))) ∧
    (∀ j fl i, rs[j]? = some (none, fl) → i < laneBytes f →
      t.core.rsByte (s.elBase d.el + j * laneBytes f + i) = s.core.rsByte (s.elBase d.el + j * laneBytes f + i)) ∧
    (∀ o, o < s.elBase d.el ∨ s.elBase d.el + 256 ≤ o → t.core.rsByte o = s.core.rsByte o) ∧
    (∀ c n, (t.core.ctx c).get n = (s.core.ctx c).get n) ∧ t.mem = s.mem) ∧
  (∀ (s : State) (d : VDst) (f : Fmt) (rs : List (Option Nat × BitVec 5)) (lat : Nat), s.core.interlocked = false →
    let t := s.landLanes d f rs lat
    (∀ c, t.core.ctx c = s.core.ctx c) ∧ t.core.rs = s.core.rs ∧
    ∃ g : Flight, t.core.flights = s.core.flights ++ [g] ∧ g.ctx = s.core.cur ∧ g.landAt = s.core.cyc + lat - 1 ∧
      g.puts = (if d.wbs then [] else [.bytes (s.elBase d.el) (layLanes f (rs.map (·.1))) (layMask f (rs.map (·.1)))]) ∧
      g.lt = d.lt ∧ g.cap = layLanes f (rs.map (·.1)))

/-! ### Memory words (spec/07 R130 to R133; spec/20 to 22) -/

/-- LD and ST (R319, R357): the address is x[A] + the sign-extended OFF12; once the checks of R133 have passed LD lands the bytes
read, extended as SX says, with latency 8, or when they have come from outside the core (R64), and ST performs the low bytes of its
source little-endian. A store to the notify page is a notify write as well (R205).
That the access is performed at issue is the model's reading (DEDUCED, log 9). -/
def Obligations.LoadAndStoreComplete : Prop :=
  ∀ (s s1 : State) (l : LoadOp) (w : StoreOp) (p : Word) (t : Target),
    (Ready (.ld l) l.g s → (l.space = .scratch → s.core.hub = false) →
      mAddr s l.space (s.src l.a) l.off = .ok p →
      checkSpace s s.core.cur l.space p (sizeBytes l.size) { wr := false } s.who none 0 = .ok (t, s1) →
      watched s l.space p (sizeBytes l.size) false = false →
      Completes (.ld l) s ((performRead s1 s1.who none t).landReg l.d (extend l.sx (readTarget s1 t)) 8 0
        (outsideCore s l.space p (sizeBytes l.size)))) ∧
    (Ready (.st w) w.g s → (w.space = .scratch → s.core.hub = false) → s.core.inHandler = false →
      mAddr s w.space (s.src w.a) w.off = .ok p →
      checkSpace s s.core.cur w.space p (sizeBytes w.size) { wr := true } s.who none 0 = .ok (t, s1) →
      watched s w.space p (sizeBytes w.size) true = false →
      Completes (.st w) s
        (((performWrite s1 s1.who s1.unchecked none (leBytes (sizeBytes w.size) (s.src w.b).toNat) t).linear w.space p).notifyStore
          w.space p (sizeBytes w.size) (s.src w.b)))

/-- LDA and STL (R320, R358): aligned accesses that acquire and release at their scope; the region of the task advances, and
the value of LDA enters the step journal.
The one coherent store behind them is the model's choice (DESIGN CHOICE, log 5). -/
def Obligations.AcquireAndReleaseComplete : Prop :=
  ∀ (s s1 : State) (sc : Scope) (l : LoadOp) (w : StoreOp) (p : Word) (bs : Bytes),
    (Ready (.lda sc l) l.g s → (l.space = .scratch → s.core.hub = false) → Journals s →
      mAddr s l.space (s.src l.a) l.off (sizeBytes l.size) = .ok p →
      memRead s l.space p (sizeBytes l.size) true (some ⟨some sc, none⟩) 0 = .ok (bs, s1) →
      Completes (.lda sc l) s ((noted s [extend l.sx bs] s1).syncDone.landReg l.d (extend l.sx bs) 8 0
        (s.journalHit.isNone && outsideCore s l.space p (sizeBytes l.size)))) ∧
    (Ready (.stl sc w) w.g s → (w.space = .scratch → s.core.hub = false) → s.core.inHandler = false →
      mAddr s w.space (s.src w.a) w.off (sizeBytes w.size) = .ok p →
      memWrite s w.space p (leBytes (sizeBytes w.size) (s.src w.b).toNat) true (some ⟨none, some sc⟩) 0 = .ok s1 →
      Completes (.stl sc w) s
        ((s1.linear w.space p).notifyStore w.space p (sizeBytes w.size) (s.src w.b)).syncDone)

/-- ATOM and CAS (R289, R290, R298): one atomic access of the low bytes of the operands; the old value lands with latency 8.
A CAS whose comparison fails writes nothing. A write to the notify page is a notify write as well (R205). -/
def Obligations.AtomicsComplete : Prop :=
  ∀ (s s1 s2 : State) (op : AtomOp) (c : BitVec 5) (f : AtomOpF) (p : Word) (old : Bytes),
    let n := sizeBytes f.size
    let sy := syncOf f.order f.scope
    let far := outsideCore s f.space p n
    (f.space = .scratch → s.core.hub = false) → s.core.inHandler = false → Unheld s → recorded s = .none →
    mAddr s f.space (s.src f.a) f.off n = .ok p →
    (Ready (.atom op f) f.g s →
      let new (old : Nat) := atomValue op (8 * n) old ((s.src f.b).toNat % 2 ^ (8 * n))
      memAtomic s f.space p n sy (fun o => some (leBytes n (new (leNat o)))) = .ok (old, s1) →
      recordEntry (s1.notifyStore f.space p n (w64 (new (leNat old)))) (some (w64 (leNat old))) 0 = .ok s2 →
      Completes (.atom op f) s (marked (s2.syncDone.landReg f.d (w64 (leNat old)) 8 0 far))) ∧
    (Ready (.cas c f) f.g s →
      let new := (s.src f.b).toNat % 2 ^ (8 * n)
      memAtomic s f.space p n sy (fun o => if leNat o = (s.reg c).toNat % 2 ^ (8 * n) then some (leBytes n new) else none) =
        .ok (old, s1) →
      recordEntry (if leNat old = (s.reg c).toNat % 2 ^ (8 * n) then s1.notifyStore f.space p n (w64 new) else s1)
        (some (w64 (leNat old))) 0 = .ok s2 →
      Completes (.cas c f) s (marked (s2.syncDone.landReg f.d (w64 (leNat old)) 8 0 far)))

/-- The nine operations of ATOM on w-bit values, and that a word with any other SUBOP is refused (R290); and the reductions of BSYNC (R295):
OR, AND, unsigned MIN and MAX, and ADD modulo 2^64, with the operands of the reference entry's example; each is commutative and
associative, so that the order of arrival does not show. Where two members name different ops, that of the lower member index is
used (R296). -/
def Obligations.AtomicAndBarrierOperations : Prop :=
  (∀ (w old y : Nat), 0 < w → old < 2 ^ w → y < 2 ^ w →
    atomValue .add w old y = (old + y) % 2 ^ w ∧ atomValue .xchg w old y = y ∧
    (∀ i, (atomValue .and w old y).testBit i = (old.testBit i && y.testBit i)) ∧
    (∀ i, (atomValue .or w old y).testBit i = (old.testBit i || y.testBit i)) ∧
    (∀ i, (atomValue .xor w old y).testBit i = (old.testBit i ^^ y.testBit i)) ∧
    atomValue .min w old y = min old y ∧ atomValue .max w old y = max old y ∧
    sgn (atomValue .smin w old y) w = min (sgn old w) (sgn y w) ∧
    sgn (atomValue .smax w old y) w = max (sgn old w) (sgn y w)) ∧
  (∀ x : IWord, x.extractLsb' 93 3 = 2 → x.extractLsb' 84 9 = 5 → 9 ≤ (x.extractLsb' 0 12).toNat → ∃ e, decodeWord x = .error e) ∧
  (∀ (op : BsyncOp) (a b c : Word),
    bsyncReduce op a b = bsyncReduce op b a ∧ bsyncReduce op (bsyncReduce op a b) c = bsyncReduce op a (bsyncReduce op b c)) ∧
  (∀ a b : Word,
    (∀ i, i < 64 → (bsyncReduce .or a b).getLsbD i = (a.getLsbD i || b.getLsbD i) ∧
      (bsyncReduce .and a b).getLsbD i = (a.getLsbD i && b.getLsbD i)) ∧
    (bsyncReduce .min a b).toNat = min a.toNat b.toNat ∧ (bsyncReduce .max a b).toNat = max a.toNat b.toNat ∧
    (bsyncReduce .add a b).toNat = (a.toNat + b.toNat) % 2 ^ 64) ∧
  (let of (op : BsyncOp) : Word := [0, 5, 0].foldl (bsyncReduce op) 3
   of .or = 7 ∧ of .add = 8 ∧ of .min = 0 ∧ of .max = 5 ∧ of .and = 0) ∧
  (∀ (n : Node) (x y : Member) (a b : Arrival) (free : Word), n.mods = 1 → n.staying = [x, y] → x.arrived = some a →
    y.arrived = some b → a.k = b.k →
    (n.gather a.k free).map (·.val) = some (bsyncReduce (if y.idx < x.idx then b.op else a.op) a.val b.val))

/-- FENCE, MONITOR and MWAIT (R313, R329, R335). A fence of a lone core orders nothing but what it merges and leaves for later
releases; where replay runs one again, a release fence is only live again for the write that follows it (R198). MONITOR arms the 128-byte
line of its address; MWAIT lands 2 where no line is armed, and at the first one of a resumed task (R250), 0 after a write of the line, 1
after its timeout, counted from when its block began, and disarms; replay does not block.
What a fence pairs with is the model's reading (DEDUCED, log 10), and so are what counts as the first MWAIT of a resumed task and the code
of a replayed one without a journal entry (DEDUCED, log 108). -/
def Obligations.FenceAndMonitorComplete : Prop :=
  ∀ (s s1 : State) (g : Guard) (o : Order) (sc : Scope) (f : OpA) (off : BitVec 12) (q : Piece) (ps : List Piece) (d : Dst)
    (b : Src) (v p : Word),
    (Ready (.fence g o sc) g s →
      let acq := if o = .acquire ∨ o = .acqRel then
        s.modSight (fenceAcquire s.agent s.core.die sc s.core.side) else s
      let rel := if o = .release ∨ o = .acqRel then acq.modSight (fun k => k.putFence (s.fenceHere sc) s.core.ckpt.ord) else acq
      Completes (.fence g o sc) s (if s.core.again then s.modSight (fun k => k.refence s.here.ord s.lpc) else rel.syncDone)) ∧
    (Ready (.monitor f off) f.g s → mAddr s .global (s.src f.a) off = .ok p →
      checkGlobal s s.root p 1 { wr := false, poison := false, race := false } none none 0 =
        .ok (q :: ps, s1) →
      Completes (.monitor f off) s (s1.modHere (fun k => { k with monitor := some ⟨q.pa / 128, false⟩ }))) ∧
    (ReadyOnCore (.mwait g d b) g s → Drained s → Journals s →
      (s.cutHere = true ∧ v = 2 ∨ s.cutHere = false ∧
        (s.here.monitor = none ∧ v = 2 ∨ (∃ m, s.here.monitor = some m ∧ m.event = true) ∧ v = 0 ∨
          (∃ m i since, s.here.monitor = some m ∧ m.event = false ∧ s.here.wait = some (i, since) ∧ s.here.draining = false ∧
            s.src b ≠ 0 ∧ (s.src b).toNat ≤ s.m.now - since) ∧ v = 1 ∨
          (∃ m, s.here.monitor = some m ∧ m.event = false) ∧ s.here.wait = none ∧ s.core.inReplay = true ∧ v = 0)) →
      Completes (.mwait g d b) s ((((noted s [v] s).modHere (fun k => { k with monitor := none })).modCore (fun k =>
        { k with cutWait := k.cutWait && !s.cutHere })).landReg d v 4))

/-- CFLUSH, TAGSET and TAGGET (R299, R363, R364), on global memory and on scratch. -/
def Obligations.TagAndFlushWordsComplete : Prop :=
  ∀ (s s1 : State) (f : OpA) (h : OpAB) (d : OpDA) (sp : Space) (off n : BitVec 12) (inv : Bool) (p : Word) (q : Piece)
    (ps : List Piece) (a : Alloc),
    let chk : Chk := { wr := false, poison := false, tag := false, race := false }
    let tag : BitVec 4 := (s.src h.b).extractLsb' 0 4
    s.core.hub = false → s.core.inHandler = false →
    (Ready (.cflush f .global off inv) f.g s → mAddr s .global (s.src f.a) off = .ok p →
      checkGlobal s s.root p 1 chk none none 0 = .ok (q :: ps, s1) →
      Completes (.cflush f .global off inv) s (s1.flushGlobal inv (q.pa / 128))) ∧
    (Ready (.cflush f .scratch off inv) f.g s → mAddr s .scratch (s.src f.a) off = .ok p →
      checkScratch12 s.core p 1 0 false = .ok a →
      Completes (.cflush f .scratch off inv) s
        (if a.backed then s.modCore (fun k => modAlloc k a.id (flushLines k false inv (fun l => l.num == ptrOff p / 128))) else s)) ∧
    (Ready (.tagset h .global off n) h.g s → mAddr s .global (s.src h.a) off = .ok p → p.toNat % 32 = 0 →
      checkGlobal s s.root p (32 * (n.toNat + 1)) { chk with wr := true } none none 0 = .ok ([q], s1) → q.entry.tg = true →
      ∃ u : State, Completes (.tagset h .global off n) s u ∧ (∀ g, q.pa / 32 ≤ g → 32 * g < q.pa + q.n → gtag u.m g = tag) ∧
        (∀ g, g < q.pa / 32 ∨ q.pa + q.n ≤ 32 * g → gtag u.m g = gtag s1.m g)) ∧
    (Ready (.tagset h .scratch off n) h.g s → mAddr s .scratch (s.src h.a) off = .ok p →
      checkScratch12 s.core p 1 0 false = .ok a →
      ∃ u : State, Completes (.tagset h .scratch off n) s (u.landLater [.tag a.id tag]) ∧ u.mem = s.mem ∧ u.m = s.m) ∧
    (Ready (.tagget d .global off) d.g s → mAddr s .global (s.src d.a) off = .ok p →
      checkGlobal s s.root p 1 chk none none 0 = .ok (q :: ps, s1) →
      Completes (.tagget d .global off) s
        (s1.landReg d.d (if q.entry.tg then w64 (16 + (gtag s1.m (q.pa / 32)).toNat) else 0) 4 0 true)) ∧
    (Ready (.tagget d .scratch off) d.g s → mAddr s .scratch (s.src d.a) off = .ok p →
      checkScratch12 s.core p 1 0 false = .ok a →
      Completes (.tagget d .scratch off) s (s.landReg d.d (w64 (16 + a.tag.toNat)) 4))

/-- The frame of LD and ST, in states that keep the invariant of StepKeepsInv. A load changes no byte of memory and no register before its result lands. A store to
global memory, over one page or over two, a handler's store to its record among them, and a store through a window change only the
physical bytes that the pointer of `mAddr` translates to, and there the little-endian bytes of its source stand. A store to a private
allocation changes no byte of memory, and of scratch only the bytes at its pointer. No register, flag, latch or system register
changes.
That the store is performed at issue is the model's reading (DEDUCED, log 9). -/
def Obligations.LoadAndStoreFrame : Prop :=
  ∀ (s s1 t : State) (l : LoadOp) (w : StoreOp) (p : Word) (tg : Target),
    Inv s →
    (Ready (.ld l) l.g s → (l.space = .scratch → s.core.hub = false) → mAddr s l.space (s.src l.a) l.off = .ok p →
      checkSpace s s.core.cur l.space p (sizeBytes l.size) { wr := false } s.who none 0 = .ok (tg, s1) →
      watched s l.space p (sizeBytes l.size) false = false → exec (.ld l) s = .next t →
      (∀ a, t.mem.get a = s.mem.get a) ∧
      (∀ c n, ¬(c = s.core.cur ∧ n = l.d.reg ∧ l.d.wbs = false) → (t.core.ctx c).get n = (s.core.ctx c).get n) ∧
      (∀ c, (t.core.ctx c).fflags = (s.core.ctx c).fflags ∧ (t.core.ctx c).round = (s.core.ctx c).round ∧
        (t.core.ctx c).view = (s.core.ctx c).view) ∧
      t.core.rs = s.core.rs ∧ t.core.trace = s.core.trace ∧ t.core.seedNow = s.core.seedNow) ∧
    (Ready (.st w) w.g s → (w.space = .scratch → s.core.hub = false) →
      (w.space = .global → s.core.inHandler = true → inRecord s p (sizeBytes w.size) = true) →
      mAddr s w.space (s.src w.a) w.off = .ok p →
      checkSpace s s.core.cur w.space p (sizeBytes w.size) { wr := true } s.who none 0 = .ok (tg, s1) →
      watched s w.space p (sizeBytes w.size) true = false → exec (.st w) s = .next t →
      let n := sizeBytes w.size
      (∀ a, a ∉ tg.places → t.mem.get a = s.mem.get a) ∧
      ((∀ id off, tg ≠ .priv id off n) → tg.places.length = n) ∧
      (∀ i a, tg.places[i]? = some a → t.mem.get a = (s.src w.b).extractLsb' (8 * i) 8 ∧
        (w.space = .global → a % 4096 = (p.toNat + i) % 4096)) ∧
      (∀ q ∈ tg.pieces, q.pa / 4096 = q.entry.frame) ∧
      (∀ id x, s.core.alloc id = some x → ∃ y, t.core.alloc id = some y ∧ y.base = x.base ∧ y.size = x.size ∧ y.tag = x.tag ∧
        y.window = x.window ∧ y.expiry = x.expiry ∧
        (∀ o, y.byte o = if tg = .priv id (ptrOff p) n ∧ ptrOff p ≤ o ∧ o < ptrOff p + n
          then (s.src w.b).extractLsb' (8 * (o - ptrOff p)) 8 else x.byte o)) ∧
      (∀ c n, (t.core.ctx c).get n = (s.core.ctx c).get n) ∧
      (∀ c, (t.core.ctx c).fflags = (s.core.ctx c).fflags ∧ (t.core.ctx c).round = (s.core.ctx c).round ∧
        (t.core.ctx c).view = (s.core.ctx c).view ∧ (t.core.ctx c).latch = (s.core.ctx c).latch) ∧
      t.core.rs = s.core.rs ∧ t.core.trace = s.core.trace ∧ t.core.seedNow = s.core.seedNow ∧ t.core.flights = s.core.flights)

/-! ### Vector words (spec/23 R371 to R403, spec/22 R369) -/

/-- Element-wise words of integer lanes and moves: what each computes in a lane, and its latency (R62). -/
def Obligations.VectorWordsComplete : Prop :=
  ∀ (s : State) (f : VOp1) (h : VOp2) (w : VOp3) (ar : Bool) (c : VCond),
    let w1 : Prop := InView s (f.d.el :: vsrcEls f.a) ∧ Sound s 256 (vsrcEls f.a)
    let w2 : Prop := InView s (h.d.el :: vsrcEls h.a ++ vsrcEls h.b) ∧ Sound s 256 (vsrcEls h.a ++ vsrcEls h.b)
    let w3 : Prop := InView s (w.d.el :: vsrcEls w.a ++ vsrcEls w.b ++ vsrcEls w.c) ∧
      Sound s 256 (vsrcEls w.a ++ vsrcEls w.b ++ vsrcEls w.c)
    let n2 := h.fmt.bits
    s.core.hub = false →
    (Ready (.vabs f) f.g s → w1 → Completes (.vabs f) s (lanes1 s f 2 (fun _ a => (absLane f.fmt a, 0)))) ∧
    (Ready (.vneg f) f.g s → w1 → Completes (.vneg f) s (lanes1 s f 2 (fun _ a => (negLane f.fmt a, 0)))) ∧
    (Ready (.vmov f) f.g s → w1 → Completes (.vmov f) s (lanes1 s f 2 (fun _ a => (a, 0)))) ∧
    (Ready (.vand h) h.g s → w2 → Completes (.vand h) s (lanes2 s h 2 (fun _ a b => (a &&& b, 0)))) ∧
    (Ready (.vor h) h.g s → w2 → Completes (.vor h) s (lanes2 s h 2 (fun _ a b => (a ||| b, 0)))) ∧
    (Ready (.vxor h) h.g s → w2 → Completes (.vxor h) s (lanes2 s h 2 (fun _ a b => (a ^^^ b, 0)))) ∧
    (Ready (.vshl h) h.g s → w2 → Completes (.vshl h) s (lanes2 s h 2 (fun _ a b => (a * 2 ^ (b % n2) % 2 ^ n2, 0)))) ∧
    (Ready (.vshr ar h) h.g s → w2 → Completes (.vshr ar h) s (lanes2 s h 2 (fun _ a b =>
      (if ar then wrap (sgn a n2 / 2 ^ (b % n2)) n2 else a / 2 ^ (b % n2), 0)))) ∧
    (Ready (.vperm h) h.g s → w2 → Completes (.vperm h) s (lanes2 s h 3 (fun _ _ b =>
      (lane h.fmt (s.vsrc h.a) (b % lanes h.fmt), 0)))) ∧
    (Ready (.vsel w) w.g s → w3 → Completes (.vsel w) s (lanes3 s w 2 (fun _ a b c => (if c % 2 = 1 then a else b, 0)))) ∧
    (Ready (.vmax ar h) h.g s → w2 → Completes (.vmax ar h) s
      (lanes2 s h (if h.fmt.floatLane then 4 else 2) (fun _ a b => (pickLane h.fmt true ar a b, 0)))) ∧
    (Ready (.vmin ar h) h.g s → w2 → Completes (.vmin ar h) s
      (lanes2 s h (if h.fmt.floatLane then 4 else 2) (fun _ a b => (pickLane h.fmt false ar a b, 0)))) ∧
    (Ready (.vcmp c h) h.g s → w2 → Completes (.vcmp c h) s
      (lanes2 s h (if h.fmt.floatLane then 4 else 2) (fun _ a b => cmpLane h.fmt c a b)))

/-- Element-wise words that round, and VADD, VSUB, VMUL in both kinds of format: integer lanes wrap and set no flag. VEXP2 and VLOG2
(R380, R385) land `exp2Ex` and `log2Ex` rounded once; the precision in which these work is the model's reading (DEDUCED, log 20: taken to
suffice, not proved). -/
def Obligations.RoundingVectorWordsComplete : Prop :=
  ∀ (s : State) (f : VOp1) (h : VOp2) (w : VOp3),
    let w1 : Prop := InView s (f.d.el :: vsrcEls f.a) ∧ Sound s 256 (vsrcEls f.a)
    let w2 : Prop := InView s (h.d.el :: vsrcEls h.a ++ vsrcEls h.b) ∧ Sound s 256 (vsrcEls h.a ++ vsrcEls h.b)
    let w3 : Prop := InView s (w.d.el :: vsrcEls w.a ++ vsrcEls w.b ++ vsrcEls w.c) ∧
      Sound s 256 (vsrcEls w.a ++ vsrcEls w.b ++ vsrcEls w.c)
    let rc := s.rctx f.rnd
    let rc2 := s.rctx h.rnd
    let rc3 := s.rctx w.rnd
    let n := h.fmt.bits
    s.core.hub = false →
    (Ready (.vexp2 f) f.g s → w1 →
      Completes (.vexp2 f) s (lanes1 s f 12 (fun j a => roundWith f.fmt rc j (exp2Ex (value f.fmt a))))) ∧
    (Ready (.vlog2 f) f.g s → w1 →
      Completes (.vlog2 f) s (lanes1 s f 12 (fun j a => roundWith f.fmt rc j (log2Ex (value f.fmt a))))) ∧
    (Ready (.vrcp f) f.g s → w1 →
      Completes (.vrcp f) s (lanes1 s f 12 (fun j a => roundWith f.fmt rc j (rcpEx (value f.fmt a))))) ∧
    (Ready (.vrsq f) f.g s → w1 →
      Completes (.vrsq f) s (lanes1 s f 12 (fun j a => roundWith f.fmt rc j (rsqEx (value f.fmt a))))) ∧
    (Ready (.vfma w) w.g s → w3 → Completes (.vfma w) s (lanes3 s w 5 (fun j a b c =>
      roundWith w.fmt rc3 j (fmaEx rc3.mode (value w.fmt a) (value w.fmt b) (value w.fmt c))))) ∧
    (Ready (.vscale h) h.g s → w2 → Completes (.vscale h) s (lanes2 s h 4 (fun j a b =>
      roundWith h.fmt rc2 j (scaleEx (value h.fmt a) (sgn b n))))) ∧
    (Ready (.vadd h) h.g s → w2 → Completes (.vadd h) s (lanes2 s h (if h.fmt.floatLane then 4 else 2) (fun j a b =>
      if h.fmt.floatLane then roundWith h.fmt rc2 j (addEx rc2.mode (value h.fmt a) (value h.fmt b))
      else (wrap ((a : Int) + b) n, 0)))) ∧
    (Ready (.vsub h) h.g s → w2 → Completes (.vsub h) s (lanes2 s h (if h.fmt.floatLane then 4 else 2) (fun j a b =>
      if h.fmt.floatLane then roundWith h.fmt rc2 j (addEx rc2.mode (value h.fmt a) (negVal (value h.fmt b)))
      else (wrap ((a : Int) - b) n, 0)))) ∧
    (Ready (.vmul h) h.g s → w2 → Completes (.vmul h) s (lanes2 s h 4 (fun j a b =>
      if h.fmt.floatLane then roundWith h.fmt rc2 j (mulEx (value h.fmt a) (value h.fmt b))
      else (a * b % 2 ^ n, 0))))

/-- VBCAST, VCVT, VRED, VIEW and TTRN (R377, R379, R394, R383, R369). -/
def Obligations.OtherVectorWordsComplete : Prop :=
  ∀ (s : State) (g : Guard) (d : VDst) (a : Src) (mask : BitVec 5) (fmt fmt2 : Fmt) (f : VOp1) (part : BitVec 3) (op : VredOp)
    (sg : Bool) (x : Dst) (va : VSrc) (rnd : Rnd) (v : BitVec 3) (k : ViewKind) (e e2 : VEl) (wbs : Bool),
    s.core.hub = false →
    (Ready (.vbcast g d a mask fmt) g s → InView s [d.el] → Completes (.vbcast g d a mask fmt) s
      (s.landLanes d fmt (overLanes s mask fmt (fun _ => ((s.src a).toNat % 2 ^ fmt.bits, 0))) 2)) ∧
    (Ready (.vcvt part fmt2 f) f.g s → InView s (f.d.el :: vsrcEls f.a) → Sound s 256 (vsrcEls f.a) →
      f.fmt.bits ≤ fmt2.bits →
      Completes (.vcvt part fmt2 f) s (s.landLanes f.d fmt2 (overLanes s f.mask fmt2 (fun j =>
        let i := if fmt2.bits = f.fmt.bits then j else part.toNat * lanes fmt2 + j
        if i < 2048 / min f.fmt.bits fmt2.bits
        then convert f.fmt fmt2 (s.rctx f.rnd) j (leNat (s.vsrc f.a) / 2 ^ (f.fmt.bits * i) % 2 ^ f.fmt.bits)
        else (0, 0))) 4)) ∧
    (Ready (.vcvt part fmt2 f) f.g s → InView s (f.d.el :: vsrcEls f.a) → Sound s 256 (vsrcEls f.a) →
      fmt2.bits < f.fmt.bits →
      let es := narrowElems s part.toNat f.fmt fmt2 f.mask (s.rctx f.rnd) (s.vsrc f.a)
      Completes (.vcvt part fmt2 f) s (s.landBytes f.d
        (leBytes 256 ((es.map (fun e => e.2.1 * 2 ^ (fmt2.bits * e.1))).foldl (· + ·) 0))
        (leBytes 256 ((es.map (fun e => (2 ^ fmt2.bits - 1) * 2 ^ (fmt2.bits * e.1))).foldl (· + ·) 0)) 4
        ((es.map (fun e => e.2.2)).foldl (· ||| ·) 0))) ∧
    (Ready (.vred op sg g x va mask fmt rnd) g s → InView s (vsrcEls va) → Sound s 256 (vsrcEls va) →
      let r := reduceLanes op sg fmt (s.rctx rnd) (((List.range (lanes fmt)).filter (enabled s mask fmt)).map (lane fmt (s.vsrc va)))
      Completes (.vred op sg g x va mask fmt rnd) s (s.landReg x (scalarOf fmt r.1) 6 r.2)) ∧
    (Ready (.view g v a k fmt) g s → (s.src a).toNat < 2 ^ 19 → (s.src a).toNat % 256 = 0 →
      Completes (.view g v a k fmt) s (s.land { puts := [.view s.core.cur v
        (w64 (fmt.code.toNat * 2 ^ 22 + viewKindCode k * 2 ^ 20 + (s.src a).toNat))], lat := 1 })) ∧
    (Ready (.ttrn g e wbs e2 fmt) g s →
      (∀ z ∈ [e, e2], (s.elKind z = 2 ∨ s.elKind z = 3) ∧ s.elBase z + 2048 * fmt.bits ≤ Config.regSpace) →
      Sound s (2048 * fmt.bits) [e2] →
      Completes (.ttrn g e wbs e2 fmt) s (s.land { puts := if wbs then [] else
        [.bytes (s.elBase e) (transpose (fmt.bits / 8) (s.core.rsRun (s.elBase e2) (2048 * fmt.bits)))
          (List.replicate (2048 * fmt.bits) 0xFF)], lat := 16 }))

/-- VLD, VGATH, VST and VSCAT (R384, R382, R401, R397): lane j's pointer is p plus its place, where p is x[A] plus 256 times the offset
field and must itself lie in the 24 offset bits, or x[A] plus lane j of B; every lane is checked in ascending order. -/
def Obligations.VectorMemoryWordsComplete : Prop :=
  ∀ (s s1 : State) (g : Guard) (d : VDst) (a : Src) (b c : VSrc) (off : BitVec 6) (mask : BitVec 5) (fmt : Fmt)
    (l : List (Nat × Bytes)) (w : List (Target × Bytes)) (p : Word),
    let n := laneBytes fmt
    let near := lanePtrs s mask fmt laneAddr p (fun j => j * n)
    let far := lanePtrs s mask fmt vAddr (s.src a) (lane fmt (s.vsrc b))
    s.core.hub = false →
    (Ready (.vld g d a off mask fmt) g s → InView s [d.el] → vAddr s (s.src a) (256 * off.toNat) 0 = .ok p →
      gather s n near = .ok (l, s1) →
      Completes (.vld g d a off mask fmt) s (s1.landGathered d fmt l 8 (lanesOutside s n near))) ∧
    (Ready (.vgath g d a b mask fmt) g s → InView s (d.el :: vsrcEls b) → Sound s 256 (vsrcEls b) →
      gather s n far = .ok (l, s1) →
      Completes (.vgath g d a b mask fmt) s (s1.landGathered d fmt l 12 (lanesOutside s n far))) ∧
    (Ready (.vst g a b off mask fmt) g s → InView s (vsrcEls b) → Sound s 256 (vsrcEls b) →
      vAddr s (s.src a) (256 * off.toNat) 0 = .ok p →
      scatterCheck s n (near.map (fun e => (e.1, e.2, leBytes n (lane fmt (s.vsrc b) e.1)))) = .ok (w, s1) →
      Completes (.vst g a b off mask fmt) s (scatterWrite s1 w)) ∧
    (Ready (.vscat g a b c mask fmt) g s → InView s (vsrcEls b ++ vsrcEls c) →
      Sound s 256 (vsrcEls b ++ vsrcEls c) →
      scatterCheck s n (far.map (fun e => (e.1, e.2, leBytes n (lane fmt (s.vsrc c) e.1)))) = .ok (w, s1) →
      Completes (.vscat g a b c mask fmt) s (scatterWrite s1 w))

/-! ### Engine words (spec/08; spec/20 R282 to R286, R302; spec/21 R328; spec/22 R349, R366; spec/23 R404, R405) -/

/-- COPY, WBLD and SEND append the entry that their template and operands make, once its checks have passed (R302, R349, R405). In sliced running
COPY and SEND issue and ask for their template; when it arrives the word takes effect, on its context as it stood at issue (R64).
With interlocks the word is held until the template has come, and takes effect then (DEDUCED, log 9). One that has blocked goes on with
what it read before (DEDUCED, log 66). What a slice's word reads is the template as it stood at its issue (R303). -/
def Obligations.CopyAndSendComplete : Prop :=
  ∀ (s s2 : State) (f : OpSrc3) (h : OpAB) (len : BitVec 32) (body : Bytes) (src : Word) (l : Late),
    (s.core.hub = false → s.core.inHandler = false →
      (Ready (.copy f) f.g s → s.here.held = none → watched s .global (s.src f.a) 112 false = false → s.core.interlocked = false →
        Completes (.copy f) s (s.askTemplate (.copy f) (s.src f.a))) ∧
      (Ready (.copy f) f.g s → s.here.held = none → watched s .global (s.src f.a) 112 false = false → s.core.interlocked = true →
        s.core.templateHere (.copy f) = false → Takes (.copy f) s (s.askTemplate (.copy f) (s.src f.a))) ∧
      (Ready (.copy f) f.g s → HasTemplate (.copy f) (s.src f.a) s → CopyAppends f none s.withTemplateTaken s2 → Completes (.copy f) s s2) ∧
      (∀ s1, Ready (.wbld h len) h.g s → Took s s1 body src (wbldOk (s.src h.a) (s.src h.b) len.toNat = true ∧
          (s.core.merged = true ∨ s.core.cur = .L) ∧ s1 = s ∧ src = 0 ∧
          body = leBytes 8 (s.src h.a).toNat ++ leBytes 4 (s.src h.b).toNat ++ leBytes 4 len.toNat) →
        appendEntry s1 .tci { kind := .wbld, body := body, src := src, ranges := [] } = .ok s2 →
        Completes (.wbld h len) s s2) ∧
      (Ready (.send f) f.g s → Unheld s → s.here.held = none → watched s .global (s.src f.a) 112 false = false →
        s.core.interlocked = false → Completes (.send f) s (marked (s.askTemplate (.send f) (s.src f.a)))) ∧
      (Ready (.send f) f.g s → Unheld s → s.here.held = none → watched s .global (s.src f.a) 112 false = false →
        s.core.interlocked = true → s.core.templateHere (.send f) = false → Takes (.send f) s (s.askTemplate (.send f) (s.src f.a))) ∧
      (Ready (.send f) f.g s → Unheld s → HasTemplate (.send f) (s.src f.a) s → SendAppends f none s.withTemplateTaken s2 → Completes (.send f) s (marked s2))) ∧
    (s.wlog = [] → s.core.interlocked = false → s.core.traces = false →
      s.m.reqs.find? (fun r => r.core == s.core.num && r.answer.isSome) = none → s.core.flights.find? (fun f => f.ext && !f.arrived) = none → s.core.lates.find? (fun l => !l.arrived) = some l →
      ((l.i = .copy f ∧ CopyAppends f l.bytes (s.atLate l) s2) ∨ (l.i = .send f ∧ SendAppends f l.bytes (s.atLate l) s2) ∨
        (l.i = .mma h ∧ MmaAppends h l.bytes (s.atLate l) s2)) →
      Takes .externalResultArrival s (s.fromLate s2 l))

/-- MMA, ACLR and ADRAIN append to the matrix chain; in sliced running they stand in C. One that has blocked goes on with what it read
before (DEDUCED, log 66). MMA asks for its template first, as COPY does (R328): with interlocks it is held until that has come, and takes
effect then (DEDUCED, log 9); in sliced running its arrival is stated with that of COPY. The ranges of ACLR and of ADRAIN are the
accumulators and the destination that their bodies name. -/
def Obligations.MatrixWordsComplete : Prop :=
  ∀ (s s1 s2 : State) (h : OpAB) (body : Bytes) (src : Word) (g : Guard) (a d : VEl) (n : BitVec 3) (fmt : Fmt) (rnd : Rnd),
    let inC : Prop := s.core.merged = true ∨ s.core.cur = .C
    let clear := leBytes 4 (s.elBase a) ++ leBytes 2 (n.toNat + 1)
    let drain := leBytes 4 (s.elBase a) ++ leBytes 4 (s.elBase d)
      ++ leBytes 1 (fmt.code.toNat + 16 * (s.here.mode rnd).code.toNat + (if viewFmt (s.here.viewOf a.view) = 12 then 128 else 0))
      ++ leBytes 7 0 ++ leBytes 8 s.core.seedNow.toNat ++ leBytes 8 s.lpc.toNat ++ leBytes 8 s.here.step.toNat
    s.core.hub = false →
    (Ready (.mma h) h.g s → s.here.held = none → watched s .global (s.src h.a) 112 false = false → s.core.interlocked = false →
      Completes (.mma h) s (s.askTemplate (.mma h) (s.src h.a))) ∧
    (Ready (.mma h) h.g s → s.here.held = none → watched s .global (s.src h.a) 112 false = false → s.core.interlocked = true →
      s.core.templateHere (.mma h) = false → Takes (.mma h) s (s.askTemplate (.mma h) (s.src h.a))) ∧
    (Ready (.mma h) h.g s → HasTemplate (.mma h) (s.src h.a) s → MmaAppends h none s.withTemplateTaken s2 → Completes (.mma h) s s2) ∧
    (Ready (.aclr g a n) g s → Took s s1 body src (s.elKind a = 3 ∧ inC ∧
        s.elBase a + 65536 * (n.toNat + 1) ≤ Config.regSpace ∧ s1 = s ∧ src = 0 ∧ body = clear) →
      appendEntry s1 .tmx { kind := .aclr, body := body, src := src, ranges := aclrRanges body } = .ok s2 →
      Completes (.aclr g a n) s s2) ∧
    (s.elBase a + 65536 * (n.toNat + 1) ≤ Config.regSpace →
      aclrRanges clear = rangeOf .regs 0 (s.elBase a) (s.elBase a + 65536 * (n.toNat + 1) : Nat) true) ∧
    (Ready (.adrain g d a fmt rnd) g s → Took s s1 body src (s.elKind a = 3 ∧ inC ∧
        (viewFmt (s.here.viewOf a.view) = 0 ∨ viewFmt (s.here.viewOf a.view) = 12) ∧ (s.elKind d = 1 ∨ s.elKind d = 2) ∧
        s.elBase a + 65536 ≤ Config.regSpace ∧ s.elBase d + 2048 * fmt.bits ≤ Config.regSpace ∧ s1 = s ∧ src = 0 ∧ body = drain) →
      appendEntry s1 .tmx { kind := .adrain, body := body, src := src, ranges := adrainRanges fmt body } = .ok s2 →
      Completes (.adrain g d a fmt rnd) s s2) ∧
    (s.elBase a + 65536 ≤ Config.regSpace → s.elBase d + 2048 * fmt.bits ≤ Config.regSpace →
      adrainRanges fmt drain = rangeOf .regs 0 (s.elBase a) (s.elBase a + 65536 : Nat) false
        ++ rangeOf .regs 0 (s.elBase d) (s.elBase d + 2048 * fmt.bits : Nat) true)

/-- What an append does (R153, R154, R194): the chain's append number advances by one, the new entry stands last with that
number and the 112 bytes of its body, in the region that the append opens, or, where the append is made again, in the one that it opened
the first time (R198); registers, the other chains and every other entry stay. A chain whose segment is full takes no entry, nor does the send chain while its source store is full.
Where new chain segments lie is a free value (DESIGN CHOICE, log 4), and that a word which ran before a mid-step stop appends again is the
model's reading (DEDUCED, log 111). -/
def Obligations.AppendEffect : Prop :=
  ∀ (s t : State) (ch : ChainId) (n : NewEntry), appendEntry s ch n = .ok t →
    (s.core.chain ch).slot < 31 ∧ (ch = .tsx → (s.core.chain ch).entries.length < Config.sendStoreMax) ∧
    (t.core.chain ch).append = (s.core.chain ch).append + 1 ∧ (t.core.chain ch).counter = (s.core.chain ch).counter ∧
    (∃ e, (t.core.chain ch).entries = (s.core.chain ch).entries ++ [e] ∧ e.num = (s.core.chain ch).append + 1 ∧
      e.kind = n.kind ∧ e.body = pad n.body 112 ∧ e.begun = false ∧ e.ctx = s.core.cur ∧
      (s.rerun = false → ∀ k, t.core.task = some k → e.region = k.region) ∧
      (s.rerun = true → ∀ r, (s.core.chain ch).regions.find? (fun r => r.1 == (s.core.chain ch).append + 1) = some r → e.region = r.2)) ∧
    (∀ c, c ≠ ch → t.core.chain c = s.core.chain c) ∧
    (∀ c m, (t.core.ctx c).get m = (s.core.ctx c).get m) ∧ t.core.flights = s.core.flights ∧ t.mem = s.mem

/-- TLRD and WAITC (R366, R404): TLRD lands the append number or the timeline counter of a chain, where an append of another slice in
the same cycle is not yet counted; WAITC completes once the counter has reached its operand, and then acquires the entries up to it
(R182), and blocks before. -/
def Obligations.TimelineWordsComplete : Prop :=
  ∀ (s : State) (ch : ChainId) (f : OpD) (h : OpA), s.core.hub = false →
    (Ready (.tlrd ch false f) f.g s → Journals s →
      Completes (.tlrd ch false f) s ((noted s [w64 (s.core.chain ch).counter] s).landReg f.d (w64 (s.core.chain ch).counter) 4)) ∧
    (Ready (.tlrd ch true f) f.g s → Journals s → s.core.merged = true →
      Completes (.tlrd ch true f) s ((noted s [w64 (s.core.chain ch).append] s).landReg f.d (w64 (s.core.chain ch).append) 4)) ∧
    (Ready (.tlrd ch true f) f.g s → Journals s → s.core.merged = false →
      let fresh := ((s.core.chain ch).entries.filter (fun e => e.cyc == s.core.cyc && e.ctx != s.core.cur)).length
      let v := w64 ((s.core.chain ch).append - fresh)
      Completes (.tlrd ch true f) s ((noted s [v] s).landReg f.d v 4)) ∧
    (Ready (.waitc ch h) h.g s → Drained s → (s.src h.a).toNat ≤ (s.core.chain ch).counter →
      Completes (.waitc ch h) s (s.modCore (fun k => k.acquired ch (fun n => decide (n ≤ (s.src h.a).toNat)))).syncDone) ∧
    (Ready (.waitc ch h) h.g s → Drained s → (s.core.chain ch).counter < (s.src h.a).toNat →
      ∃ t : State, exec (.waitc ch h) s = .next t ∧ t.here.pc = s.here.pc ∧ t.here.wait.isSome = true)

/-! ### Scratch and rings (spec/07 R140 to R150; spec/08 R159, R160) -/

/-- SALLOC, SFREE, WIND and LIFE (R346, R351, R406, R322). SFREE and WIND take effect at the end of the cycle (R143).
The tags of a new allocation that the spec leaves open are free values (DESIGN CHOICE, log 4). Where a new allocation is placed, and so
whether it fits, and which id it takes are the model's choice (DESIGN CHOICE, log 18). -/
def Obligations.AllocationWordsComplete : Prop :=
  ∀ (s : State) (g : Guard) (d : BitVec 5) (wbs bk z : Bool) (u : BitVec 20) (f : OpA) (h : OpAB) (x : Src) (a : Alloc)
    (id base : Nat),
    s.core.hub = false →
    (Ready (.salloc g d wbs u bk z) g s → Journals s → freeId s.core = some id → placeAlloc s.core (4096 * u.toNat) = some base →
      let p := w64 ((pickTag s.core id s.draw.1).toNat * 2 ^ 60 + id * 2 ^ 24)
      Completes (.salloc g d wbs u bk z) s
        (((noted s [p, w64 base] s.draw.2).makeAlloc p (w64 base) (4096 * u.toNat) bk z).landPlain d wbs p 4)) ∧
    (Ready (.salloc g d wbs u bk z) g s → Journals s →
      (freeId s.core = none ∨ placeAlloc s.core (4096 * u.toNat) = none) →
      Completes (.salloc g d wbs u bk z) s ((noted s [-1, 0] s).landPlain d wbs (-1) 4)) ∧
    (Ready (.sfree f) f.g s → checkScratch124 s.core (s.src f.a) = .ok a →
      let k := s.core.applyPut (.free a.id s.here.ord)
      Completes (.sfree f) s (s.landLater [.free a.id s.here.ord]) ∧ k.alloc a.id = none ∧
        (∀ i, i ≠ a.id → k.alloc i = s.core.alloc i) ∧ k.ringOf a.id = none) ∧
    (Ready (.wind h) h.g s → checkScratch124 s.core (s.src h.a) = .ok a →
      (a.backed = false → a.expired = false ∧ s.core.nowAt < a.expiry) →
      let then' := s.core.nowAt + min (s.src h.b).toNat 1600
      let k := s.core.applyPut (.expiry a.id then')
      Completes (.wind h) s ((s.modCore (fun k => modAlloc k a.id (Alloc.note s.here.ord))).landLater [.expiry a.id then']) ∧
        (∀ x, k.alloc a.id = some x → s.core.alloc a.id = some a →
          (a.backed = false → x.expiry = then' ∧ x.expired = false) ∧
          (a.backed = true → ∀ l ∈ x.lines, l.expiry = then' ∨ l ∈ a.lines ∧ l.lapsed s.core.nowAt = true))) ∧
    (Ready (.life g d wbs x) g s → Journals s → checkScratch124 s.core (s.src x) = .ok a →
      let v := w64 (lifeOf s.core a (ptrOff (s.src x)) s.core.nowAt)
      Completes (.life g d wbs x) s ((noted s [v] s).landPlain d wbs v 4))

/-- SMAP, SUNMAP, LOCK and UNLOCK (R354, R360, R323, R370). An empty range pins nothing and drops nothing. UNLOCK drops its pins at the
end of its cycle, so that no LOCK of that cycle sees them gone. Which lines conflict is the model's reading of R323 (DEDUCED, log 27). -/
def Obligations.WindowWordsComplete : Prop :=
  ∀ (s s1 : State) (h : OpAB) (len : BitVec 32) (f : OpA) (k : AluRR) (a : Alloc) (w : Nat) (ps : List Piece),
    s.core.hub = false →
    (Ready (.smap h len) h.g s → checkScratch124 s.core (s.src h.a) = .ok a → a.backed = true → a.size ≤ len.toNat →
      (s.src h.b).toNat / 2 ^ 56 % 16 = 0 → (s.src h.b).toNat % 256 = 0 →
      Completes (.smap h len) s (s.modCore (fun k => modAlloc (k.unmap a.id s.here.ord) a.id (fun a =>
        { a with window := some ((s.src h.b).toNat % 2 ^ 56, len.toNat) })))) ∧
    (Ready (.sunmap f) f.g s → checkScratch124 s.core (s.src f.a) = .ok a → a.backed = true →
      ∃ t : State, Completes (.sunmap f) s t ∧
        (∀ b, t.core.alloc a.id = some b → b.window = none ∧ b.lines = []) ∧
        (∀ c p, p ∈ (t.core.ctx c).pins → p.1 ≠ a.id) ∧ t.mem = s.mem) ∧
    (Ready (.lock k) k.g s → checkRange s.core (s.src k.a) (s.src k.b) = .ok (a, w) → s.src k.b = 0 →
      Completes (.lock k) s (s.landReg k.d 0 4)) ∧
    (Ready (.lock k) k.g s → checkRange s.core (s.src k.a) (s.src k.b) = .ok (a, w) → s.src k.b ≠ 0 →
      let ls := linesOf (ptrOff (s.src k.a)) (s.src k.b).toNat
      checkVirtual s s.root (s.src k.a) (w + 128 * ls.headD 0) (128 * ls.length)
        { wr := false, poison := false, tag := false, race := false } none none 0 = .ok (ps, s1) →
      ∃ t : State, Completes (.lock k) s (t.landReg k.d (w64 (lockStatus s.core a ls)) 4) ∧
        (lockStatus s.core a ls = 0 → ∀ l ∈ ls, (a.id, l) ∈ t.here.pins) ∧
        (lockStatus s.core a ls ≠ 0 → t = s1)) ∧
    (Ready (.unlock h) h.g s → checkRange s.core (s.src h.a) (s.src h.b) = .ok (a, w) →
      let ls := rangeLines (ptrOff (s.src h.a)) (s.src h.b).toNat
      let drop : Put := .unpin (if s.core.merged then [.L, .C, .S] else [s.core.cur]) a.id ls
      let u := s.core.applyPut drop
      Completes (.unlock h) s (s.landLater [drop]) ∧
        (∀ c, ∀ l ∈ ls, (s.core.merged = true ∨ c = s.core.cur) → (a.id, l) ∉ (u.ctx c).pins) ∧
        (∀ c x, x ∈ (u.ctx c).pins → x ∈ (s.core.ctx c).pins) ∧
        (∀ c x, x ∈ (s.core.ctx c).pins → (x.1 ≠ a.id ∨ x.2 ∉ ls) → x ∈ (u.ctx c).pins) ∧ u.allocs = s.core.allocs)

/-- RINGI, AWAITF and RELS (R344, R291, R341): a ring starts Free at its allocation, under the lowest free number; AWAITF lands the pointer
of the Filled slot at RD; RELS frees that slot and advances RD; it blocks while the slot is not Filled, but not in replay. -/
def Obligations.RingWordsComplete : Prop :=
  ∀ (s : State) (h : AluRR) (f : OpD) (g : Guard) (n : BitVec 3) (a : Alloc) (r : Ring) (k sz ns : Nat),
    s.core.hub = false →
    (Ready (.ringi h) h.g s → checkScratch124 s.core (s.src h.a) = .ok a → (s.src h.b).toNat = ns * 65536 + sz →
      1 ≤ sz → sz < 65536 → 2 ≤ ns → ns ≤ 64 → a.backed = false → s.core.ringOf a.id = none → ptrOff (s.src h.a) = 0 →
      ns * sz * 256 ≤ a.size → s.ringNumber = some k →
      ∃ t : State, Completes (.ringi h) s (t.landReg h.d (w64 k) 4) ∧
        (∃ q, t.core.ring k = some q ∧ q.alloc = a.id ∧ q.slotsz = sz ∧ q.nslot = ns ∧ q.rels = 0 ∧ q.filled = 0 ∧ q.pend = []) ∧
        t.core.allocs = s.core.allocs) ∧
    (s.core.again = false → s.ringNumber = leastFree ((s.core.rings.filter (fun r => r.ended.isNone)).map (·.num)) 8) ∧
    (Ready (.awaitf n f) f.g s → Drained s → Journals s → s.core.ring n.toNat = some r → r.filled ≠ 0 →
      ∃ t : State, Completes (.awaitf n f) s (t.landReg f.d (r.pointer s.core) 4) ∧
        (∃ q, t.core.ring n.toNat = some q ∧ q.rels = r.rels ∧ q.filled = r.filled)) ∧
    (Ready (.rels g n) g s → Drained s → s.core.ring n.toNat = some r → r.filled ≠ 0 →
      ∃ t : State, Completes (.rels g n) s t ∧
        (∃ q, t.core.ring n.toNat = some q ∧ q.rels = r.rels + 1 ∧ q.filled = r.filled - 1 ∧
          q.pend = r.pend.filter (fun p => p.pos != r.rels))) ∧
    (Ready (.rels g n) g s → Drained s → s.core.ring n.toNat = some r → r.filled = 0 → s.core.inReplay = true →
      ∃ t : State, Completes (.rels g n) s t ∧
        (∃ q, t.core.ring n.toNat = some q ∧ q.rels = r.rels + 1 ∧ q.filled = 0 ∧ q.pend = r.pend.filter (fun p => p.pos != r.rels))) ∧
    (Ready (.rels g n) g s → Drained s → s.core.ring n.toNat = some r → r.filled = 0 → s.core.inReplay = false →
      ∃ t, exec (.rels g n) s = .next t ∧ t.here.pc = s.here.pc ∧ t.here.wait.isSome = true)

/-! ### Control words (spec/04 R78, R84 to R96; spec/20 to 22) -/

/-- JMP, JMPR, CALL, RET and NOP (R316, R317, R297, R343, R337). CALL lands the place of the word that follows. -/
def Obligations.TransfersComplete : Prop :=
  ∀ (s : State) (f : OpImm) (a : OpA) (c : OpDImm),
    (Ready (.jmp f) f.g s → s.transferOk (s.here.pc + f.imm.signExtend 64) = true →
      GoesTo (.jmp f) s (s.here.pc + f.imm.signExtend 64) 0) ∧
    (Ready (.jmpr a) a.g s → (s.src a.a).toNat % 4 = 0 → s.transferOk (s.src a.a) = true → GoesTo (.jmpr a) s (s.src a.a) 0) ∧
    (Ready (.ret a) a.g s → (s.src a.a).toNat % 4 = 0 → s.transferOk (s.src a.a) = true → GoesTo (.ret a) s (s.src a.a) 0) ∧
    (Ready (.call c) c.g s → s.transferOk (s.here.pc + c.imm.signExtend 64) = true →
      GoesTo (.call c) s (s.here.pc + c.imm.signExtend 64) c.d.reg ∧
      (s.core.interlocked = true → c.d.wbs = false → c.d.reg ≠ 0 →
        ∀ t, exec (.call c) s = .next t → (t.core.ctx s.core.cur).get c.d.reg = s.here.pc + 12)) ∧
    (Ready (.nop f) f.g s → Completes (.nop f) s s)

/-- EXIT and ABORT (R308, R280): the task leaves its core. EXIT waits until every chain is done and gives status 0; ABORT gives code
0x42 with its immediate, and ends once no issued entry and no pool word is left. -/
def Obligations.EndOfTask : Prop :=
  ∀ (s : State) (g : Guard) (f : OpImm) (k : Task), s.core.hub = false → s.core.task = some k →
    (Ready (.exit g) g s → s.core.inHandler = false → Drained s → Appended s → (∀ ch, (s.core.chain ch).counter = (s.core.chain ch).append) →
      ∃ t, exec (.exit g) s = .next t ∧ t.core.task = none ∧ t.core.lastTask = some (k, 0) ∧ k.num ∈ t.m.endedTasks) ∧
    (Ready (.abort f) f.g s → (∀ ch, ∀ e ∈ (s.core.chain ch).entries, e.begun = false) →
      (∀ r ∈ s.m.reqs, r.core = s.core.num → r.answer ≠ none) →
      ∃ t, exec (.abort f) s = .next t ∧ t.core.task = none ∧
        t.core.lastTask = some (k, 0x42 + (f.imm.setWidth 64 <<< 32)) ∧ k.num ∈ t.m.endedTasks)

/-- TRAP and the words of class X, and SVC (R84, R361, R367). On a hub core TRAP and SVC enter mode M, at vectors 0x101 and 0x100 of
the model's own numbering (DESIGN CHOICE, log 12), and a system call's begin is noted (R266). On a task TRAP and every class X word take
the emulation trap, code 0x19 with the word in AUX. SVC lands the results of its service; an unknown number gives all ones. -/
def Obligations.TrapAndServiceWords : Prop :=
  ∀ (s : State) (f : OpImm) (rest : BitVec 93) (x1 : Word) (x2 : Option Word),
    (Ready (.trap f) f.g s → s.core.hub = false →
      Takes (.trap f) s (s.unbank.takeFault { code := 0x19, addr := 0, lane := 0, aux := auxWord (.trap f) })) ∧
    (Ready (.trap f) f.g s → s.core.hub = true → Takes (.trap f) s ((s.modCore (fun k => k.count 1 1)).hubTrap .m 0x101)) ∧
    (s.wlog = [] → Takes (.emulationTrap rest) s
      (s.unbank.takeFault { code := 0x19, addr := 0, lane := 0, aux := auxWord (.emulationTrap rest) })) ∧
    (Ready (.svc f) f.g s → s.core.hub = true → s.core.inHandler = false →
      Takes (.svc f) s ((s.modCore (fun k => (k.count 1 1).systemCall s.m.wall)).hubTrap .m 0x100)) ∧
    (ReadyOnCore (.svc f) f.g s → Drained s → s.core.svc = some (f.imm, some (x1, x2)) →
      Completes (.svc f) s (s.serviceDone x1 x2)) ∧
    (ReadyOnCore (.svc f) f.g s → Drained s → s.core.svc = none → f.imm.toNat ∉ [0x21, 0x30, 0x31, 0x40, 0x50] →
      Completes (.svc f) s (s.serviceDone (-1) none))

/-- ERET and ERET.SKIP (R307): from a task's handler to the faulting word, or to the one after it, with x1 and x2 as the fault
record holds them; on a hub core to the top of the trap stack, whose mode returns; from an in-place trap to the word it stopped
at, or past it, where a section may end; behind a BKPT there is no word left to skip (DEDUCED, log 109), and x1 and x2 where the record
cannot be read are not stated (log 112). -/
def Obligations.ReturnFromException : Prop :=
  ∀ (s : State) (g : Guard) (skip : Bool) (p : Pend) (k : Task) (b1 b2 : Bytes) (pc : Word) (m : Mode) (r : List (Word × Mode))
    (x : InPlace),
    Ready (.eret g skip) g s →
    (s.here.trap = none → s.core.phase = .handler p → s.core.task = some k → devRead s k.root (k.faultAddr.toNat + 96) 8 = some b1 →
      devRead s k.root (k.faultAddr.toNat + 104) 8 = some b2 →
      ∃ t, exec (.eret g skip) s = .next t ∧ t.core.c.pc = (if skip then p.lpc + 12 else p.lpc) ∧
        t.core.c.get 1 = w64 (leNat b1) ∧ t.core.c.get 2 = w64 (leNat b2) ∧
        t.core.phase = (if skip then .run else .retry p) ∧ t.mem = s.mem) ∧
    (s.core.phase = .run → s.core.hub = true → s.here.trap = none → s.core.traps = (pc, m) :: r →
      ∃ t, exec (.eret g skip) s = .next t ∧ t.here.pc = (if skip then pc + 12 else pc) ∧ t.core.mode = m ∧ t.core.traps = r ∧
        t.mem = s.mem) ∧
    (s.here.trap = some x →
      ∃ t, exec (.eret g skip) s = .next t ∧ t.here.pc = (if skip ∧ x.after = false then x.pc + 12 else x.pc) ∧ t.here.trap = none ∧
        t.here.sbm = (!x.list.isEmpty || s.core.flights.any (fun f => f.ctx == s.core.cur && f.late.isSome)) ∧ t.mem = s.mem ∧
        (skip = true → x.after = false → s.core.merged = false → (x.pc + 12).toNat = s.here.secEnd →
          t.here.secDone = s.here.secNo ∧ t.here.ended = (s.here.ended || s.here.last) ∧ t.here.hdr = (s.here.hdr || !s.here.last)))

/-- BKPT (R294): with no debugger attached it only goes on, and so does one that replay runs again; in the slice view it stops its context
in place after the word; in the logical view a merged task stops after it, and a sliced one calls for the rebuild that stops there.
With no debugger a watchpoint or a breakpoint does not stop (DEDUCED, log 19). -/
def Obligations.BreakpointCompletes : Prop :=
  ∀ (s : State) (f : OpImm), Ready (.bkpt f) f.g s → s.core.hub = false →
    (s.core.debugger = .none ∨ s.core.again = true → Completes (.bkpt f) s s) ∧
    (s.core.debugger = .slice → s.core.again = false → ∃ t, exec (.bkpt f) s = .next t ∧ t.here.trap.isSome = true ∧ t.mem = s.mem) ∧
    (s.core.debugger = .logical → s.core.again = false → s.place = .plain → ∃ t, exec (.bkpt f) s = .next t ∧
      t.here.pc = s.here.pc + 12 ∧ (∃ p o, t.core.phase = .stopped p o) ∧ t.mem = s.mem) ∧
    (s.core.debugger = .logical → s.core.again = false → s.place = .slice → ∃ t, exec (.bkpt f) s = .next t ∧
      (∃ p, t.core.phase = .pend p ∧ p.why = .stop true ∧ p.lpc = s.lpc) ∧ t.mem = s.mem)

/-- SREAD, SWRITE and TLBI (R355, R362, R365). A register that is not journalled is read at issue; SWRITE takes effect at the end of
its issue cycle; TLBI drops from every core the translations it names, and no other. -/
def Obligations.SystemWordsComplete : Prop :=
  ∀ (s s1 : State) (f : OpD) (a : OpA) (h : OpAB) (num : BitVec 12) (n : BitVec 32),
    (Ready (.sread f num) f.g s → sysReadable s.mode num.toNat = true → sysJournalled num.toNat = false →
      Completes (.sread f num) s (s.landReg f.d (sysValue s num.toNat) 4)) ∧
    (Ready (.sread f num) f.g s → sysReadable s.mode num.toNat = true → sysJournalled num.toNat = true → num.toNat ≠ 0x203 →
      recorded s = .none → Journals s →
      recordEntry (noted s [sysValue s num.toNat] s) (some (sysValue s num.toNat)) 0 = .ok s1 →
      Completes (.sread f num) s (s1.landReg f.d (sysValue s num.toNat) 4)) ∧
    (Ready (.sread f num) f.g s → sysReadable s.mode num.toNat = true → num.toNat = 0x203 → recorded s = .none → Journals s →
      recordEntry (noted s [] s) none 0 = .ok s1 →
      Completes (.sread f num) s (s1.await f.d [.reg s1.core.cur f.d.reg 0] 8 none)) ∧
    (Ready (.swrite a num) a.g s → sysWritable s.mode num.toNat = true →
      Completes (.swrite a num) s (s.landLater [.sys s.core.cur num (s.src a.a)])) ∧
    (Ready (.tlbi h n) h.g s → s.mode ≠ .u →
      ∃ t : State, Completes (.tlbi h n) s t ∧ t.mem = s.mem ∧ t.m = s.m ∧
        (∀ e, e ∈ t.core.tlb ↔ e ∈ s.core.tlb ∧ tlbiHits (s.src h.a) (s.src h.b) n.toNat e = false) ∧
        (∀ k ∈ t.others, ∀ e ∈ k.2.tlb, tlbiHits (s.src h.a) (s.src h.b) n.toNat e = false))

/-- TSTEP (R32, R34, R35, R368). In merged running, with nothing in its way, it claims the step, lands the six coordinates, and the
step's checkpoint is written and closes the step before. In a slice each context's TSTEP captures its part, marks its chains and lands
the coordinates: L claims the step, C and S take the entry that the window holds; S, with all three parts, writes the checkpoint, in
which a register is L's where L's mask holds it, else C's, else S's, and the steps before it close. L blocks while four steps are open,
C while L has not claimed the step, S while a part is missing; S's diverges where a replay has left an entry of the step behind (R267). A claim takes the tile that the walker gives, and from a walker that is
exhausted no tile: coordinate 0 is all ones, the others 0, and the step index stays. -/
def Obligations.StepWordCompletes : Prop :=
  (∀ (s s1 : State) (d : BitVec 5) (b : Src) (mask : BitVec 32) (k : Task) (e : StepEntry),
    ReadyOnCore (.tstep d false b mask) ⟨false, 0, 0⟩ s → s.core.merged = true → s.core.cur = .C → s.here.trap = none →
    s.core.task = some k → s.core.stop = none → s.core.returning = false → checkAlist s.core (s.src b) = .ok () →
    (∀ ch, (s.core.chain ch).slot < 31) → s.claimStep .C s.lpc = .ok s1 → s1.core.nextEntry .C = some e →
    e.coords.length = 6 → d ≠ 0 → d.toNat + 5 < 32 →
    ∃ t, exec (.tstep d false b mask) s = .next t ∧
      (∀ i, i < 6 → t.core.c.get (d + BitVec.ofNat 5 i) = e.coords.getD i 0) ∧
      (∀ n : BitVec 5, n.toNat < d.toNat ∨ d.toNat + 6 ≤ n.toNat → t.core.c.get n = s.core.c.get n) ∧
      t.core.ckpt.idx = e.idx ∧ t.core.ckpt.ord = s.here.ord + 1 ∧ t.core.ckpt.lpc = s.lpc ∧ t.core.ckpt.coords = e.coords ∧
      (∀ i, 1 ≤ i → i < 32 → t.core.ckpt.xs.getD i 0 = if mask.getLsbD i then s.core.c.get (BitVec.ofNat 5 i) else 0)) ∧
  (∀ (s : State) (d : BitVec 5) (b : Src) (mask : BitVec 32) (k : Task),
    ReadyOnCore (.tstep d false b mask) ⟨false, 0, 0⟩ s → s.core.merged = false → s.core.task = some k → Drained s → Appended s →
    checkAlist s.core (s.src b) = .ok () → (∀ ch, (s.core.chain ch).slot < 31) →
    let p := s.capture s.core.cur mask (s.src b) s.lpc s.secBefore
    let captured (s1 : State) (e : StepEntry) : State :=
      (s1.modCore (fun k => { k with window := k.window.map (fun x => if x.ord == s.here.ord + 1 then x.setPart s.core.cur p else x) })).modHere
        (fun x => x.opened e)
    (∀ s1 e, s.core.cur = .L → (s.core.window.length < 4 ∨ (s.core.nextEntry .L).isSome = true) → s.claimStep .L s.lpc = .ok s1 →
      s1.core.nextEntry .L = some e → e.coords.length = 6 →
      Completes (.tstep d false b mask) s (((captured s1 e).mark .tci).landCoords d false e.coords)) ∧
    (∀ e, s.core.cur = .C → s.core.nextEntry .C = some e → e.coords.length = 6 →
      Completes (.tstep d false b mask) s (((captured s e).mark .tmx).landCoords d false e.coords)) ∧
    (∀ e l c, s.core.cur = .S → s.core.stop = none → s.leftBehind (s.here.ord + 1) s.lpc = false → s.core.nextEntry .S = some e → e.l = some l → e.c = some c → e.coords.length = 6 →
      let u := (((captured s e).mark .tco).mark .tsx).finishStep (s.here.ord + 1)
      Completes (.tstep d false b mask) s (u.landCoords d false e.coords) ∧
        u.core.ckpt.ord = s.here.ord + 1 ∧ u.core.ckpt.idx = e.idx ∧ u.core.ckpt.lpc = s.lpc ∧ u.core.ckpt.coords = e.coords ∧
        u.core.ckpt.alist = s.src b ∧ u.core.ckpt.round = c.round ∧ u.core.ckpt.flags = l.flags ||| c.flags ||| s.here.fflags ∧
        (∀ i, 1 ≤ i → i < 32 → u.core.ckpt.xs.getD i 0 =
          if l.mask.getLsbD i then l.xs.getD i 0 else if c.mask.getLsbD i then c.xs.getD i 0
          else if mask.getLsbD i then s.here.get (BitVec.ofNat 5 i) else 0) ∧
        (∀ w ∈ u.core.window, s.here.ord + 1 ≤ w.ord)) ∧
    ((s.core.cur = .L ∧ s.core.nextEntry .L = none ∧ 4 ≤ s.core.window.length) ∨
      (s.core.cur = .C ∧ s.core.nextEntry .C = none) ∨
      (s.core.cur = .S ∧ ∀ e, s.core.nextEntry .S = some e → e.l = none ∨ e.c = none) →
      Takes (.tstep d false b mask) s (s.blockOn (.tstep d false b mask))) ∧
    (∀ e, s.core.cur = .S → s.core.nextEntry .S = some e → e.l.isSome = true → e.c.isSome = true →
      s.leftBehind (s.here.ord + 1) s.lpc = true →
      ∃ t, exec (.tstep d false b mask) s = .next t ∧ t.agenda = .row .replayDivergence :: s.agenda ∧ t.here.pc = s.here.pc ∧ t.mem = s.mem)) ∧
  (∀ (s : State) (c : Ctx) (lpc : Word) (k : Task) (n : Node),
    s.core.task = some k → k.replay = false → k.record = false → s.core.nextEntry c = none → s.m.taskNode k = some n →
    ∃ s1 e, s.claimStep c lpc = .ok s1 ∧ s1.core.nextEntry c = some e ∧ s1.core.window = s.core.window ++ [e] ∧
      e.l = none ∧ e.c = none ∧ e.s = none ∧
      (∀ i, k.spent = false → n.nextTile = some i → e.tile = some i ∧ e.coords = n.params.coords i ∧ e.idx = (s.core.ctx c).step + 1) ∧
      (k.spent = true ∨ n.nextTile = none →
        e.tile = none ∧ e.coords = [-1, 0, 0, 0, 0, 0] ∧ e.idx = (s.core.ctx c).step))

/-- BSYNC (R295): once every member has arrived, the reduction lands in all three contexts, the snapshots of all members merge and
the region advances; the release covers the copy-outs and SENDs that it has waited for (R182).
Operands from other modules are free values (DESIGN CHOICE, log 49). -/
def Obligations.BarrierWordCompletes : Prop :=
  ∀ (s : State) (op : BsyncOp) (f : OpDA) (k : Task) (n : Node) (g : Gathered),
    ReadyOnCore (.bsync op f) f.g s → Drained s → Appended s → s.core.task = some k → k.pool = false → s.journalHit = none →
    (s.core.journal.length < 256 ∨ s.core.window = []) → s.core.tco.counter = s.core.tco.append →
    s.core.tsx.counter = s.core.tsx.append → s.m.taskNode k = some n →
    let merge (t : Task) : Task := { t with sight := mergeSnap (some t.agent) t.sight g.entries g.evicted, bsyncs := g.k }
    let covered := s.modCore (fun k => (k.acquired .tco (fun _ => true)).acquired .tsx (fun _ => true))
    let came := covered.arriveBsync k (k.bsyncs + 1) op (s.src f.a)
    (n.gathered (k.bsyncs + 1) = some g →
      Completes (.bsync op f) s ((noted s [g.val] (s.modTask merge)).syncDone.landBsync f.d g.val)) ∧
    (n.gathered (k.bsyncs + 1) = none → n.broken = false →
      (came.m.taskNode k).bind (fun n => n.gathered (k.bsyncs + 1)) = some g →
      Completes (.bsync op f) s ((noted came [g.val] (came.modTask merge)).syncDone.landBsync f.d g.val))

/-- MPUT, MTAKE, MSTAT and MCTL (R330 to R332, R326; R181: the release fences before an MPUT pair with it): with a handle that names a pool of the caller's tenant, the request stands at
the local shard and the results are awaited, each of them one result in flight (DEDUCED, log 45: R63 counts results, and does not say
that a word of several has several). What record mode keeps for a word of three results is log 43 (DEDUCED), and a hub core's words act as tenant 0
by log 21 (DESIGN CHOICE). MSTAT's are read at issue; a control word outside the limits or against held elements changes nothing;
one that is applied waits for the notices of the shards whose fences it lowered, and for no others.
Remote outcomes are free values (DESIGN CHOICE, log 4). -/
def Obligations.PoolWordsComplete : Prop :=
  ∀ (s s1 : State) (g : Guard) (d : Dst) (a : Src) (b : BitVec 5) (f : OpDA) (h : AluRR) (p : Pool),
    (Ready (.mput g d a b) g s → s.core.inHandler = false → Unheld s → recorded s = .none → recordEntry s none 0 = .ok s1 → poolOf s (s.src a) = some p →
      Completes (.mput g d a b) s (marked ((s1.askPool p (s.src a) (.put (s.reg b) (s.reg (b + 1)))
        (poolPuts s.core.cur d 1) d none false).takeFences.syncDone))) ∧
    (Ready (.mtake f) f.g s → RoomFor 3 s → s.core.inHandler = false → Unheld s → recorded s = .none → holdRecords s 3 = .ok s1 → poolOf s (s.src f.a) = some p →
      Completes (.mtake f) s (marked ((s1.askPool p (s.src f.a) (.take true)
        (poolPuts s.core.cur f.d 3) f.d none false).syncDone))) ∧
    (Ready (.mstat f) f.g s → RoomFor 2 s → poolOf s (s.src f.a) = some p →
      Completes (.mstat f) s (s.askPool p (s.src f.a) .stat (poolPuts s.core.cur f.d 2) f.d
        (some (.done (p.stat s.m.now (localShard s.core.num p.dies)) none)) false)) ∧
    (Ready (.mctl h) h.g s → s.core.inHandler = false → poolOf s (s.src h.a) = some p → p.ctlStatus (s.src h.b).toNat = 0 →
      Completes (.mctl h) s ((s.modM (fun m => m.modPool p.num (fun p => p.applyCtl (s.src h.b).toNat))).askPool p (s.src h.a)
        (.ctl (s.src h.b)) (poolPuts s.core.cur h.d 1) h.d none true ((p.falling (s.src h.b).toNat).map (·.die)))) ∧
    (Ready (.mctl h) h.g s → s.core.inHandler = false → poolOf s (s.src h.a) = some p → p.ctlStatus (s.src h.b).toNat ≠ 0 →
      Completes (.mctl h) s (s.askPool p (s.src h.a) (.ctl (s.src h.b)) (poolPuts s.core.cur h.d 1) h.d
        (some (.done [w64 (p.ctlStatus (s.src h.b).toNat)] none)) false))

/-! ### The sequencer, faults and stops (spec/02, spec/03, spec/15, spec/17) -/

/-- RESULT_LANDING, EXTERNAL_RESULT_ARRIVAL, CONTEXT_UNBLOCK, SECTION_HEADER_CHECK, STRING_WAIT_SATISFIED, SECTION_RETIRE and
STALL_WATCHDOG. A cycle that is not frozen lands exactly the results that are due and advances the cycle count; a frozen one
advances neither; a cycle that has begun unfrozen ends unfrozen (R64). Data from outside that come in time are left to land in their
cycle; overdue ones, and any in merged running, land at once. A good header with no open string is entered at its first word, 8 bytes
on. The report of the watchdog at a header gives as logical PC the last word issued, where R27 asks for the last one (DESIGN CHOICE, log 46); at
a blocked word it names that word (R241).
That a row which may not happen changes nothing is the model's choice (DESIGN CHOICE, log 6). -/
def Obligations.SequencerEvents : Prop :=
  ∀ (s : State) (c : Ctx) (f : Flight) (d : BitVec 5) (v : Word) (r : Req) (vals : List Word) (sn : Option Snap) (i : Instr)
    (since : Nat) (b : Bytes), s.wlog = [] →
    let x := s.core.ctx c
    let ending := ∃ st ds, s.core.phase = .ending st ds
    (s.core.slot ≠ .hold → (s.core.slot = .l → s.core.frozen = false) → ∃ t, exec .resultLanding s = .next t ∧
      t.core.cyc = s.core.cyc + 1 ∧ t.core.slot = .l ∧ t.core.flights = s.core.staying ∧ t.mem = s.mem ∧
      (¬ending →
        t.core.flights.filter (·.arrived) = s.core.flights.filter (fun f => f.arrived && !decide (f.landAt ≤ s.core.cyc)) ∧
        (s.core.flights = [f] → f.arrived = true → f.landAt ≤ s.core.cyc → f.puts = [.reg f.ctx d v] → d ≠ 0 →
          (t.core.ctx f.ctx).get d = v)) ∧
      (ending → t.core.flights.filter (·.arrived) = s.core.flights.filter (·.arrived))) ∧
    (s.core.slot = .hold ∨ (s.core.slot = .l ∧ s.core.frozen = true) → ∃ t, exec .resultLanding s = .next t ∧
      t.core.cyc = s.core.cyc ∧ t.core.flights = s.core.flights ∧ t.m.wall = s.m.wall + s.core.period) ∧
    (s.m.reqs.find? (fun r => r.core == s.core.num && r.answer.isSome) = some r → r.answer = some (.done vals sn) → ¬ending →
      ∃ t, exec .externalResultArrival s = .next t ∧ t.m.reqs = s.m.reqs.filter (fun q => q.num != r.num) ∧
        (∀ f ∈ t.core.flights, f.req = some r.num → f.arrived = true)) ∧
    (s.m.reqs.find? (fun r => r.core == s.core.num && r.answer.isSome) = none →
      s.core.flights.find? (fun f => f.ext && !f.arrived) = some f →
      ∃ t, exec .externalResultArrival s = .next t ∧ t.m = s.m ∧ t.mem = s.mem ∧
        (t.core.flights.filter (fun g => !g.arrived)).length < (s.core.flights.filter (fun g => !g.arrived)).length ∧
        (s.core.interlocked = false → f.late = none → s.core.cyc ≤ f.landAt → f ∉ t.core.flights ∧
          { f with arrived := true } ∈ t.core.flights ∧ ∀ c n, (t.core.ctx c).get n = (s.core.ctx c).get n) ∧
        (s.core.flights = [f] → f.late = none → (s.core.interlocked = true ∨ f.landAt < s.core.cyc) → f.puts = [.reg f.ctx d v] → d ≠ 0 →
          t.core.flights = [] ∧ (t.core.ctx f.ctx).get d = v)) ∧
    (x.wait = some (i, since) → x.woken = false →
      (let k : State := { s with core := { s.core with cur := c } }
       Drained k ∧ ready k i = true ∧ ∀ l ∈ s.core.lates, l.ctx = c → k.core.lateReady l = false) →
      ∃ t, exec (.contextUnblock c) s = .next t ∧ (t.core.ctx c).woken = true ∧ (t.core.ctx c).pc = x.pc ∧ t.mem = s.mem) ∧
    (x.wait = some (i, since) → x.woken = false → deviceWakes i = true →
      (let k : State := { s with core := { s.core with cur := c } }
       Drained k ∧ ready k i = false ∧ ∀ l ∈ s.core.lates, l.ctx = c → k.core.lateReady l = false) →
      ∃ t, exec (.contextUnblock c) s = .next t ∧ (t.core.ctx c).woken = true ∧ t.mem = s.mem ∧
        (t.core.ctx c).monitor = x.monitor.map (fun m => { m with event := true })) ∧
    (s.core.running = true → x.hdr = true → x.strings = [] → x.ended = false → x.trap = none →
      devRead s s.root ((s.sliceOf c).img + x.pc).toNat 8 = some b → hdrOk (leNat b) = true →
      (∀ w ∈ stringsOf c (leNat b) (x.secNo + 1), s.core.satisfied w = true) →
      ∃ t, exec (.sectionHeaderCheck c) s = .next t ∧ (t.core.ctx c).hdr = false ∧
        (t.core.ctx c).pc = w64 (x.pc.toNat + 8) ∧ (t.core.ctx c).secNo = x.secNo + 1 ∧
        (t.core.ctx c).secEnd = x.pc.toNat + 8 + 12 * hdrLen (leNat b) ∧ t.mem = s.mem) ∧
    (s.core.running = true → x.hdr = true → x.strings ≠ [] → s.core.drained c = true → x.strings.all s.core.satisfied = true →
      ∃ t, exec (.stringWaitSatisfied c) s = .next t ∧ (t.core.ctx c).hdr = false ∧ (t.core.ctx c).strings = [] ∧
        (t.core.ctx c).pc = w64 (x.secStart + 8)) ∧
    (s.core.running = true → s.core.canRetire c = true →
      ∃ t, exec (.sectionRetire c) s = .next t ∧ (t.core.ctx c).retired = x.retired + 1 ∧
        (∀ e, e ≠ c → (t.core.ctx e).retired = (s.core.ctx e).retired)) ∧
    (s.core.task.isSome = true → x.hdr = true → (∃ w ∈ x.strings, s.core.satisfied w = false) →
      s.m.stallTimeout < s.m.now - x.stringSince →
      ∃ t, exec (.stallWatchdog c) s = .next t ∧
        t.core.phase = .ending (statusOf 0x21 x.lastLpc.toNat) [.L, .C, .S] ∧ t.m.stalls.length = s.m.stalls.length + 1) ∧
    (∀ ch o, s.core.task.isSome = true → x.hdr = false → x.wait = some (.waitc ch o, since) → s.m.stallTimeout < s.m.now - since →
      ∃ t, exec (.stallWatchdog c) s = .next t ∧ t.core.phase = .ending (statusOf 0x21 (s.nextLpc c).toNat) [.L, .C, .S])

/-- PRECISE_FAULT_REBUILD, MERGED_REPLAY, HANDLER_ENTRY and EARLY_ENGINE_FAULT (R38, R243, R408). A rebuild sets the scalar registers of C
and the append numbers back to the checkpoint and goes on at its logical PC in merged running; what the slices' TSTEPs had captured for
later steps is discarded, and every journalled result is there for the replay; the handler is entered with the fault record's address
in x1 and the code in x2.
The replay target is the model's reading (DEDUCED, logs 7 and 8). -/
def Obligations.FaultEvents : Prop :=
  ∀ (s : State) (p : Pend) (k : Task) (code : BitVec 8) (h : Word) (ch : ChainId) (n : Nat), s.wlog = [] →
    s.core.task = some k →
    (s.core.phase = .pend p → p.early = false → p.why = .fault → s.core.busy = false → s.core.awaits = false →
      s.core.nonIdem = false →
      ∃ t, exec .preciseFaultRebuild s = .next t ∧ t.core.phase = .rebuilt p ∧ t.core.merged = true ∧ t.core.cur = .C ∧
        t.core.c.pc = s.core.ckpt.lpc ∧ (∀ i : BitVec 5, i ≠ 0 → t.core.c.get i = s.core.ckpt.xs.getD i.toNat 0) ∧
        (∀ c, (t.core.chain c).append = s.core.ckpt.tline.getD (chainCode c) 0) ∧ t.core.flights = [] ∧ t.core.lates = [] ∧
        (∀ e ∈ t.core.window, e.l = none ∧ e.c = none ∧ e.s = none) ∧ t.core.replayed = s.core.journal ++ s.core.replayed ∧
        t.mem = s.mem) ∧
    (s.core.phase = .rebuilt p →
      exec .mergedReplay s = .next { s with core := { s.core with phase := .replay p } }) ∧
    (s.core.phase = .replay p → p.why = .fault → s.core.atTarget p = true → handlerOf k p.flt.code = (code, h) → h ≠ Config.allOnes →
      ∃ t, exec .handlerEntry s = .next t ∧ t.core.phase = .handler p ∧ t.core.c.pc = h ∧ t.core.merged = true ∧
        t.core.c.get 1 = k.recAddr + 512 ∧ t.core.c.get 2 = code.setWidth 64) ∧
    (s.core.phase = .pend p → p.early = true → p.eng = some (ch, n) → p.flt.code ≠ 0x42 → p.flt.code ≠ 0x32 →
      ∃ t, exec (.earlyEngineFault ch) s = .next t ∧
        t.core.phase = .ending (statusOf p.flt.code.toNat p.lpc.toNat) [.L, .C, .S])

/-- IN_PLACE_TRAP, HAZARD_STOP, LOGPOINT, WATCHPOINT_STOP, DEBUG_LOGICAL_STOP, DEBUGGER_RESUME, PIPELINE_ERROR_ROLLBACK and
REPLAY_DIVERGENCE (R66, R69, R257, R263, R44, R251, R267). With a debugger attached a divergence stops in the logical view, however it
is attached. That the word resumed at passes the watchpoint it stopped before is the model's reading (DEDUCED, log 30); what a logpoint
lists for the life of a pointer that names no allocation is its choice (DESIGN CHOICE, log 86). -/
def Obligations.StopEvents : Prop :=
  ∀ (s : State) (c : Ctx) (hz : BitVec 4) (p q : Pend) (k : Task) (u : BitVec 8) (items : List LogItem),
    s.wlog = [] → s.core.task = some k →
    (s.core.trappable c = true → s.m.duty.getLsbD 0 = true →
      ∃ t x, exec (.inPlaceTrap c) s = .next t ∧ (t.core.ctx c).trap = some x ∧ x.pc = (s.core.ctx c).pc ∧
        (∀ f ∈ t.core.flights, f.ctx = c → f.arrived = true → f.counted = false) ∧
        (∀ e n, (t.core.ctx e).get n = (s.core.ctx e).get n) ∧ t.mem = s.mem) ∧
    (s.core.trappable c = true → (s.core.ctx c).dbg = true → 1 ≤ hz.toNat → hz.toNat ≤ 5 →
      ∃ t x, exec (.hazardStop c hz) s = .next t ∧ (t.core.ctx c).hz = hz ∧ (t.core.ctx c).trap = some x ∧
        x.pc = (s.core.ctx c).pc ∧ t.mem = s.mem) ∧
    (s.core.trappable c = true → s.core.debugger ≠ .none →
      ∃ t r, exec (.logpoint ⟨c, items⟩) s = .next t ∧ (t.core.ctx c).pc = (s.core.ctx c).pc ∧ (t.core.ctx c).trap = none ∧
        t.m.stops = s.m.stops ++ [r] ∧
        r.vals = items.map (State.logValue { s with core := { s.core with cur := c } }) ∧ t.mem = s.mem) ∧
    (c = s.core.cur → s.core.stopping = true → s.core.debugger = .logical → s.place = .slice →
      ∃ t q, exec (.watchpointStop c) s = .next t ∧ t.core.phase = .pend q ∧ q.why = .stop false ∧ q.lpc = s.lpc ∧
        t.m = s.m ∧ t.mem = s.mem) ∧
    (s.core.phase = .replay p → s.core.atTarget p = true → p.why = .stop false →
      ∃ t, exec (.debugLogicalStop .C) s = .next t ∧ t.core.phase = .stopped p none ∧ t.core.c = s.core.c ∧ t.mem = s.mem) ∧
    (s.core.phase = .stopped p none → s.core.hub = false →
      ∃ t, exec .debuggerResume s = .next t ∧ t.core.phase = (if p.why = .stop true then .run else .retry p) ∧
        t.here.pass = (p.why != .stop true) ∧ t.here.pc = s.here.pc ∧ t.mem = s.mem) ∧
    (s.core.phase = .stopped p (some (true, q)) →
      ∃ t, exec .debuggerResume s = .next t ∧ t.core.phase = .handler q ∧ t.here.pass = (p.why != .stop true) ∧ t.mem = s.mem) ∧
    (s.core.phase = .stopped p (some (false, q)) →
      ∃ t, exec .debuggerResume s = .next t ∧ t.core.phase = .replay q ∧ t.here.pass = (p.why != .stop true) ∧ t.mem = s.mem) ∧
    (s.core.phase = .run → s.core.rollbacks < 2 →
      ∃ t q, exec (.pipelineErrorRollback u) s = .next t ∧ t.core.phase = .pend q ∧ q.why = .rollback ∧
        t.core.rollbacks = s.core.rollbacks + 1 ∧ t.mem = s.mem) ∧
    (s.core.phase = .run → 2 ≤ s.core.rollbacks →
      ∃ t, exec (.pipelineErrorRollback u) s = .next t ∧ t.core.inService = false ∧
        (s.core.failing u = none → t.core.phase = .ending (statusOf 0x31 s.lpc.toNat) [.L, .C, .S]) ∧
        (∀ ch e, s.core.failing u = some (ch, e) → t.core.phase = .ending (statusOf 0x31 e.lpc.toNat) [.L, .C, .S])) ∧
    (k.replay = true → s.core.debugger ≠ .none → s.place = .slice →
      ∃ t q r, exec .replayDivergence s = .next t ∧ t.core.phase = .pend q ∧ q.why = .stop false ∧ q.lpc = s.lpc ∧
        t.m.stops = s.m.stops ++ [r] ∧ t.mem = s.mem) ∧
    (k.replay = true → s.core.debugger = .none → (∀ ch, ∀ e ∈ (s.core.chain ch).entries, e.begun = false) →
      (∀ r ∈ s.m.reqs, r.core = s.core.num → r.answer ≠ none) →
      ∃ t, exec .replayDivergence s = .next t ∧ t.core.task = none ∧ t.core.lastTask = some (k, 0xFFFFFFF000000042))

/-! ### Engines (spec/08) -/

/-- ENGINE_ENTRY_BEGIN, COPY_CHUNK, WBLD_CHUNK, MMA_PASS, ACLR_EXECUTE, ADRAIN_EXECUTE and ENGINE_ENTRY_COMPLETION, with no trace buffer
enabled. Any chunk of a copy, of a ring fill too (R157, R160), stores the bytes it read in register space, scratch or global memory and
nowhere else; bytes that a later chunk has already written stay (R157), and source bytes that the entry itself writes are free values
(DESIGN CHOICE, log 4); ACLR leaves zeros; a completed entry whose predecessors have completed takes the timeline counter to its NUMBER,
and a ring fill fills its slot once every slot assigned before is Filled (R160).
How an MMA is cut into passes is the model's reading (DEDUCED, log 35). -/
def Obligations.EngineEvents : Prop :=
  ∀ (s s1 s2 : State) (ch : ChainId) (n k : Nat) (e : Entry) (a b : Spot) (y : Word) (tg : Target) (x : PassIn) (r : Ring) (j : Nat × Nat),
    s.wlog = [] → s.core.phase = .run → s.core.throttled = false → s.core.traces = false →
    let q := s.modCore (fun k => { k with cur := e.ctx })
    (s.core.entry ch n = some e → mayBegin s.core ch e = true →
      ∃ t, exec (.engineEntryBegin ch n) s = .next t ∧ t.core.entry ch n = some { e with begun := true } ∧ t.mem = s.mem) ∧
    (s.core.entry ch n = some e → e.begun = true → e.kind = .copy → k ∉ e.done → k < prodList (nestOf e.body).count →
      engSpot q (if e.merged then .S else e.ctx) (nestOf e.body).ssp (nestOf e.body).src ((nestOf e.body).sAt k) (nestOf e.body).c
        false (s.engineWho e) k = .ok (a, s1) →
      destSpot s1 e (nestOf e.body) k (s.engineWho e) = .ok (b, y, s2) →
      engWatch q (s.core.watching e) [⟨(nestOf e.body).ssp, engAt s.core (nestOf e.body).ssp (nestOf e.body).src ((nestOf e.body).sAt k),
        (nestOf e.body).c, false⟩, ⟨(nestOf e.body).dsp, y, (nestOf e.body).c, true⟩] () = .ok () → Memory.wf s.mem = true →
      let base := match e.ring with
        | some (num, slot) => ((s.core.ring num).map (fun r => slot * r.slotsz * 256)).getD 0
        | none => 0
      let bs := keepLater e (nestOf e.body) base k (readSpot s2 (nestOf e.body).c b)
        (chunkBytes s2 e (nestOf e.body) base k (readSpot s2 (nestOf e.body).c a))
      ∃ t e', exec (.copyChunk ch n k) s = .next t ∧ t.core.entry ch n = some e' ∧ e'.done = k :: e.done ∧
        e'.first = some (e.first.getD s.core.nowAt) ∧ (∀ c m, (t.core.ctx c).get m = (s.core.ctx c).get m) ∧
        (∀ o, b = .regs o → t.core.rsRun o bs.length = bs ∧ t.mem = s.mem) ∧
        (∀ tg, b = .mem tg → t.core.rs = s.core.rs ∧
          (∀ y, y ∉ tg.places → t.mem.get y = s.mem.get y) ∧
          (∀ i y, tg.places[i]? = some y → t.mem.get y = bs.getD i 0) ∧
          (∀ id off m, tg = .priv id off m → ∃ y, t.core.alloc id = some y ∧ ∀ i, i < bs.length → y.byte (off + i) = bs.getD i 0)) ∧
        ((∀ i ∈ e.done, i < k) → sameSpace e (nestOf e.body) = false → bs = readSpot s2 (nestOf e.body).c a)) ∧
    (s.core.entry .tci n = some e → e.begun = true → e.kind = .wbld → k ∉ e.done → k < wbldChunks e →
      checkSpace q e.ctx .global (w64 (le e.body 0 8) + w64 (256 * k)) (min 256 (le e.body 12 4 - 256 * k)) { wr := false }
        (s.engineWho e) none k = .ok (tg, s1) → s.core.debugger = .none →
      ∃ t e', exec (.wbldChunk n k) s = .next t ∧ t.core.entry .tci n = some e' ∧ e'.done = k :: e.done ∧
        t.core.wb = s1.core.wb.putRun (le e.body 8 4 + 256 * k) (readTarget s1 tg) ∧ t.mem = s.mem) ∧
    (s.core.entry .tmx n = some e → e.begun = true → e.kind = .mma → e.done.length < prodList (tableOf e.body).count →
      passCheck q e (tableOf e.body) e.done.length = .ok (x, s1) →
      checkAcc s1 x (tableOf e.body) (!((List.range e.done.length).filter
        (fun p => (tableOf e.body).elem p == (tableOf e.body).elem e.done.length)).isEmpty) = .ok () →
      ∃ t e', exec (.mmaPass n) s = .next t ∧ t.core.entry .tmx n = some e' ∧ e'.done = e.done.length :: e.done ∧ t.mem = s.mem) ∧
    (s.core.entry .tmx n = some e → e.begun = true → e.kind = .aclr → e.done = [] → s.core.rsGen = none →
      ∃ t, exec (.aclrExecute n) s = .next t ∧
        (∀ b, le e.body 0 4 % 2 ^ 19 ≤ b → b < le e.body 0 4 % 2 ^ 19 + 65536 * le e.body 4 2 → t.core.rsByte b = 0) ∧
        (∀ b, b < le e.body 0 4 % 2 ^ 19 ∨ le e.body 0 4 % 2 ^ 19 + 65536 * le e.body 4 2 ≤ b → t.core.rsByte b = s.core.rsByte b) ∧
        t.mem = s.mem) ∧
    (s.core.entry .tmx n = some e → e.begun = true → e.kind = .adrain → e.done = [] →
      badRow s.core.badRegs (le e.body 0 4 % 2 ^ 19) 65536 = none →
      Takes (.adrainExecute n) s (s.modCore (fun k => drainRows e (k.modEntry .tmx n (fun e => { e with done := [0] })))) ∧
      ∃ t e', exec (.adrainExecute n) s = .next t ∧ t.core.entry .tmx n = some e' ∧ e'.done = [0] ∧
        (∀ c m, (t.core.ctx c).get m = (s.core.ctx c).get m) ∧ t.mem = s.mem) ∧
    (s.core.entry ch n = some e → e.begun = true → e.kind = .aclr → e.done.length = 1 → n = (s.core.chain ch).counter + 1 →
      (s.core.chain ch).finished = [] →
      ∃ t, exec (.engineEntryCompletion ch n) s = .next t ∧ (t.core.chain ch).counter = n ∧ t.core.entry ch n = none ∧
        t.mem = s.mem) ∧
    (s.core.entry ch n = some e → e.begun = true → e.kind = .copy → prodList (nestOf e.body).count ≤ e.done.length →
      e.ring = some j → s.core.rings = [r] → r.pend.map (·.num) = [n] →
      ∃ t y, exec (.engineEntryCompletion ch n) s = .next t ∧ t.core.rings = [y] ∧ y.filled = r.filled + 1 ∧ y.pend = [] ∧
        y.rels = r.rels ∧ t.mem = s.mem)

/-- SEND_PAYLOAD, SEND_FLAG_ADD and SEND_COMPLETION of a SEND to an address of the module (R169), with no trace buffer enabled: the payload
is written, then the flag grows by ADDEND with a release, then the counter advances; a flag that is a notify register takes the sum (R205). -/
def Obligations.SendEvents : Prop :=
  ∀ (s s1 s2 : State) (n : Nat) (e : Entry) (a : Spot) (tg : Target), s.wlog = [] → s.core.phase = .run →
    s.core.throttled = false → s.core.entry .tsx n = some e → e.begun = true → e.kind = .send → e.failed = none → e.remote = false →
    s.core.debugger = .none → s.core.traces = false →
    let len := le e.body 28 4
    let q := s.modCore (fun k => { k with cur := e.ctx })
    (e.done = [] →
      engSpot q .S (engSpace (le e.body 38 2 % 4)) e.src 0 len false (s.engineWho e) 0 = .ok (a, s1) →
      checkSpace s1 .S .global (w64 (le e.body 0 8)) len { wr := true } (s.engineWho e) none 0 = .ok (tg, s2) →
      ∃ u : State, Takes (.sendPayload n) s
          ((performWrite (performReadSpot s2 (s.engineWho e) a) (s.engineWho e) s.unchecked none (readSpot s2 len a) tg).modCore
            (fun k => { k.modEntry .tsx n (fun e => { e with done := [1] }) with cur := s.core.cur })) ∧
        exec (.sendPayload n) s = .next u ∧ u.core.entry .tsx n = some { e with done := [1] }) ∧
    (e.done = [1] → le e.body 8 8 ≠ 0 →
      checkSpace q .S .global (w64 (le e.body 8 8)) 8 { wr := true, align := true } (s.engineWho e) (some 8) 0 = .ok (tg, s1) →
      Takes (.sendFlagAdd n) s
        ((releaseEntry (performWrite s1 (s.engineWho e) s.unchecked (syncKey tg 8)
          (leBytes 8 ((leNat (readTarget s1 tg) + le e.body 16 8) % 2 ^ 64)) tg) e tg
          (w64 ((leNat (readTarget s1 tg) + le e.body 16 8) % 2 ^ 64))).modCore
            (fun k => { k.modEntry .tsx n (fun e => { e with done := [2, 1] }) with cur := s.core.cur }))) ∧
    (e.done.length = (if le e.body 8 8 = 0 then 1 else 2) → n = s.core.tsx.counter + 1 → s.core.tsx.finished = [] →
      ∃ t, exec (.sendCompletion n) s = .next t ∧ t.core.tsx.counter = n ∧ t.core.entry .tsx n = none ∧
        t.m.reports = s.m.reports ∧ t.mem = s.mem)

/-! ### Memory events (spec/07) -/

/-- TRANSLATION_MISS_WALK, CHAIN_EXTENSION, COPY_ON_WRITE_FIRST_WRITE, POISON_MAP_UPDATE and FADE_TICK, with no trace buffer enabled. A walk
changes nothing but the translation cache; a chain goes on in its new segment, and with no memory for one the task ends with code 0x23;
the copy of a COW page holds the bytes of the page, the leaf points to it with GEN flipped and COW clear, and nothing else of memory
changes (R252); every cached copy of a poison bit goes; the fade clock advances by one, which a cycle that has begun does not see (R142).
The addresses of new memory are free values (DESIGN CHOICE, log 4). -/
def Obligations.MemoryEvents : Prop :=
  ∀ (s : State) (va : Word) (e : TlbEntry) (ch : ChainId) (seg f : BitVec 48) (k : Task) (frame : Nat) (b : Bool) (pa sh : Nat),
    s.wlog = [] → s.core.traces = false →
    (s.core.tlb.find? (fun e => e.root == s.root && e.vpage == va.toNat % 2 ^ 56 / 4096) = none →
      walk s s.root (va.toNat % 2 ^ 56) = .ok e →
      ∃ t, exec (.translationMissWalk va) s = .next t ∧ t.core.tlb = e :: s.core.tlb ∧ t.mem = s.mem ∧
        (∀ c, t.core.ctx c = s.core.ctx c)) ∧
    (s.core.task = some k → 31 ≤ (s.core.chain ch).slot →
      (∃ t, exec (.chainExtension ch (some seg)) s = .next t ∧ (t.core.chain ch).seg = seg.setWidth 64 ∧
        (t.core.chain ch).slot = 0 ∧ (t.core.chain ch).append = (s.core.chain ch).append ∧
        (t.core.chain ch).entries = (s.core.chain ch).entries) ∧
      (∃ t w, exec (.chainExtension ch none) s = .next t ∧ t.core.phase = .ending (statusOf 0x23 w) [.L, .C, .S])) ∧
    (leafAt s (va.toNat % 2 ^ 56) s.root.toNat levels = some (pa, frame, sh) → bitOf frame 7 = true → bitOf frame 2 = true →
      ∃ t, exec (.copyOnWriteFirstWrite va (some f)) s = .next t ∧
        (∀ x ∈ t.core.tlb, ¬(x.root = s.root ∧ va.toNat % 2 ^ 56 / 2 ^ sh * 2 ^ sh ≤ x.vpage * 4096 ∧
          x.vpage * 4096 < va.toNat % 2 ^ 56 / 2 ^ sh * 2 ^ sh + 2 ^ sh)) ∧
        (∀ c, (t.core.ctx c).x = (s.core.ctx c).x) ∧
        (Memory.wf s.mem = true →
          let new := leNat (t.mem.getRun pa 8)
          bitOf new 7 = false ∧ bitOf new 6 = !bitOf frame 6 ∧ (∀ i, i < 6 → bitOf new i = bitOf frame i) ∧
          fld new 8 56 = fld f.toNat 8 40 ∧
          (∀ i, i < 2 ^ sh → let y := 4096 * leafFrame new (i / 4096 * 4096) sh + i % 4096
            y < pa ∨ pa + 8 ≤ y → t.mem.get y = s.mem.get (4096 * leafFrame frame (i / 4096 * 4096) sh + i % 4096)) ∧
          (∀ y, y < pa ∨ pa + 8 ≤ y → (∀ i, i < 2 ^ sh / 4096 → y / 4096 ≠ leafFrame new (4096 * i) sh) →
            t.mem.get y = s.mem.get y))) ∧
    (∃ t, exec (.poisonMapUpdate frame b) s = .next t ∧ t.m.poison.contains frame = b ∧
      (∀ g, g ≠ frame → t.m.poison.contains g = s.m.poison.contains g) ∧ (∀ x ∈ t.core.tlb, x.frame ≠ frame) ∧ t.mem = s.mem) ∧
    (∃ t, exec .fadeTick s = .next t ∧ t.m.now = s.m.now + 1 ∧
      t.core = (if s.core.slot = .l then { s.core with nowAt := s.m.now + 1 } else s.core) ∧ t.mem = s.mem)

/-- ALLOCATION_EXPIRY, ZERO_PENDING_CLEAR and the seven events of window lines (R141, R143, R148, R299), on the line or allocation
they name: fill, write-back 160 ticks before expiry, winding 16 ticks before, expiry, invalidation and recall by the home, and
the acknowledgement. Times are as the cycle that runs has sampled them (R142).
What ALLOCATION_EXPIRY does beside its flag is the model's choice (DESIGN CHOICE, log 51). -/
def Obligations.LineEvents : Prop :=
  ∀ (s s1 : State) (id : BitVec 8) (a : Alloc) (n row w g : Nat) (own : Bool) (ps : List Piece),
    s.wlog = [] → s.core.alloc id = some a →
    (a.backed = false → a.expiry ≤ s.core.nowAt →
      ∃ t, exec (.allocationExpiry id) s = .next t ∧ t.core.alloc id = some { a with expired := true } ∧ t.mem = s.mem) ∧
    (a.zero = true → 256 * row < a.size → row ∉ a.cleared →
      ∃ t, exec (.zeroPendingClear id row) s = .next t ∧ t.core.alloc id = some { a with cleared := a.cleared ++ [row] } ∧
        (∀ o, ({ a with cleared := a.cleared ++ [row] } : Alloc).byte o = a.byte o)) ∧
    (a.window = some (g, w) → 128 * n < w → (∀ l ∈ a.lines, l.num = n → l.lapsed s.core.nowAt = true) →
      checkVirtual s s.root 0 (g + 128 * n) 128 { wr := false, poison := false, tag := false, race := false } none none 0 =
        .ok (ps, s1) →
      Takes (.stashLineFill id n own) s ((ps.foldl (fun s p => s.snoop own (some id) p.pa p.n) s1).modCore (fun k =>
        modAlloc (k.healFills id (128 * n) ps) id (fun a => touchLines k s.core.nowAt own a (128 * n) ps)))) ∧
    (∀ l, a.lines = [l] → l.num = n →
      (l.st = .dirty → l.expiry ≤ s.core.nowAt + 160 → ∃ t b, exec (.stashDirtyWriteback id n) s = .next t ∧
        t.core.alloc id = some b ∧ b.lines = [{ l with st := .writing }]) ∧
      (l.st ≠ .clean → l.expiry ≤ s.core.nowAt + 16 → rowOf a n = row → ∃ t b, exec (.stashRowWind id row) s = .next t ∧
        t.core.alloc id = some b ∧ b.lines = [{ l with expiry := s.core.nowAt + 1600 }]) ∧
      (l.st = .clean → l.expiry ≤ s.core.nowAt → ∃ t b, exec (.stashCleanExpiry id n) s = .next t ∧ t.core.alloc id = some b ∧ b.lines = []) ∧
      (l.st = .clean → ∃ t b, exec (.stashHomeInvalidate id n) s = .next t ∧ t.core.alloc id = some b ∧ b.lines = []) ∧
      (l.st = .dirty → ∃ t b, exec (.stashHomeRecall id n) s = .next t ∧ t.core.alloc id = some b ∧ b.lines = []) ∧
      (l.st = .writing → l.inv = false → l.drop = false → ∃ t b, exec (.stashWritebackAck id n) s = .next t ∧ t.core.alloc id = some b ∧
        b.lines = [{ l with st := .clean }]) ∧
      (l.st = .rewritten → ∃ t b, exec (.stashWritebackAck id n) s = .next t ∧ t.core.alloc id = some b ∧
        b.lines = [{ l with st := .dirty }]))

/-! ### Scheduling events (spec/12) -/

/-- NOTIFY_WRITE, QUEUE_SLOT_GRANT, QUEUE_IDLE_EVICTION, QUEUE_PRIORITY_EVICTION and QUEUE_STARVATION_TAKEOVER (R205, R206), on the
queue they name. -/
def Obligations.QueueEvents : Prop :=
  ∀ (s : State) (q : Nat) (x y : Queue) (v : Word), s.wlog = [] → s.m.queue q = some x →
    (s.m.stage = 8 → q < 4096 → x.st ≠ .error → x.widx < v.toNat → v.toNat - x.ridx ≤ 2 ^ x.size →
      ∃ t z, exec (.notifyWrite (8 * q) 8 v) s = .next t ∧ t.m.queue q = some z ∧ z.widx = v.toNat ∧ z.st = .active ∧
        z.ridx = x.ridx ∧ t.mem = s.mem) ∧
    (s.m.stage = 8 → q < 4096 → x.st ≠ .error → x.widx < v.toNat → 2 ^ x.size < v.toNat - x.ridx →
      ∃ t z, exec (.notifyWrite (8 * q) 8 v) s = .next t ∧ t.m.queue q = some z ∧ z.st = .error ∧ z.widx = x.widx) ∧
    (s.m.slotted.length < 64 → s.m.waitHead = some x →
      ∃ t z, exec (.queueSlotGrant q) s = .next t ∧ t.m.queue q = some z ∧ z.slot = some s.m.now ∧ z.waiting = none) ∧
    (x.slot.isSome = true → (∀ p ∈ s.m.packets, p.q ≠ q) → x.notified + 1000 ≤ s.m.now →
      ∃ t z, exec (.queueIdleEviction q) s = .next t ∧ t.m.queue q = some z ∧ z.slot = none) ∧
    (s.m.queue y.num = some y → y.num ≠ q → s.m.waitHead = some y → s.m.lowest = some x → 64 ≤ s.m.slotted.length →
      x.prio < y.effective s.m.now →
      ∃ t z w, exec (.queuePriorityEviction q) s = .next t ∧ t.m.queue q = some z ∧ z.slot = none ∧
        t.m.queue y.num = some w ∧ w.slot = some s.m.now) ∧
    (s.m.queue y.num = some y → y.num ≠ q → s.m.longest = some y → s.m.mapperOn = true → x.waits = true →
      x.waiting.getD s.m.now + 80000 ≤ s.m.now → 64 ≤ s.m.slotted.length →
      ∃ t z w, exec (.queueStarvationTakeover q) s = .next t ∧ t.m.queue q = some z ∧ z.slot = some s.m.now ∧
        t.m.queue y.num = some w ∧ w.slot = none)

/-- LAUNCH, GRAPH, WAIT, SIGNAL, BARRIER, WAIT_CONDITION_MET, PACKET_ERROR and PACKET_COMPLETION (R207, R208). A taken packet
advances RIDX and stands in flight; a WAIT holds reading back until its word is there; a completed packet writes its status dword 8
bytes behind its signal and then adds ADDEND to the signal, or, with SIGADDR 0, writes nothing; the five parts of its launch record add
up to its wall time (R266).
Whether fault service or a wait holds the work on a packet in a nanosecond is a free value (DESIGN CHOICE, log 4), what counts as engine
execution, system-call entry and queueing is the model's choice (DESIGN CHOICE, log 122), and so is that every record is kept (DESIGN
CHOICE, log 55); a packet waits for room for all its nodes (DEDUCED, log 91); a descriptor is judged when its packet is read (DESIGN CHOICE, log 46). -/
def Obligations.PacketEvents : Prop :=
  ∀ (s : State) (q : Nat) (x : Queue) (b : Bytes) (p : Packet) (a v : Word), s.wlog = [] → s.m.queue q = some x →
    let taken (i : Instr) (k : PKind) (n : Nat) : Prop :=
      ∃ t z o, exec i s = .next t ∧ t.m.queue q = some z ∧ z.ridx = x.ridx + 1 ∧ t.m.packets = s.m.packets ++ [o] ∧ o.q = q ∧
        o.idx = x.ridx ∧ o.kind = k ∧ o.sig = w64 (le b 8 8) ∧ o.addend = w64 (le b 16 8) ∧ o.nodes.length = n ∧
        t.m.nodes.length = s.m.nodes.length + n ∧ t.mem = s.mem
    (nextPacket s q = some (x, b) → packetOk b = true → s.m.tracked + packetNodes b ≤ Config.trackerMax →
      (le b 0 1 = 1 → taken (.launch q) .launch 1) ∧ (le b 0 1 = 2 → taken (.graph q) .graph (le b 32 4)) ∧
      (le b 0 1 = 3 → taken (.wait q) .wait 0 ∧
        ∃ t z, exec (.wait q) s = .next t ∧ t.m.queue q = some z ∧ z.held = some (w64 (le b 24 8), w64 (le b 32 8))) ∧
      (le b 0 1 = 4 → taken (.signal q) .signal 0) ∧ (le b 0 1 = 5 → taken (.barrier q) .barrier 0)) ∧
    (nextPacket s q = some (x, b) → packetOk b = false →
      ∃ t z, exec (.packetError q) s = .next t ∧ t.m.queue q = some z ∧ z.st = .error ∧ z.ridx = x.ridx) ∧
    (x.held = some (a, v) → devRead s x.root a.toNat 8 = some b → v.toNat ≤ leNat b →
      ∃ t z, exec (.waitConditionMet q) s = .next t ∧ t.m.queue q = some z ∧ z.held = none ∧
        (∀ o ∈ t.m.packets, o.q = q → o.met = true) ∧ t.mem = s.mem) ∧
    (s.m.packets.find? (fun o => o.q == q && o.idx == p.idx) = some p → s.m.packetDone p = true → p.sig = 0 →
      ∃ t, exec (.packetCompletion q p.idx) s = .next t ∧ (∀ o ∈ t.m.packets, ¬(o.q = q ∧ o.idx = p.idx)) ∧
        t.m.launches.length = s.m.launches.length + 1 ∧ t.mem = s.mem) ∧
    (let status : Word := (((s.m.packetNodes p).map (·.status)).find? (· != 0)).getD 0
     let told := devWrite s x.root (p.sig.toNat + 8) (leBytes 8 status.toNat)
     s.m.packets.find? (fun o => o.q == q && o.idx == p.idx) = some p → s.m.packetDone p = true → p.sig ≠ 0 →
      devRead told x.root p.sig.toNat 8 = some b →
      ∃ t l, exec (.packetCompletion q p.idx) s = .next t ∧ (∀ o ∈ t.m.packets, ¬(o.q = q ∧ o.idx = p.idx)) ∧
        t.mem = s.mem.commit (devWrite told x.root p.sig.toNat (leBytes 8 ((leNat b + p.addend.toNat) % 2 ^ 64))).wlog ∧
        t.m.launches = s.m.launches ++ [l] ∧ l.q = q ∧ l.idx = p.idx ∧ l.times.length = 6 ∧
        l.times.headD 0 = w64 ((s.m.wall - p.since) / 10) ∧ (l.times.drop 1).foldl (· + ·) 0 = l.times.headD 0)

/-- NODE_READY, NODE_DISPATCH, READY_POOL_AGING, HEAD_NODE_HOLD, NODE_COMPLETION and TENANT_INSTANT (R211 to R215). A node without
unfinished dependences enters the pool; a node dispatched on one free core starts a task on it; while a hold stands, no other node
takes a core that it keeps, and the hold ends when its node leaves the head (DEDUCED, log 74), whose millisecond counts from when it came
there (DESIGN CHOICE, log 105); a node whose members have all ended, with no tile and no journal left, is done.
Which cores a node gets is the model's choice (DESIGN CHOICE, log 57), and so is the counting up of task numbers, of which R194 asks only that
no two be equal (DESIGN CHOICE, log 63); a node of a rejected image stays pending (DEDUCED, log 92). -/
def Obligations.NodeEvents : Prop :=
  ∀ (s : State) (n : Nat) (x : Node) (c start : Nat), s.wlog = [] → s.m.node n = some x →
    (x.st = .pending → s.m.rejected x.idesc x.root = false → (∀ i ∈ s.m.nodes, x.dependsOn i = false) →
      (∀ p ∈ s.m.packets, ¬(p.q = x.q ∧ p.idx < x.pkt ∧ p.kind = .barrier)) →
      ∃ t, exec (.nodeReady n) s = .next t ∧ t.m.node n = some { x with st := .ready, entered := s.m.now } ∧ t.mem = s.mem) ∧
    (x.st = .ready → badModes s x = false → x.kflags.getLsbD 3 = false → canDispatch s x [c] = true → c ≠ s.core.num →
      (s.coreAt c).num = c →
      ∃ t y k, exec (.nodeDispatch n [c]) s = .next t ∧ t.m.node n = some y ∧ y.st = .running ∧
        y.members.length = x.members.length + 1 ∧ (t.coreAt c).task = some k ∧ k.node = x.id ∧ k.num = s.m.nextTask ∧
        (t.coreAt c).mode = .u ∧ t.m.nextTask = s.m.nextTask + 1) ∧
    (x.st = .ready → badModes s x = true →
      ∃ t y, exec (.nodeDispatch n [c]) s = .next t ∧ t.m.node n = some y ∧ y.st = .done ∧ y.status = 0xFFFFFFF300000042) ∧
    (s.m.head = some x →
      ∃ t y, exec .readyPoolAging s = .next t ∧ t.m.node n = some y ∧ y.headSince = some (x.headSince.getD s.m.now) ∧
        (∀ h, t.m.hold = some h → h.1 = x.id)) ∧
    (∀ cs h, canDispatch s x cs = true → s.m.held = some h → h.1 ≠ x.id → ∀ c ∈ cs, c ∈ h.2) ∧
    (s.m.head = some x → s.m.held = none → x.fits s = false → ∀ h, x.headSince = some h → h + 10000 ≤ s.m.now →
      ∃ t cs, exec .headNodeHold s = .next t ∧ t.m.hold = some (x.id, cs) ∧ (∀ c ∈ cs, (s.coreAt c).task = none)) ∧
    (x.st = .running → (x.gang = true ∨ x.more = false) → (∀ m ∈ x.members, m.ended.isSome = true) → x.exhausted = true →
      ∃ t, exec (.nodeCompletion n) s = .next t ∧ t.m.node n = some { x with st := .done, ended := some s.m.wall } ∧ t.mem = s.mem) ∧
    ((∃ e ∈ s.m.sched.entries, e.2 = start) → s.m.instantDue start = true →
      ∃ t, exec (.tenantInstant start) s = .next t ∧ t.m.instant = some (s.m.now, s.m.instantOff start) ∧
        (∀ z, z ∈ t.m.running ↔ (z, start) ∈ s.m.sched.entries) ∧ t.mem = s.mem)

/-! ### Stops, saves and failures (spec/12 R217; spec/15 R245 to R253) -/

/-- STOP_REQUEST, STEP_BUDGET_EXPIRY, NODE_BOUNDARY_STOP, ALLOCATION_SAVE and TASK_RESTORE on the core in focus (R217, R245 to R248,
R250). A task that has not started leaves its core with a record. A save takes its next allocation: under policy 0 a window keeps no line
and is entered with STATE 3, an expired allocation with STATE 2, and a live one is copied to its data area and entered with STATE 0 and
the ticks it still lives in REM, wound first where the copy would outlast them (R247); where its data area cannot be written the task
ends with code 0x24 (R249); under another policy it stays parked, with STATE 1. A save whose last allocation is done leaves the task
saved. A restored task stands on the core with its checkpoint and what its directory names.
The layout of what the spec leaves open in a save area is the model's choice (DESIGN CHOICE, log 33; DEDUCED, log 47), and so is the budget's being of merged running only (DEDUCED, log 65). -/
def Obligations.SaveEvents : Prop :=
  ∀ (s : State) (k : Task) (r : StopReq) (prio : Nat) (inc : Option Nat) (v : Saved) (a : Alloc) (d : DirEntry) (base : Nat), s.wlog = [] →
    let n := s.core.num
    (s.core.task = some k → s.core.stop = none →
      ∃ t q, exec (.stopRequest n prio inc) s = .next t ∧ t.core.stop = some q ∧ q.prio = prio ∧ q.since = s.m.now ∧
        q.saving = false ∧ t.mem = s.mem) ∧
    (s.core.task = some k → s.core.stop = some r → r.saving = false → s.core.phase = .run → s.core.merged = true →
      r.since + ((s.m.tenant k.tenant).map (·.budget)).getD 1000 ≤ s.m.now →
      ∃ t p, exec (.stepBudgetExpiry n) s = .next t ∧ t.core.phase = .pend p ∧ p.why = .save ∧ t.mem = s.mem) ∧
    (s.core.task = some k → s.core.stop = some r → r.saving = false → s.core.notStarted = true →
      ∃ t, exec (.nodeBoundaryStop n) s = .next t ∧ t.core.task = none ∧ t.core.stop = none ∧
        (∃ w, t.m.saved = s.m.saved ++ [w] ∧ w.task = k ∧ w.boundary = some 0)) ∧
    (s.core.task = some k → s.core.stop = some r → r.saving = true → s.core.allEntries = [] → s.core.nextSave = none →
      (devRead s k.root k.saveArea.toNat 512).isSome = true →
      ∃ t, exec (.allocationSave n) s = .next t ∧ t.core.task = none ∧
        (∃ w, t.m.saved = s.m.saved ++ [w] ∧ w.task = k ∧ w.ckpt = s.core.saved ∧ w.dir = s.core.dir)) ∧
    (s.core.task = some k → s.core.stop = some r → r.saving = true → s.core.allEntries = [] → s.core.nextSave = some a →
      (∀ w, s.core.saveTick = some w → w < s.m.now) →
      let policy := ((s.m.tenant k.tenant).map (·.park)).getD 0
      let x := saveExpiry s.core.saved a
      let data := k.saveArea + w64 (4096 + a.base)
      let wound := decide (x - s.m.now < saveTime a.size)
      let entry (state : BitVec 8) (rem : Nat) (data : Word) : DirEntry :=
        { id := a.id, ring := (s.core.rings.find? (fun r => r.alloc == a.id)).map (·.num), tag := a.tag, state := state, layout := a.layout,
          rem := rem, size := a.size, window := a.window, data := data }
      let done (e : DirEntry) (b : Alloc) (t : State) : Prop :=
        t.core.dir = s.core.dir ++ [e] ∧ t.core.task = some k ∧ t.core.stop = some r ∧
        t.core.allocs = s.core.allocs.map (fun z => if z.id == a.id && z.parked.isNone then b else z)
      (policy = 0 → a.backed = true →
        ∃ t, exec (.allocationSave n) s = .next t ∧ done (entry 3 0 0) { a with lines := [] } t ∧ t.mem = s.mem) ∧
      (policy = 0 → a.backed = false → x ≤ s.m.now →
        ∃ t, exec (.allocationSave n) s = .next t ∧ done (entry 2 0 0) { a with expired := true } t ∧ t.mem = s.mem) ∧
      (policy = 0 → a.backed = false → s.m.now < x → (devRead s k.root data.toNat a.size).isSome = true →
        ∃ t, exec (.allocationSave n) s = .next t ∧
          done (entry 0 (if wound then 1600 else x - s.m.now) data) (if wound then { a with expiry := s.m.now + 1600 } else a) t ∧
          t.core.saveTick = some s.m.now ∧ t.mem = s.mem.commit (devWrite s k.root data.toNat (a.run 0 a.size)).wlog) ∧
      (policy = 0 → a.backed = false → s.m.now < x → devRead s k.root data.toNat a.size = none →
        ∃ t, exec (.allocationSave n) s = .next t ∧ t.core.stop = none ∧
          t.core.phase = .ending (statusOf 0x24 s.core.ckpt.lpc.toNat) [.L, .C, .S]) ∧
      (policy ≠ 0 →
        ∃ t, exec (.allocationSave n) s = .next t ∧
          done (entry 1 (min 1600 (x - s.m.now)) 0) { a with parked := some k.num } t ∧ t.mem = s.mem)) ∧
    (s.m.saved.find? (fun w => w.task.num.toNat == v.task.num.toNat) = some v → v.boundary = none → v.dir = [d] → d.state ≠ 1 →
      resumeGroup s.m v = [v] → v.fitsOn s n = true → placeAlloc s.core d.size = some base → s.core.alloc d.id = none →
      let linked := linkSegments s v.task.root ((List.range 4).map (fun i => drawPage (s.m.free + i)))
      ∃ t k' b, exec (.taskRestore v.task.num.toNat [n]) s = .next t ∧ t.core.task = some k' ∧ k'.num = v.task.num ∧
        t.core.merged = v.task.kmerged ∧ t.core.ckpt.lpc = v.ckpt.lpc ∧
        (∀ c (i : BitVec 5), i ≠ 0 → (t.core.ctx c).get i = v.ckpt.xs.getD i.toNat 0) ∧
        (v.task.kmerged = true → t.core.c.pc = v.ckpt.lpc) ∧ (v.task.kmerged = false → ∀ c, (t.core.ctx c).hdr = true) ∧
        t.core.alloc d.id = some b ∧ b.base = base ∧ b.size = d.size ∧ b.tag = d.tag ∧ b.layout = d.layout ∧ b.window = d.window ∧
        b.lines = [] ∧ b.backed = (d.state == 3) ∧ b.expired = (d.state == 2) ∧
        (d.state = 0 → b.expiry = s.m.now + d.rem ∧
          ∀ bytes, devRead linked v.task.root d.data.toNat d.size = some bytes → ∀ i, i < bytes.length → b.byte i = bytes.getD i 0)) ∧
    (s.m.saved.find? (fun w => w.task.num.toNat == v.task.num.toNat) = some v → v.boundary = none → v.dir = [] →
      v.task.kmerged = true → resumeGroup s.m v = [v] → v.fitsOn s n = true →
      ∃ t k', exec (.taskRestore v.task.num.toNat [n]) s = .next t ∧ t.core.task = some k' ∧ k'.num = v.task.num ∧
        t.core.ckpt = v.ckpt ∧ t.core.c.pc = v.ckpt.lpc ∧ (∀ w ∈ t.m.saved, w.task.num ≠ v.task.num) ∧
        t.mem = s.mem.commit (linkSegments { s with wlog := [] } v.task.root ((List.range 4).map (fun i => drawPage (s.m.free + i)))).wlog)

/-- PARK_SWEEPER_WIND, PARKED_EVICTION and DIE_FAILURE (R249, R253). An eviction that cannot write its save area ends the saved task. -/
def Obligations.ParkingAndDieEvents : Prop :=
  ∀ (s : State) (id : BitVec 8) (a : Alloc) (v : Saved) (die : Nat), s.wlog = [] →
    (parkedAt s id = [(a, v)] → ((s.m.tenant v.task.tenant).map (·.park)).getD 0 = 1 →
      0 < parkedLife v.ckpt s.m.now a → parkedLife v.ckpt s.m.now a ≤ 160 →
      ∃ t, exec (.parkSweeperWind s.core.num id) s = .next t ∧ t.mem = s.mem ∧
        (a.backed = false → ∀ b ∈ t.core.allocs, b.id = id → b.parked = a.parked → b.expiry = s.m.now + 1600) ∧
        (a.backed = true → ∀ b ∈ t.core.allocs, b.id = id → b.parked = a.parked → b.backed = true →
          ∀ l ∈ b.lines, l.expiry = s.m.now + 1600)) ∧
    (parkedAt s id = [(a, v)] → a.backed = true →
      ∃ t, exec (.parkedEviction s.core.num ⟨id, v.task.num.toNat⟩) s = .next t ∧
        (∀ b ∈ t.core.allocs, ¬(b.id = id ∧ b.parked = a.parked))) ∧
    (parkedAt s id = [(a, v)] → devRead s v.task.root v.task.saveArea.toNat 512 = none →
      ∃ t, exec (.parkedEviction s.core.num ⟨id, v.task.num.toNat⟩) s = .next t ∧ v.task.num ∈ t.m.endedTasks ∧
        (∀ w ∈ t.m.saved, w.task.num ≠ v.task.num) ∧ (∀ b ∈ t.core.allocs, b.parked ≠ some v.task.num)) ∧
    (die < 32 → s.m.dieOut.getLsbD die = false → s.core.num < 768 → s.core.num / 24 = die →
      ∃ t, exec (.dieFailure die) s = .next t ∧ t.m.dieOut.getLsbD die = true ∧ t.core.inService = false ∧
        (∀ fr, dieOf fr = die → t.m.poisoned fr = true) ∧ (∀ p ∈ t.m.pools, ∀ x ∈ p.shards, x.die ≠ die))

/-! ### Pool events (spec/13) -/

/-- POOL_PUT_INSERTION, QUEUED_PUT_INSERTION, POOL_TAKE_ARRIVAL, SYNCHRONOUS_TAKE and POLL_ROUND (R223, R226 to R228, R231). A put is
inserted with the shard's next sequence number, waits behind a notice that it would lower, or answers FULL; one that has waited goes in
once its notice is acknowledged, and waits on where it would need another one while one is out; a take whose first element no known fence comes before removes
it; a poll that finds nothing twice with equal counts answers EMPTY.
Which element the rolling fence names is a free value (DESIGN CHOICE, log 4). -/
def Obligations.PutAndTakeEvents : Prop :=
  ∀ (s : State) (n : Nat) (r q : Req) (p : Pool) (sh : Shard) (key pay : Word) (acq : Bool) (e : Elem), s.wlog = [] →
    s.m.req n = some r → r.answer = none → s.m.pool r.pool = some p → p.num = r.pool → p.shard r.shard = some sh →
    sh.die = r.shard →
    (r.ask = .put key pay → r.inserted = false → (∀ x ∈ p.shards, x.waits n = false) → p.shards.length * p.caps ≤ p.count →
      ∃ t z, exec (.poolPutInsertion n) s = .next t ∧ t.m.req n = some z ∧ z.answer = some (.done [1] none)) ∧
    (r.ask = .put key pay → r.inserted = false → (∀ x ∈ p.shards, x.waits n = false) → p.count < p.shards.length * p.caps →
      sh.elems.length < p.caps → (sh.notice ≠ none ∨ sh.queued ≠ []) → precedes (p.stamp key s.m.now, sh.die, sh.seq) (p.published sh) = true →
      ∃ t z x, exec (.poolPutInsertion n) s = .next t ∧ t.m.pool r.pool = some z ∧ z.shard r.shard = some x ∧
        x.queued = sh.queued ++ [(n, sh.notice.isSome)] ∧ x.elems = sh.elems ∧ t.m.req n = some r) ∧
    (r.ask = .put key pay → r.inserted = false → (∀ x ∈ p.shards, x.waits n = false) → p.count < p.shards.length * p.caps →
      sh.elems.length < p.caps → sh.notice = none → sh.queued = [] →
      ∃ t z x e, exec (.poolPutInsertion n) s = .next t ∧ t.m.pool r.pool = some z ∧ z.shard r.shard = some x ∧
        x.seq = sh.seq + 1 ∧ x.elems = p.place e sh.elems ∧ e.key = key ∧ e.payload = pay ∧ e.origin = sh.die ∧ e.seq = sh.seq) ∧
    (sh.queued.find? (fun w => !w.2) = some (q.num, false) → s.m.req q.num = some q → q.ask = .put key pay → q.shard = r.shard →
      p.count < p.shards.length * p.caps → sh.elems.length < p.caps →
      ∃ t z x, exec (.queuedPutInsertion r.pool r.shard) s = .next t ∧ t.m.pool r.pool = some z ∧ z.shard r.shard = some x ∧
        (sh.notice = none ∨ precedes (p.stamp key s.m.now, sh.die, sh.seq) (p.published sh) = false →
          x.seq = sh.seq + 1 ∧ x.waits q.num = false ∧ ∃ e, x.elems = p.place e sh.elems ∧ e.key = key ∧ e.payload = pay) ∧
        (sh.notice ≠ none → precedes (p.stamp key s.m.now, sh.die, sh.seq) (p.published sh) = true →
          x.elems = sh.elems ∧ x.notice = sh.notice ∧ (q.num, true) ∈ x.queued)) ∧
    (r.ask = .take acq → r.sync = false → r.poll = none → (p.held sh).head? = some e →
      (∀ d ∈ p.dies, ∀ f, p.knows sh d = some f → before f (p.rank e) = false) →
      ∃ t z y x, exec (.poolTakeArrival n) s = .next t ∧ t.m.req n = some z ∧ z.answer = some (.done [0, e.key, e.payload] (some e.snap)) ∧
        t.m.pool r.pool = some y ∧ y.shard r.shard = some x ∧ x.elems = sh.elems.filter (fun y => !e.same y)) ∧
    (r.ask = .take acq → r.sync = true → p.syncShard = none →
      ∃ t z, exec (.synchronousTake n) s = .next t ∧ t.m.req n = some z ∧ z.answer = some (.done [1, 0, 0] none)) ∧
    (r.ask = .take acq → r.sync = true → p.syncShard = some (sh.die, e) →
      ∃ t z, exec (.synchronousTake n) s = .next t ∧ t.m.req n = some z ∧
        z.answer = some (.done [0, e.key, e.payload] (some e.snap))) ∧
    (r.poll = some (some ((p.shards.map (·.completed)).foldl (· + ·) 0)) → (∀ x ∈ p.shards, p.held x = [] ∧ x.queued = []) →
      ∃ t z, exec (.pollRound n) s = .next t ∧ t.m.req n = some z ∧ z.answer = some (.done [1, 0, 0] none))

/-- LOWERING_NOTICE_ARRIVAL, LOWERING_NOTICE_ACKNOWLEDGED, POOL_SUMMARY, ROLLING_MOVE and MCTL_COMPLETION (R225, R226, R230, R234). A
rolling move inserts its element at the destination first; where the fence there falls the notice follows, and the element leaves its
source once it is acknowledged; an element whose move is still under way takes part in no other. An MCTL completes once the notices that it caused are acknowledged, whatever others are out. -/
def Obligations.FenceEvents : Prop :=
  ∀ (s : State) (n src dst : Nat) (p : Pool) (sh : Shard) (nt : Notice) (r : Req) (w : Word), s.wlog = [] →
    s.m.pool n = some p → p.shard src = some sh →
    (sh.notice = some nt → dst ∈ nt.pending → dst ≠ src →
      ∃ t z x, exec (.loweringNoticeArrival n src dst) s = .next t ∧ t.m.pool n = some z ∧ z.shard src = some x ∧
        x.notice = some { nt with pending := nt.pending.filter (· != dst) } ∧ t.mem = s.mem) ∧
    (sh.notice = some { nt with pending := [], move := none } →
      ∃ t z x, exec (.loweringNoticeAcknowledged n src) s = .next t ∧ t.m.pool n = some z ∧ z.shard src = some x ∧
        x.notice = none ∧ x.elems = sh.elems ∧ x.queued = sh.queued.map (fun w => (w.1, false)) ∧
        (∀ w ∈ t.m.reqs, w.pool = n → src ∉ w.caused) ∧ t.mem = s.mem) ∧
    (∀ d e, sh.notice = some { nt with pending := [], move := some (d, e) } →
      ∃ t z, exec (.loweringNoticeAcknowledged n src) s = .next t ∧ t.m.pool n = some z ∧
        (∀ x, z.shard d = some x → ∀ y ∈ x.elems, e.same y = false)) ∧
    (∃ t z, exec (.poolSummary n src) s = .next t ∧ t.m.pool n = some z ∧ z.shard src = some sh ∧
      (∀ x ∈ z.shards, x.die ≠ src → ∃ m ∈ x.summaries, m.src = src ∧ m.count = (p.held sh).length) ∧ t.mem = s.mem) ∧
    (src = dst → exec (.rollingMove n src dst) s = .next s) ∧
    (∀ (b : Shard) (e : Elem), p.movable sh = [e] → src ≠ dst → p.shard dst = some b → p.leastFence (p.published sh) = true →
      p.greatestFence (p.published b) = true → b.elems.length < p.caps →
      let f := p.fenceWith b e
      (Fence.below f (p.published b) = true → b.notice = none →
        ∃ t z x, exec (.rollingMove n src dst) s = .next t ∧ t.m.pool n = some z ∧ z.shard dst = some x ∧
          x.elems = p.place e b.elems ∧ (∃ m, x.notice = some m ∧ m.fence = f ∧ m.move = some (src, e)) ∧ z.shard src = some sh) ∧
      (Fence.below f (p.published b) = false →
        ∃ t z x y, exec (.rollingMove n src dst) s = .next t ∧ t.m.pool n = some z ∧ z.shard dst = some x ∧
          x.elems = p.place e b.elems ∧ x.notice = b.notice ∧ z.shard src = some y ∧ y.elems = sh.elems.filter (fun w => !e.same w))) ∧
    (s.m.req r.num = some r → r.ask = .ctl w → r.answer = none → r.pool = n → r.inserted = true →
      (∀ x ∈ p.shards, x.die ∉ r.caused) →
      ∃ t z, exec (.mctlCompletion r.num) s = .next t ∧ t.m.req r.num = some z ∧ z.answer = some (.done [0] none) ∧ t.mem = s.mem)

/-! ### Services and observing (spec/13 R219; spec/17; spec/18 R274; spec/22 R361) -/

/-- The five services, where their arguments can be read and their results written (R361, R201, R219, R266, R274). Service 0x21 repairs
a queue whose STATE is 1: NEXT becomes ESEQ + 1, then STATE 0, and it answers 0; of another STATE it answers 1. 0x30 makes the pool of a
good grant, with one empty shard on every die in service, and answers its handle, or makes none where the backing region cannot be
reserved; it refuses a bad grant. 0x31 removes the pool a handle names. 0x40 copies the record of a packet that is kept, with an answer
other than 1, and answers 1 for one no longer kept. 0x50 writes the report over its nonce.
Whether a backing region can be reserved, the number and generation of a pool and the answer 0x40 gives are free values (DESIGN CHOICE,
log 4).
Where a service runs and what an unreadable argument gives is the model's choice (DESIGN CHOICE, log 58), and so are the layout and the signature of the report (DESIGN CHOICE, log 14). -/
def Obligations.ServiceEvents : Prop :=
  ∀ (s s1 s2 s3 s4 : State) (b e : Bytes) (p : Pool) (r : LaunchRec), s.wlog = [] →
    let k := s.core.svcCtx
    let answered (num : BitVec 32) (u : State) (x1 : Word) : State := u.modCore (fun k => { k with svc := some (num, some (x1, none)) })
    (s.core.svc = some (0x21, none) → svcRead s (k.get 1 + 8) 8 true = .ok (b, s1) → leNat b = 1 →
      svcRead s1 (k.get 1 + 16) 8 = .ok (e, s2) → svcWrite s2 (k.get 1 + 24) (leBytes 8 ((leNat e + 1) % 2 ^ 64)) = .ok s3 →
      svcWrite s3 (k.get 1 + 8) (leBytes 8 0) true = .ok s4 → Takes .svcRepairQueue s (answered 0x21 s4 0)) ∧
    (s.core.svc = some (0x21, none) → svcRead s (k.get 1 + 8) 8 true = .ok (b, s1) → leNat b ≠ 1 →
      ∃ t, exec .svcRepairQueue s = .next t ∧ t.core.svc = some (0x21, some (1, none)) ∧ t.mem = s.mem) ∧
    (s.core.svc = some (0x30, none) → svcRead s (k.get 1) 64 = .ok (b, s1) → grantOk b = true → s.m.pools.length < Config.pools →
      s.m.diesIn ≠ [] → (∀ d ∈ s.m.diesIn, s.m.sramUsed d + le b 12 4 ≤ Config.poolSram) →
      ∃ t p, exec .svcCreatePool s = .next t ∧ t.mem = s.mem ∧
        (p.q = le b 0 8 % 2 ^ 11 ∧ p.age = bitOf (le b 0 8) 22 ∧ p.shift = le b 0 8 / 2 ^ 16 % 64 ∧ p.caps = le b 16 8 ∧
          p.sramq = le b 12 4 ∧ p.tenant = s.tenant ∧ p.shards.map (·.die) = s.m.diesIn ∧ (∀ x ∈ p.shards, x.elems = [])) ∧
        ((t.m.pools = s.m.pools ++ [p] ∧ t.core.svc = some (0x30, some (w64 (p.num + 256 * p.gen.toNat), none))) ∨
          (t.m.pools = s.m.pools ∧ t.core.svc = some (0x30, some (-1, none))))) ∧
    (s.core.svc = some (0x30, none) → svcRead s (k.get 1) 64 = .ok (b, s1) → grantOk b = false →
      ∃ t, exec .svcCreatePool s = .next t ∧ t.core.svc = some (0x30, some (-1, none)) ∧ t.m.pools = s.m.pools ∧ t.mem = s.mem) ∧
    (s.core.svc = some (0x31, none) → poolOf s (k.get 1) = some p →
      ∃ t, exec .svcDestroyPool s = .next t ∧ t.core.svc = some (0x31, some (0, none)) ∧ t.m.pool p.num = none ∧ t.mem = s.mem) ∧
    (s.core.svc = some (0x40, none) → svcWrite s (k.get 2) (pad r.bytes 64) = .ok s1 →
      s.m.launches.find? (fun r => r.q == (k.get 1).toNat / 2 ^ 32 && r.idx % 2 ^ 32 == (k.get 1).toNat % 2 ^ 32) = some r →
      ∃ x1, x1 ≠ 1 ∧ Takes .svcLaunchRecord s (answered 0x40 (s1.modM (fun m => { m with free := m.free + 1 })) x1)) ∧
    (s.core.svc = some (0x40, none) →
      (∀ r ∈ s.m.launches, ¬(r.q = (k.get 1).toNat / 2 ^ 32 ∧ r.idx % 2 ^ 32 = (k.get 1).toNat % 2 ^ 32)) →
      ∃ t, exec .svcLaunchRecord s = .next t ∧ t.core.svc = some (0x40, some (1, none)) ∧ t.mem = s.mem) ∧
    (s.core.svc = some (0x50, none) → s.m.stage = 8 → svcRead s (k.get 1) 32 = .ok (b, s1) →
      svcWrite s1 (k.get 2) (s.m.report b) = .ok s2 → Takes .svcAttestation s (answered 0x50 s2 (w64 (s.m.report b).length)))

/-- PERF_RED_READ, PERF_SEL_WRITE, FFLAGS_WRITE, ROUND_SEED_WRITE, DUTY_REGISTER_WRITE, COUNTER_SAMPLE, TRACE_GAP_RECORD and CORE_DUMP
(R56, R96, R218, R259 to R265). A dump that a further fatal fault cuts short has TRUNC set and holds that fault's record.
Where dumps stand and their bytes are the model's choice (DESIGN CHOICE, logs 31 and 33). -/
def Obligations.ObservingEvents : Prop :=
  ∀ (s : State) (f : Flight) (d : BitVec 5) (v : Word) (fl : BitVec 5) (c : Ctx) (st : Word) (rest : List Ctx), s.wlog = [] →
    (s.core.flights = [f] → f.arrived = false → f.req = none → f.ext = false → f.late = none → f.puts = [.reg f.ctx d 0] → d ≠ 0 → s.core.interlocked = true →
      ∃ t, exec .perfRedRead s = .next t ∧ (t.core.ctx f.ctx).get d = s.reduction ∧ t.core.flights = [] ∧ t.mem = s.mem) ∧
    (∃ t, exec (.perfSelWrite v) s = .next t ∧ t.mem = s.mem ∧
      (perfSelOk v = false → t.core.perf = s.core.perf) ∧
      (perfSelOk v = true → t.core.perf.sel = v &&& 0x303FFFF ∧
        (v.toNat % 65536 ≠ s.core.perf.sel.toNat % 65536 → t.core.perf.val = 0) ∧
        (v.toNat % 65536 = s.core.perf.sel.toNat % 65536 → t.core.perf.val = s.core.perf.val))) ∧
    (∃ t, exec (.fflagsWrite fl) s = .next t ∧ (∀ e, (t.core.ctx e).fflags = fl ∧ (t.core.ctx e).x = (s.core.ctx e).x) ∧
      t.mem = s.mem) ∧
    (∃ t, exec (.roundSeedWrite v) s = .next t ∧ t.core.seedNow = v ∧ (∀ e, t.core.ctx e = s.core.ctx e) ∧ t.mem = s.mem) ∧
    (∃ t, exec (.dutyRegisterWrite v) s = .next t ∧ t.m.duty = v.setWidth 6 ∧ t.core = s.core ∧ t.mem = s.mem) ∧
    (∀ x xs, s.core.perf.sample = x :: xs → s.core.traces = false →
      ∃ t, exec .counterSample s = .next t ∧ (s.core.perf.per = 0 → t.core.perf.sample = xs) ∧ t.core.cyc = s.core.cyc ∧ t.m.wall = s.m.wall + s.core.period ∧
        (∀ e, t.core.ctx e = s.core.ctx e) ∧ t.mem = s.mem) ∧
    (s.core.traces = true → s.core.trace.dropped ≠ 0 → s.traceMapped = true →
      ∃ t, exec .traceGapRecord s = .next t ∧ t.core.trace.dropped = 0 ∧ t.core.trace.seq = s.core.trace.seq + 1) ∧
    (s.core.phase = .ending st (c :: rest) → rest ≠ [] → s.core.cutDump = [] →
      ∃ t, exec .coreDump s = .next t ∧ t.core.phase = .ending st rest ∧
        (∃ m ms, t.core.dumps = m :: ms ∧ ∃ l, (c, s.core.ctx c, l) ∈ m.ctxs) ∧
        (s.core.task = none → t.mem = s.mem) ∧
        (∀ k, s.core.task = some k → t.mem = s.mem.commit (devWrite { s with wlog := [] } k.root (dumpArea k.saveArea).toNat
          ((t.core.dumps.filter (fun m => m.task == k.num)).reverse.flatMap Dump.bytes)).wlog)) ∧
    (s.core.phase = .ending st (c :: rest) → s.core.cutDump ≠ [] →
      ∃ t m ms, exec .coreDump s = .next t ∧ t.core.dumps = m :: ms ∧ m.trunc = true ∧ (∀ b ∈ s.core.cutDump, b ∈ m.extra))

/-! ### Power, links and the outside (spec/18, spec/04 R93, spec/08 R169) -/

/-- POWER_UP, PTP_LOCK_TIMEOUT, PTP_LOCK_CHANGE, PCIE_TRAINING, CLOCK_THROTTLING and its end, KERNEL_IMAGE_LOAD, REMOTE_SEND_ARRIVAL,
HOST_WRITE (in memory of canonical form) and LINK_RETRAINING. A stage that ends well is followed by the next; a failed stage 1, and a
stage 2 that cuts a hub off, halt with STAGE 0xFF; stage 6 ends unlocked after 10 s, whatever is reported then; stage 7 creates the
queues, idle; the boot status word stands at its page, which the host does not write and of which no translation from before stays cached; a throttled core stands still; an image in memory,
or a code object, is judged, and nothing of a rejected object is written.
Which reports a power-up gives is outside input, the queues among them (DESIGN CHOICE, log 56), and the loader's details are the model's
choice (DESIGN CHOICE, log 52), as are an object's being judged and committed in one step with all it needs (DESIGN CHOICE, log 88) and
what becomes of a part without a translation (DESIGN CHOICE, log 99). The numbering of links is the model's (DESIGN CHOICE, log 89), that
a die needs a path to the one hub and to the other its reading (DEDUCED, log 93), and that a link's retraining has no effect its choice
(DESIGN CHOICE, log 53). -/
def Obligations.OutsideEvents : Prop :=
  ∀ (s s1 : State) (r : StageReport) (b : Bool) (rate width die : Nat) (desc root : Word) (m : RemoteSend) (pa l : Nat)
    (data by' : Bytes) (o : CodeObject) (e : Reject) (ks : List LoadedKernel) (out : List (Bytes × Word)), s.wlog = [] →
    (s.m.stage.toNat < 8 → r.ok = true → r.ptpLocked = true → (s.m.stage = 2 → hubCut r.linksDown = false) →
      ∃ t, exec (.powerUp r) s = .next t ∧ t.m.stage = s.m.stage + 1 ∧ (t.m.bootPage = none → t.mem = s.mem) ∧
        (Memory.wf s.mem = true → ∀ p, t.m.bootPage = some p → ∀ i, i < 8 → t.mem.get (p + i) = (leBytes 8 t.m.bootWord.toNat).getD i 0)) ∧
    (s.m.stage = 6 → ∃ t, exec (.powerUp r) s = .next t ∧
      (s.m.ptpSince + 100000000 ≤ s.m.now → t.m.stage = 7 ∧ t.m.ptpLock = false) ∧
      (s.m.now < s.m.ptpSince + 100000000 → r.ptpLocked = true → t.m.stage = 7 ∧ t.m.ptpLock = true) ∧
      (s.m.now < s.m.ptpSince + 100000000 → r.ptpLocked = false → t.m.stage = 6)) ∧
    (s.m.stage = 7 → r.ok = true → ∃ t, exec (.powerUp r) s = .next t ∧ t.m.stage = 8 ∧ t.m.duty = 0 ∧
      (∀ x ∈ t.m.queues, x.st = .idle ∧ x.widx = 0 ∧ x.ridx = 0 ∧ x.slot = none ∧ x.num < 4096 ∧ 4 ≤ x.size ∧ x.size ≤ 16) ∧
      (∀ q ∈ r.queues, queueOk q = true → (∀ p ∈ r.queues, p.num = q.num → p = q) → ∃ x ∈ t.m.queues, x.num = q.num ∧ x.root = q.root ∧
        x.base = q.base ∧ x.size = q.size ∧ x.tenant = q.tenant ∧ x.prio = q.prio)) ∧
    (s.m.stage = 2 → hubCut r.linksDown = true →
      ∃ t, exec (.powerUp r) s = .next t ∧ t.m.stage = 0xFF ∧ t.m.reason = 4) ∧
    (s.m.stage = 1 → r.ok = false → (r.reason = 1 ∨ r.reason = 2 ∨ r.reason = 3) →
      ∃ t, exec (.powerUp r) s = .next t ∧ t.m.stage = 0xFF ∧ t.m.reason = r.reason) ∧
    (s.m.stage = 6 → s.m.ptpSince + 100000000 ≤ s.m.now → ∃ t, exec .ptpLockTimeout s = .next t ∧ t.m.stage = 7 ∧ t.m.ptpLock = false ∧
      { t.core with tlb := s.core.tlb } = s.core ∧
      ∀ e ∈ t.core.tlb, e ∈ s.core.tlb ∧ ∀ p, t.m.bootPage = some p → e.frame ≠ frameOf p) ∧
    (s.m.stage = 8 → ∃ t, exec (.ptpLockChange b) s = .next t ∧ t.m.ptpLock = b ∧ t.m.stage = 8 ∧ t.core = s.core) ∧
    (1 ≤ rate → rate ≤ 6 → width ∈ [1, 2, 4, 8, 16] → (s.m.stage = 0 ∨ s.m.stage = 1) →
      ∃ t, exec (.pcieTraining rate width) s = .next t ∧ t.m.pcie = (rate, width) ∧ t.core = s.core) ∧
    (die < 32 → s.core.num < 768 → s.core.num / 24 = die →
      (∃ t, exec (.clockThrottling die) s = .next t ∧ t.core.throttled = true ∧ t.core.frozen = true ∧ t.m = s.m) ∧
      (∃ t, exec (.clockThrottlingEnd die) s = .next t ∧ t.core.throttled = false ∧ t.m = s.m)) ∧
    (devRead s root desc.toNat 128 = some by' →
      ∃ t x, exec (.kernelImageLoad desc root (.image b)) s = .next t ∧ t.m.loads = s.m.loads ++ [x] ∧ x.desc = desc ∧
        x.reject = loadCheck s root { imageOf by' with pwords := le by' 8 8 } b ∧ t.mem = s.mem) ∧
    (objectGiven s desc root o = false → exec (.kernelImageLoad desc root (.object o)) s = .next s) ∧
    (objectGiven s desc root o = true → s.loadObject desc root o = .error e →
      ∃ t x, exec (.kernelImageLoad desc root (.object o)) s = .next t ∧ t.m.loads = s.m.loads ++ [x] ∧ x.desc = desc ∧ x.reject = some e ∧
        t.mem = s.mem) ∧
    (objectGiven s desc root o = true → s.loadObject desc root o = .ok (s1, ks, out) →
      ∃ t, exec (.kernelImageLoad desc root (.object o)) s = .next t ∧ t.mem = s.mem.commit s1.wlog ∧
        (∃ x ∈ t.m.loads, x.desc = desc ∧ x.object = true ∧ x.reject = none ∧ x.exports = out) ∧
        (∀ k ∈ ks, ∃ x ∈ t.m.loads, x.desc = k.desc ∧ x.root = root ∧ x.object = false ∧ x.reject = none)) ∧
    (m.flag = 0 → remoteWrite s m.root m.dst (fun _ => m.payload) m.payload.length = .ok s1 →
      Takes (.remoteSendArrival m) s s1) ∧
    ((∃ g ∈ rangeGranules pa data.length, s.m.showsBoot (g / 128) = true) → exec (.hostWrite pa data) s = .next s) ∧
    (Memory.wf s.mem = true → populated pa data.length = true → data ≠ [] →
      (∀ g ∈ rangeGranules pa data.length, s.m.showsBoot (g / 128) = false) →
      ∃ t, exec (.hostWrite pa data) s = .next t ∧ (∀ i, i < data.length → t.mem.get (pa + i) = data.getD i 0) ∧
        (∀ a, a < pa ∨ pa + data.length ≤ a → t.mem.get a = s.mem.get a) ∧ (∀ c, (t.core.ctx c).x = (s.core.ctx c).x)) ∧
    exec (.linkRetraining l) s = .next s

/-! ### The frame of words, faults, the step, encodings, reset and the invariant -/

/-- What every word that passes does beside its effect (R29, R52, R78): in the state u that holds the effect, its context goes on 12
bytes later, or at the end of its section stands at the next header or is done; nothing else of u changes but the record of the word,
which a filler NOP leaves out (R173), and the writes are performed on memory. -/
def Obligations.PassingMovesOn : Prop :=
  ∀ (s u : State),
    let t := passed s u
    t.mem = s.mem.commit u.wlog ∧ t.wlog = [] ∧ t.m = u.m ∧ t.others = u.others ∧ t.agenda = u.agenda ∧
    t.core.cur = u.core.cur ∧ t.core.flights = u.core.flights ∧ t.core.rs = u.core.rs ∧ t.core.allocs = u.core.allocs ∧
    t.here.pc = u.here.pc + 12 ∧ t.here.wait = none ∧ t.here.held = none ∧
    t.here.hist = (if u.core.inProgram && !u.filler then (s.here.ord, s.lpc) :: u.here.hist else u.here.hist) ∧
    t.here.lastLpc = (if u.here.trap = none then s.lpc else u.here.lastLpc) ∧
    (∀ c, (t.core.ctx c).x = (u.core.ctx c).x ∧ (t.core.ctx c).latch = (u.core.ctx c).latch ∧
      (t.core.ctx c).view = (u.core.ctx c).view ∧ (t.core.ctx c).fflags = (u.core.ctx c).fflags ∧
      (t.core.ctx c).round = (u.core.ctx c).round) ∧
    (u.place ≠ .slice → t.here.hdr = u.here.hdr ∧ t.here.ended = u.here.ended) ∧
    (u.place = .slice → (u.here.pc + 12).toNat ≠ u.here.secEnd →
      t.here.hdr = u.here.hdr ∧ t.here.ended = u.here.ended ∧ t.here.secDone = u.here.secDone) ∧
    (u.place = .slice → (u.here.pc + 12).toNat = u.here.secEnd → t.here.secDone = u.here.secNo ∧
      (u.here.last = true → t.here.ended = true) ∧ (u.here.last = false → t.here.hdr = true))

/-- The frame of every word of class S and F (R279, R309), whatever its guard: it stores nothing; no register but x[D] of its
context changes, and x0 never; no latch but LT; no flag is cleared, and a class S word sets none; views, the rounding mode,
register space, scratch, rings, chains, the step window, journal, system registers and the module stay. In sliced running no register
changes at issue, and at most one result is put in flight, for x[D] alone. -/
def Obligations.ScalarWordFrame : Prop :=
  ∀ (s t : State) (i : Instr) (d : Dst), scalarDst i = some d → i.check = none → s.wlog = [] → exec i s = .next t →
    t.mem = s.mem ∧ t.m = s.m ∧ t.others = s.others ∧
    (∀ c n, (c ≠ s.core.cur ∨ n ≠ d.reg ∨ n = 0 ∨ d.wbs = true ∨ s.core.interlocked = false) →
      (t.core.ctx c).get n = (s.core.ctx c).get n) ∧
    (∀ c (l : BitVec 4), (c ≠ s.core.cur ∨ l ≠ d.lt ∨ l = 0 ∨ s.core.interlocked = false) →
      (t.core.ctx c).latchBytes l = (s.core.ctx c).latchBytes l) ∧
    (∀ c, (t.core.ctx c).view = (s.core.ctx c).view ∧ (t.core.ctx c).round = (s.core.ctx c).round ∧
      (t.core.ctx c).wp = (s.core.ctx c).wp ∧ (t.core.ctx c).step = (s.core.ctx c).step ∧
      (t.core.ctx c).pins = (s.core.ctx c).pins ∧ (t.core.ctx c).monitor = (s.core.ctx c).monitor ∧
      (t.core.ctx c).fflags &&& (s.core.ctx c).fflags = (s.core.ctx c).fflags ∧
      ((c ≠ s.core.cur ∨ isFloat i = false ∨ s.core.interlocked = false) → (t.core.ctx c).fflags = (s.core.ctx c).fflags)) ∧
    (t.core.flights = s.core.flights ∨ ∃ f v, s.core.interlocked = false ∧ t.core.flights = s.core.flights ++ [f] ∧
      f.ctx = s.core.cur ∧ f.puts = (if d.wbs then [] else [.reg s.core.cur d.reg v]) ∧ f.lt = d.lt ∧
      (isFloat i = false → f.flags = 0)) ∧
    t.core.rs = s.core.rs ∧ t.core.wb = s.core.wb ∧ t.core.allocs = s.core.allocs ∧ t.core.rings = s.core.rings ∧
    (∀ ch, t.core.chain ch = s.core.chain ch) ∧ t.core.window = s.core.window ∧ t.core.ckpt = s.core.ckpt ∧
    t.core.journal = s.core.journal ∧ t.core.task = s.core.task ∧ t.core.tlb = s.core.tlb ∧ t.core.trace = s.core.trace ∧
    t.core.traps = s.core.traps ∧ t.core.mode = s.core.mode ∧ t.core.seed = s.core.seed ∧ t.core.perf.sel = s.core.perf.sel ∧
    t.core.perf.per = s.core.perf.per

/-- R83 and R59: a word that a hub core lacks traps there whatever its guard, and so does, on any core, a word that its mode may not
run; of the other words, one whose guard is false passes with no effect. -/
def Obligations.GuardAndBars : Prop :=
  ∀ (s : State) (i : Instr), s.wlog = [] → i.check = none → (∀ rest, i ≠ .emulationTrap rest) →
    let bad : Flt := { code := 0x10, addr := 0, lane := 0, aux := auxWord i }
    (s.core.hub = true → hubBarred i = true → Takes i s (s.unbank.takeFault bad)) ∧
    (allowed i s.mode = false → Takes i s (s.unbank.takeFault bad)) ∧
    (Room s → (s.core.hub = true → hubBarred i = false) → allowed i s.mode = true →
      s.here.wait.map (·.1) ≠ some i → s.here.guard (guardOf i) = false →
      Completes i s s)

/-- Taking a fault of the word at issue (R38, R45, R89, R240, R243, R244, R307). Sliced running stops for a rebuild that names the
word. Merged running enters the handler with the address of the fault record in x1 and the code in x2, or ends the task with the code
where no handler is registered. In a handler the task ends with code 0x22. A hub core pushes pc and mode on its trap stack and goes to
the vector of the code; with four traps on it, the core goes out of service.
Where a merged-mode handler finds the state of the word is the model's reading (DEDUCED, log 7); the table of hub vectors is its choice
(DESIGN CHOICE, log 12), and so is that a fault in mode M stays in M, for which R89's table has no row (DESIGN CHOICE, log 82). -/
def Obligations.TakingAFault : Prop :=
  ∀ (s : State) (f : Flt) (k : Task) (code : BitVec 8) (h : Word) (p : Pend),
    let t := s.takeFault f
    (s.core.hub = false → s.core.phase = .run → s.core.merged = false →
      t.core.phase = .pend (s.pendOf .fault f) ∧ (s.pendOf .fault f).lpc = s.lpc ∧ (s.pendOf .fault f).flt = f ∧
      (∀ c, t.core.ctx c = s.core.ctx c) ∧ t.m = s.m ∧ t.wlog = s.wlog) ∧
    (s.core.hub = false → s.core.phase = .run → s.core.merged = true → s.core.task = some k → handlerOf k f.code = (code, h) →
      h ≠ Config.allOnes →
      t.core.phase = .handler (s.pendOf .fault f) ∧ t.core.c.pc = h ∧ t.core.c.get 1 = k.recAddr + 512 ∧
      t.core.c.get 2 = code.setWidth 64 ∧ t.core.merged = true ∧ t.core.cur = .C ∧
      (∀ n, n ≠ 1 → n ≠ 2 → t.core.c.get n = s.core.c.get n)) ∧
    (s.core.hub = false → s.core.phase = .run → s.core.merged = true → s.core.task = some k →
      handlerOf k f.code = (code, Config.allOnes) → code ≠ 0x32 → code ≠ 0x42 →
      t.core.phase = .ending (statusOf code.toNat s.lpc.toNat) [.L, .C, .S]) ∧
    (s.core.hub = false → s.core.phase = .handler p → s.core.task = some k →
      t.core.phase = .ending (statusOf 0x22 s.lpc.toNat) [.L, .C, .S]) ∧
    (s.core.hub = true → s.core.traps.length < 4 →
      t.core.traps = (s.core.c.pc, s.core.mode) :: s.core.traps ∧ t.core.hubFaults = (s.core.c.pc, f) :: s.core.hubFaults ∧ t.here.pc = Config.hubVector f.code.toNat ∧
      t.core.mode = (if s.core.mode = .u then .s else .m) ∧ (s.core.traces = false → t.wlog = s.wlog ∧ t.m = s.m)) ∧
    (s.core.hub = true → 4 ≤ s.core.traps.length → t.core.inService = false ∧ t.core.c.pc = s.core.c.pc ∧ t.core.mode = s.core.mode ∧
      (s.core.traces = false → t.core.c = s.core.c) ∧
      t.m.reports = s.m.reports ++ [{ code := 0x31, core := s.core.num, chain := none, num := 0 }])

/-- A step runs the word that stands at the program counter of the context whose slot it is: the 12 bytes there, decoded (R50, R70);
a row on the agenda goes first. Bytes that decode to nothing, or no word at all, are a fault of the word at issue: at a pc past the last
word it is the illegal-instruction fault (DEDUCED, log 23). In host-assisted mode a word that misses a translation traps first (DEDUCED, log 94).
A module that has halted does nothing more (R269).
The order of the slots of a cycle and the agenda are the model's choice (DESIGN CHOICE, log 3). -/
def Obligations.StepRunsTheDecodedWord : Prop :=
  ∀ (s : State) (i : Instr) (r : List Act) (b rest : Bytes) (e : DecodeError) (ve : Bool) (pc : Word),
    (s.m.halted = true → step s = .next s) ∧
    (s.m.halted = false → s.agenda = .row i :: r → step s = exec i { s with agenda := r }) ∧
    (s.m.halted = false → s.agenda = [] → urgent s = none → caughtUp s.core = false →
      let reads (c : Ctx) : Prop := (s.onCtx c).past = false ∧ (s.onCtx c).fetch = some b ∧ decode b = .ok (i, rest) ∧
        hazard (s.onCtx c) i = none ∧ (s.onCtx c).fetchMisses = [] ∧ (s.onCtx c).misses i = []
      let after : Slot := if s.core.merged then .engine else .s
      (s.core.slot = .l → s.core.frozen = false → s.core.merged = false → s.core.canIssue .L = true → reads .L →
        step s = exec i ((s.onCtx .L).atIssue i .c1)) ∧
      (s.core.slot = .c1 → s.core.canIssue .C = true → reads .C → step s = exec i ((s.onCtx .C).atIssue i (afterC1 (s.onCtx .C) i b))) ∧
      (s.core.slot = .c2 ve pc → pairs s ve pc = true → reads .C → step s = exec i ((s.onCtx .C).atIssue i .s)) ∧
      (s.core.slot = .s → s.core.merged = false → s.core.canIssue .S = true → reads .S → step s = exec i ((s.onCtx .S).atIssue i .engine)) ∧
      (s.core.slot = .c1 → s.core.canIssue .C = true → (s.onCtx .C).past = false → (s.onCtx .C).fetch = some b → decode b = .error e →
        (s.onCtx .C).fetchMisses = [] →
        step s = faultStep { code := 0x10, addr := 0, lane := 0, aux := pad b 16 }
          ((s.onCtx .C).modCore (fun k => { k with slot := after }))) ∧
      (s.core.slot = .c1 → s.core.canIssue .C = true → (s.onCtx .C).past = true →
        step s = faultStep fltIllegal ((s.onCtx .C).modCore (fun k => { k with slot := after }))) ∧
      (s.core.slot = .c1 → s.core.canIssue .C = true → (s.onCtx .C).past = false → (s.onCtx .C).fetchMisses ≠ [] →
        s.m.duty.getLsbD 0 = true →
        step s = exec (.inPlaceTrap .C)
          { s.onCtx .C with agenda := (s.onCtx .C).fetchMisses.map (fun p => Act.row (.translationMissWalk (w64 (4096 * p)))) }))

/-- DIV and REM (R305): a zero divisor gives all ones and the dividend, −2^63 by −1 gives −2^63; no case faults or sets a flag, and in
every other case a = q·y + r with |r| < |y| and r zero or of the sign of a. -/
def Obligations.DivisionCases : Prop :=
  ∀ (s : State) (f : AluRR) (m : AluRI) (sg : Bool), ∃ q r q' r' : Word,
    (Ready (.div sg f) f.g s → Completes (.div sg f) s (s.landReg f.d q 20 0)) ∧
    (Ready (.rem sg f) f.g s → Completes (.rem sg f) s (s.landReg f.d r 20 0)) ∧
    (Ready (.divImmediate sg m) m.g s → Completes (.divImmediate sg m) s (s.landReg m.d q' 20 0)) ∧
    (Ready (.remImmediate sg m) m.g s → Completes (.remImmediate sg m) s (s.landReg m.d r' 20 0)) ∧
    (∀ a y q0 r0 : Word, (a, y, q0, r0) = (s.src f.a, s.src f.b, q, r) ∨ (a, y, q0, r0) = (s.src m.a, m.imm.signExtend 64, q', r') →
      (y = 0 → q0 = 0xFFFFFFFFFFFFFFFF ∧ r0 = a) ∧
      (sg = true → a = 0x8000000000000000 → y = -1 → q0 = 0x8000000000000000) ∧
      (sg = true → y ≠ 0 → ¬(a = 0x8000000000000000 ∧ y = -1) → a.toInt = q0.toInt * y.toInt + r0.toInt ∧
        r0.toInt.natAbs < y.toInt.natAbs ∧ (r0 = 0 ∨ (r0.toInt < 0 ↔ a.toInt < 0))) ∧
      (sg = false → y ≠ 0 → a.toNat = q0.toNat * y.toNat + r0.toNat ∧ r0.toNat < y.toNat))

/-- SUB, ANDN, SHL, POPC and CLZ as their reference entries give them (R359, R288, R352, R339, R300), with the example word of each and its
values; OP 0x10F and 0x10E are unassigned. Example words of the other classes decode to the instructions they stand for. -/
def Obligations.ExampleWords : Prop :=
  let g : Guard := ⟨false, 0, 0⟩
  let d (n : BitVec 5) : Dst := ⟨n, false, 0⟩
  let w (v : BitVec 3) (i : BitVec 8) : VEl := ⟨v, i⟩
  (∀ (s : State) (f : AluRR) (m : AluRI) (o : OpDA),
    (Ready (.sub f) f.g s → Completes (.sub f) s (s.landReg f.d (s.src f.a - s.src f.b) 1)) ∧
    (Ready (.subImmediate m) m.g s → Completes (.subImmediate m) s (s.landReg m.d (s.src m.a - m.imm.signExtend 64) 1)) ∧
    (Ready (.andn f) f.g s → Completes (.andn f) s (s.landReg f.d (s.src f.a &&& ~~~s.src f.b) 1)) ∧
    (Ready (.andnImmediate m) m.g s → Completes (.andnImmediate m) s (s.landReg m.d (s.src m.a &&& ~~~m.imm.signExtend 64) 1)) ∧
    (Ready (.shl f) f.g s → Completes (.shl f) s (s.landReg f.d (s.src f.a <<< ((s.src f.b).extractLsb' 0 6).toNat) 1)) ∧
    (Ready (.shlImmediate m) m.g s → Completes (.shlImmediate m) s (s.landReg m.d (s.src m.a <<< (m.imm.extractLsb' 0 6).toNat) 1)) ∧
    (Ready (.popc o) o.g s → Completes (.popc o) s (s.landReg o.d (popcValue (s.src o.a)) 1)) ∧
    (Ready (.clz o) o.g s → Completes (.clz o) s (s.landReg o.d (clzValue (s.src o.a)) 1))) ∧
  (∀ a : Word, (popcValue a).toNat = ((List.range 64).filter (fun i => a.getLsbD i)).length ∧
    (a = 0 → clzValue a = 64) ∧
    (∀ h, h < 64 → a.getLsbD h = true → (∀ j, h < j → a.getLsbD j = false) → (clzValue a).toNat = 63 - h)) ∧
  (12 : Word) - 28 = 0xFFFFFFFFFFFFFFF0 ∧ (0xFF : Word) &&& ~~~0x0F = 0xF0 ∧ (12 : Word) <<< 6 = 768 ∧ popcValue 0xF0F0 = 8 ∧
  clzValue 0x10000 = 47 ∧
  decodeWord 0x002000005014018000000000 = .ok (.sub ⟨g, d 5, .reg 20, .reg 24⟩) ∧
  decodeWord 0x008000005006007000000000 = .ok (.andn ⟨g, d 5, .reg 6, .reg 7⟩) ∧
  decodeWord 0x10B000007007000000000006 = .ok (.shlImmediate ⟨g, d 7, .reg 7, 6⟩) ∧
  decodeWord 0x00F000005006000000000000 = .ok (.popc ⟨g, d 5, .reg 6⟩) ∧
  decodeWord 0x00E000005006000000000000 = .ok (.clz ⟨g, d 5, .reg 6⟩) ∧
  (∀ x : IWord, x.extractLsb' 93 3 = 0 → (x.extractLsb' 84 9 = 0x10F ∨ x.extractLsb' 84 9 = 0x10E) → ∃ e, decodeWord x = .error e) ∧
  (∀ x : IWord, x.extractLsb' 93 3 = 0 → (x.extractLsb' 84 9 = 0x00F ∨ x.extractLsb' 84 9 = 0x00E) → x.extractLsb' 36 12 ≠ 0 →
    ∃ e, decodeWord x = .error e) ∧
  decodeWord 0x203000005006007043100000 = .ok (.ffma 8 ⟨g, d 5, .reg 6, .reg 7, .bf16, .rup⟩) ∧
  decodeWord 0x40500000500400607E008000 = .ok (.atom .add ⟨g, d 5, .reg 4, .reg 6, .device, .acqRel, .b64, .global, 8⟩) ∧
  decodeWord 0x609980000000000000000051 = .ok (.trap ⟨⟨true, 6, 0⟩, 0x51⟩) ∧
  decodeWord 0x80C000102100101000000301 = .ok (.vmax true ⟨g, ⟨w 1 2, false, 0⟩, .el (w 1 0), .el (w 1 1), 0, .int32, .rne⟩) ∧
  decodeWord 0xA05000500400000004000040 = .ok (.adrain g (w 5 0) (w 4 0) .bf16 .rna)

/-- Decoding undoes encoding: for every well-formed instruction that has a word, with every operand at every value. -/
def Obligations.DecodeOfEncode : Prop :=
  ∀ (i : Instr) (w : IWord), i.wf = true → encode i = some w → decodeWord w = .ok i

/-- The machine right after reset: what the spec gives (R6, R30, R142, R272), and the invariant. That a hub core starts in mode S is
the model's reading (DEDUCED, log 62). The values that log 1 (DESIGN CHOICE) chooses are not stated. -/
def Obligations.ResetState : Prop :=
  Inv State.reset ∧ State.reset.core.c.get 0 = 0 ∧ State.reset.m.now = 0 ∧ State.reset.m.stage = 0 ∧
  State.reset.m.stallTimeout = 10000 ∧ (Core.reset 768).mode = .s ∧ (Core.reset 0).mode = .u ∧ State.reset.core.task = none ∧
  (∀ ch, (State.reset.core.chain ch).append = 0 ∧ (State.reset.core.chain ch).counter = 0)

/-- Every step keeps the invariant: memory stays in canonical form, and nothing of a step is left unwritten. -/
def Obligations.StepKeepsInv : Prop :=
  ∀ s t : State, Inv s → step s = .next t → Inv t
end

