-- ==== Sys2Proof/Laws/Cells.lean ====
section
/-! SUPPORT. Memory: reading after writing, and that every operation keeps the canonical form. -/

namespace Sys2Proof.Machine

@[simp] theorem Cells.wfFrom_cons (lo k : Nat) (v : Byte) (r : Cells) :
    Cells.wfFrom lo ((k, v) :: r) = true ↔ lo ≤ k ∧ v ≠ 0 ∧ Cells.wfFrom (k + 1) r = true := by
  simp only [Cells.wfFrom, Bool.and_eq_true, decide_eq_true_eq, bne_iff_ne, and_assoc]

theorem Cells.wfFrom_mono {lo lo' : Nat} (h : lo' ≤ lo) {c : Cells} (hc : Cells.wfFrom lo c = true) : Cells.wfFrom lo' c = true := by
  cases c with
  | nil => rfl
  | cons p r =>
    obtain ⟨h1, h2, h3⟩ := (Cells.wfFrom_cons ..).mp hc
    exact (Cells.wfFrom_cons ..).mpr ⟨le_trans h h1, h2, h3⟩

theorem Cells.wfFrom_insert {c : Cells} {a : Nat} {b : Byte} (hb : b ≠ 0) :
    ∀ {lo : Nat}, lo ≤ a → Cells.wfFrom lo c = true → Cells.wfFrom lo (c.insert a b) = true := by
  induction c with
  | nil => intro lo h _; exact (Cells.wfFrom_cons ..).mpr ⟨h, hb, rfl⟩
  | cons p r ih =>
    obtain ⟨k, v⟩ := p
    intro lo h hc
    obtain ⟨h1, h2, h3⟩ := (Cells.wfFrom_cons ..).mp hc
    simp only [Cells.insert]
    split
    · next hlt => exact (Cells.wfFrom_cons ..).mpr ⟨h, hb, (Cells.wfFrom_cons ..).mpr ⟨hlt, h2, h3⟩⟩
    · split
      · next heq => subst heq; exact (Cells.wfFrom_cons ..).mpr ⟨h, hb, h3⟩
      · exact (Cells.wfFrom_cons ..).mpr ⟨h1, h2, ih (by omega) h3⟩

theorem Cells.wfFrom_erase {c : Cells} {a : Nat} : ∀ {lo : Nat}, Cells.wfFrom lo c = true → Cells.wfFrom lo (c.erase a) = true := by
  induction c with
  | nil => intro lo _; rfl
  | cons p r ih =>
    obtain ⟨k, v⟩ := p
    intro lo hc
    obtain ⟨h1, h2, h3⟩ := (Cells.wfFrom_cons ..).mp hc
    simp only [Cells.erase]
    split
    · exact Cells.wfFrom_mono (by omega) h3
    · exact (Cells.wfFrom_cons ..).mpr ⟨h1, h2, ih h3⟩

/-- A write of one byte keeps the canonical form. -/
theorem Cells.wf_set {c : Cells} (h : Memory.wf c = true) (a : Nat) (b : Byte) : Memory.wf (c.set a b) = true := by
  unfold Cells.set
  split
  · exact Cells.wfFrom_erase h
  · next hb => exact Cells.wfFrom_insert hb (Nat.zero_le a) h

theorem Cells.wf_commit {c : Cells} (h : Memory.wf c = true) (l : List Host.Cell) : Memory.wf (c.commit l) = true := by
  induction l with
  | nil => exact h
  | cons p r ih => exact Cells.wf_set ih p.1 p.2

theorem Cells.wf_setRun {c : Cells} (h : Memory.wf c = true) (bs : Bytes) : ∀ a, Memory.wf (c.setRun a bs) = true := by
  induction bs generalizing c with
  | nil => intro a; exact h
  | cons b r ih => intro a; exact ih (Cells.wf_set h a b) (a + 1)

theorem Cells.find_insert (c : Cells) (a : Nat) (b : Byte) : ∀ x, (c.insert a b).find x = if x = a then some b else c.find x := by
  induction c with
  | nil =>
    intro x
    by_cases hx : a = x
    · simp [Cells.insert, Cells.find, hx]
    · simp [Cells.insert, Cells.find, hx, Ne.symm hx]
  | cons p r ih =>
    obtain ⟨k, v⟩ := p
    intro x
    simp only [Cells.insert]
    by_cases h1 : a < k
    · rw [if_pos h1]
      by_cases hx : a = x
      · simp [Cells.find, hx]
      · simp [Cells.find, hx, Ne.symm hx]
    · rw [if_neg h1]
      by_cases h2 : a = k
      · subst h2
        rw [if_pos rfl]
        by_cases hx : a = x
        · simp [Cells.find, hx]
        · simp [Cells.find, hx, Ne.symm hx]
      · rw [if_neg h2]
        by_cases hk : k = x
        · subst hk
          simp [Cells.find, Ne.symm h2]
        · simp [Cells.find, hk, ih]

theorem Cells.find_low {c : Cells} {lo x : Nat} (h : Cells.wfFrom lo c = true) (hx : x < lo) : c.find x = none := by
  induction c generalizing lo with
  | nil => rfl
  | cons p r ih =>
    obtain ⟨k, v⟩ := p
    obtain ⟨h1, h2, h3⟩ := (Cells.wfFrom_cons ..).mp h
    simp only [Cells.find, if_neg (show ¬ k = x by omega)]
    exact ih h3 (by omega)

theorem Cells.find_erase {c : Cells} (a : Nat) : ∀ {lo : Nat}, Cells.wfFrom lo c = true →
    ∀ x, (c.erase a).find x = if x = a then none else c.find x := by
  induction c with
  | nil => intro lo _ x; simp [Cells.erase, Cells.find]
  | cons p r ih =>
    obtain ⟨k, v⟩ := p
    intro lo h x
    obtain ⟨h1, h2, h3⟩ := (Cells.wfFrom_cons ..).mp h
    simp only [Cells.erase]
    by_cases h2 : a = k
    · subst h2
      rw [if_pos rfl]
      by_cases hx : a = x
      · subst hx; simp [Cells.find_low h3 (Nat.lt_succ_self a)]
      · simp [Cells.find, hx, Ne.symm hx]
    · rw [if_neg h2]
      by_cases hk : k = x
      · subst hk; simp [Cells.find, Ne.symm h2]
      · simp [Cells.find, hk, ih h3]

/-- A read after a write to the same address gives the byte written, and every other address reads as before. -/
theorem Cells.get_set {c : Cells} (h : Memory.wf c = true) (a : Nat) (b : Byte) (x : Nat) :
    (c.set a b).get x = if x = a then b else c.get x := by
  unfold Cells.set Cells.get
  split
  · next hb => rw [Cells.find_erase a h]; by_cases hx : x = a <;> simp [hx, hb]
  · rw [Cells.find_insert]; by_cases hx : x = a <;> simp [hx]

/-- Bytes that a log of writes does not name read as before. -/
theorem Cells.get_commit_other {c : Cells} (h : Memory.wf c = true) (l : List Host.Cell) (x : Nat) (hx : ∀ p ∈ l, p.1 ≠ x) :
    (c.commit l).get x = c.get x := by
  induction l with
  | nil => rfl
  | cons p r ih =>
    show ((c.commit r).set p.1 p.2).get x = _
    rw [Cells.get_set (Cells.wf_commit h r), if_neg (fun e => hx p (by simp) e.symm)]
    exact ih (fun q hq => hx q (by simp [hq]))

end Sys2Proof.Machine
end

