-- ==== Sys2Proof/Laws/State.lean ====
section
/-! SUPPORT. What each update of a part of the state leaves: one lemma per field per update. -/

namespace Sys2Proof.Machine

/-! ### Updates of the state -/

@[simp] theorem State.modCore_core (s : State) (f : Core → Core) : (s.modCore f).core = f s.core := rfl
@[simp] theorem State.modCore_others (s : State) (f : Core → Core) : (s.modCore f).others = s.others := rfl
@[simp] theorem State.modCore_m (s : State) (f : Core → Core) : (s.modCore f).m = s.m := rfl
@[simp] theorem State.modCore_mem (s : State) (f : Core → Core) : (s.modCore f).mem = s.mem := rfl
@[simp] theorem State.modCore_wlog (s : State) (f : Core → Core) : (s.modCore f).wlog = s.wlog := rfl
@[simp] theorem State.modCore_agenda (s : State) (f : Core → Core) : (s.modCore f).agenda = s.agenda := rfl
@[simp] theorem State.modM_core (s : State) (f : Module → Module) : (s.modM f).core = s.core := rfl
@[simp] theorem State.modM_others (s : State) (f : Module → Module) : (s.modM f).others = s.others := rfl
@[simp] theorem State.modM_m (s : State) (f : Module → Module) : (s.modM f).m = f s.m := rfl
@[simp] theorem State.modM_mem (s : State) (f : Module → Module) : (s.modM f).mem = s.mem := rfl
@[simp] theorem State.modM_wlog (s : State) (f : Module → Module) : (s.modM f).wlog = s.wlog := rfl
@[simp] theorem State.modM_agenda (s : State) (f : Module → Module) : (s.modM f).agenda = s.agenda := rfl
@[simp] theorem State.modHere_core (s : State) (f : Context → Context) : (s.modHere f).core = s.core.modCtx s.core.cur f := rfl
@[simp] theorem State.modHere_others (s : State) (f : Context → Context) : (s.modHere f).others = s.others := rfl
@[simp] theorem State.modHere_m (s : State) (f : Context → Context) : (s.modHere f).m = s.m := rfl
@[simp] theorem State.modHere_mem (s : State) (f : Context → Context) : (s.modHere f).mem = s.mem := rfl
@[simp] theorem State.modHere_wlog (s : State) (f : Context → Context) : (s.modHere f).wlog = s.wlog := rfl
@[simp] theorem State.modHere_agenda (s : State) (f : Context → Context) : (s.modHere f).agenda = s.agenda := rfl

/-! ### One context of a core -/

@[simp] theorem Core.ctx_setCtx_same (k : Core) (c : Ctx) (x : Context) : (k.setCtx c x).ctx c = x := by cases c <;> rfl
@[simp] theorem Core.ctx_setCtx_other (k : Core) (c e : Ctx) (x : Context) (h : e ≠ c) : (k.setCtx c x).ctx e = k.ctx e := by
  cases c <;> cases e <;> first | rfl | exact absurd rfl h
theorem Core.ctx_setCtx (k : Core) (c e : Ctx) (x : Context) : (k.setCtx c x).ctx e = if e = c then x else k.ctx e := by
  by_cases h : e = c
  · simp [h]
  · simp [h]
@[simp] theorem Core.ctx_modCtx_same (k : Core) (c : Ctx) (f : Context → Context) : (k.modCtx c f).ctx c = f (k.ctx c) := by simp [Core.modCtx]
@[simp] theorem Core.ctx_modCtx_other (k : Core) (c e : Ctx) (f : Context → Context) (h : e ≠ c) : (k.modCtx c f).ctx e = k.ctx e := by simp [Core.modCtx, h]
theorem Core.ctx_modCtx (k : Core) (c e : Ctx) (f : Context → Context) :
    (k.modCtx c f).ctx e = if e = c then f (k.ctx c) else k.ctx e := by simp [Core.modCtx, Core.ctx_setCtx]
@[simp] theorem Core.setCtx_num (k : Core) (c : Ctx) (x : Context) : (k.setCtx c x).num = k.num := by cases c <;> rfl
@[simp] theorem Core.setCtx_mode (k : Core) (c : Ctx) (x : Context) : (k.setCtx c x).mode = k.mode := by cases c <;> rfl
@[simp] theorem Core.setCtx_merged (k : Core) (c : Ctx) (x : Context) : (k.setCtx c x).merged = k.merged := by cases c <;> rfl
@[simp] theorem Core.setCtx_cyc (k : Core) (c : Ctx) (x : Context) : (k.setCtx c x).cyc = k.cyc := by cases c <;> rfl
@[simp] theorem Core.setCtx_slot (k : Core) (c : Ctx) (x : Context) : (k.setCtx c x).slot = k.slot := by cases c <;> rfl
@[simp] theorem Core.setCtx_cur (k : Core) (c : Ctx) (x : Context) : (k.setCtx c x).cur = k.cur := by cases c <;> rfl
@[simp] theorem Core.setCtx_flights (k : Core) (c : Ctx) (x : Context) : (k.setCtx c x).flights = k.flights := by cases c <;> rfl
@[simp] theorem Core.setCtx_banks (k : Core) (c : Ctx) (x : Context) : (k.setCtx c x).banks = k.banks := by cases c <;> rfl
@[simp] theorem Core.setCtx_task (k : Core) (c : Ctx) (x : Context) : (k.setCtx c x).task = k.task := by cases c <;> rfl
@[simp] theorem Core.setCtx_seed (k : Core) (c : Ctx) (x : Context) : (k.setCtx c x).seed = k.seed := by cases c <;> rfl
@[simp] theorem Core.setCtx_ranBefore (k : Core) (c : Ctx) (x : Context) : (k.setCtx c x).ranBefore = k.ranBefore := by cases c <;> rfl
@[simp] theorem Core.setCtx_lastTask (k : Core) (c : Ctx) (x : Context) : (k.setCtx c x).lastTask = k.lastTask := by cases c <;> rfl
@[simp] theorem Core.setCtx_rs (k : Core) (c : Ctx) (x : Context) : (k.setCtx c x).rs = k.rs := by cases c <;> rfl
@[simp] theorem Core.setCtx_rsGen (k : Core) (c : Ctx) (x : Context) : (k.setCtx c x).rsGen = k.rsGen := by cases c <;> rfl
@[simp] theorem Core.setCtx_wb (k : Core) (c : Ctx) (x : Context) : (k.setCtx c x).wb = k.wb := by cases c <;> rfl
@[simp] theorem Core.setCtx_wbGen (k : Core) (c : Ctx) (x : Context) : (k.setCtx c x).wbGen = k.wbGen := by cases c <;> rfl
@[simp] theorem Core.setCtx_allocs (k : Core) (c : Ctx) (x : Context) : (k.setCtx c x).allocs = k.allocs := by cases c <;> rfl
@[simp] theorem Core.setCtx_lastTags (k : Core) (c : Ctx) (x : Context) : (k.setCtx c x).lastTags = k.lastTags := by cases c <;> rfl
@[simp] theorem Core.setCtx_rings (k : Core) (c : Ctx) (x : Context) : (k.setCtx c x).rings = k.rings := by cases c <;> rfl
@[simp] theorem Core.setCtx_tci (k : Core) (c : Ctx) (x : Context) : (k.setCtx c x).tci = k.tci := by cases c <;> rfl
@[simp] theorem Core.setCtx_tmx (k : Core) (c : Ctx) (x : Context) : (k.setCtx c x).tmx = k.tmx := by cases c <;> rfl
@[simp] theorem Core.setCtx_tco (k : Core) (c : Ctx) (x : Context) : (k.setCtx c x).tco = k.tco := by cases c <;> rfl
@[simp] theorem Core.setCtx_tsx (k : Core) (c : Ctx) (x : Context) : (k.setCtx c x).tsx = k.tsx := by cases c <;> rfl
@[simp] theorem Core.setCtx_appends (k : Core) (c : Ctx) (x : Context) : (k.setCtx c x).appends = k.appends := by cases c <;> rfl
@[simp] theorem Core.setCtx_window (k : Core) (c : Ctx) (x : Context) : (k.setCtx c x).window = k.window := by cases c <;> rfl
@[simp] theorem Core.setCtx_ckpt (k : Core) (c : Ctx) (x : Context) : (k.setCtx c x).ckpt = k.ckpt := by cases c <;> rfl
@[simp] theorem Core.setCtx_journal (k : Core) (c : Ctx) (x : Context) : (k.setCtx c x).journal = k.journal := by cases c <;> rfl
@[simp] theorem Core.setCtx_replayed (k : Core) (c : Ctx) (x : Context) : (k.setCtx c x).replayed = k.replayed := by cases c <;> rfl
@[simp] theorem Core.setCtx_secAppends (k : Core) (c : Ctx) (x : Context) : (k.setCtx c x).secAppends = k.secAppends := by cases c <;> rfl
@[simp] theorem Core.setCtx_nonIdem (k : Core) (c : Ctx) (x : Context) : (k.setCtx c x).nonIdem = k.nonIdem := by cases c <;> rfl
@[simp] theorem Core.setCtx_returning (k : Core) (c : Ctx) (x : Context) : (k.setCtx c x).returning = k.returning := by cases c <;> rfl
@[simp] theorem Core.setCtx_phase (k : Core) (c : Ctx) (x : Context) : (k.setCtx c x).phase = k.phase := by cases c <;> rfl
@[simp] theorem Core.setCtx_tlb (k : Core) (c : Ctx) (x : Context) : (k.setCtx c x).tlb = k.tlb := by cases c <;> rfl
@[simp] theorem Core.setCtx_perf (k : Core) (c : Ctx) (x : Context) : (k.setCtx c x).perf = k.perf := by cases c <;> rfl
@[simp] theorem Core.setCtx_trace (k : Core) (c : Ctx) (x : Context) : (k.setCtx c x).trace = k.trace := by cases c <;> rfl
@[simp] theorem Core.setCtx_traps (k : Core) (c : Ctx) (x : Context) : (k.setCtx c x).traps = k.traps := by cases c <;> rfl
@[simp] theorem Core.setCtx_inService (k : Core) (c : Ctx) (x : Context) : (k.setCtx c x).inService = k.inService := by cases c <;> rfl
@[simp] theorem Core.setCtx_throttled (k : Core) (c : Ctx) (x : Context) : (k.setCtx c x).throttled = k.throttled := by cases c <;> rfl
@[simp] theorem Core.setCtx_rollbacks (k : Core) (c : Ctx) (x : Context) : (k.setCtx c x).rollbacks = k.rollbacks := by cases c <;> rfl
@[simp] theorem Core.setCtx_stop (k : Core) (c : Ctx) (x : Context) : (k.setCtx c x).stop = k.stop := by cases c <;> rfl
@[simp] theorem Core.setCtx_dir (k : Core) (c : Ctx) (x : Context) : (k.setCtx c x).dir = k.dir := by cases c <;> rfl
@[simp] theorem Core.setCtx_debugger (k : Core) (c : Ctx) (x : Context) : (k.setCtx c x).debugger = k.debugger := by cases c <;> rfl
@[simp] theorem Core.setCtx_svc (k : Core) (c : Ctx) (x : Context) : (k.setCtx c x).svc = k.svc := by cases c <;> rfl
@[simp] theorem Core.setCtx_dumps (k : Core) (c : Ctx) (x : Context) : (k.setCtx c x).dumps = k.dumps := by cases c <;> rfl
@[simp] theorem Core.setCtx_banksWas (k : Core) (c : Ctx) (x : Context) : (k.setCtx c x).banksWas = k.banksWas := by cases c <;> rfl
@[simp] theorem Core.setCtx_sight (k : Core) (c : Ctx) (x : Context) : (k.setCtx c x).sight = k.sight := by cases c <;> rfl
@[simp] theorem Core.setCtx_ran (k : Core) (c : Ctx) (x : Context) : (k.setCtx c x).ran = k.ran := by cases c <;> rfl
@[simp] theorem Core.setCtx_hubFaults (k : Core) (c : Ctx) (x : Context) : (k.setCtx c x).hubFaults = k.hubFaults := by cases c <;> rfl
@[simp] theorem Core.setCtx_started (k : Core) (c : Ctx) (x : Context) : (k.setCtx c x).started = k.started := by cases c <;> rfl
@[simp] theorem Core.setCtx_claim (k : Core) (c : Ctx) (x : Context) : (k.setCtx c x).claim = k.claim := by cases c <;> rfl
@[simp] theorem Core.setCtx_badScratch (k : Core) (c : Ctx) (x : Context) : (k.setCtx c x).badScratch = k.badScratch := by cases c <;> rfl
@[simp] theorem Core.setCtx_badRegs (k : Core) (c : Ctx) (x : Context) : (k.setCtx c x).badRegs = k.badRegs := by cases c <;> rfl
@[simp] theorem Core.setCtx_corrected (k : Core) (c : Ctx) (x : Context) : (k.setCtx c x).corrected = k.corrected := by cases c <;> rfl
@[simp] theorem Core.setCtx_nowAt (k : Core) (c : Ctx) (x : Context) : (k.setCtx c x).nowAt = k.nowAt := by cases c <;> rfl
@[simp] theorem Core.setCtx_saveTick (k : Core) (c : Ctx) (x : Context) : (k.setCtx c x).saveTick = k.saveTick := by cases c <;> rfl
@[simp] theorem Core.setCtx_lates (k : Core) (c : Ctx) (x : Context) : (k.setCtx c x).lates = k.lates := by cases c <;> rfl
@[simp] theorem Core.setCtx_ringLog (k : Core) (c : Ctx) (x : Context) : (k.setCtx c x).ringLog = k.ringLog := by cases c <;> rfl
@[simp] theorem Core.setCtx_called (k : Core) (c : Ctx) (x : Context) : (k.setCtx c x).called = k.called := by cases c <;> rfl
@[simp] theorem Core.setCtx_cutDump (k : Core) (c : Ctx) (x : Context) : (k.setCtx c x).cutDump = k.cutDump := by cases c <;> rfl
@[simp] theorem Core.setCtx_fatal (k : Core) (c : Ctx) (x : Context) : (k.setCtx c x).fatal = k.fatal := by cases c <;> rfl
@[simp] theorem Core.setCtx_badWeights (k : Core) (c : Ctx) (x : Context) : (k.setCtx c x).badWeights = k.badWeights := by cases c <;> rfl
@[simp] theorem Core.setCtx_cutWait (k : Core) (c : Ctx) (x : Context) : (k.setCtx c x).cutWait = k.cutWait := by cases c <;> rfl
@[simp] theorem Core.setCtx_redo (k : Core) (c : Ctx) (x : Context) : (k.setCtx c x).redo = k.redo := by cases c <;> rfl
@[simp] theorem Core.modCtx_num (k : Core) (c : Ctx) (f : Context → Context) : (k.modCtx c f).num = k.num := by simp [Core.modCtx]
@[simp] theorem Core.modCtx_mode (k : Core) (c : Ctx) (f : Context → Context) : (k.modCtx c f).mode = k.mode := by simp [Core.modCtx]
@[simp] theorem Core.modCtx_merged (k : Core) (c : Ctx) (f : Context → Context) : (k.modCtx c f).merged = k.merged := by simp [Core.modCtx]
@[simp] theorem Core.modCtx_cyc (k : Core) (c : Ctx) (f : Context → Context) : (k.modCtx c f).cyc = k.cyc := by simp [Core.modCtx]
@[simp] theorem Core.modCtx_slot (k : Core) (c : Ctx) (f : Context → Context) : (k.modCtx c f).slot = k.slot := by simp [Core.modCtx]
@[simp] theorem Core.modCtx_cur (k : Core) (c : Ctx) (f : Context → Context) : (k.modCtx c f).cur = k.cur := by simp [Core.modCtx]
@[simp] theorem Core.modCtx_flights (k : Core) (c : Ctx) (f : Context → Context) : (k.modCtx c f).flights = k.flights := by simp [Core.modCtx]
@[simp] theorem Core.modCtx_banks (k : Core) (c : Ctx) (f : Context → Context) : (k.modCtx c f).banks = k.banks := by simp [Core.modCtx]
@[simp] theorem Core.modCtx_task (k : Core) (c : Ctx) (f : Context → Context) : (k.modCtx c f).task = k.task := by simp [Core.modCtx]
@[simp] theorem Core.modCtx_seed (k : Core) (c : Ctx) (f : Context → Context) : (k.modCtx c f).seed = k.seed := by simp [Core.modCtx]
@[simp] theorem Core.modCtx_ranBefore (k : Core) (c : Ctx) (f : Context → Context) : (k.modCtx c f).ranBefore = k.ranBefore := by simp [Core.modCtx]
@[simp] theorem Core.modCtx_lastTask (k : Core) (c : Ctx) (f : Context → Context) : (k.modCtx c f).lastTask = k.lastTask := by simp [Core.modCtx]
@[simp] theorem Core.modCtx_rs (k : Core) (c : Ctx) (f : Context → Context) : (k.modCtx c f).rs = k.rs := by simp [Core.modCtx]
@[simp] theorem Core.modCtx_rsGen (k : Core) (c : Ctx) (f : Context → Context) : (k.modCtx c f).rsGen = k.rsGen := by simp [Core.modCtx]
@[simp] theorem Core.modCtx_wb (k : Core) (c : Ctx) (f : Context → Context) : (k.modCtx c f).wb = k.wb := by simp [Core.modCtx]
@[simp] theorem Core.modCtx_wbGen (k : Core) (c : Ctx) (f : Context → Context) : (k.modCtx c f).wbGen = k.wbGen := by simp [Core.modCtx]
@[simp] theorem Core.modCtx_allocs (k : Core) (c : Ctx) (f : Context → Context) : (k.modCtx c f).allocs = k.allocs := by simp [Core.modCtx]
@[simp] theorem Core.modCtx_lastTags (k : Core) (c : Ctx) (f : Context → Context) : (k.modCtx c f).lastTags = k.lastTags := by simp [Core.modCtx]
@[simp] theorem Core.modCtx_rings (k : Core) (c : Ctx) (f : Context → Context) : (k.modCtx c f).rings = k.rings := by simp [Core.modCtx]
@[simp] theorem Core.modCtx_tci (k : Core) (c : Ctx) (f : Context → Context) : (k.modCtx c f).tci = k.tci := by simp [Core.modCtx]
@[simp] theorem Core.modCtx_tmx (k : Core) (c : Ctx) (f : Context → Context) : (k.modCtx c f).tmx = k.tmx := by simp [Core.modCtx]
@[simp] theorem Core.modCtx_tco (k : Core) (c : Ctx) (f : Context → Context) : (k.modCtx c f).tco = k.tco := by simp [Core.modCtx]
@[simp] theorem Core.modCtx_tsx (k : Core) (c : Ctx) (f : Context → Context) : (k.modCtx c f).tsx = k.tsx := by simp [Core.modCtx]
@[simp] theorem Core.modCtx_appends (k : Core) (c : Ctx) (f : Context → Context) : (k.modCtx c f).appends = k.appends := by simp [Core.modCtx]
@[simp] theorem Core.modCtx_window (k : Core) (c : Ctx) (f : Context → Context) : (k.modCtx c f).window = k.window := by simp [Core.modCtx]
@[simp] theorem Core.modCtx_ckpt (k : Core) (c : Ctx) (f : Context → Context) : (k.modCtx c f).ckpt = k.ckpt := by simp [Core.modCtx]
@[simp] theorem Core.modCtx_journal (k : Core) (c : Ctx) (f : Context → Context) : (k.modCtx c f).journal = k.journal := by simp [Core.modCtx]
@[simp] theorem Core.modCtx_replayed (k : Core) (c : Ctx) (f : Context → Context) : (k.modCtx c f).replayed = k.replayed := by simp [Core.modCtx]
@[simp] theorem Core.modCtx_secAppends (k : Core) (c : Ctx) (f : Context → Context) : (k.modCtx c f).secAppends = k.secAppends := by simp [Core.modCtx]
@[simp] theorem Core.modCtx_nonIdem (k : Core) (c : Ctx) (f : Context → Context) : (k.modCtx c f).nonIdem = k.nonIdem := by simp [Core.modCtx]
@[simp] theorem Core.modCtx_returning (k : Core) (c : Ctx) (f : Context → Context) : (k.modCtx c f).returning = k.returning := by simp [Core.modCtx]
@[simp] theorem Core.modCtx_phase (k : Core) (c : Ctx) (f : Context → Context) : (k.modCtx c f).phase = k.phase := by simp [Core.modCtx]
@[simp] theorem Core.modCtx_tlb (k : Core) (c : Ctx) (f : Context → Context) : (k.modCtx c f).tlb = k.tlb := by simp [Core.modCtx]
@[simp] theorem Core.modCtx_perf (k : Core) (c : Ctx) (f : Context → Context) : (k.modCtx c f).perf = k.perf := by simp [Core.modCtx]
@[simp] theorem Core.modCtx_trace (k : Core) (c : Ctx) (f : Context → Context) : (k.modCtx c f).trace = k.trace := by simp [Core.modCtx]
@[simp] theorem Core.modCtx_traps (k : Core) (c : Ctx) (f : Context → Context) : (k.modCtx c f).traps = k.traps := by simp [Core.modCtx]
@[simp] theorem Core.modCtx_inService (k : Core) (c : Ctx) (f : Context → Context) : (k.modCtx c f).inService = k.inService := by simp [Core.modCtx]
@[simp] theorem Core.modCtx_throttled (k : Core) (c : Ctx) (f : Context → Context) : (k.modCtx c f).throttled = k.throttled := by simp [Core.modCtx]
@[simp] theorem Core.modCtx_rollbacks (k : Core) (c : Ctx) (f : Context → Context) : (k.modCtx c f).rollbacks = k.rollbacks := by simp [Core.modCtx]
@[simp] theorem Core.modCtx_stop (k : Core) (c : Ctx) (f : Context → Context) : (k.modCtx c f).stop = k.stop := by simp [Core.modCtx]
@[simp] theorem Core.modCtx_dir (k : Core) (c : Ctx) (f : Context → Context) : (k.modCtx c f).dir = k.dir := by simp [Core.modCtx]
@[simp] theorem Core.modCtx_debugger (k : Core) (c : Ctx) (f : Context → Context) : (k.modCtx c f).debugger = k.debugger := by simp [Core.modCtx]
@[simp] theorem Core.modCtx_svc (k : Core) (c : Ctx) (f : Context → Context) : (k.modCtx c f).svc = k.svc := by simp [Core.modCtx]
@[simp] theorem Core.modCtx_dumps (k : Core) (c : Ctx) (f : Context → Context) : (k.modCtx c f).dumps = k.dumps := by simp [Core.modCtx]
@[simp] theorem Core.modCtx_banksWas (k : Core) (c : Ctx) (f : Context → Context) : (k.modCtx c f).banksWas = k.banksWas := by simp [Core.modCtx]
@[simp] theorem Core.modCtx_sight (k : Core) (c : Ctx) (f : Context → Context) : (k.modCtx c f).sight = k.sight := by simp [Core.modCtx]
@[simp] theorem Core.modCtx_ran (k : Core) (c : Ctx) (f : Context → Context) : (k.modCtx c f).ran = k.ran := by simp [Core.modCtx]
@[simp] theorem Core.modCtx_hubFaults (k : Core) (c : Ctx) (f : Context → Context) : (k.modCtx c f).hubFaults = k.hubFaults := by simp [Core.modCtx]
@[simp] theorem Core.modCtx_started (k : Core) (c : Ctx) (f : Context → Context) : (k.modCtx c f).started = k.started := by simp [Core.modCtx]
@[simp] theorem Core.modCtx_claim (k : Core) (c : Ctx) (f : Context → Context) : (k.modCtx c f).claim = k.claim := by simp [Core.modCtx]
@[simp] theorem Core.modCtx_badScratch (k : Core) (c : Ctx) (f : Context → Context) : (k.modCtx c f).badScratch = k.badScratch := by simp [Core.modCtx]
@[simp] theorem Core.modCtx_badRegs (k : Core) (c : Ctx) (f : Context → Context) : (k.modCtx c f).badRegs = k.badRegs := by simp [Core.modCtx]
@[simp] theorem Core.modCtx_corrected (k : Core) (c : Ctx) (f : Context → Context) : (k.modCtx c f).corrected = k.corrected := by simp [Core.modCtx]
@[simp] theorem Core.modCtx_nowAt (k : Core) (c : Ctx) (f : Context → Context) : (k.modCtx c f).nowAt = k.nowAt := by simp [Core.modCtx]
@[simp] theorem Core.modCtx_saveTick (k : Core) (c : Ctx) (f : Context → Context) : (k.modCtx c f).saveTick = k.saveTick := by simp [Core.modCtx]
@[simp] theorem Core.modCtx_lates (k : Core) (c : Ctx) (f : Context → Context) : (k.modCtx c f).lates = k.lates := by simp [Core.modCtx]
@[simp] theorem Core.modCtx_ringLog (k : Core) (c : Ctx) (f : Context → Context) : (k.modCtx c f).ringLog = k.ringLog := by simp [Core.modCtx]
@[simp] theorem Core.modCtx_called (k : Core) (c : Ctx) (f : Context → Context) : (k.modCtx c f).called = k.called := by simp [Core.modCtx]
@[simp] theorem Core.modCtx_cutDump (k : Core) (c : Ctx) (f : Context → Context) : (k.modCtx c f).cutDump = k.cutDump := by simp [Core.modCtx]
@[simp] theorem Core.modCtx_fatal (k : Core) (c : Ctx) (f : Context → Context) : (k.modCtx c f).fatal = k.fatal := by simp [Core.modCtx]
@[simp] theorem Core.modCtx_badWeights (k : Core) (c : Ctx) (f : Context → Context) : (k.modCtx c f).badWeights = k.badWeights := by simp [Core.modCtx]
@[simp] theorem Core.modCtx_cutWait (k : Core) (c : Ctx) (f : Context → Context) : (k.modCtx c f).cutWait = k.cutWait := by simp [Core.modCtx]
@[simp] theorem Core.modCtx_redo (k : Core) (c : Ctx) (f : Context → Context) : (k.modCtx c f).redo = k.redo := by simp [Core.modCtx]

/-! ### All contexts of a core -/

@[simp] theorem Core.ctx_modAll (k : Core) (f : Context → Context) (c : Ctx) : (k.modAll f).ctx c = f (k.ctx c) := by cases c <;> rfl
@[simp] theorem Core.modAll_num (k : Core) (f : Context → Context) : (k.modAll f).num = k.num := rfl
@[simp] theorem Core.modAll_mode (k : Core) (f : Context → Context) : (k.modAll f).mode = k.mode := rfl
@[simp] theorem Core.modAll_merged (k : Core) (f : Context → Context) : (k.modAll f).merged = k.merged := rfl
@[simp] theorem Core.modAll_cyc (k : Core) (f : Context → Context) : (k.modAll f).cyc = k.cyc := rfl
@[simp] theorem Core.modAll_slot (k : Core) (f : Context → Context) : (k.modAll f).slot = k.slot := rfl
@[simp] theorem Core.modAll_cur (k : Core) (f : Context → Context) : (k.modAll f).cur = k.cur := rfl
@[simp] theorem Core.modAll_flights (k : Core) (f : Context → Context) : (k.modAll f).flights = k.flights := rfl
@[simp] theorem Core.modAll_banks (k : Core) (f : Context → Context) : (k.modAll f).banks = k.banks := rfl
@[simp] theorem Core.modAll_task (k : Core) (f : Context → Context) : (k.modAll f).task = k.task := rfl
@[simp] theorem Core.modAll_seed (k : Core) (f : Context → Context) : (k.modAll f).seed = k.seed := rfl
@[simp] theorem Core.modAll_ranBefore (k : Core) (f : Context → Context) : (k.modAll f).ranBefore = k.ranBefore := rfl
@[simp] theorem Core.modAll_lastTask (k : Core) (f : Context → Context) : (k.modAll f).lastTask = k.lastTask := rfl
@[simp] theorem Core.modAll_rs (k : Core) (f : Context → Context) : (k.modAll f).rs = k.rs := rfl
@[simp] theorem Core.modAll_rsGen (k : Core) (f : Context → Context) : (k.modAll f).rsGen = k.rsGen := rfl
@[simp] theorem Core.modAll_wb (k : Core) (f : Context → Context) : (k.modAll f).wb = k.wb := rfl
@[simp] theorem Core.modAll_wbGen (k : Core) (f : Context → Context) : (k.modAll f).wbGen = k.wbGen := rfl
@[simp] theorem Core.modAll_allocs (k : Core) (f : Context → Context) : (k.modAll f).allocs = k.allocs := rfl
@[simp] theorem Core.modAll_lastTags (k : Core) (f : Context → Context) : (k.modAll f).lastTags = k.lastTags := rfl
@[simp] theorem Core.modAll_rings (k : Core) (f : Context → Context) : (k.modAll f).rings = k.rings := rfl
@[simp] theorem Core.modAll_tci (k : Core) (f : Context → Context) : (k.modAll f).tci = k.tci := rfl
@[simp] theorem Core.modAll_tmx (k : Core) (f : Context → Context) : (k.modAll f).tmx = k.tmx := rfl
@[simp] theorem Core.modAll_tco (k : Core) (f : Context → Context) : (k.modAll f).tco = k.tco := rfl
@[simp] theorem Core.modAll_tsx (k : Core) (f : Context → Context) : (k.modAll f).tsx = k.tsx := rfl
@[simp] theorem Core.modAll_appends (k : Core) (f : Context → Context) : (k.modAll f).appends = k.appends := rfl
@[simp] theorem Core.modAll_window (k : Core) (f : Context → Context) : (k.modAll f).window = k.window := rfl
@[simp] theorem Core.modAll_ckpt (k : Core) (f : Context → Context) : (k.modAll f).ckpt = k.ckpt := rfl
@[simp] theorem Core.modAll_journal (k : Core) (f : Context → Context) : (k.modAll f).journal = k.journal := rfl
@[simp] theorem Core.modAll_replayed (k : Core) (f : Context → Context) : (k.modAll f).replayed = k.replayed := rfl
@[simp] theorem Core.modAll_secAppends (k : Core) (f : Context → Context) : (k.modAll f).secAppends = k.secAppends := rfl
@[simp] theorem Core.modAll_nonIdem (k : Core) (f : Context → Context) : (k.modAll f).nonIdem = k.nonIdem := rfl
@[simp] theorem Core.modAll_returning (k : Core) (f : Context → Context) : (k.modAll f).returning = k.returning := rfl
@[simp] theorem Core.modAll_phase (k : Core) (f : Context → Context) : (k.modAll f).phase = k.phase := rfl
@[simp] theorem Core.modAll_tlb (k : Core) (f : Context → Context) : (k.modAll f).tlb = k.tlb := rfl
@[simp] theorem Core.modAll_perf (k : Core) (f : Context → Context) : (k.modAll f).perf = k.perf := rfl
@[simp] theorem Core.modAll_trace (k : Core) (f : Context → Context) : (k.modAll f).trace = k.trace := rfl
@[simp] theorem Core.modAll_traps (k : Core) (f : Context → Context) : (k.modAll f).traps = k.traps := rfl
@[simp] theorem Core.modAll_inService (k : Core) (f : Context → Context) : (k.modAll f).inService = k.inService := rfl
@[simp] theorem Core.modAll_throttled (k : Core) (f : Context → Context) : (k.modAll f).throttled = k.throttled := rfl
@[simp] theorem Core.modAll_rollbacks (k : Core) (f : Context → Context) : (k.modAll f).rollbacks = k.rollbacks := rfl
@[simp] theorem Core.modAll_stop (k : Core) (f : Context → Context) : (k.modAll f).stop = k.stop := rfl
@[simp] theorem Core.modAll_dir (k : Core) (f : Context → Context) : (k.modAll f).dir = k.dir := rfl
@[simp] theorem Core.modAll_debugger (k : Core) (f : Context → Context) : (k.modAll f).debugger = k.debugger := rfl
@[simp] theorem Core.modAll_svc (k : Core) (f : Context → Context) : (k.modAll f).svc = k.svc := rfl
@[simp] theorem Core.modAll_dumps (k : Core) (f : Context → Context) : (k.modAll f).dumps = k.dumps := rfl
@[simp] theorem Core.modAll_l (k : Core) (f : Context → Context) : (k.modAll f).l = f k.l := rfl
@[simp] theorem Core.modAll_c (k : Core) (f : Context → Context) : (k.modAll f).c = f k.c := rfl
@[simp] theorem Core.modAll_s (k : Core) (f : Context → Context) : (k.modAll f).s = f k.s := rfl
@[simp] theorem Core.modAll_banksWas (k : Core) (f : Context → Context) : (k.modAll f).banksWas = k.banksWas := rfl
@[simp] theorem Core.modAll_sight (k : Core) (f : Context → Context) : (k.modAll f).sight = k.sight := rfl
@[simp] theorem Core.modAll_ran (k : Core) (f : Context → Context) : (k.modAll f).ran = k.ran := rfl
@[simp] theorem Core.modAll_hubFaults (k : Core) (f : Context → Context) : (k.modAll f).hubFaults = k.hubFaults := rfl
@[simp] theorem Core.modAll_started (k : Core) (f : Context → Context) : (k.modAll f).started = k.started := rfl
@[simp] theorem Core.modAll_claim (k : Core) (f : Context → Context) : (k.modAll f).claim = k.claim := rfl
@[simp] theorem Core.modAll_badScratch (k : Core) (f : Context → Context) : (k.modAll f).badScratch = k.badScratch := rfl
@[simp] theorem Core.modAll_badRegs (k : Core) (f : Context → Context) : (k.modAll f).badRegs = k.badRegs := rfl
@[simp] theorem Core.modAll_corrected (k : Core) (f : Context → Context) : (k.modAll f).corrected = k.corrected := rfl
@[simp] theorem Core.modAll_nowAt (k : Core) (f : Context → Context) : (k.modAll f).nowAt = k.nowAt := rfl
@[simp] theorem Core.modAll_saveTick (k : Core) (f : Context → Context) : (k.modAll f).saveTick = k.saveTick := rfl
@[simp] theorem Core.modAll_lates (k : Core) (f : Context → Context) : (k.modAll f).lates = k.lates := rfl
@[simp] theorem Core.modAll_ringLog (k : Core) (f : Context → Context) : (k.modAll f).ringLog = k.ringLog := rfl
@[simp] theorem Core.modAll_called (k : Core) (f : Context → Context) : (k.modAll f).called = k.called := rfl
@[simp] theorem Core.modAll_cutDump (k : Core) (f : Context → Context) : (k.modAll f).cutDump = k.cutDump := rfl
@[simp] theorem Core.modAll_fatal (k : Core) (f : Context → Context) : (k.modAll f).fatal = k.fatal := rfl
@[simp] theorem Core.modAll_badWeights (k : Core) (f : Context → Context) : (k.modAll f).badWeights = k.badWeights := rfl
@[simp] theorem Core.modAll_cutWait (k : Core) (f : Context → Context) : (k.modAll f).cutWait = k.cutWait := rfl
@[simp] theorem Core.modAll_redo (k : Core) (f : Context → Context) : (k.modAll f).redo = k.redo := rfl

/-! ### One register of a context -/

@[simp] theorem Context.put_pc (k : Context) (n : BitVec 5) (v : Word) : (k.put n v).pc = k.pc := by unfold Context.put; split <;> rfl
@[simp] theorem Context.put_latch (k : Context) (n : BitVec 5) (v : Word) : (k.put n v).latch = k.latch := by unfold Context.put; split <;> rfl
@[simp] theorem Context.put_view (k : Context) (n : BitVec 5) (v : Word) : (k.put n v).view = k.view := by unfold Context.put; split <;> rfl
@[simp] theorem Context.put_hz (k : Context) (n : BitVec 5) (v : Word) : (k.put n v).hz = k.hz := by unfold Context.put; split <;> rfl
@[simp] theorem Context.put_strict (k : Context) (n : BitVec 5) (v : Word) : (k.put n v).strict = k.strict := by unfold Context.put; split <;> rfl
@[simp] theorem Context.put_dbg (k : Context) (n : BitVec 5) (v : Word) : (k.put n v).dbg = k.dbg := by unfold Context.put; split <;> rfl
@[simp] theorem Context.put_sbm (k : Context) (n : BitVec 5) (v : Word) : (k.put n v).sbm = k.sbm := by unfold Context.put; split <;> rfl
@[simp] theorem Context.put_fflags (k : Context) (n : BitVec 5) (v : Word) : (k.put n v).fflags = k.fflags := by unfold Context.put; split <;> rfl
@[simp] theorem Context.put_round (k : Context) (n : BitVec 5) (v : Word) : (k.put n v).round = k.round := by unfold Context.put; split <;> rfl
@[simp] theorem Context.put_wait (k : Context) (n : BitVec 5) (v : Word) : (k.put n v).wait = k.wait := by unfold Context.put; split <;> rfl
@[simp] theorem Context.put_woken (k : Context) (n : BitVec 5) (v : Word) : (k.put n v).woken = k.woken := by unfold Context.put; split <;> rfl
@[simp] theorem Context.put_issueAt (k : Context) (n : BitVec 5) (v : Word) : (k.put n v).issueAt = k.issueAt := by unfold Context.put; split <;> rfl
@[simp] theorem Context.put_hdr (k : Context) (n : BitVec 5) (v : Word) : (k.put n v).hdr = k.hdr := by unfold Context.put; split <;> rfl
@[simp] theorem Context.put_strings (k : Context) (n : BitVec 5) (v : Word) : (k.put n v).strings = k.strings := by unfold Context.put; split <;> rfl
@[simp] theorem Context.put_stringSince (k : Context) (n : BitVec 5) (v : Word) : (k.put n v).stringSince = k.stringSince := by unfold Context.put; split <;> rfl
@[simp] theorem Context.put_secStart (k : Context) (n : BitVec 5) (v : Word) : (k.put n v).secStart = k.secStart := by unfold Context.put; split <;> rfl
@[simp] theorem Context.put_secEnd (k : Context) (n : BitVec 5) (v : Word) : (k.put n v).secEnd = k.secEnd := by unfold Context.put; split <;> rfl
@[simp] theorem Context.put_secNo (k : Context) (n : BitVec 5) (v : Word) : (k.put n v).secNo = k.secNo := by unfold Context.put; split <;> rfl
@[simp] theorem Context.put_secDone (k : Context) (n : BitVec 5) (v : Word) : (k.put n v).secDone = k.secDone := by unfold Context.put; split <;> rfl
@[simp] theorem Context.put_retired (k : Context) (n : BitVec 5) (v : Word) : (k.put n v).retired = k.retired := by unfold Context.put; split <;> rfl
@[simp] theorem Context.put_last (k : Context) (n : BitVec 5) (v : Word) : (k.put n v).last = k.last := by unfold Context.put; split <;> rfl
@[simp] theorem Context.put_ended (k : Context) (n : BitVec 5) (v : Word) : (k.put n v).ended = k.ended := by unfold Context.put; split <;> rfl
@[simp] theorem Context.put_monitor (k : Context) (n : BitVec 5) (v : Word) : (k.put n v).monitor = k.monitor := by unfold Context.put; split <;> rfl
@[simp] theorem Context.put_trap (k : Context) (n : BitVec 5) (v : Word) : (k.put n v).trap = k.trap := by unfold Context.put; split <;> rfl
@[simp] theorem Context.put_pins (k : Context) (n : BitVec 5) (v : Word) : (k.put n v).pins = k.pins := by unfold Context.put; split <;> rfl
@[simp] theorem Context.put_wp (k : Context) (n : BitVec 5) (v : Word) : (k.put n v).wp = k.wp := by unfold Context.put; split <;> rfl
@[simp] theorem Context.put_step (k : Context) (n : BitVec 5) (v : Word) : (k.put n v).step = k.step := by unfold Context.put; split <;> rfl
@[simp] theorem Context.put_ord (k : Context) (n : BitVec 5) (v : Word) : (k.put n v).ord = k.ord := by unfold Context.put; split <;> rfl
@[simp] theorem Context.put_hist (k : Context) (n : BitVec 5) (v : Word) : (k.put n v).hist = k.hist := by unfold Context.put; split <;> rfl
@[simp] theorem Context.put_lastLpc (k : Context) (n : BitVec 5) (v : Word) : (k.put n v).lastLpc = k.lastLpc := by unfold Context.put; split <;> rfl
@[simp] theorem Context.put_held (k : Context) (n : BitVec 5) (v : Word) : (k.put n v).held = k.held := by unfold Context.put; split <;> rfl
@[simp] theorem Context.put_pass (k : Context) (n : BitVec 5) (v : Word) : (k.put n v).pass = k.pass := by unfold Context.put; split <;> rfl
@[simp] theorem Context.put_draining (k : Context) (n : BitVec 5) (v : Word) : (k.put n v).draining = k.draining := by unfold Context.put; split <;> rfl
@[simp] theorem Context.put_full (k : Context) (n : BitVec 5) (v : Word) : (k.put n v).full = k.full := by unfold Context.put; split <;> rfl

/-- Reading x[m] after a write of x[n]: x0 reads 0 whatever is written (00 R6). -/
theorem Context.get_put (k : Context) (n m : BitVec 5) (v : Word) :
    (k.put n v).get m = if m = n ∧ n ≠ 0 then v else k.get m := by
  unfold Context.put
  by_cases hn : n = 0
  · rw [if_pos hn, if_neg (fun h => h.2 hn)]
  · rw [if_neg hn]
    unfold Context.get
    by_cases hm : m = 0
    · rw [if_pos hm, if_pos hm, if_neg (fun h : m = n ∧ n ≠ 0 => hn (h.1 ▸ hm))]
    · rw [if_neg hm, if_neg hm]
      by_cases h : m = n
      · subst h; rw [if_pos ⟨rfl, hn⟩]; simp
      · have : n.toNat ≠ m.toNat := fun e => h (BitVec.eq_of_toNat_eq e.symm)
        rw [if_neg (fun e => h e.1)]; simp [Vector.getElem_set, this]

@[simp] theorem Context.get_zero (k : Context) : k.get 0 = 0 := rfl

/-! ### Counting and settling -/

@[simp] theorem Core.count_num (k : Core) (e n : Nat) : (k.count e n).num = k.num := rfl
@[simp] theorem Core.count_mode (k : Core) (e n : Nat) : (k.count e n).mode = k.mode := rfl
@[simp] theorem Core.count_merged (k : Core) (e n : Nat) : (k.count e n).merged = k.merged := rfl
@[simp] theorem Core.count_cyc (k : Core) (e n : Nat) : (k.count e n).cyc = k.cyc := rfl
@[simp] theorem Core.count_slot (k : Core) (e n : Nat) : (k.count e n).slot = k.slot := rfl
@[simp] theorem Core.count_cur (k : Core) (e n : Nat) : (k.count e n).cur = k.cur := rfl
@[simp] theorem Core.count_l (k : Core) (e n : Nat) : (k.count e n).l = k.l := rfl
@[simp] theorem Core.count_c (k : Core) (e n : Nat) : (k.count e n).c = k.c := rfl
@[simp] theorem Core.count_s (k : Core) (e n : Nat) : (k.count e n).s = k.s := rfl
@[simp] theorem Core.count_flights (k : Core) (e n : Nat) : (k.count e n).flights = k.flights := rfl
@[simp] theorem Core.count_banks (k : Core) (e n : Nat) : (k.count e n).banks = k.banks := rfl
@[simp] theorem Core.count_task (k : Core) (e n : Nat) : (k.count e n).task = k.task := rfl
@[simp] theorem Core.count_seed (k : Core) (e n : Nat) : (k.count e n).seed = k.seed := rfl
@[simp] theorem Core.count_ranBefore (k : Core) (e n : Nat) : (k.count e n).ranBefore = k.ranBefore := rfl
@[simp] theorem Core.count_lastTask (k : Core) (e n : Nat) : (k.count e n).lastTask = k.lastTask := rfl
@[simp] theorem Core.count_rs (k : Core) (e n : Nat) : (k.count e n).rs = k.rs := rfl
@[simp] theorem Core.count_rsGen (k : Core) (e n : Nat) : (k.count e n).rsGen = k.rsGen := rfl
@[simp] theorem Core.count_wb (k : Core) (e n : Nat) : (k.count e n).wb = k.wb := rfl
@[simp] theorem Core.count_wbGen (k : Core) (e n : Nat) : (k.count e n).wbGen = k.wbGen := rfl
@[simp] theorem Core.count_allocs (k : Core) (e n : Nat) : (k.count e n).allocs = k.allocs := rfl
@[simp] theorem Core.count_lastTags (k : Core) (e n : Nat) : (k.count e n).lastTags = k.lastTags := rfl
@[simp] theorem Core.count_rings (k : Core) (e n : Nat) : (k.count e n).rings = k.rings := rfl
@[simp] theorem Core.count_tci (k : Core) (e n : Nat) : (k.count e n).tci = k.tci := rfl
@[simp] theorem Core.count_tmx (k : Core) (e n : Nat) : (k.count e n).tmx = k.tmx := rfl
@[simp] theorem Core.count_tco (k : Core) (e n : Nat) : (k.count e n).tco = k.tco := rfl
@[simp] theorem Core.count_tsx (k : Core) (e n : Nat) : (k.count e n).tsx = k.tsx := rfl
@[simp] theorem Core.count_appends (k : Core) (e n : Nat) : (k.count e n).appends = k.appends := rfl
@[simp] theorem Core.count_window (k : Core) (e n : Nat) : (k.count e n).window = k.window := rfl
@[simp] theorem Core.count_ckpt (k : Core) (e n : Nat) : (k.count e n).ckpt = k.ckpt := rfl
@[simp] theorem Core.count_journal (k : Core) (e n : Nat) : (k.count e n).journal = k.journal := rfl
@[simp] theorem Core.count_replayed (k : Core) (e n : Nat) : (k.count e n).replayed = k.replayed := rfl
@[simp] theorem Core.count_secAppends (k : Core) (e n : Nat) : (k.count e n).secAppends = k.secAppends := rfl
@[simp] theorem Core.count_nonIdem (k : Core) (e n : Nat) : (k.count e n).nonIdem = k.nonIdem := rfl
@[simp] theorem Core.count_returning (k : Core) (e n : Nat) : (k.count e n).returning = k.returning := rfl
@[simp] theorem Core.count_phase (k : Core) (e n : Nat) : (k.count e n).phase = k.phase := rfl
@[simp] theorem Core.count_tlb (k : Core) (e n : Nat) : (k.count e n).tlb = k.tlb := rfl
@[simp] theorem Core.count_trace (k : Core) (e n : Nat) : (k.count e n).trace = k.trace := rfl
@[simp] theorem Core.count_traps (k : Core) (e n : Nat) : (k.count e n).traps = k.traps := rfl
@[simp] theorem Core.count_inService (k : Core) (e n : Nat) : (k.count e n).inService = k.inService := rfl
@[simp] theorem Core.count_throttled (k : Core) (e n : Nat) : (k.count e n).throttled = k.throttled := rfl
@[simp] theorem Core.count_rollbacks (k : Core) (e n : Nat) : (k.count e n).rollbacks = k.rollbacks := rfl
@[simp] theorem Core.count_stop (k : Core) (e n : Nat) : (k.count e n).stop = k.stop := rfl
@[simp] theorem Core.count_dir (k : Core) (e n : Nat) : (k.count e n).dir = k.dir := rfl
@[simp] theorem Core.count_debugger (k : Core) (e n : Nat) : (k.count e n).debugger = k.debugger := rfl
@[simp] theorem Core.count_svc (k : Core) (e n : Nat) : (k.count e n).svc = k.svc := rfl
@[simp] theorem Core.count_dumps (k : Core) (e n : Nat) : (k.count e n).dumps = k.dumps := rfl
@[simp] theorem Core.count_banksWas (k : Core) (e n : Nat) : (k.count e n).banksWas = k.banksWas := rfl
@[simp] theorem Core.count_sight (k : Core) (e n : Nat) : (k.count e n).sight = k.sight := rfl
@[simp] theorem Core.count_ran (k : Core) (e n : Nat) : (k.count e n).ran = k.ran := rfl
@[simp] theorem Core.count_hubFaults (k : Core) (e n : Nat) : (k.count e n).hubFaults = k.hubFaults := rfl
@[simp] theorem Core.count_started (k : Core) (e n : Nat) : (k.count e n).started = k.started := rfl
@[simp] theorem Core.count_claim (k : Core) (e n : Nat) : (k.count e n).claim = k.claim := rfl
@[simp] theorem Core.count_badScratch (k : Core) (e n : Nat) : (k.count e n).badScratch = k.badScratch := rfl
@[simp] theorem Core.count_badRegs (k : Core) (e n : Nat) : (k.count e n).badRegs = k.badRegs := rfl
@[simp] theorem Core.count_corrected (k : Core) (e n : Nat) : (k.count e n).corrected = k.corrected := rfl
@[simp] theorem Core.count_nowAt (k : Core) (e n : Nat) : (k.count e n).nowAt = k.nowAt := rfl
@[simp] theorem Core.count_saveTick (k : Core) (e n : Nat) : (k.count e n).saveTick = k.saveTick := rfl
@[simp] theorem Core.count_lates (k : Core) (e n : Nat) : (k.count e n).lates = k.lates := rfl
@[simp] theorem Core.count_ringLog (k : Core) (e n : Nat) : (k.count e n).ringLog = k.ringLog := rfl
@[simp] theorem Core.count_called (k : Core) (e n : Nat) : (k.count e n).called = k.called := rfl
@[simp] theorem Core.count_cutDump (k : Core) (e n : Nat) : (k.count e n).cutDump = k.cutDump := rfl
@[simp] theorem Core.count_fatal (k : Core) (e n : Nat) : (k.count e n).fatal = k.fatal := rfl
@[simp] theorem Core.count_badWeights (k : Core) (e n : Nat) : (k.count e n).badWeights = k.badWeights := rfl
@[simp] theorem Core.count_cutWait (k : Core) (e n : Nat) : (k.count e n).cutWait = k.cutWait := rfl
@[simp] theorem Core.count_redo (k : Core) (e n : Nat) : (k.count e n).redo = k.redo := rfl
@[simp] theorem Core.settle_num (k : Core) : k.settle.num = k.num := rfl
@[simp] theorem Core.settle_mode (k : Core) : k.settle.mode = k.mode := rfl
@[simp] theorem Core.settle_merged (k : Core) : k.settle.merged = k.merged := rfl
@[simp] theorem Core.settle_cyc (k : Core) : k.settle.cyc = k.cyc := rfl
@[simp] theorem Core.settle_slot (k : Core) : k.settle.slot = k.slot := rfl
@[simp] theorem Core.settle_cur (k : Core) : k.settle.cur = k.cur := rfl
@[simp] theorem Core.settle_l (k : Core) : k.settle.l = k.l := rfl
@[simp] theorem Core.settle_c (k : Core) : k.settle.c = k.c := rfl
@[simp] theorem Core.settle_s (k : Core) : k.settle.s = k.s := rfl
@[simp] theorem Core.settle_flights (k : Core) : k.settle.flights = k.flights := rfl
@[simp] theorem Core.settle_banks (k : Core) : k.settle.banks = k.banks := rfl
@[simp] theorem Core.settle_task (k : Core) : k.settle.task = k.task := rfl
@[simp] theorem Core.settle_seed (k : Core) : k.settle.seed = k.seed := rfl
@[simp] theorem Core.settle_ranBefore (k : Core) : k.settle.ranBefore = k.ranBefore := rfl
@[simp] theorem Core.settle_lastTask (k : Core) : k.settle.lastTask = k.lastTask := rfl
@[simp] theorem Core.settle_rs (k : Core) : k.settle.rs = k.rs := rfl
@[simp] theorem Core.settle_rsGen (k : Core) : k.settle.rsGen = k.rsGen := rfl
@[simp] theorem Core.settle_wb (k : Core) : k.settle.wb = k.wb := rfl
@[simp] theorem Core.settle_wbGen (k : Core) : k.settle.wbGen = k.wbGen := rfl
@[simp] theorem Core.settle_allocs (k : Core) : k.settle.allocs = k.allocs := rfl
@[simp] theorem Core.settle_lastTags (k : Core) : k.settle.lastTags = k.lastTags := rfl
@[simp] theorem Core.settle_rings (k : Core) : k.settle.rings = k.rings := rfl
@[simp] theorem Core.settle_tci (k : Core) : k.settle.tci = k.tci := rfl
@[simp] theorem Core.settle_tmx (k : Core) : k.settle.tmx = k.tmx := rfl
@[simp] theorem Core.settle_tco (k : Core) : k.settle.tco = k.tco := rfl
@[simp] theorem Core.settle_tsx (k : Core) : k.settle.tsx = k.tsx := rfl
@[simp] theorem Core.settle_appends (k : Core) : k.settle.appends = k.appends := rfl
@[simp] theorem Core.settle_window (k : Core) : k.settle.window = k.window := rfl
@[simp] theorem Core.settle_ckpt (k : Core) : k.settle.ckpt = k.ckpt := rfl
@[simp] theorem Core.settle_journal (k : Core) : k.settle.journal = k.journal := rfl
@[simp] theorem Core.settle_replayed (k : Core) : k.settle.replayed = k.replayed := rfl
@[simp] theorem Core.settle_secAppends (k : Core) : k.settle.secAppends = k.secAppends := rfl
@[simp] theorem Core.settle_nonIdem (k : Core) : k.settle.nonIdem = k.nonIdem := rfl
@[simp] theorem Core.settle_returning (k : Core) : k.settle.returning = k.returning := rfl
@[simp] theorem Core.settle_tlb (k : Core) : k.settle.tlb = k.tlb := rfl
@[simp] theorem Core.settle_perf (k : Core) : k.settle.perf = k.perf := rfl
@[simp] theorem Core.settle_trace (k : Core) : k.settle.trace = k.trace := rfl
@[simp] theorem Core.settle_traps (k : Core) : k.settle.traps = k.traps := rfl
@[simp] theorem Core.settle_inService (k : Core) : k.settle.inService = k.inService := rfl
@[simp] theorem Core.settle_throttled (k : Core) : k.settle.throttled = k.throttled := rfl
@[simp] theorem Core.settle_rollbacks (k : Core) : k.settle.rollbacks = k.rollbacks := rfl
@[simp] theorem Core.settle_stop (k : Core) : k.settle.stop = k.stop := rfl
@[simp] theorem Core.settle_dir (k : Core) : k.settle.dir = k.dir := rfl
@[simp] theorem Core.settle_debugger (k : Core) : k.settle.debugger = k.debugger := rfl
@[simp] theorem Core.settle_svc (k : Core) : k.settle.svc = k.svc := rfl
@[simp] theorem Core.settle_dumps (k : Core) : k.settle.dumps = k.dumps := rfl
@[simp] theorem Core.settle_banksWas (k : Core) : k.settle.banksWas = k.banksWas := rfl
@[simp] theorem Core.settle_sight (k : Core) : k.settle.sight = k.sight := rfl
@[simp] theorem Core.settle_ran (k : Core) : k.settle.ran = k.ran := rfl
@[simp] theorem Core.settle_hubFaults (k : Core) : k.settle.hubFaults = k.hubFaults := rfl
@[simp] theorem Core.settle_started (k : Core) : k.settle.started = k.started := rfl
@[simp] theorem Core.settle_claim (k : Core) : k.settle.claim = k.claim := rfl
@[simp] theorem Core.settle_badScratch (k : Core) : k.settle.badScratch = k.badScratch := rfl
@[simp] theorem Core.settle_badRegs (k : Core) : k.settle.badRegs = k.badRegs := rfl
@[simp] theorem Core.settle_corrected (k : Core) : k.settle.corrected = k.corrected := rfl
@[simp] theorem Core.settle_nowAt (k : Core) : k.settle.nowAt = k.nowAt := rfl
@[simp] theorem Core.settle_saveTick (k : Core) : k.settle.saveTick = k.saveTick := rfl
@[simp] theorem Core.settle_lates (k : Core) : k.settle.lates = k.lates := rfl
@[simp] theorem Core.settle_ringLog (k : Core) : k.settle.ringLog = k.ringLog := rfl
@[simp] theorem Core.settle_called (k : Core) : k.settle.called = k.called := rfl
@[simp] theorem Core.settle_cutDump (k : Core) : k.settle.cutDump = k.cutDump := rfl
@[simp] theorem Core.settle_fatal (k : Core) : k.settle.fatal = k.fatal := rfl
@[simp] theorem Core.settle_badWeights (k : Core) : k.settle.badWeights = k.badWeights := rfl
@[simp] theorem Core.settle_cutWait (k : Core) : k.settle.cutWait = k.cutWait := rfl
@[simp] theorem Core.settle_redo (k : Core) : k.settle.redo = k.redo := rfl
@[simp] theorem Core.count_ctx (k : Core) (e n : Nat) (c : Ctx) : (k.count e n).ctx c = k.ctx c := by cases c <;> rfl
@[simp] theorem Core.settle_ctx (k : Core) (c : Ctx) : k.settle.ctx c = k.ctx c := by cases c <;> rfl
/-- No event is counted no times. -/
@[simp] theorem Core.count_none (k : Core) (e : Nat) : k.count e 0 = k := by simp [Core.count, Core.countFor, Perf.count]
@[simp] theorem Perf.count_sel (p : Perf) (e n : Nat) (c : Ctx) : (p.count e n c).sel = p.sel := by unfold Perf.count; split <;> rfl
@[simp] theorem Perf.count_per (p : Perf) (e n : Nat) (c : Ctx) : (p.count e n c).per = p.per := by unfold Perf.count; split <;> rfl

end Sys2Proof.Machine
end

