-- ==== Sys2Proof/Laws/Frames.lean ====
section
/-! SUPPORT. The two frames: what `runWord` and `runEvent` answer, and that a step which ends keeps the invariant. -/

namespace Sys2Proof.Machine

theorem State.clear_wlog {s : State} (h : s.wlog = []) : { s with wlog := [] } = s := by cases s; simp_all

/-- The end of a step is the settled state. -/
theorem finish_eq (s t : State) : finish s t = .next (settled s t) := rfl

/-- A step that ends keeps memory canonical and leaves nothing unwritten. -/
theorem finish_inv {s t t' : State} (hs : Memory.wf s.mem = true) (h : finish s t = .next t') : Inv t' := by
  cases h
  exact ⟨Cells.wf_commit hs t.wlog, rfl⟩

/-- A word always answers a next state. -/
theorem runWord_total (i : Instr) (g : Guard) (b : Bars) (body : Body) (s : State) :
    ∃ t, runWord i g b body s = .next (settled s t) := ⟨_, rfl⟩

theorem runWord_inv {i : Instr} {g : Guard} {b : Bars} {body : Body} {s t : State} (hs : Inv s)
    (h : runWord i g b body s = .next t) : Inv t := finish_inv hs.1 h

theorem runEvent_inv {body : State → State} {s t : State} (hs : Inv s) (h : runEvent body s = .next t) : Inv t := finish_inv hs.1 h

/-- Every row of the table answers a next state, in which its writes are performed: no row stops the machine. -/
theorem exec_ends (i : Instr) (s : State) : ∃ t, exec i s = .next (settled s t) := by
  cases i <;> exact ⟨_, rfl⟩

theorem exec_inv {i : Instr} {s t : State} (hs : Inv s) (h : exec i s = .next t) : Inv t := by
  obtain ⟨u, hu⟩ := exec_ends i s
  rw [hu] at h; cases h
  exact ⟨Cells.wf_commit hs.1 u.wlog, rfl⟩

/-- An event, on a state between steps. -/
theorem runEvent_eq {body : State → State} {s : State} (h : s.wlog = []) : runEvent body s = .next (settled s (body s)) := by
  unfold runEvent; rw [State.clear_wlog h]; rfl

/-- A word whose checks pass and whose guard holds runs its body. -/
theorem runWord_body {i : Instr} {g : Guard} {b : Bars} {body : Body} {s : State} (h : Ready i g s)
    (hub : s.core.hub = true → b.hub = false) (mode : b.mode s.mode = false) (han : s.core.inHandler = true → b.handler s = false) :
    runWord i g b body s = .next (settled s (s.complete i (body s))) := by
  unfold runWord
  rw [State.clear_wlog h.between]
  have h1 : ((s.core.hub && b.hub) || i.check.isSome || b.mode s.mode) = false := by
    cases hc : s.core.hub <;> simp_all [h.formed]
  have h2 : (s.core.inHandler && b.handler s) = false := by cases hc : s.core.inHandler <;> simp_all
  simp [h1, h.guard, h2, finish_eq]

/-- The same when the body ends at the next word: the word passes. -/
theorem runWord_next {i : Instr} {g : Guard} {b : Bars} {body : Body} {s u : State} (h : Ready i g s)
    (hub : s.core.hub = true → b.hub = false) (mode : b.mode s.mode = false) (han : s.core.inHandler = true → b.handler s = false)
    (hb : body s = .ok (.next u)) (room : s.core.interlocked = true ∨ u.core.inFlight s.core.cur ≤ Config.inFlightMax) :
    runWord i g b body s = .next (passed s u) := by
  rw [runWord_body h hub mode han, hb]
  have : s.tooMany u = false := by
    rcases room with r | r
    · simp [State.tooMany, r]
    · simp [State.tooMany, Nat.not_lt.mpr r]
  simp [State.complete, this, passed]

/-- A word whose guard is false, and on which the context does not wait, passes. -/
theorem runWord_off {i : Instr} {g : Guard} {b : Bars} {body : Body} {s : State} (hw : s.wlog = []) (hc : i.check = none)
    (hub : s.core.hub = true → b.hub = false) (mode : b.mode s.mode = false) (hg : s.here.guard g = false)
    (hi : s.here.wait.map (·.1) ≠ some i) (room : Room s) :
    runWord i g b body s = .next (passed s s) := by
  unfold runWord
  rw [State.clear_wlog hw]
  have h1 : ((s.core.hub && b.hub) || i.check.isSome || b.mode s.mode) = false := by
    cases hc : s.core.hub <;> simp_all
  have h2 : s.tooMany s = false := by
    rcases room with r | r
    · simp [State.tooMany, r]
    · simp [State.tooMany, Nat.not_lt.mpr (Nat.le_of_lt r)]
  have h3 : (s.here.wait.map (·.1) != some i) = true := bne_iff_ne.mpr hi
  simp [h1, hg, h3, State.complete, h2, passed, finish_eq]

/-- An illegal-instruction fault has missed no translation. -/
theorem State.countMisses_illegal (s : State) : s.countMisses fltIllegal = s := by
  have keep : s.core.tlb.filter (fun e => !(e.noFrame && fltIllegal.code == 0x11 && fltIllegal.aux.headD 0 == 10)) = s.core.tlb :=
    List.filter_eq_self.mpr (fun e _ => by
      rw [show (fltIllegal.code == 0x11) = false from rfl, Bool.and_false, Bool.false_and]; rfl)
  have none : fltIllegal.walked.length + (if fltIllegal.missed then 1 else 0) = 0 := rfl
  unfold State.countMisses State.modCore
  simp only [keep, none, Core.count_none]
  rfl

/-- A word that a check bars takes the illegal-instruction fault, whatever its guard (04 R83). -/
theorem runWord_barred {i : Instr} {g : Guard} {b : Bars} {body : Body} {s : State} (hw : s.wlog = [])
    (h : ((s.core.hub && b.hub) || i.check.isSome || b.mode s.mode) = true) :
    runWord i g b body s = .next (settled s (s.unbank.takeFault (fltIllegal.withWord i))) := by
  unfold runWord
  rw [State.clear_wlog hw]
  simp [h, State.complete, finish_eq, State.countMisses_illegal]

/-! ### Results -/

/-- Landing a result puts as many more in flight as it writes registers, and one at least. -/
theorem State.land_inFlight (s : State) (r : Result) (c : Ctx) (h : s.core.interlocked = false) :
    (s.land r).core.inFlight c ≤ s.core.inFlight c + resultsOf r.puts := by
  simp only [State.land, h, Bool.false_and, Bool.false_eq_true, if_false, State.modCore_core, Core.inFlight, List.filter_append,
    List.map_append, List.sum_append, Nat.add_le_add_iff_left, List.filter_cons, List.filter_nil]
  split
  · exact Nat.le_refl _
  · exact Nat.zero_le _

/-- A scalar result is one result. -/
theorem resultsOf_dst (c : Ctx) (d : Dst) (v : Word) : resultsOf (dstPuts c d v) = 1 := by
  unfold dstPuts; split <;> rfl

/-- A result of one register, or of none, finds room in flight. -/
theorem State.land_room {s : State} (h : Room s) (r : Result) (one : resultsOf r.puts = 1) :
    s.core.interlocked = true ∨ (s.land r).core.inFlight s.core.cur ≤ Config.inFlightMax := by
  cases hi : s.core.interlocked
  · right
    rcases h with h | h
    · simp_all
    · have := State.land_inFlight s r s.core.cur hi
      omega
  · exact .inl rfl

/-- A word that lands one scalar result passes. -/
theorem runWord_landReg {i : Instr} {g : Guard} {b : Bars} {body : Body} {s : State} {d : Dst} {v : Word} {lat : Nat} {fl : Flags}
    (h : Ready i g s) (hub : s.core.hub = true → b.hub = false) (mode : b.mode s.mode = false)
    (han : s.core.inHandler = true → b.handler s = false) (hb : body s = .ok (.next (s.landReg d v lat fl))) :
    runWord i g b body s = .next (passed s (s.landReg d v lat fl)) :=
  runWord_next h hub mode han hb (State.land_room h.room _ (resultsOf_dst ..))

/-! ### Completion, from the frame that `exec` calls -/

theorem completes_next {i : Instr} {g : Guard} {b : Bars} {body : Body} {s u : State} (he : exec i s = runWord i g b body s)
    (h : Ready i g s) (hub : s.core.hub = true → b.hub = false) (mode : b.mode s.mode = false)
    (han : s.core.inHandler = true → b.handler s = false) (hb : body s = .ok (.next u))
    (room : s.core.interlocked = true ∨ u.core.inFlight s.core.cur ≤ Config.inFlightMax) : Completes i s u := by
  unfold Completes; rw [he]; exact runWord_next h hub mode han hb room

theorem completes_landReg {i : Instr} {g : Guard} {b : Bars} {body : Body} {s : State} {d : Dst} {v : Word} {lat : Nat} {fl : Flags}
    (he : exec i s = runWord i g b body s) (h : Ready i g s) (hub : s.core.hub = true → b.hub = false) (mode : b.mode s.mode = false)
    (han : s.core.inHandler = true → b.handler s = false) (hb : body s = .ok (.next (s.landReg d v lat fl))) :
    Completes i s (s.landReg d v lat fl) := by
  unfold Completes; rw [he]; exact runWord_landReg h hub mode han hb

theorem takes_event {i : Instr} {body : State → State} {s u : State} (he : exec i s = runEvent body s) (hw : s.wlog = [])
    (hb : body s = u) : Takes i s u := by
  unfold Takes; rw [he, runEvent_eq hw, hb]

end Sys2Proof.Machine
end

