-- ==== Sys2Proof/Laws/Access.lean ====
section
/-! SUPPORT. What checking and performing a memory access can change: the lemmas that claims about memory words cite in place of
unfolding the checks and the writes. -/

namespace Sys2Proof.Machine

/-- t is s but for the translation cache and the performance counter. -/
def OnlyTlb (s t : State) : Prop := ∃ (l : List TlbEntry) (p : Perf), t = { s with core := { s.core with tlb := l, perf := p } }

theorem OnlyTlb.refl (s : State) : OnlyTlb s s := ⟨_, _, rfl⟩
theorem OnlyTlb.trans {s t u : State} (h : OnlyTlb s t) (h' : OnlyTlb t u) : OnlyTlb s u := by
  obtain ⟨l, p, rfl⟩ := h; obtain ⟨l', p', rfl⟩ := h'; exact ⟨l', p', rfl⟩

/-- A translation changes the cache and the counter alone. -/
theorem translate_only {s t : State} {root : Word} {va : Nat} {e : TlbEntry} (h : translate s root va = .ok (e, t)) : OnlyTlb s t := by
  unfold translate at h
  split at h
  · cases h; exact .refl s
  · split at h
    · cases h; exact ⟨_, _, rfl⟩
    · cases h

/-- Translating the stretches of an access: what changes, how long the pieces are, and where each lies. -/
theorem translateAll_only {root ptr : Word} {wr : Bool} {lane : Nat} : ∀ {l : List (Nat × Nat)} {s t : State} {ps : List Piece},
    translateAll s root ptr wr lane l = .ok (ps, t) → OnlyTlb s t ∧ ps.map (·.n) = l.map (·.2) ∧
      (∀ p ∈ ps, ∃ va, p.pa = 4096 * p.entry.frame + va % 4096 ∧ (va, p.n) ∈ l) := by
  intro l
  induction l with
  | nil => intro s t ps h; cases h; exact ⟨.refl s, rfl, by simp⟩
  | cons x r ih =>
    intro s t ps h
    obtain ⟨va, n⟩ := x
    simp only [translateAll] at h
    split at h
    · cases h
    · next e s1 he =>
      split at h
      · cases h
      · split at h
        · split at h <;> cases h
        · split at h
          · cases h
          · next ps' s2 h2 =>
            cases h
            obtain ⟨i1, i2, i3⟩ := ih h2
            refine ⟨(translate_only he).trans i1, by simp [i2], ?_⟩
            intro p hp
            rcases List.mem_cons.mp hp with rfl | hp
            · exact ⟨va, rfl, List.mem_cons_self⟩
            · obtain ⟨v, h1, h2⟩ := i3 p hp; exact ⟨v, h1, List.mem_cons_of_mem _ h2⟩

/-- The same, part by part of an access. -/
theorem checkParts_only {root ptr : Word} {c : Chk} {who : Option Who} {sy : Option Nat} {lane : Nat} : ∀ {l : List (List (Nat × Nat))} {s t : State} {ps : List Piece},
    checkParts s root ptr c who sy lane l = .ok (ps, t) → OnlyTlb s t ∧ ps.map (·.n) = l.flatten.map (·.2) ∧
      (∀ p ∈ ps, ∃ va, p.pa = 4096 * p.entry.frame + va % 4096 ∧ (va, p.n) ∈ l.flatten) := by
  intro l
  induction l with
  | nil => intro s t ps h; cases h; exact ⟨.refl s, rfl, by simp⟩
  | cons x r ih =>
    intro s t ps h
    simp only [checkParts] at h
    split at h
    · cases h
    · next ps1 s1 h1 =>
      split at h
      · cases h
      · split at h
        · cases h
        · next qs s2 h2 =>
          cases h
          obtain ⟨a1, a2, a3⟩ := translateAll_only h1
          obtain ⟨i1, i2, i3⟩ := ih h2
          refine ⟨a1.trans i1, by simp [a2, i2], ?_⟩
          intro p hp
          rcases List.mem_append.mp hp with hp | hp
          · obtain ⟨v, h1, h2⟩ := a3 p hp; exact ⟨v, h1, by simp [h2]⟩
          · obtain ⟨v, h1, h2⟩ := i3 p hp; exact ⟨v, h1, List.mem_append_right _ h2⟩

/-- Parts are a partition of the stretches, in their order. -/
theorem parts_flatten (l : List (Nat × Nat)) : (parts l).flatten = l := by
  induction l with
  | nil => rfl
  | cons x r ih =>
    simp only [parts]
    generalize parts r = q at ih
    cases q with
    | nil => simpa using ih
    | cons y ys =>
      cases y with
      | nil => simpa using ih
      | cons z zs => simp only; split <;> simpa using ih

/-- Everything that a check of a virtual range changes, and the pieces it answers. -/
theorem checkVirtual_only {s t : State} {root ptr : Word} {va n : Nat} {c : Chk} {who : Option Who} {sy : Option Nat} {lane : Nat} {ps : List Piece}
    (h : checkVirtual s root ptr va n c who sy lane = .ok (ps, t)) : OnlyTlb s t ∧ ps.map (·.n) = (stretches va n).map (·.2) ∧
      (∀ p ∈ ps, ∃ v, p.pa = 4096 * p.entry.frame + v % 4096 ∧ (v, p.n) ∈ stretches va n) := by
  have := checkParts_only h; rwa [parts_flatten] at this

/-- Everything that a check of a global access changes, and the pieces it answers. -/
theorem checkGlobal_only {s t : State} {root ptr : Word} {n : Nat} {c : Chk} {who : Option Who} {sy : Option Nat} {lane : Nat} {ps : List Piece}
    (h : checkGlobal s root ptr n c who sy lane = .ok (ps, t)) : OnlyTlb s t ∧ ps.map (·.n) = (stretches (fld ptr.toNat 0 56) n).map (·.2) ∧
      (∀ p ∈ ps, ∃ v, p.pa = 4096 * p.entry.frame + v % 4096 ∧ (v, p.n) ∈ stretches (fld ptr.toNat 0 56) n) := by
  unfold checkGlobal at h
  split at h
  · cases h
  · split at h
    · cases h
    · exact checkVirtual_only h

/-- Everything that a check of one part of a scratch access changes. -/
theorem checkRow_only {s t : State} {sl : Ctx} {p : Word} {a : Alloc} {off n : Nat} {c : Chk} {who : Option Who} {sy : Option Nat} {lane : Nat} {ps : List Piece}
    (h : checkRow s sl p a off n c who sy lane = .ok (ps, t)) : OnlyTlb s t := by
  unfold checkRow at h
  split at h
  · cases h
  · split at h
    · cases h
    · split at h
      · cases h
      · split at h
        · cases h
        · split at h
          · dsimp only at h
            split at h
            · cases h
            · next hv =>
              split at h
              · cases h
              · cases h; exact (checkVirtual_only hv).1
          · split at h
            · cases h
            · split at h
              · cases h
              · cases h; exact .refl s

/-- The same, part by part. -/
theorem checkRows_only {sl : Ctx} {p : Word} {a : Alloc} {c : Chk} {who : Option Who} {sy : Option Nat} {lane : Nat} : ∀ {l : List (Nat × Nat)} {s t : State} {ps : List Piece},
    checkRows s sl p a c who sy lane l = .ok (ps, t) → OnlyTlb s t := by
  intro l
  induction l with
  | nil => intro s t ps h; cases h; exact .refl s
  | cons x r ih =>
    intro s t ps h
    obtain ⟨off, n⟩ := x
    simp only [checkRows] at h
    split at h
    · cases h
    · next h1 =>
      split at h
      · cases h
      · next h2 => cases h; exact (checkRow_only h1).trans (ih h2)

/-- Everything that a check of a scratch access changes. -/
theorem checkScratch_only {s t : State} {sl : Ctx} {p : Word} {n : Nat} {c : Chk} {who : Option Who} {sy : Option Nat} {lane : Nat} {tg : Target}
    (h : checkScratch s sl p n c who sy lane = .ok (tg, t)) : OnlyTlb s t := by
  unfold checkScratch at h
  split at h
  · cases h
  · split at h
    · cases h
    · split at h
      · cases h
      · split at h
        · cases h
        · next hv => cases h; exact checkRows_only hv

/-- Everything that a check of an access changes. -/
theorem checkSpace_only {s t : State} {sl : Ctx} {sp : Space} {p : Word} {n : Nat} {c : Chk} {who : Option Who} {sy : Option Nat} {lane : Nat} {tg : Target}
    (h : checkSpace s sl sp p n c who sy lane = .ok (tg, t)) : OnlyTlb s t := by
  unfold checkSpace at h
  split at h
  · split at h
    · cases h
    · next hv => cases h; exact (checkGlobal_only hv).1
  · exact checkScratch_only h

/-- A write of the module itself is a write of pieces whose snapshots go, or nothing. -/
theorem devWrite_only (s : State) (root : Word) (va : Nat) (bs : Bytes) : ∃ ps, devWrite s root va bs = s ∨
    devWrite s root va bs = (writePieces s none false none none ps bs).modM (fun m => ps.foldl (fun m p => dropSnaps m p.pa p.n) m) := by
  unfold devWrite; split
  · split
    · exact ⟨[], .inl rfl⟩
    · exact ⟨_, .inr rfl⟩
  · exact ⟨[], .inl rfl⟩

/-- A context after a write: only its monitor may differ. -/
def sawCtx (n m : Context) : Prop := ∃ x, m = { n with monitor := x }
theorem sawCtx.refl (n : Context) : sawCtx n n := ⟨n.monitor, rfl⟩
theorem sawCtx.trans {a b c : Context} (h : sawCtx a b) (h' : sawCtx b c) : sawCtx a c := by obtain ⟨x, rfl⟩ := h; obtain ⟨y, rfl⟩ := h'; exact ⟨y, rfl⟩

/-- t is s but for monitors, copies that windows hold, the write log, snapshots and race tags. -/
structure Wrote (s t : State) : Prop where
  core : ∃ (l c x : Context) (al : List Alloc), sawCtx s.core.l l ∧ sawCtx s.core.c c ∧ sawCtx s.core.s x ∧
    t.core = { s.core with l := l, c := c, s := x, allocs := al }
  mod : ∃ sn ra, t.m = { s.m with snaps := sn, races := ra }
  mem : t.mem = s.mem
  agenda : t.agenda = s.agenda
  log : ∃ w, t.wlog = w ++ s.wlog

theorem Wrote.refl (s : State) : Wrote s s := ⟨⟨s.core.l, s.core.c, s.core.s, s.core.allocs, .refl _, .refl _, .refl _, rfl⟩, ⟨s.m.snaps, s.m.races, rfl⟩, rfl, rfl, ⟨[], rfl⟩⟩
theorem Wrote.trans {s t u : State} (h : Wrote s t) (h' : Wrote t u) : Wrote s u := by
  obtain ⟨⟨l, c, x, _, h1, h2, h3, h4⟩, ⟨sn, ra, h5⟩, h6, h7, ⟨w, h8⟩⟩ := h
  obtain ⟨⟨l', c', x', al, k1, k2, k3, k4⟩, ⟨sn', ra', k5⟩, k6, k7, ⟨w', k8⟩⟩ := h'
  rw [h4] at k1 k2 k3 k4
  refine ⟨⟨l', c', x', al, h1.trans k1, h2.trans k2, h3.trans k3, k4⟩, ⟨sn', ra', by rw [k5, h5]⟩, k6.trans h6, k7.trans h7, ⟨w' ++ w, by rw [k8, h8, List.append_assoc]⟩⟩

/-- A run of bytes goes to the write log alone. -/
theorem physWriteRun_eq (bs : Bytes) : ∀ (s : State) (pa : Nat), ∃ w, s.physWriteRun pa bs = { s with wlog := w ++ s.wlog } := by
  induction bs with
  | nil => intro s pa; exact ⟨[], rfl⟩
  | cons b r ih =>
    intro s pa
    obtain ⟨w, h⟩ := ih (s.physWrite pa b) (pa + 1)
    refine ⟨w ++ [(pa, b)], ?_⟩
    show (s.physWrite pa b).physWriteRun (pa + 1) r = _
    rw [h]; simp [State.physWrite]

/-- A write seen by a context changes only its monitor. -/
theorem sawWrite_ctx (ls : List Nat) : ∀ n : Context, sawCtx n (ls.foldl Context.sawWrite n) := by
  induction ls with
  | nil => intro n; exact .refl n
  | cons a r ih =>
    intro n
    refine .trans ?_ (ih _)
    unfold Context.sawWrite; split
    · split
      · exact ⟨_, rfl⟩
      · exact .refl n
    · exact .refl n

/-- A fold of updates of race tags is an update of race tags. -/
theorem races_fold (gs : List (Nat × BitVec 32)) (f : Module → Nat → BitVec 32 → Module) (hf : ∀ m g k, ∃ ra, f m g k = { m with races := ra }) :
   ∀ m : Module, ∃ ra, gs.foldl (fun m g => f m g.1 g.2) m = { m with races := ra } := by
  induction gs with
  | nil => intro m; exact ⟨m.races, rfl⟩
  | cons a r ih =>
    intro m
    obtain ⟨ra, h⟩ := hf m a.1 a.2
    obtain ⟨rb, h'⟩ := ih (f m a.1 a.2)
    exact ⟨rb, by rw [List.foldl_cons, h', h]⟩

/-- Recording an access changes race tags alone. -/
theorem raceRecord_races (m : Module) (w : Who) (g : Nat) (k : BitVec 32) (wr : Bool) (sy : Option (Nat × Nat)) : ∃ ra, raceRecord m w g k wr sy = { m with races := ra } := by
  unfold raceRecord; simp only; split
  · exact ⟨_, rfl⟩
  · split
    · exact ⟨_, rfl⟩
    · split <;> exact ⟨_, rfl⟩
/-- Forgetting writers changes race tags alone. -/
theorem raceForget_races (m : Module) (g : Nat) : ∃ ra, raceForget m g = { m with races := ra } := by
  unfold raceForget; split
  · exact ⟨_, rfl⟩
  · exact ⟨m.races, rfl⟩

/-- Everything that writing pieces changes. -/
theorem writePieces_wrote (who : Option Who) (un : Bool) (keep : Option (BitVec 8)) (sy : Option (Nat × Nat)) : ∀ (ps : List Piece) (s : State) (bs : Bytes), Wrote s (writePieces s who un keep sy ps bs) := by
  intro ps
  induction ps with
  | nil => intro s bs; exact .refl s
  | cons p r ih =>
    intro s bs
    simp only [writePieces]
    refine .trans ?_ (ih _ _)
    obtain ⟨w, hw⟩ := physWriteRun_eq (bs.take p.n) s p.pa
    have step2 : Wrote s ((s.physWriteRun p.pa (bs.take p.n)).sawWrite p.pa p.n keep) := by
      rw [hw]; exact ⟨⟨_, _, _, _, sawWrite_ctx _ _, sawWrite_ctx _ _, sawWrite_ctx _ _, rfl⟩, ⟨_, _, rfl⟩, rfl, rfl, ⟨w, rfl⟩⟩
    refine step2.trans ?_
    generalize (s.physWriteRun p.pa (bs.take p.n)).sawWrite p.pa p.n keep = q
    have hq : Wrote q (if who.isSome || un then q.modM (fun m => dropSnaps m p.pa p.n) else q) := by
      split
      · exact ⟨⟨_, _, _, _, .refl _, .refl _, .refl _, rfl⟩, ⟨_, _, rfl⟩, rfl, rfl, ⟨[], rfl⟩⟩
      · exact .refl q
    refine hq.trans ?_
    generalize (if who.isSome || un then q.modM (fun m => dropSnaps m p.pa p.n) else q) = z
    have hz : ∀ f : Module → Module, (∃ ra, f z.m = { z.m with races := ra }) → Wrote z (z.modM f) := by
      rintro f ⟨ra, h⟩
      exact ⟨⟨_, _, _, _, .refl _, .refl _, .refl _, rfl⟩, ⟨z.m.snaps, ra, h⟩, rfl, rfl, ⟨[], rfl⟩⟩
    cases who with
    | some w =>
      simp only; split
      · exact hz _ (races_fold _ (fun m g k => raceRecord m w g k true sy) (fun m g k => raceRecord_races ..) _)
      · exact .refl z
    | none =>
      simp only; split
      · exact hz _ (races_fold _ (fun m g _ => raceForget m g) (fun m g k => raceForget_races ..) _)
      · exact .refl z

/-- Dropping the snapshots of pieces changes snapshots alone. -/
theorem dropSnaps_fold (ps : List Piece) : ∀ m : Module, ∃ sn, ps.foldl (fun m p => dropSnaps m p.pa p.n) m = { m with snaps := sn } := by
  induction ps with
  | nil => exact fun m => ⟨m.snaps, rfl⟩
  | cons p r ih => exact fun m => let ⟨sn, h⟩ := ih (dropSnaps m p.pa p.n); ⟨sn, h⟩

/-- Everything that a write of the module itself changes. -/
theorem devWrite_wrote (s : State) (root : Word) (va : Nat) (bs : Bytes) : Wrote s (devWrite s root va bs) := by
  obtain ⟨ps, h | h⟩ := devWrite_only s root va bs
  · rw [h]; exact .refl s
  · rw [h]; refine (writePieces_wrote none false none none ps s bs).trans ?_
    obtain ⟨sn, e⟩ := dropSnaps_fold ps (writePieces s none false none none ps bs).m
    exact ⟨⟨_, _, _, _, .refl _, .refl _, .refl _, rfl⟩, ⟨sn, _, e⟩, rfl, rfl, ⟨[], rfl⟩⟩

/-- What decides whether a word may issue again is as before: results in flight, the context, the interlocks (03 R62, R63). -/
def Like (s t : State) : Prop := t.core.flights = s.core.flights ∧ t.core.cur = s.core.cur ∧ t.core.interlocked = s.core.interlocked
theorem Like.refl (s : State) : Like s s := ⟨rfl, rfl, rfl⟩
theorem Like.trans {s t u : State} (h : Like s t) (h' : Like t u) : Like s u := ⟨h'.1.trans h.1, h'.2.1.trans h.2.1, h'.2.2.trans h.2.2⟩
theorem OnlyTlb.like {s t : State} (h : OnlyTlb s t) : Like s t := by obtain ⟨l, p, rfl⟩ := h; exact ⟨rfl, rfl, by unfold Core.interlocked; cases s.core.cur <;> rfl⟩
theorem Wrote.like {s t : State} (h : Wrote s t) : Like s t := by
  obtain ⟨⟨l, c, x, al, ⟨a1, h1⟩, ⟨a2, h2⟩, ⟨a3, h3⟩, h4⟩, _, _, _⟩ := h
  refine ⟨by rw [h4], by rw [h4], ?_⟩
  unfold Core.interlocked; rw [h4]
theorem modM_like (s : State) (f : Module → Module) : Like s (s.modM f) := ⟨rfl, rfl, rfl⟩
theorem modTask_like (s : State) (f : Task → Task) : Like s (s.modTask f) := ⟨rfl, rfl, by unfold Core.interlocked State.modTask State.modCore; cases s.core.cur <;> rfl⟩
theorem modAlloc_like (s : State) (i : BitVec 8) (f : Alloc → Alloc) : Like s (s.modCore (fun k => modAlloc k i f)) := ⟨rfl, rfl, by unfold Core.interlocked State.modCore modAlloc; cases s.core.cur <;> rfl⟩
/-- What changes allocations and marks of double-bit errors alone. -/
theorem rows_like (s : State) (al : List Alloc) (bad : List Nat) : Like s { s with core := { s.core with allocs := al, badScratch := bad } } :=
  ⟨rfl, rfl, by unfold Core.interlocked; cases s.core.cur <;> rfl⟩
/-- Rewriting bytes of scratch clears marks of double-bit errors alone. -/
theorem healScratch_only (k : Core) (i : BitVec 8) (o n : Nat) : ∃ b, k.healScratch i o n = { k with badScratch := b } := by
  unfold Core.healScratch; split
  · exact ⟨_, rfl⟩
  · exact ⟨k.badScratch, rfl⟩
/-- So does filling lines. -/
theorem healFills_only (k : Core) (i : BitVec 8) (o : Nat) (ps : List Piece) : ∃ b, k.healFills i o ps = { k with badScratch := b } := by
  have go : ∀ (l : List (Nat × Nat)) (k : Core), ∃ b, l.foldl (fun k x => k.healScratch i (128 * x.1) 128) k = { k with badScratch := b } := by
    intro l; induction l with
    | nil => intro k; exact ⟨k.badScratch, rfl⟩
    | cons x r ih =>
      intro k
      obtain ⟨b, h⟩ := healScratch_only k i (128 * x.1) 128
      obtain ⟨b', h'⟩ := ih (k.healScratch i (128 * x.1) 128)
      exact ⟨b', by rw [List.foldl_cons, h', h]⟩
  unfold Core.healFills; split
  · exact go _ _
  · exact ⟨k.badScratch, rfl⟩
/-- A change of an allocation after one of the marks alone. -/
theorem marked_like (s : State) (g : Core → Core) (hg : ∀ k, ∃ b, g k = { k with badScratch := b }) (i : BitVec 8) (f : Core → Alloc → Alloc) :
    Like s (s.modCore (fun k => modAlloc (g k) i (f k))) := by
  obtain ⟨b, h⟩ := hg s.core
  show Like s { s with core := modAlloc (g s.core) i (f s.core) }
  rw [h]; exact rows_like s _ _
/-- Taking copies back is no more than that. -/
theorem snoop_like (s : State) (wr : Bool) (keep : Option (BitVec 8)) (pa n : Nat) : Like s (s.snoop wr keep pa n) :=
  ⟨rfl, rfl, by unfold Core.interlocked State.snoop Core.takeBack; cases s.core.cur <;> rfl⟩
theorem snoopReads_like (keep : Option (BitVec 8)) : ∀ (ps : List Piece) (s : State), Like s (s.snoopReads keep ps) := by
  intro ps; unfold State.snoopReads
  induction ps with
  | nil => intro s; exact .refl s
  | cons a r ih => intro s; exact (snoop_like s ..).trans (ih _)
/-- Room in flight is kept. -/
theorem Like.room {s t : State} (h : Like s t) (r : Room s) : Room t := by
  unfold Room Core.inFlight at *; rw [h.1, h.2.1, h.2.2]; exact r

/-- A result landed after the effect still fits in flight. -/
theorem Like.after {s u : State} (h : Like s u) (r : Room s) (x : Result) (one : resultsOf x.puts = 1) : s.core.interlocked = true ∨ (u.land x).core.inFlight s.core.cur ≤ Config.inFlightMax := by
  have := State.land_room (h.room r) x one
  rwa [h.2.1, h.2.2] at this

/-- An effect without a result leaves room in flight. -/
theorem Like.plain {s u : State} (h : Like s u) (r : Room s) : s.core.interlocked = true ∨ u.core.inFlight s.core.cur ≤ Config.inFlightMax := by
  rcases r with r | r
  · exact .inl r
  · right; unfold Core.inFlight at *; rw [h.1]; omega

theorem recordRead_like (s : State) (who : Option Who) (sy : Option (Nat × Nat)) (ps : List Piece) : Like s (recordRead s who sy ps) := by
  unfold recordRead; split
  · exact .refl s
  · next w =>
    suffices ∀ (l : List Piece) (s : State), Like s (l.foldl (fun s p => s.modM (fun m => (granules p.pa p.n).foldl (fun m g => raceRecord m w g.1 g.2 false sy) m)) s) from this _ _
    intro l; induction l with
    | nil => intro s; exact .refl s
    | cons a r ih => intro s; exact (modM_like s _).trans (ih _)
theorem performRead_like (s : State) (who : Option Who) (sy : Option (Nat × Nat)) (t : Target) : Like s (performRead s who sy t) := by
  cases t with
  | glob ps => exact (recordRead_like ..).trans (snoopReads_like ..)
  | priv i o n => exact .refl s
  | stash i o n ps => exact ((recordRead_like ..).trans (snoopReads_like ..)).trans <| marked_like _ (fun k => k.healFills i o ps) (fun k => healFills_only k i o ps) i (fun k a => touchLines k s.core.nowAt false a o ps)
theorem performWrite_like (s : State) (who : Option Who) (u : Bool) (sy : Option (Nat × Nat)) (bs : Bytes) (t : Target) : Like s (performWrite s who u sy bs t) := by
  cases t with
  | glob ps => exact (writePieces_wrote ..).like
  | priv i o n =>
    exact marked_like s (fun k => k.healScratch i o n) (fun k => healScratch_only k i o n) i (fun _ a => { (clearRows a o n) with data := a.data.putRun o bs })
  | stash i o n ps => exact (writePieces_wrote ..).like.trans <| marked_like _ (fun k => (k.healFills i o ps).healScratch i o bs.length) (fun k => let ⟨b, h⟩ := healFills_only k i o ps; let ⟨b', h'⟩ := healScratch_only (k.healFills i o ps) i o bs.length; ⟨b', by rw [h', h]⟩) i (fun k a => touchLines k s.core.nowAt true a o ps)
theorem linear_like (s : State) (sp : Space) (p : Word) : Like s (s.linear sp p) := by
  cases sp
  · exact .refl s
  · exact modAlloc_like ..

end Sys2Proof.Machine
end

