-- ==== Sys2Proof/Laws/Decode.lean ====
section
/-! SUPPORT. Decoding undoes encoding, part by part: the fields of a word, operand fields, codes, tails, and the shapes of
operands that the classes share. -/

namespace Sys2Proof

/-! ### Fields of a word -/

@[simp] theorem bit1_getLsbD (b : Bool) : (bit1 b).getLsbD 0 = b := by cases b <;> rfl
@[simp] theorem bit1_getElem (b : Bool) : (bit1 b)[0] = b := by cases b <;> rfl

theorem getLsbD_high {v w i : Nat} {x : BitVec v} {y : BitVec w} (h : w ≤ i) : (x ++ y).getLsbD i = x.getLsbD (i - w) := by
  rw [BitVec.getLsbD_append, if_neg (Nat.not_lt.mpr h)]

theorem getLsbD_low {v w i : Nat} {x : BitVec v} {y : BitVec w} (h : i < w) : (x ++ y).getLsbD i = y.getLsbD i := by
  rw [BitVec.getLsbD_append, if_pos h]

/-- Reading the fields of a word laid out from fields gives the fields. -/
theorem Raw.unpack_pack (r : Raw) : Raw.unpack (Raw.pack r) = r := by
  cases r
  simp only [Raw.unpack, Raw.pack, Raw.mk.injEq]
  refine ⟨?_, ?_, ?_, ?_, ?_, ?_, ?_, ?_, ?_, ?_, ?_, ?_, ?_⟩
  all_goals
    repeat (first | rw [BitVec.extractLsb'_append_eq_of_le (by decide)] | rw [getLsbD_high (by decide)])
    try (first | rw [BitVec.extractLsb'_append_eq_of_add_le (by decide)] | rw [getLsbD_low (by decide)])
    simp

@[simp] theorem FTail.unpack_pack (t : FTail) : FTail.unpack (FTail.pack t) = t := by
  cases t
  simp only [FTail.unpack, FTail.pack, FTail.mk.injEq]
  refine ⟨?_, ?_, ?_, ?_, ?_, ?_⟩
  all_goals
    repeat (first | rw [BitVec.extractLsb'_append_eq_of_le (by decide)] | rw [getLsbD_high (by decide)])
    try (first | rw [BitVec.extractLsb'_append_eq_of_add_le (by decide)] | rw [getLsbD_low (by decide)])
    simp

@[simp] theorem MTail.unpack_pack (t : MTail) : MTail.unpack (MTail.pack t) = t := by
  cases t
  simp only [MTail.unpack, MTail.pack, MTail.mk.injEq]
  refine ⟨?_, ?_, ?_, ?_, ?_, ?_⟩
  all_goals
    repeat (first | rw [BitVec.extractLsb'_append_eq_of_le (by decide)] | rw [getLsbD_high (by decide)])
    try (first | rw [BitVec.extractLsb'_append_eq_of_add_le (by decide)] | rw [getLsbD_low (by decide)])
    simp

@[simp] theorem VTail.unpack_pack (t : VTail) : VTail.unpack (VTail.pack t) = t := by
  cases t
  simp only [VTail.unpack, VTail.pack, VTail.mk.injEq]
  refine ⟨?_, ?_, ?_, ?_, ?_, ?_, ?_⟩
  all_goals
    repeat (first | rw [BitVec.extractLsb'_append_eq_of_le (by decide)] | rw [getLsbD_high (by decide)])
    try (first | rw [BitVec.extractLsb'_append_eq_of_add_le (by decide)] | rw [getLsbD_low (by decide)])
    simp

/-- A word that decodes field by field to a well-formed instruction decodes to it. -/
theorem decodeWord_pack {r : Raw} {i : Instr} (hi : i.wf = true) (h : ∀ rest, decodeRaw rest r = .ok i) :
    decodeWord (Raw.pack r) = .ok i := by
  have hc : i.check = none := Option.isNone_iff_eq_none.mp hi
  simp [decodeWord, decodeFields, Raw.unpack_pack, h, checked, hc]

/-! ### Codes -/

@[simp] theorem Fmt.ofCode_code (f : Fmt) : Fmt.ofCode f.code = some f := by cases f <;> rfl
@[simp] theorem Rnd.ofCode_code (r : Rnd) : Rnd.ofCode r.code = some r := by cases r <;> rfl
@[simp] theorem Scope.ofCode_code (c : Scope) : Scope.ofCode c.code = some c := by cases c <;> rfl
@[simp] theorem Order.ofCode_code (c : Order) : Order.ofCode c.code = c := by cases c <;> rfl
@[simp] theorem Size.ofCode_code (c : Size) : Size.ofCode c.code = c := by cases c <;> rfl
@[simp] theorem Space.ofCode_code (c : Space) : Space.ofCode c.code = c := by cases c <;> rfl
@[simp] theorem Cond.ofCode_code (c : Cond) : Cond.ofCode c.code = some c := by cases c <;> rfl
@[simp] theorem FCond.ofCode_code (c : FCond) : FCond.ofCode c.code = some c := by cases c <;> rfl
@[simp] theorem AtomOp.ofCode_code (c : AtomOp) : AtomOp.ofCode c.code = some c := by cases c <;> rfl
@[simp] theorem BsyncOp.ofCode_code (c : BsyncOp) : BsyncOp.ofCode c.code = some c := by cases c <;> rfl
@[simp] theorem VredOp.ofCode_code (c : VredOp) : VredOp.ofCode c.code = some c := by cases c <;> rfl
@[simp] theorem ViewKind.ofCode_code (c : ViewKind) : ViewKind.ofCode c.code = some c := by cases c <;> rfl
@[simp] theorem ChainId.ofCode_code (c : ChainId) : ChainId.ofCode c.code = c := by cases c <;> rfl

/-! ### Short fields inside a field -/

@[simp] theorem sm_bit (s : Bool) : (smS s)[0] = s ∧ (smS s).extractLsb' 1 5 = 0 := by cases s <;> decide
@[simp] theorem sm_cond (c : Cond) : (smC c).extractLsb' 0 4 = c.code ∧ (smC c).extractLsb' 4 2 = 0 := by cases c <;> decide
@[simp] theorem sub_bit (s : Bool) : (subS s)[0] = s ∧ (subS s).extractLsb' 1 5 = 0 := by cases s <;> decide
@[simp] theorem sub12_bit (s : Bool) : (0#11 ++ bit1 s : BitVec 12)[0] = s ∧
    (0#11 ++ bit1 s : BitVec 12).extractLsb' 1 11 = 0 := by cases s <;> decide
@[simp] theorem sub12_reg (c : BitVec 5) : (0#7 ++ c : BitVec 12).extractLsb' 0 5 = c ∧
    (0#7 ++ c : BitVec 12).extractLsb' 5 7 = 0 := by revert c; decide
@[simp] theorem sub12_ring (c : BitVec 3) : (0#9 ++ c : BitVec 12).extractLsb' 0 3 = c ∧
    (0#9 ++ c : BitVec 12).extractLsb' 3 9 = 0 := by revert c; decide
@[simp] theorem sub12_chain (c : ChainId) : ChainId.ofCode ((0#10 ++ c.code : BitVec 12).extractLsb' 0 2) = c ∧
    (0#10 ++ c.code : BitVec 12).extractLsb' 2 10 = 0 := by cases c <;> decide
@[simp] theorem sub12_timeline (b : Bool) (c : ChainId) :
    ChainId.ofCode ((0#9 ++ bit1 b ++ c.code : BitVec 12).extractLsb' 0 2) = c ∧
    (0#9 ++ bit1 b ++ c.code : BitVec 12)[2] = b ∧
    (0#9 ++ bit1 b ++ c.code : BitVec 12).extractLsb' 3 9 = 0 := by cases b <;> cases c <;> decide
@[simp] theorem tail_bit (s : Bool) : (0#31 ++ bit1 s : BitVec 32)[0] = s ∧
    (0#31 ++ bit1 s : BitVec 32).extractLsb' 1 31 = 0 := by cases s <;> decide
@[simp] theorem tail_low12 (n : BitVec 12) : (0#20 ++ n : BitVec 32).extractLsb' 0 12 = n ∧
    (0#20 ++ n : BitVec 32).extractLsb' 12 20 = 0 :=
  ⟨BitVec.extractLsb'_append_eq_right, BitVec.extractLsb'_append_eq_left⟩
@[simp] theorem tail_high20 (n : BitVec 20) : (n ++ 0#12 : BitVec 32).extractLsb' 0 12 = 0 ∧
    (n ++ 0#12 : BitVec 32).extractLsb' 12 20 = n :=
  ⟨BitVec.extractLsb'_append_eq_right, BitVec.extractLsb'_append_eq_left⟩
@[simp] theorem sub6_cond (c : BitVec 4) : (0#2 ++ c : BitVec 6).extractLsb' 0 4 = c ∧
    (0#2 ++ c : BitVec 6).extractLsb' 4 2 = 0 := by revert c; decide
@[simp] theorem sub6_kind (c : BitVec 2) : (0#4 ++ c : BitVec 6).extractLsb' 0 2 = c ∧
    (0#4 ++ c : BitVec 6).extractLsb' 2 4 = 0 := by revert c; decide
@[simp] theorem sub6_vred (s : Bool) (c : BitVec 3) : (0#2 ++ bit1 s ++ c : BitVec 6).extractLsb' 0 3 = c ∧
    (0#2 ++ bit1 s ++ c : BitVec 6)[3] = s ∧
    (0#2 ++ bit1 s ++ c : BitVec 6).extractLsb' 4 2 = 0 := by revert s c; decide
@[simp] theorem field_low3 (c : BitVec 3) : (0#8 ++ c : BitVec 11).extractLsb' 0 3 = c ∧
    (0#8 ++ c : BitVec 11).extractLsb' 3 8 = 0 := by revert c; decide
@[simp] theorem field_sm (s : BitVec 6) : (s ++ 0#5 : BitVec 11).extractLsb' 0 5 = 0 ∧
    (s ++ 0#5 : BitVec 11).extractLsb' 5 6 = s := by revert s; decide

@[simp] theorem tail_low3 (n : BitVec 3) : (0#29 ++ n : BitVec 32).extractLsb' 0 3 = n ∧ (0#29 ++ n : BitVec 32).extractLsb' 3 29 = 0 :=
  ⟨BitVec.extractLsb'_append_eq_right, BitVec.extractLsb'_append_eq_left⟩

/-- The tail of ADRAIN. -/
@[simp] theorem tail_drain (r : BitVec 3) (f : BitVec 4) :
    (0#5 ++ r ++ 0#14 ++ f ++ 0#6 : BitVec 32).extractLsb' 0 6 = 0 ∧ (0#5 ++ r ++ 0#14 ++ f ++ 0#6 : BitVec 32).extractLsb' 6 4 = f ∧
    (0#5 ++ r ++ 0#14 ++ f ++ 0#6 : BitVec 32).extractLsb' 10 14 = 0 ∧
    (0#5 ++ r ++ 0#14 ++ f ++ 0#6 : BitVec 32).extractLsb' 24 3 = r ∧
    (0#5 ++ r ++ 0#14 ++ f ++ 0#6 : BitVec 32).extractLsb' 27 5 = 0 := by
  revert r f; decide

/-- The tail of SALLOC. -/
@[simp] theorem tail_salloc (u : BitVec 20) (b z : Bool) :
    (u ++ 0#10 ++ bit1 b ++ bit1 z : BitVec 32)[0] = z ∧ (u ++ 0#10 ++ bit1 b ++ bit1 z : BitVec 32)[1] = b ∧
    (u ++ 0#10 ++ bit1 b ++ bit1 z : BitVec 32).extractLsb' 2 10 = 0 ∧
    (u ++ 0#10 ++ bit1 b ++ bit1 z : BitVec 32).extractLsb' 12 20 = u := by
  refine ⟨?_, ?_, ?_, ?_⟩
  · show (u ++ 0#10 ++ bit1 b ++ bit1 z : BitVec 32).getLsbD 0 = z
    rw [getLsbD_low (by decide)]; simp
  · show (u ++ 0#10 ++ bit1 b ++ bit1 z : BitVec 32).getLsbD 1 = b
    rw [getLsbD_high (by decide), getLsbD_low (by decide)]; simp
  · rw [BitVec.extractLsb'_append_eq_of_le (by decide), BitVec.extractLsb'_append_eq_of_le (by decide)]
    exact BitVec.extractLsb'_append_eq_right
  · rw [BitVec.extractLsb'_append_eq_of_le (by decide), BitVec.extractLsb'_append_eq_of_le (by decide)]
    exact BitVec.extractLsb'_append_eq_left

/-! ### The monad of decoding -/

@[simp] theorem ok_bind {α β : Type} (x : α) (f : α → Dec β) : ((Except.ok x : Dec α) >>= f) = f x := rfl
@[simp] theorem need_true (e : DecodeError) : need e true = .ok () := rfl
@[simp] theorem ofTable_some {α : Type} (x : α) : ofTable (some x) = .ok x := rfl

/-! ### Operands -/

@[simp] theorem decSrc_field (a : Src) : decSrc a.ls a.field = .ok a := by
  cases a with
  | reg n => revert n; decide
  | latch n => revert n; decide

@[simp] theorem decReg_regField (n : BitVec 5) : decReg (regField n) = .ok n := by revert n; decide

@[simp] theorem VEl.ofField_field (e : VEl) : VEl.ofField e.field = e := by
  cases e
  simp only [VEl.ofField, VEl.field, VEl.mk.injEq]
  exact ⟨BitVec.extractLsb'_append_eq_left, BitVec.extractLsb'_append_eq_right⟩

@[simp] theorem decVSrc_field (a : VSrc) : decVSrc a.ls a.field = .ok a := by
  cases a with
  | el e => simp [decVSrc, VSrc.ls, VSrc.field]
  | latch n => revert n; decide

theorem decSrcSM_field (sm : BitVec 6) (a : Src) : decSrcSM a.ls (a.fieldSM sm) = .ok (sm, a) := by
  cases a with
  | reg n =>
    simp only [decSrcSM, Src.ls, Src.fieldSM, Bool.false_eq_true, if_false, Except.ok.injEq, Prod.mk.injEq, Src.reg.injEq]
    exact ⟨BitVec.extractLsb'_append_eq_left, BitVec.extractLsb'_append_eq_right⟩
  | latch n => revert n sm; decide

@[simp] theorem decSrcSM_zero : decSrcSM false 0#11 = .ok (0#6, .reg 0#5) := by decide
@[simp] theorem MTail.unpack_zero : MTail.unpack 0#32 = ⟨0, 0, 0, false, 0, 0⟩ := by decide
@[simp] theorem VSrc.zero_ls : VSrc.zero.ls = false := rfl
@[simp] theorem VSrc.zero_field : VSrc.zero.field = 0#11 := by decide

theorem firstBad_none {e : IllFormed} {ok : Bool} {r : List (IllFormed × Bool)} (h : firstBad ((e, ok) :: r) = none) :
    ok = true ∧ firstBad r = none := by
  cases ok
  · exact absurd h (by simp [firstBad])
  · exact ⟨rfl, h⟩

/-- A well-formed VCMP has a condition of the kind of its format, which its code names (23 R378). -/
theorem VCond.ofCode_code {c : VCond} {f : VOp2} (h : (Instr.vcmp c f).wf = true) : VCond.ofCode f.fmt c.code = some c := by
  have hc : Instr.chkVcmp c f = none := Option.isNone_iff_eq_none.mp h
  have hm := (firstBad_none (Option.or_eq_none_iff.mp hc).2).1
  cases c with
  | int x =>
    have : f.fmt.floatLane = false := by revert hm; cases f.fmt <;> simp [Fmt.intLane, Fmt.floatLane]
    simp [VCond.ofCode, VCond.code, this]
  | flt x => simp_all [VCond.ofCode, VCond.code]

/-! ### Shapes -/

theorem decRR_enc (op : BitVec 9) (sm : BitVec 6) (f : AluRR) : decRR (encRR op sm f) = .ok (sm, f) := by
  simp [decRR, encRR, Raw.base, Raw.setD, Raw.setA, Raw.setBSM, Raw.dst, decSrcSM_field, Raw.noT, Raw.guard]

theorem decRI_enc (op : BitVec 9) (sm : BitVec 6) (f : AluRI) : decRI (encRI op sm f) = .ok (sm, f) := by
  simp [decRI, encRI, Raw.base, Raw.setD, Raw.setA, Raw.dst, Raw.guard]

end Sys2Proof
end

