-- ==== Sys2Proof/Laws/Moves.lean ====
section
/-! SUPPORT. What the end of a word and the landing of a scalar result leave of the core: the lemmas that claims about words cite
in place of unfolding `passed` and `State.landReg`. -/

namespace Sys2Proof.Machine

/-- An update of a context that keeps its registers, latches, views, flags and rounding mode keeps those of every context. -/
theorem Core.modCtx_regs (k : Core) (f : Context → Context) (hf : ∀ x : Context, (f x).x = x.x ∧ (f x).latch = x.latch ∧ (f x).view = x.view ∧ (f x).fflags = x.fflags ∧ (f x).round = x.round) (d c : Ctx) :
   ((k.modCtx d f).ctx c).x = (k.ctx c).x ∧ ((k.modCtx d f).ctx c).latch = (k.ctx c).latch ∧ ((k.modCtx d f).ctx c).view = (k.ctx c).view ∧
   ((k.modCtx d f).ctx c).fflags = (k.ctx c).fflags ∧ ((k.modCtx d f).ctx c).round = (k.ctx c).round := by
  rw [Core.ctx_modCtx]; split <;> simp_all

/-- t is s, but for the section counters that a region boundary of the plain image advances (02 R29). -/
def ReachOnly (s t : State) : Prop := t.wlog = s.wlog ∧ t.m = s.m ∧ t.others = s.others ∧ t.agenda = s.agenda ∧ t.mem = s.mem ∧
  (t.core = s.core ∨ s.place = .plain ∧ t.core = s.core.modAll (fun c => { c with secNo := c.secNo + 1 }))

/-- Everything that `State.reach` can do. -/
theorem reach_only (s : State) : ReachOnly s s.reach := by
  unfold State.reach
  split
  · rename_i h; exact ⟨rfl, rfl, rfl, rfl, rfl, .inr ⟨h.1, rfl⟩⟩
  · exact ⟨rfl, rfl, rfl, rfl, rfl, .inl rfl⟩

/-- An update of all contexts, read at one. -/
theorem modAll_ctx (k : Core) (f : Context → Context) (c : Ctx) : (k.modAll f).ctx c = f (k.ctx c) := by cases c <;> rfl

/-- What counting a word as issued leaves in each context. -/
theorem issued_ctx (u : State) (o : Nat) (l : Word) (c : Ctx) : (u.issued o l).core.ctx c = if c = u.core.cur then
    { u.here with hist := if u.core.inProgram && !u.filler then (o, l) :: u.here.hist else u.here.hist, lastLpc := if u.here.trap.isNone then l else u.here.lastLpc, wait := none, woken := false, draining := false, full := false, held := none, pass := false } else u.core.ctx c := by
  have : ∀ k : Core, Core.ctx { (k.count 1 1).settle with started := k.task.isSome } c = k.ctx c := by intro k; cases c <;> simp [Core.ctx]
  unfold State.issued
  rw [State.modCore_core, this, State.modHere_core, Core.ctx_modCtx]; rfl

/-- Counting a word as issued touches the core alone. -/
@[simp] theorem issued_mem (u : State) (o : Nat) (l : Word) : (u.issued o l).mem = u.mem ∧ (u.issued o l).wlog = u.wlog ∧ (u.issued o l).m = u.m ∧ (u.issued o l).others = u.others ∧ (u.issued o l).agenda = u.agenda := ⟨rfl, rfl, rfl, rfl, rfl⟩

/-- The state of a core beside its contexts, counters and task-wide clocks is the same. -/
def SameCore (k l : Core) : Prop := l.cur = k.cur ∧ l.flights = k.flights ∧ l.rs = k.rs ∧ l.allocs = k.allocs ∧ l.merged = k.merged ∧ l.num = k.num ∧ l.task = k.task ∧
   l.wb = k.wb ∧ l.rings = k.rings ∧ (∀ ch, l.chain ch = k.chain ch) ∧ l.window = k.window ∧ l.ckpt = k.ckpt ∧ l.journal = k.journal ∧ l.tlb = k.tlb ∧ l.trace = k.trace ∧
   l.traps = k.traps ∧ l.mode = k.mode ∧ l.seed = k.seed ∧ l.perf.sel = k.perf.sel ∧ l.perf.per = k.perf.per

theorem SameCore.trans {k l m : Core} (h : SameCore k l) (h' : SameCore l m) : SameCore k m := by
  unfold SameCore at *
  refine ⟨?_,?_,?_,?_,?_,?_,?_,?_,?_,?_,?_,?_,?_,?_,?_,?_,?_,?_,?_,?_⟩ <;> simp_all

theorem SameCore.refl (k : Core) : SameCore k k := by
  unfold SameCore; simp
theorem SameCore.modCtx (k : Core) (c : Ctx) (f : Context → Context) : SameCore k (k.modCtx c f) := by
  unfold SameCore; unfold Core.modCtx; cases c <;> refine ⟨rfl,rfl,rfl,rfl,rfl,rfl,rfl,rfl,rfl,fun ch => by cases ch <;> rfl,rfl,rfl,rfl,rfl,rfl,rfl,rfl,rfl,rfl,rfl⟩
theorem SameCore.modAll (k : Core) (f : Context → Context) : SameCore k (k.modAll f) := by
  unfold SameCore; refine ⟨rfl,rfl,rfl,rfl,rfl,rfl,rfl,rfl,rfl,fun ch => by cases ch <;> rfl,rfl,rfl,rfl,rfl,rfl,rfl,rfl,rfl,rfl,rfl⟩
theorem SameCore.count (k : Core) (a b : Nat) : SameCore k (k.count a b) := by
  unfold SameCore; refine ⟨rfl,rfl,rfl,rfl,rfl,rfl,rfl,rfl,rfl,fun ch => by cases ch <;> rfl,rfl,rfl,rfl,rfl,rfl,rfl,rfl,rfl,?_,?_⟩ <;>
  · unfold Core.count Core.countFor Perf.count; simp only []; split <;> rfl
theorem SameCore.settle (k : Core) : SameCore k k.settle := by
  unfold Core.settle; split
  · unfold SameCore; refine ⟨rfl,rfl,rfl,rfl,rfl,rfl,rfl,rfl,rfl,fun ch => by cases ch <;> rfl,rfl,rfl,rfl,rfl,rfl,rfl,rfl,rfl,rfl,rfl⟩
  · exact .refl k

theorem SameCore.started (k : Core) (b : Bool) : SameCore k { k with started := b } := by
  unfold SameCore; refine ⟨rfl,rfl,rfl,rfl,rfl,rfl,rfl,rfl,rfl,fun ch => by cases ch <;> rfl,rfl,rfl,rfl,rfl,rfl,rfl,rfl,rfl,rfl,rfl⟩

/-- A word that counts as issued changes nothing of the core beside contexts and counters. -/
theorem SameCore.issued (u : State) (o : Nat) (l : Word) : SameCore u.core (u.issued o l).core :=
  (SameCore.modCtx _ _ _).trans ((SameCore.count _ _ _).trans ((SameCore.settle _).trans (SameCore.started _ _)))
/-- Reaching a word changes nothing of the core beside contexts. -/
theorem SameCore.reach (u : State) : SameCore u.core u.reach.core := by
  obtain ⟨-, -, -, -, -, h⟩ := reach_only u
  rcases h with h | h
  · rw [h]; exact .refl _
  · rw [h.2]; exact .modAll _ _
/-- Going on to the next word changes nothing of the core beside contexts. -/
theorem SameCore.advance (u : State) : SameCore u.core u.advance.core := (SameCore.modCtx _ _ _).trans (SameCore.reach _)

/-- A word that counts as issued stands in the kind of image it stood in. -/
theorem issued_place (u : State) (o : Nat) (l : Word) : (u.issued o l).place = u.place := by
  unfold State.place
  have := SameCore.issued u o l
  have h1 : (u.issued o l).here.trap = u.here.trap := by
    unfold State.here; rw [this.1, issued_ctx]; simp [State.here]
  have h2 : (u.issued o l).core.hub = u.core.hub := by unfold Core.hub; rw [this.2.2.2.2.2.1]
  rw [h1, h2, this.2.2.2.2.1]

/-- What going on to the next word does to each context (02 R29). -/
theorem advance_ctx (u : State) (c : Ctx) : 
  let f (k : Context) : Context := (let k1 := { k with pc := k.pc + 12 }
    if u.place = .slice ∧ k1.pc.toNat = k.secEnd then k1.endSection else k1)
  let g := if c = u.core.cur then f u.here else u.core.ctx c
  u.advance.core.ctx c = g ∨ (u.place = .plain ∧ u.advance.core.ctx c = { g with secNo := g.secNo + 1 }) := by
  intro f g
  have hp : (u.modHere f).place = u.place := by
    unfold State.place
    have e : (u.modHere f).here.trap = u.here.trap := by
      unfold State.here; simp [State.modHere, Core.modCtx]
      simp only [f]; split <;> first | rfl | (unfold Context.endSection; split <;> rfl)
    have e2 : (u.modHere f).core.hub = u.core.hub := by unfold Core.hub; simp [State.modHere, Core.modCtx]
    have e3 : (u.modHere f).core.merged = u.core.merged := by simp [State.modHere, Core.modCtx]
    rw [e, e2, e3]
  have hg : (u.modHere f).core.ctx c = g := by
    rw [State.modHere_core, Core.ctx_modCtx]; simp only [g]; split
    · rename_i h; subst h; rfl
    · rfl
  have := reach_only (u.modHere f)
  obtain ⟨-, -, -, -, -, h⟩ := this
  change (u.modHere f).reach.core.ctx c = g ∨ _
  rcases h with h | h
  · left; rw [h, hg]
  · right; refine ⟨hp ▸ h.1, ?_⟩; change (u.modHere f).reach.core.ctx c = _; rw [h.2, modAll_ctx, hg]

/-- A word that passes leaves registers, latches, views, flags, rounding mode, watchpoints, step, pins and monitor of every context as its effect left them. -/
theorem passed_ctx (s u : State) (c : Ctx) : ((passed s u).core.ctx c).x = (u.core.ctx c).x ∧ ((passed s u).core.ctx c).latch = (u.core.ctx c).latch ∧
  ((passed s u).core.ctx c).view = (u.core.ctx c).view ∧ ((passed s u).core.ctx c).fflags = (u.core.ctx c).fflags ∧ ((passed s u).core.ctx c).round = (u.core.ctx c).round ∧
  ((passed s u).core.ctx c).wp = (u.core.ctx c).wp ∧ ((passed s u).core.ctx c).step = (u.core.ctx c).step ∧ ((passed s u).core.ctx c).pins = (u.core.ctx c).pins ∧
  ((passed s u).core.ctx c).monitor = (u.core.ctx c).monitor := by
  have hb := advance_ctx (u.issued s.here.ord s.lpc) c
  have hi := issued_ctx u s.here.ord s.lpc c
  have hc : (u.issued s.here.ord s.lpc).core.cur = u.core.cur := (SameCore.issued u _ _).1
  change (((u.issued s.here.ord s.lpc).advance.core.ctx c).x = _ ∧ ((u.issued s.here.ord s.lpc).advance.core.ctx c).latch = _ ∧ ((u.issued s.here.ord s.lpc).advance.core.ctx c).view = _ ∧ ((u.issued s.here.ord s.lpc).advance.core.ctx c).fflags = _ ∧ ((u.issued s.here.ord s.lpc).advance.core.ctx c).round = _ ∧
    ((u.issued s.here.ord s.lpc).advance.core.ctx c).wp = _ ∧ ((u.issued s.here.ord s.lpc).advance.core.ctx c).step = _ ∧ ((u.issued s.here.ord s.lpc).advance.core.ctx c).pins = _ ∧ ((u.issued s.here.ord s.lpc).advance.core.ctx c).monitor = _)
  have hh : (u.issued s.here.ord s.lpc).here = (u.issued s.here.ord s.lpc).core.ctx u.core.cur := by
    show (u.issued s.here.ord s.lpc).core.ctx (u.issued s.here.ord s.lpc).core.cur = _; rw [hc]
  simp only [hc, hh] at hb
  by_cases e : c = u.core.cur
  · subst e
    simp only [if_true] at hi hb
    have hy : ∀ y, y = (u.issued s.here.ord s.lpc).core.ctx u.core.cur → y.x = u.here.x ∧ y.latch = u.here.latch ∧ y.view = u.here.view ∧
        y.fflags = u.here.fflags ∧ y.round = u.here.round ∧ y.wp = u.here.wp ∧ y.step = u.here.step ∧ y.pins = u.here.pins ∧
        y.monitor = u.here.monitor := by
      rintro y rfl; rw [hi]; exact ⟨rfl,rfl,rfl,rfl,rfl,rfl,rfl,rfl,rfl⟩
    generalize (u.issued s.here.ord s.lpc).core.ctx u.core.cur = y at hb hy
    rcases hb with h | ⟨h0, h⟩ <;> rw [h] <;> split <;> first | exact hy y rfl | (unfold Context.endSection; split <;> exact hy y rfl)
  · rw [if_neg e] at hb hi; rw [hi] at hb
    rcases hb with h | ⟨h0, h⟩ <;> rw [h] <;> exact ⟨rfl,rfl,rfl,rfl,rfl,rfl,rfl,rfl,rfl⟩

/-- The result that `State.landReg` puts in flight in sliced running. -/
def landing (s : State) (d : Dst) (v : Word) (latc : Nat) (fg : BitVec 5) : Flight :=
  { ctx := s.core.cur, puts := dstPuts s.core.cur d v, lt := d.lt, cap := leBytes 8 v.toNat, flags := fg, landAt := s.core.cyc + latc - 1, dueBy := min (s.core.cyc + latc - 1) (s.core.cyc + 7), arrived := true, req := none, sec := (s.core.ctx s.core.cur).secNo, listed := false, ext := false, late := none, counted := true }

/-- Everything that a scalar result does: it is written at once under interlocks, and is put in flight otherwise; nothing else changes (00 R6, 03 R62). -/
theorem landReg_frame (s : State) (d : Dst) (v : Word) (lat : Nat) (fl : BitVec 5) :
   let t := s.landReg d v lat fl
   t.mem = s.mem ∧ t.m = s.m ∧ t.others = s.others ∧ t.wlog = s.wlog ∧
   (∀ c n, (c ≠ s.core.cur ∨ n ≠ d.reg ∨ n = 0 ∨ d.wbs = true ∨ s.core.interlocked = false) → (t.core.ctx c).get n = (s.core.ctx c).get n) ∧
   (∀ c (l : BitVec 4), (c ≠ s.core.cur ∨ l ≠ d.lt ∨ l = 0 ∨ s.core.interlocked = false) → (t.core.ctx c).latchBytes l = (s.core.ctx c).latchBytes l) ∧
   (∀ c, (t.core.ctx c).view = (s.core.ctx c).view ∧ (t.core.ctx c).round = (s.core.ctx c).round ∧
      (t.core.ctx c).wp = (s.core.ctx c).wp ∧ (t.core.ctx c).step = (s.core.ctx c).step ∧
      (t.core.ctx c).pins = (s.core.ctx c).pins ∧ (t.core.ctx c).monitor = (s.core.ctx c).monitor ∧
      (t.core.ctx c).fflags = (if c = s.core.cur ∧ s.core.interlocked = true then (s.core.ctx c).fflags ||| fl else (s.core.ctx c).fflags)) ∧
   (s.core.interlocked = true ∧ t.core.flights = s.core.flights ∨ (s.core.interlocked = false ∧ ∃ f, t.core.flights = s.core.flights ++ [f] ∧
      f.ctx = s.core.cur ∧ f.puts = (if d.wbs then [] else [.reg s.core.cur d.reg v]) ∧ f.lt = d.lt ∧ f.flags = fl)) ∧
   SameCore { s.core with flights := t.core.flights } t.core := by
  intro t
  have ht : t = s.land { puts := dstPuts s.core.cur d v, lt := d.lt, cap := leBytes 8 v.toNat, flags := fl, lat := lat } := rfl
  cases hi : s.core.interlocked
  · have : t = s.modCore (fun k => { k with flights := k.flights ++ [(landing s d v lat fl)] }) := by
      rw [ht]; unfold State.land; simp [hi, landing]
    have hc : ∀ c, t.core.ctx c = s.core.ctx c := by intro c; rw [this]; cases c <;> rfl
    refine ⟨by rw [this]; rfl, by rw [this]; rfl, by rw [this]; rfl, by rw [this]; rfl, ?_, ?_, ?_, .inr ⟨rfl, ?_⟩, ?_⟩
    · intro c n _; rw [hc]
    · intro c l _; rw [hc]
    · intro c; rw [hc]; simp
    · rw [this]; exact ⟨_, rfl, rfl, rfl, rfl, rfl⟩
    · rw [this]; unfold SameCore; exact ⟨rfl,rfl,rfl,rfl,rfl,rfl,rfl,rfl,rfl,fun ch => by cases ch <;> rfl,rfl,rfl,rfl,rfl,rfl,rfl,rfl,rfl,rfl,rfl⟩
  · have hk : t.core = ((if d.wbs then s.core else s.core.modCtx s.core.cur (fun x => x.put d.reg v)).modCtx s.core.cur (fun x => 
         { x with fflags := x.fflags ||| fl, latch := if d.lt = 0 then x.latch else x.latch.set d.lt.toNat (some (leBytes 8 v.toNat)) d.lt.isLt })) := by
      rw [ht]; unfold State.land; simp only [hi, if_true, State.modCore, Core.applyFlight, Core.applyPuts, dstPuts]
      cases d.wbs <;> rfl
    have hx : ∀ c, t.core.ctx c = if c = s.core.cur then (let x := (if d.wbs then s.here else s.here.put d.reg v); 
         { x with fflags := x.fflags ||| fl, latch := if d.lt = 0 then x.latch else x.latch.set d.lt.toNat (some (leBytes 8 v.toNat)) d.lt.isLt }) else s.core.ctx c := by
      intro c; rw [hk, Core.ctx_modCtx]
      cases d.wbs
      · simp only [Bool.false_eq_true, if_false, Core.ctx_modCtx]
        split <;> simp_all [State.here]
      · simp only [if_true]; split <;> simp_all [State.here]
    have e1 : t = s.modCore (fun k => k.applyFlight (landing s d v lat fl)) := by
      rw [ht]; unfold State.land; simp [hi, landing]
    have hf : t.core.flights = s.core.flights := by rw [hk]; cases d.wbs <;> simp [Core.modCtx]
    refine ⟨by rw [e1]; rfl, by rw [e1]; rfl, by rw [e1]; rfl, by rw [e1]; rfl, ?_, ?_, ?_, .inl ⟨rfl, hf⟩, ?_⟩
    · intro c n h; rw [hx]
      by_cases e : c = s.core.cur
      · rw [if_pos e]; subst e
        simp only [ne_eq, not_true_eq_false, false_or, Bool.true_eq_false, or_false] at h
        change Context.get (if d.wbs = true then s.here else s.here.put d.reg v) n = s.here.get n
        cases hw : d.wbs
        · simp only [Bool.false_eq_true, if_false, Context.get_put]
          rw [if_neg]; rintro ⟨rfl, hn⟩; rcases h with h | h | h
          · exact h rfl
          · exact hn h
          · simp [hw] at h
        · rfl
      · rw [if_neg e]
    · intro c l h; rw [hx]
      by_cases e : c = s.core.cur
      · rw [if_pos e]; subst e
        simp only [ne_eq, not_true_eq_false, false_or, Bool.true_eq_false, or_false] at h
        have hl : (if d.wbs = true then s.here else s.here.put d.reg v).latch = s.here.latch := by cases d.wbs <;> simp
        unfold Context.latchBytes; simp only [hl]
        split
        · rfl
        · rename_i h0
          have : d.lt.toNat ≠ l.toNat := by
            intro e; rcases h with h | h
            · exact h (BitVec.eq_of_toNat_eq e.symm)
            · subst h; exact h0 (BitVec.eq_of_toNat_eq e)
          simp [Vector.getElem_set, this, State.here]
      · rw [if_neg e]
    · intro c; rw [hx]
      by_cases e : c = s.core.cur
      · rw [if_pos e]; subst e; cases d.wbs <;> simp [State.here]
      · rw [if_neg e]; simp [e]
    · rw [hf, hk]; 
      have : ({ s.core with flights := s.core.flights } : Core) = s.core := rfl
      rw [this]
      cases d.wbs <;> simp only [Bool.false_eq_true, if_false, if_true]
      · exact (SameCore.modCtx _ _ _).trans (SameCore.modCtx _ _ _)
      · exact (SameCore.modCtx _ _ _)

end Sys2Proof.Machine
end

