-- ==== Sys2Proof/Laws/PerInstr.lean ====
section
/-! SUPPORT. The family Encodes: decoding undoes encoding, one lemma for each constructor of Instr. -/

namespace Sys2Proof.Laws.Encodes

/-- The word of a well-formed instruction decodes to it. -/
def Statement (i : Instr) : Prop := ∀ w : IWord, i.wf = true → encode i = some w → decodeWord w = .ok i

/-- An event has no word. -/
theorem of_event {i : Instr} (h : encode i = none) : Statement i := fun w _ e => by rw [h] at e; cases e

theorem of_raw {i : Instr} {r : Raw} (he : encode i = some (Raw.pack r)) (h : i.wf = true → ∀ rest, decodeRaw rest r = .ok i) : Statement i :=
  fun w hw e => by rw [he] at e; cases e; exact decodeWord_pack hw (h hw)

theorem add (f : AluRR) : Statement (.add f) := of_raw rfl fun _ _ => by
  show rr _ Instr.add = _
  simp [rr, decRR_enc]
theorem addImmediate (f : AluRI) : Statement (.addImmediate f) := of_raw rfl fun _ _ => by
  show ri _ Instr.addImmediate = _
  simp [ri, decRI_enc]
theorem sub (f : AluRR) : Statement (.sub f) := of_raw rfl fun _ _ => by
  show rr _ Instr.sub = _
  simp [rr, decRR_enc]
theorem subImmediate (f : AluRI) : Statement (.subImmediate f) := of_raw rfl fun _ _ => by
  show ri _ Instr.subImmediate = _
  simp [ri, decRI_enc]
theorem mul (f : AluRR) : Statement (.mul f) := of_raw rfl fun _ _ => by
  show rr _ Instr.mul = _
  simp [rr, decRR_enc]
theorem mulImmediate (f : AluRI) : Statement (.mulImmediate f) := of_raw rfl fun _ _ => by
  show ri _ Instr.mulImmediate = _
  simp [ri, decRI_enc]
theorem mulh (sgn : Bool) (f : AluRR) : Statement (.mulh sgn f) := of_raw rfl fun _ _ => by
  show rrS _ Instr.mulh = _
  simp [rrS, decRR_enc]
theorem mulhImmediate (sgn : Bool) (f : AluRI) : Statement (.mulhImmediate sgn f) := of_raw rfl fun _ _ => by
  show riS _ Instr.mulhImmediate = _
  simp [riS, decRI_enc]
theorem div (sgn : Bool) (f : AluRR) : Statement (.div sgn f) := of_raw rfl fun _ _ => by
  show rrS _ Instr.div = _
  simp [rrS, decRR_enc]
theorem divImmediate (sgn : Bool) (f : AluRI) : Statement (.divImmediate sgn f) := of_raw rfl fun _ _ => by
  show riS _ Instr.divImmediate = _
  simp [riS, decRI_enc]
theorem rem (sgn : Bool) (f : AluRR) : Statement (.rem sgn f) := of_raw rfl fun _ _ => by
  show rrS _ Instr.rem = _
  simp [rrS, decRR_enc]
theorem remImmediate (sgn : Bool) (f : AluRI) : Statement (.remImmediate sgn f) := of_raw rfl fun _ _ => by
  show riS _ Instr.remImmediate = _
  simp [riS, decRI_enc]
theorem and (f : AluRR) : Statement (.and f) := of_raw rfl fun _ _ => by
  show rr _ Instr.and = _
  simp [rr, decRR_enc]
theorem andImmediate (f : AluRI) : Statement (.andImmediate f) := of_raw rfl fun _ _ => by
  show ri _ Instr.andImmediate = _
  simp [ri, decRI_enc]
theorem andn (f : AluRR) : Statement (.andn f) := of_raw rfl fun _ _ => by
  show rr _ Instr.andn = _
  simp [rr, decRR_enc]
theorem andnImmediate (f : AluRI) : Statement (.andnImmediate f) := of_raw rfl fun _ _ => by
  show ri _ Instr.andnImmediate = _
  simp [ri, decRI_enc]
theorem or (f : AluRR) : Statement (.or f) := of_raw rfl fun _ _ => by
  show rr _ Instr.or = _
  simp [rr, decRR_enc]
theorem orImmediate (f : AluRI) : Statement (.orImmediate f) := of_raw rfl fun _ _ => by
  show ri _ Instr.orImmediate = _
  simp [ri, decRI_enc]
theorem xor (f : AluRR) : Statement (.xor f) := of_raw rfl fun _ _ => by
  show rr _ Instr.xor = _
  simp [rr, decRR_enc]
theorem xorImmediate (f : AluRI) : Statement (.xorImmediate f) := of_raw rfl fun _ _ => by
  show ri _ Instr.xorImmediate = _
  simp [ri, decRI_enc]
theorem shl (f : AluRR) : Statement (.shl f) := of_raw rfl fun _ _ => by
  show rr _ Instr.shl = _
  simp [rr, decRR_enc]
theorem shlImmediate (f : AluRI) : Statement (.shlImmediate f) := of_raw rfl fun _ _ => by
  show ri _ Instr.shlImmediate = _
  simp [ri, decRI_enc]
theorem shr (arith : Bool) (f : AluRR) : Statement (.shr arith f) := of_raw rfl fun _ _ => by
  show rrS _ Instr.shr = _
  simp [rrS, decRR_enc]
theorem shrImmediate (arith : Bool) (f : AluRI) : Statement (.shrImmediate arith f) := of_raw rfl fun _ _ => by
  show riS _ Instr.shrImmediate = _
  simp [riS, decRI_enc]
theorem rot (f : AluRR) : Statement (.rot f) := of_raw rfl fun _ _ => by
  show rr _ Instr.rot = _
  simp [rr, decRR_enc]
theorem rotImmediate (f : AluRI) : Statement (.rotImmediate f) := of_raw rfl fun _ _ => by
  show ri _ Instr.rotImmediate = _
  simp [ri, decRI_enc]
theorem clz (f : OpDA) : Statement (.clz f) := of_raw rfl fun _ _ => by
  simp [decodeRaw, decS, decDA, encDA, Raw.base, Raw.setD, Raw.setA, Raw.setT, Raw.dst, Raw.noB, Raw.noT, Raw.guard]
theorem popc (f : OpDA) : Statement (.popc f) := of_raw rfl fun _ _ => by
  simp [decodeRaw, decS, decDA, encDA, Raw.base, Raw.setD, Raw.setA, Raw.setT, Raw.dst, Raw.noB, Raw.noT, Raw.guard]
theorem bext (f : AluRR) : Statement (.bext f) := of_raw rfl fun _ _ => by
  show rr _ Instr.bext = _
  simp [rr, decRR_enc]
theorem bextImmediate (f : AluRI) : Statement (.bextImmediate f) := of_raw rfl fun _ _ => by
  show ri _ Instr.bextImmediate = _
  simp [ri, decRI_enc]
theorem bins (f : AluRR) : Statement (.bins f) := of_raw rfl fun _ _ => by
  show rr _ Instr.bins = _
  simp [rr, decRR_enc]
theorem binsImmediate (f : AluRI) : Statement (.binsImmediate f) := of_raw rfl fun _ _ => by
  show ri _ Instr.binsImmediate = _
  simp [ri, decRI_enc]
theorem cmp (c : Cond) (f : AluRR) : Statement (.cmp c f) := of_raw rfl fun _ _ => by
  show rrC _ Instr.cmp = _
  simp [rrC, decRR_enc]
theorem cmpImmediate (c : Cond) (f : AluRI) : Statement (.cmpImmediate c f) := of_raw rfl fun _ _ => by
  show riC _ Instr.cmpImmediate = _
  simp [riC, decRI_enc]
theorem sel (f : AluRR) : Statement (.sel f) := of_raw rfl fun _ _ => by
  show rr _ Instr.sel = _
  simp [rr, decRR_enc]
theorem min (sgn : Bool) (f : AluRR) : Statement (.min sgn f) := of_raw rfl fun _ _ => by
  show rrS _ Instr.min = _
  simp [rrS, decRR_enc]
theorem minImmediate (sgn : Bool) (f : AluRI) : Statement (.minImmediate sgn f) := of_raw rfl fun _ _ => by
  show riS _ Instr.minImmediate = _
  simp [riS, decRI_enc]
theorem max (sgn : Bool) (f : AluRR) : Statement (.max sgn f) := of_raw rfl fun _ _ => by
  show rrS _ Instr.max = _
  simp [rrS, decRR_enc]
theorem maxImmediate (sgn : Bool) (f : AluRI) : Statement (.maxImmediate sgn f) := of_raw rfl fun _ _ => by
  show riS _ Instr.maxImmediate = _
  simp [riS, decRI_enc]
theorem ldi (f : OpDImm) : Statement (.ldi f) := of_raw rfl fun _ _ => by
  simp [decodeRaw, decS, decD, encD, Raw.base, Raw.setD, Raw.setT, Raw.dst, Raw.noA, Raw.noB, Raw.guard]
theorem addpc (f : OpPc) : Statement (.addpc f) := of_raw rfl fun _ _ => by
  simp [decodeRaw, decS, decD, encD, Raw.base, Raw.setD, Raw.setT, Raw.dst, Raw.noA, Raw.noB, Raw.guard]
theorem fadd (f : FOp) : Statement (.fadd f) := of_raw rfl fun _ _ => by
  simp [decodeRaw, decF, decFBase, decSrcSM_field, encF, Raw.base, Raw.setD, Raw.setA, Raw.setBSM, Raw.setT, Raw.dst, Raw.guard]
theorem fmul (f : FOp) : Statement (.fmul f) := of_raw rfl fun _ _ => by
  simp [decodeRaw, decF, decFBase, decSrcSM_field, encF, Raw.base, Raw.setD, Raw.setA, Raw.setBSM, Raw.setT, Raw.dst, Raw.guard]
theorem ffma (c : BitVec 5) (f : FOp) : Statement (.ffma c f) := of_raw rfl fun _ _ => by
  simp [decodeRaw, decF, decFBase, decSrcSM_field, encF, Raw.base, Raw.setD, Raw.setA, Raw.setBSM, Raw.setT, Raw.dst, Raw.guard]
theorem fcmp (c : FCond) (f : FOp) : Statement (.fcmp c f) := of_raw rfl fun _ _ => by
  simp [decodeRaw, decF, decFBase, decSrcSM_field, encF, Raw.base, Raw.setD, Raw.setA, Raw.setBSM, Raw.setT, Raw.dst, Raw.guard]
theorem fcvt (f : FCvtOp) : Statement (.fcvt f) := of_raw rfl fun _ _ => by
  simp [decodeRaw, decF, decFBase, encDA, Raw.base, Raw.setD, Raw.setA, Raw.setT, Raw.dst, Raw.noB, Raw.guard]
theorem ld (f : LoadOp) : Statement (.ld f) := of_raw rfl fun _ _ => by
  simp [decodeRaw, decM, decDA, decLoad, encLoad, Raw.base, Raw.setD, Raw.setA, Raw.setT, Raw.dst, Raw.noB, Raw.guard]
theorem lda (scope : Scope) (f : LoadOp) : Statement (.lda scope f) := of_raw rfl fun _ _ => by
  simp [decodeRaw, decM, decDA, decLoad, encLoad, Raw.base, Raw.setD, Raw.setA, Raw.setT, Raw.dst, Raw.noB, Raw.guard]
theorem st (f : StoreOp) : Statement (.st f) := of_raw rfl fun _ _ => by
  simp [decodeRaw, decM, decAB, decStore, encStore, Raw.noD, Raw.base, Raw.setA, Raw.setB, Raw.setT, Raw.guard]
theorem stl (scope : Scope) (f : StoreOp) : Statement (.stl scope f) := of_raw rfl fun _ _ => by
  simp [decodeRaw, decM, decAB, decStore, encStore, Raw.noD, Raw.base, Raw.setA, Raw.setB, Raw.setT, Raw.guard]
theorem atom (op : AtomOp) (f : AtomOpF) : Statement (.atom op f) := of_raw rfl fun _ _ => by
  simp [decodeRaw, decM, decDAB, decAtom, encAtom, Raw.base, Raw.setD, Raw.setA, Raw.setB, Raw.setT, Raw.dst, Raw.guard]
theorem cas (c : BitVec 5) (f : AtomOpF) : Statement (.cas c f) := of_raw rfl fun _ _ => by
  simp [decodeRaw, decM, decDAB, decAtom, encAtom, Raw.base, Raw.setD, Raw.setA, Raw.setB, Raw.setT, Raw.dst, Raw.guard]
theorem fence (g : Guard) (order : Order) (scope : Scope) : Statement (.fence g order scope) := of_raw rfl fun _ _ => by
  simp [decodeRaw, decM, Raw.noD, Raw.base, Raw.setT, Raw.noA, Raw.noB, Raw.guard]
theorem monitor (f : OpA) (off : BitVec 12) : Statement (.monitor f off) := of_raw rfl fun _ _ => by
  simp [decodeRaw, decM, decA, encA, MTail.noSOS, Raw.noD, Raw.base, Raw.setA, Raw.setT, Raw.noB, Raw.guard]
theorem mwait (g : Guard) (d : Dst) (b : Src) : Statement (.mwait g d b) := of_raw rfl fun _ _ => by
  simp [decodeRaw, decM, MTail.zero, Raw.base, Raw.setD, Raw.setB, Raw.dst, Raw.noA, Raw.guard]
theorem bsync (op : BsyncOp) (f : OpDA) : Statement (.bsync op f) := of_raw rfl fun _ _ => by
  simp [decodeRaw, decM, decDA, encDA, mSub, MTail.onlySub, Raw.base, Raw.setD, Raw.setA, Raw.setT, Raw.dst, Raw.noB, Raw.guard]
theorem send (f : OpSrc3) : Statement (.send f) := of_raw rfl fun _ _ => by
  simp [decodeRaw, decM, decSrc3, encSrc3, Raw.base, Raw.setA, Raw.setB, Raw.noT, Raw.guard]
theorem waitc (ch : ChainId) (f : OpA) : Statement (.waitc ch f) := of_raw rfl fun _ _ => by
  simp [decodeRaw, decM, decA, encA, mSub, MTail.onlySub, Raw.noD, Raw.base, Raw.setA, Raw.setT, Raw.noB, Raw.guard]
theorem tlrd (ch : ChainId) (ap : Bool) (f : OpD) : Statement (.tlrd ch ap f) := of_raw rfl fun _ _ => by
  simp [decodeRaw, decM, decD, encD, mSub, MTail.onlySub, Raw.base, Raw.setD, Raw.setT, Raw.dst, Raw.noA, Raw.noB, Raw.guard]
theorem ringi (f : AluRR) : Statement (.ringi f) := of_raw rfl fun _ _ => by
  simp [decodeRaw, decM, decDAB, encDAB, MTail.zero, Raw.base, Raw.setD, Raw.setA, Raw.setB, Raw.setT, Raw.dst, Raw.guard]
theorem awaitf (n : BitVec 3) (f : OpD) : Statement (.awaitf n f) := of_raw rfl fun _ _ => by
  simp [decodeRaw, decM, decD, encD, mSub, MTail.onlySub, Raw.base, Raw.setD, Raw.setT, Raw.dst, Raw.noA, Raw.noB, Raw.guard]
theorem rels (g : Guard) (n : BitVec 3) : Statement (.rels g n) := of_raw rfl fun _ _ => by
  simp [decodeRaw, decM, mSub, MTail.onlySub, Raw.noD, Raw.base, Raw.setT, Raw.noA, Raw.noB, Raw.guard]
theorem mput (g : Guard) (d : Dst) (a : Src) (b : BitVec 5) : Statement (.mput g d a b) := of_raw rfl fun _ _ => by
  simp [decodeRaw, decM, MTail.zero, Raw.base, Raw.setD, Raw.setA, Raw.dst, Raw.guard]
theorem mtake (f : OpDA) : Statement (.mtake f) := of_raw rfl fun _ _ => by
  simp [decodeRaw, decM, decDA, encDA, MTail.zero, Raw.base, Raw.setD, Raw.setA, Raw.setT, Raw.dst, Raw.noB, Raw.guard]
theorem mstat (f : OpDA) : Statement (.mstat f) := of_raw rfl fun _ _ => by
  simp [decodeRaw, decM, decDA, encDA, MTail.zero, Raw.base, Raw.setD, Raw.setA, Raw.setT, Raw.dst, Raw.noB, Raw.guard]
theorem mctl (f : AluRR) : Statement (.mctl f) := of_raw rfl fun _ _ => by
  simp [decodeRaw, decM, decDAB, encDAB, MTail.zero, Raw.base, Raw.setD, Raw.setA, Raw.setB, Raw.setT, Raw.dst, Raw.guard]
theorem tagset (f : OpAB) (space : Space) (off : BitVec 12) (n : BitVec 12) : Statement (.tagset f space off n) := of_raw rfl fun _ _ => by
  simp [decodeRaw, decM, decAB, encAB, mSpace, MTail.noSOS, Raw.noD, Raw.base, Raw.setA, Raw.setB, Raw.setT, Raw.guard]
theorem tagget (f : OpDA) (space : Space) (off : BitVec 12) : Statement (.tagget f space off) := of_raw rfl fun _ _ => by
  simp [decodeRaw, decM, decDA, encDA, mSpace, MTail.noSOS, Raw.base, Raw.setD, Raw.setA, Raw.setT, Raw.dst, Raw.noB, Raw.guard]
theorem ptrtag (f : AluRR) : Statement (.ptrtag f) := of_raw rfl fun _ _ => by
  simp [decodeRaw, decM, decDAB, encDAB, MTail.zero, Raw.base, Raw.setD, Raw.setA, Raw.setB, Raw.setT, Raw.dst, Raw.guard]
theorem cflush (f : OpA) (space : Space) (off : BitVec 12) (inv : Bool) : Statement (.cflush f space off inv) := of_raw rfl fun _ _ => by
  simp [decodeRaw, decM, decA, encA, mSpace, MTail.noSOS, Raw.noD, Raw.base, Raw.setA, Raw.setT, Raw.noB, Raw.guard]
theorem jmp (f : OpImm) : Statement (.jmp f) := of_raw rfl fun _ _ => by
  simp [decodeRaw, decC, decImm, encImm, Raw.noD, Raw.base, Raw.setT, Raw.noA, Raw.noB, Raw.guard]
theorem jmpr (f : OpA) : Statement (.jmpr f) := of_raw rfl fun _ _ => by
  simp [decodeRaw, decC, decA, encA, Raw.noD, Raw.base, Raw.setA, Raw.setT, Raw.noB, Raw.noT, Raw.guard]
theorem call (f : OpDImm) : Statement (.call f) := of_raw rfl fun _ _ => by
  simp [decodeRaw, decC, decD, encD, Raw.base, Raw.setD, Raw.setT, Raw.dst, Raw.noA, Raw.noB, Raw.guard]
theorem ret (f : OpA) : Statement (.ret f) := of_raw rfl fun _ _ => by
  simp [decodeRaw, decC, decA, encA, Raw.noD, Raw.base, Raw.setA, Raw.setT, Raw.noB, Raw.noT, Raw.guard]
theorem exit (g : Guard) : Statement (.exit g) := of_raw rfl fun _ _ => by
  simp [decodeRaw, decC, Raw.noD, Raw.base, Raw.noA, Raw.noB, Raw.noT, Raw.guard]
theorem abort (f : OpImm) : Statement (.abort f) := of_raw rfl fun _ _ => by
  simp [decodeRaw, decC, decImm, encImm, Raw.noD, Raw.base, Raw.setT, Raw.noA, Raw.noB, Raw.guard]
theorem nop (f : OpImm) : Statement (.nop f) := of_raw rfl fun _ _ => by
  simp [decodeRaw, decC, decImm, encImm, Raw.noD, Raw.base, Raw.setT, Raw.noA, Raw.noB, Raw.guard]
theorem tstep (d : BitVec 5) (wbs : Bool) (b : Src) (mask : BitVec 32) : Statement (.tstep d wbs b mask) := of_raw rfl fun _ _ => by
  simp [decodeRaw, decC, Raw.base, Raw.setB, Raw.noA]
theorem trap (f : OpImm) : Statement (.trap f) := of_raw rfl fun _ _ => by
  simp [decodeRaw, decC, decImm, encImm, Raw.noD, Raw.base, Raw.setT, Raw.noA, Raw.noB, Raw.guard]
theorem svc (f : OpImm) : Statement (.svc f) := of_raw rfl fun _ _ => by
  simp [decodeRaw, decC, decImm, encImm, Raw.noD, Raw.base, Raw.setT, Raw.noA, Raw.noB, Raw.guard]
theorem eret (g : Guard) (skip : Bool) : Statement (.eret g skip) := of_raw rfl fun _ _ => by
  simp [decodeRaw, decC, Raw.noD, Raw.base, Raw.setT, Raw.noA, Raw.noB, Raw.guard]
theorem bkpt (f : OpImm) : Statement (.bkpt f) := of_raw rfl fun _ _ => by
  simp [decodeRaw, decC, decImm, encImm, Raw.noD, Raw.base, Raw.setT, Raw.noA, Raw.noB, Raw.guard]
theorem sread (f : OpD) (num : BitVec 12) : Statement (.sread f num) := of_raw rfl fun _ _ => by
  simp [decodeRaw, decC, decD, encD, Raw.base, Raw.setD, Raw.setT, Raw.dst, Raw.noA, Raw.noB, Raw.guard]
theorem swrite (f : OpA) (num : BitVec 12) : Statement (.swrite f num) := of_raw rfl fun _ _ => by
  simp [decodeRaw, decC, decA, encA, Raw.noD, Raw.base, Raw.setA, Raw.setT, Raw.noB, Raw.guard]
theorem tlbi (f : OpAB) (n : BitVec 32) : Statement (.tlbi f n) := of_raw rfl fun _ _ => by
  simp [decodeRaw, decC, decAB, encAB, Raw.noD, Raw.base, Raw.setA, Raw.setB, Raw.setT, Raw.guard]
theorem vabs (f : VOp1) : Statement (.vabs f) := of_raw rfl fun _ _ => by
  simp [decodeRaw, decV, decV1, decVFmt, v1, vTail, encV1, VTail.noC, Raw.base, Raw.setVD, Raw.setVA, Raw.setT, Raw.vdst, Raw.noB, Raw.guard]
theorem vadd (f : VOp2) : Statement (.vadd f) := of_raw rfl fun _ _ => by
  simp [decodeRaw, decV, decV2, decVFmt, v2, vTail, encV2, VTail.noC, Raw.base, Raw.setVD, Raw.setVA, Raw.setVB, Raw.setT, Raw.vdst, Raw.guard]
theorem vand (f : VOp2) : Statement (.vand f) := of_raw rfl fun _ _ => by
  simp [decodeRaw, decV, decV2, decVFmt, v2, vTail, encV2, VTail.noC, Raw.base, Raw.setVD, Raw.setVA, Raw.setVB, Raw.setT, Raw.vdst, Raw.guard]
theorem vbcast (g : Guard) (d : VDst) (a : Src) (mask : BitVec 5) (fmt : Fmt) : Statement (.vbcast g d a mask fmt) := of_raw rfl fun _ _ => by
  simp [decodeRaw, decV, decVFmt, vTail, VTail.noC, Raw.base, Raw.setVD, Raw.setA, Raw.setT, Raw.vdst, Raw.noB, Raw.guard]
theorem vcmp (c : VCond) (f : VOp2) : Statement (.vcmp c f) := of_raw rfl fun hw _ => by
  simp [decodeRaw, decV, decV2, decVFmt, vTail, encV2, VTail.noC, Raw.base, Raw.setVD, Raw.setVA, Raw.setVB, Raw.setT, Raw.vdst, Raw.guard, VCond.ofCode_code hw]
theorem vcvt (part : BitVec 3) (fmt2 : Fmt) (f : VOp1) : Statement (.vcvt part fmt2 f) := of_raw rfl fun _ _ => by
  simp [decodeRaw, decV, Raw.base, Raw.setVD, Raw.setVA, Raw.setT, Raw.vdst, Raw.noB, Raw.guard]
theorem vexp2 (f : VOp1) : Statement (.vexp2 f) := of_raw rfl fun _ _ => by
  simp [decodeRaw, decV, decV1, decVFmt, v1, vTail, encV1, VTail.noC, Raw.base, Raw.setVD, Raw.setVA, Raw.setT, Raw.vdst, Raw.noB, Raw.guard]
theorem vfma (f : VOp3) : Statement (.vfma f) := of_raw rfl fun _ _ => by
  simp [decodeRaw, decV, decV3, decVFmt, v3, vTail, encV3, Raw.base, Raw.setVD, Raw.setVA, Raw.setVB, Raw.setT, Raw.vdst, Raw.guard]
theorem vgath (g : Guard) (d : VDst) (a : Src) (b : VSrc) (mask : BitVec 5) (fmt : Fmt) : Statement (.vgath g d a b mask fmt) := of_raw rfl fun _ _ => by
  simp [decodeRaw, decV, decVFmt, vTail, VTail.noC, Raw.base, Raw.setVD, Raw.setA, Raw.setVB, Raw.setT, Raw.vdst, Raw.guard]
theorem vld (g : Guard) (d : VDst) (a : Src) (off : BitVec 6) (mask : BitVec 5) (fmt : Fmt) : Statement (.vld g d a off mask fmt) := of_raw rfl fun _ _ => by
  simp [decodeRaw, decV, decVFmt, vTail, VTail.noC, Raw.base, Raw.setVD, Raw.setA, Raw.setT, Raw.vdst, Raw.noB, Raw.guard]
theorem vlog2 (f : VOp1) : Statement (.vlog2 f) := of_raw rfl fun _ _ => by
  simp [decodeRaw, decV, decV1, decVFmt, v1, vTail, encV1, VTail.noC, Raw.base, Raw.setVD, Raw.setVA, Raw.setT, Raw.vdst, Raw.noB, Raw.guard]
theorem vmax (sgn : Bool) (f : VOp2) : Statement (.vmax sgn f) := of_raw rfl fun _ _ => by
  simp [decodeRaw, decV, decV2, decVFmt, v2S, vTail, encV2, VTail.noC, Raw.base, Raw.setVD, Raw.setVA, Raw.setVB, Raw.setT, Raw.vdst, Raw.guard]
theorem vmin (sgn : Bool) (f : VOp2) : Statement (.vmin sgn f) := of_raw rfl fun _ _ => by
  simp [decodeRaw, decV, decV2, decVFmt, v2S, vTail, encV2, VTail.noC, Raw.base, Raw.setVD, Raw.setVA, Raw.setVB, Raw.setT, Raw.vdst, Raw.guard]
theorem vmov (f : VOp1) : Statement (.vmov f) := of_raw rfl fun _ _ => by
  simp [decodeRaw, decV, decV1, decVFmt, v1, vTail, encV1, VTail.noC, Raw.base, Raw.setVD, Raw.setVA, Raw.setT, Raw.vdst, Raw.noB, Raw.guard]
theorem vmul (f : VOp2) : Statement (.vmul f) := of_raw rfl fun _ _ => by
  simp [decodeRaw, decV, decV2, decVFmt, v2, vTail, encV2, VTail.noC, Raw.base, Raw.setVD, Raw.setVA, Raw.setVB, Raw.setT, Raw.vdst, Raw.guard]
theorem vneg (f : VOp1) : Statement (.vneg f) := of_raw rfl fun _ _ => by
  simp [decodeRaw, decV, decV1, decVFmt, v1, vTail, encV1, VTail.noC, Raw.base, Raw.setVD, Raw.setVA, Raw.setT, Raw.vdst, Raw.noB, Raw.guard]
theorem vor (f : VOp2) : Statement (.vor f) := of_raw rfl fun _ _ => by
  simp [decodeRaw, decV, decV2, decVFmt, v2, vTail, encV2, VTail.noC, Raw.base, Raw.setVD, Raw.setVA, Raw.setVB, Raw.setT, Raw.vdst, Raw.guard]
theorem vperm (f : VOp2) : Statement (.vperm f) := of_raw rfl fun _ _ => by
  simp [decodeRaw, decV, decV2, decVFmt, v2, vTail, encV2, VTail.noC, Raw.base, Raw.setVD, Raw.setVA, Raw.setVB, Raw.setT, Raw.vdst, Raw.guard]
theorem vrcp (f : VOp1) : Statement (.vrcp f) := of_raw rfl fun _ _ => by
  simp [decodeRaw, decV, decV1, decVFmt, v1, vTail, encV1, VTail.noC, Raw.base, Raw.setVD, Raw.setVA, Raw.setT, Raw.vdst, Raw.noB, Raw.guard]
theorem vred (op : VredOp) (sgn : Bool) (g : Guard) (d : Dst) (a : VSrc) (mask : BitVec 5) (fmt : Fmt) (rnd : Rnd) : Statement (.vred op sgn g d a mask fmt rnd) := of_raw rfl fun _ _ => by
  simp [decodeRaw, decV, decVFmt, vTail, VTail.noC, Raw.base, Raw.setD, Raw.setVA, Raw.setT, Raw.dst, Raw.noB, Raw.guard]
theorem vrsq (f : VOp1) : Statement (.vrsq f) := of_raw rfl fun _ _ => by
  simp [decodeRaw, decV, decV1, decVFmt, v1, vTail, encV1, VTail.noC, Raw.base, Raw.setVD, Raw.setVA, Raw.setT, Raw.vdst, Raw.noB, Raw.guard]
theorem vscale (f : VOp2) : Statement (.vscale f) := of_raw rfl fun _ _ => by
  simp [decodeRaw, decV, decV2, decVFmt, v2, vTail, encV2, VTail.noC, Raw.base, Raw.setVD, Raw.setVA, Raw.setVB, Raw.setT, Raw.vdst, Raw.guard]
theorem vscat (g : Guard) (a : Src) (b : VSrc) (c : VSrc) (mask : BitVec 5) (fmt : Fmt) : Statement (.vscat g a b c mask fmt) := of_raw rfl fun _ _ => by
  simp [decodeRaw, decV, decVFmt, vTail, Raw.noD, Raw.base, Raw.setA, Raw.setVB, Raw.setT, Raw.guard]
theorem vsel (f : VOp3) : Statement (.vsel f) := of_raw rfl fun _ _ => by
  simp [decodeRaw, decV, decV3, decVFmt, v3, vTail, encV3, Raw.base, Raw.setVD, Raw.setVA, Raw.setVB, Raw.setT, Raw.vdst, Raw.guard]
theorem vshl (f : VOp2) : Statement (.vshl f) := of_raw rfl fun _ _ => by
  simp [decodeRaw, decV, decV2, decVFmt, v2, vTail, encV2, VTail.noC, Raw.base, Raw.setVD, Raw.setVA, Raw.setVB, Raw.setT, Raw.vdst, Raw.guard]
theorem vshr (arith : Bool) (f : VOp2) : Statement (.vshr arith f) := of_raw rfl fun _ _ => by
  simp [decodeRaw, decV, decV2, decVFmt, v2S, vTail, encV2, VTail.noC, Raw.base, Raw.setVD, Raw.setVA, Raw.setVB, Raw.setT, Raw.vdst, Raw.guard]
theorem vst (g : Guard) (a : Src) (b : VSrc) (off : BitVec 6) (mask : BitVec 5) (fmt : Fmt) : Statement (.vst g a b off mask fmt) := of_raw rfl fun _ _ => by
  simp [decodeRaw, decV, decVFmt, vTail, VTail.noC, Raw.noD, Raw.base, Raw.setA, Raw.setVB, Raw.setT, Raw.guard]
theorem vsub (f : VOp2) : Statement (.vsub f) := of_raw rfl fun _ _ => by
  simp [decodeRaw, decV, decV2, decVFmt, v2, vTail, encV2, VTail.noC, Raw.base, Raw.setVD, Raw.setVA, Raw.setVB, Raw.setT, Raw.vdst, Raw.guard]
theorem vxor (f : VOp2) : Statement (.vxor f) := of_raw rfl fun _ _ => by
  simp [decodeRaw, decV, decV2, decVFmt, v2, vTail, encV2, VTail.noC, Raw.base, Raw.setVD, Raw.setVA, Raw.setVB, Raw.setT, Raw.vdst, Raw.guard]
theorem view (g : Guard) (v : BitVec 3) (a : Src) (kind : ViewKind) (fmt : Fmt) : Statement (.view g v a kind fmt) := of_raw rfl fun _ _ => by
  simp [decodeRaw, decV, decVFmt, vTail, VTail.noC, Raw.base, Raw.setA, Raw.setT, Raw.noB, Raw.guard]
theorem ttrn (g : Guard) (d : VEl) (wbs : Bool) (a : VEl) (fmt : Fmt) : Statement (.ttrn g d wbs a fmt) := of_raw rfl fun _ _ => by
  simp [decodeRaw, decV, decVFmt, vTail, VTail.noC, Raw.base, Raw.noB, Raw.guard]
theorem copy (f : OpSrc3) : Statement (.copy f) := of_raw rfl fun _ _ => by
  simp [decodeRaw, decE, decSrc3, encSrc3, Raw.base, Raw.setA, Raw.setB, Raw.noT, Raw.guard]
theorem wbld (f : OpAB) (len : BitVec 32) : Statement (.wbld f len) := of_raw rfl fun _ _ => by
  simp [decodeRaw, decE, decAB, encAB, Raw.noD, Raw.base, Raw.setA, Raw.setB, Raw.setT, Raw.guard]
theorem mma (f : OpAB) : Statement (.mma f) := of_raw rfl fun _ _ => by
  simp [decodeRaw, decE, decAB, encAB, Raw.noD, Raw.base, Raw.setA, Raw.setB, Raw.setT, Raw.noT, Raw.guard]
theorem aclr (g : Guard) (a : VEl) (n : BitVec 3) : Statement (.aclr g a n) := of_raw rfl fun _ _ => by
  simp [decodeRaw, decE, Raw.noD, Raw.base, Raw.noB, Raw.guard]
theorem adrain (g : Guard) (d : VEl) (a : VEl) (fmt : Fmt) (rnd : Rnd) : Statement (.adrain g d a fmt rnd) := of_raw rfl fun _ _ => by
  simp [decodeRaw, decE, Raw.base, Raw.noB, Raw.guard]
theorem salloc (g : Guard) (d : BitVec 5) (wbs : Bool) (units : BitVec 20) (bk : Bool) (z : Bool) : Statement (.salloc g d wbs units bk z) := of_raw rfl fun _ _ => by
  simp [decodeRaw, decE, Raw.base, Raw.noA, Raw.noB, Raw.guard]
theorem sfree (f : OpA) : Statement (.sfree f) := of_raw rfl fun _ _ => by
  simp [decodeRaw, decE, decA, encA, Raw.noD, Raw.base, Raw.setA, Raw.setT, Raw.noB, Raw.noT, Raw.guard]
theorem wind (f : OpAB) : Statement (.wind f) := of_raw rfl fun _ _ => by
  simp [decodeRaw, decE, decAB, encAB, Raw.noD, Raw.base, Raw.setA, Raw.setB, Raw.setT, Raw.noT, Raw.guard]
theorem life (g : Guard) (d : BitVec 5) (wbs : Bool) (a : Src) : Statement (.life g d wbs a) := of_raw rfl fun _ _ => by
  simp [decodeRaw, decE, Raw.base, Raw.setA, Raw.noB, Raw.noT, Raw.guard]
theorem smap (f : OpAB) (len : BitVec 32) : Statement (.smap f len) := of_raw rfl fun _ _ => by
  simp [decodeRaw, decE, decAB, encAB, Raw.noD, Raw.base, Raw.setA, Raw.setB, Raw.setT, Raw.guard]
theorem sunmap (f : OpA) : Statement (.sunmap f) := of_raw rfl fun _ _ => by
  simp [decodeRaw, decE, decA, encA, Raw.noD, Raw.base, Raw.setA, Raw.setT, Raw.noB, Raw.noT, Raw.guard]
theorem lock (f : AluRR) : Statement (.lock f) := of_raw rfl fun _ _ => by
  simp [decodeRaw, decE, decDAB, encDAB, Raw.base, Raw.setD, Raw.setA, Raw.setB, Raw.setT, Raw.dst, Raw.noT, Raw.guard]
theorem unlock (f : OpAB) : Statement (.unlock f) := of_raw rfl fun _ _ => by
  simp [decodeRaw, decE, decAB, encAB, Raw.noD, Raw.base, Raw.setA, Raw.setB, Raw.setT, Raw.noT, Raw.guard]
theorem emulationTrap (rest : BitVec 93) : Statement (.emulationTrap rest) :=
  fun w hw e => by
    cases e
    have h : (Raw.unpack ((6 : BitVec 3) ++ rest : IWord)).cls = 6 := BitVec.extractLsb'_append_eq_left
    have hr : ((6 : BitVec 3) ++ rest : IWord).extractLsb' 0 93 = rest := BitVec.extractLsb'_append_eq_right
    have hd : decodeRaw (((6 : BitVec 3) ++ rest : IWord).extractLsb' 0 93) (Raw.unpack ((6 : BitVec 3) ++ rest : IWord)) =
        .ok (.emulationTrap rest) := by unfold decodeRaw; rw [h, hr]; rfl
    unfold decodeWord decodeFields
    rw [hd]
    rfl
theorem resultLanding : Statement .resultLanding := of_event rfl
theorem externalResultArrival : Statement .externalResultArrival := of_event rfl
theorem contextUnblock (c : Ctx) : Statement (.contextUnblock c) := of_event rfl
theorem sectionHeaderCheck (c : Ctx) : Statement (.sectionHeaderCheck c) := of_event rfl
theorem stringWaitSatisfied (c : Ctx) : Statement (.stringWaitSatisfied c) := of_event rfl
theorem sectionRetire (c : Ctx) : Statement (.sectionRetire c) := of_event rfl
theorem stallWatchdog (c : Ctx) : Statement (.stallWatchdog c) := of_event rfl
theorem preciseFaultRebuild : Statement .preciseFaultRebuild := of_event rfl
theorem mergedReplay : Statement .mergedReplay := of_event rfl
theorem handlerEntry : Statement .handlerEntry := of_event rfl
theorem earlyEngineFault (ch : ChainId) : Statement (.earlyEngineFault ch) := of_event rfl
theorem inPlaceTrap (c : Ctx) : Statement (.inPlaceTrap c) := of_event rfl
theorem hazardStop (c : Ctx) (hz : BitVec 4) : Statement (.hazardStop c hz) := of_event rfl
theorem debugLogicalStop (c : Ctx) : Statement (.debugLogicalStop c) := of_event rfl
theorem watchpointStop (c : Ctx) : Statement (.watchpointStop c) := of_event rfl
theorem logpoint (l : LogPoint) : Statement (.logpoint l) := of_event rfl
theorem engineEntryBegin (ch : ChainId) (num : Nat) : Statement (.engineEntryBegin ch num) := of_event rfl
theorem copyChunk (ch : ChainId) (num : Nat) (k : Nat) : Statement (.copyChunk ch num k) := of_event rfl
theorem engineEntryCompletion (ch : ChainId) (num : Nat) : Statement (.engineEntryCompletion ch num) := of_event rfl
theorem wbldChunk (num : Nat) (k : Nat) : Statement (.wbldChunk num k) := of_event rfl
theorem mmaPass (num : Nat) : Statement (.mmaPass num) := of_event rfl
theorem aclrExecute (num : Nat) : Statement (.aclrExecute num) := of_event rfl
theorem adrainExecute (num : Nat) : Statement (.adrainExecute num) := of_event rfl
theorem sendPayload (num : Nat) : Statement (.sendPayload num) := of_event rfl
theorem sendFlagAdd (num : Nat) : Statement (.sendFlagAdd num) := of_event rfl
theorem sendCompletion (num : Nat) : Statement (.sendCompletion num) := of_event rfl
theorem translationMissWalk (va : BitVec 64) : Statement (.translationMissWalk va) := of_event rfl
theorem chainExtension (ch : ChainId) (seg : Option (BitVec 48)) : Statement (.chainExtension ch seg) := of_event rfl
theorem copyOnWriteFirstWrite (va : BitVec 64) (frame : Option (BitVec 48)) : Statement (.copyOnWriteFirstWrite va frame) := of_event rfl
theorem fadeTick : Statement .fadeTick := of_event rfl
theorem allocationExpiry (id : BitVec 8) : Statement (.allocationExpiry id) := of_event rfl
theorem zeroPendingClear (id : BitVec 8) (row : Nat) : Statement (.zeroPendingClear id row) := of_event rfl
theorem stashLineFill (id : BitVec 8) (line : Nat) (own : Bool) : Statement (.stashLineFill id line own) := of_event rfl
theorem stashDirtyWriteback (id : BitVec 8) (line : Nat) : Statement (.stashDirtyWriteback id line) := of_event rfl
theorem stashRowWind (id : BitVec 8) (row : Nat) : Statement (.stashRowWind id row) := of_event rfl
theorem stashCleanExpiry (id : BitVec 8) (line : Nat) : Statement (.stashCleanExpiry id line) := of_event rfl
theorem stashHomeInvalidate (id : BitVec 8) (line : Nat) : Statement (.stashHomeInvalidate id line) := of_event rfl
theorem stashHomeRecall (id : BitVec 8) (line : Nat) : Statement (.stashHomeRecall id line) := of_event rfl
theorem stashWritebackAck (id : BitVec 8) (line : Nat) : Statement (.stashWritebackAck id line) := of_event rfl
theorem notifyWrite (off : Nat) (size : Nat) (value : BitVec 64) : Statement (.notifyWrite off size value) := of_event rfl
theorem queueSlotGrant (q : Nat) : Statement (.queueSlotGrant q) := of_event rfl
theorem queueIdleEviction (q : Nat) : Statement (.queueIdleEviction q) := of_event rfl
theorem queuePriorityEviction (q : Nat) : Statement (.queuePriorityEviction q) := of_event rfl
theorem queueStarvationTakeover (q : Nat) : Statement (.queueStarvationTakeover q) := of_event rfl
theorem launch (q : Nat) : Statement (.launch q) := of_event rfl
theorem graph (q : Nat) : Statement (.graph q) := of_event rfl
theorem wait (q : Nat) : Statement (.wait q) := of_event rfl
theorem waitConditionMet (q : Nat) : Statement (.waitConditionMet q) := of_event rfl
theorem signal (q : Nat) : Statement (.signal q) := of_event rfl
theorem barrier (q : Nat) : Statement (.barrier q) := of_event rfl
theorem packetCompletion (q : Nat) (idx : Nat) : Statement (.packetCompletion q idx) := of_event rfl
theorem nodeReady (n : Nat) : Statement (.nodeReady n) := of_event rfl
theorem nodeDispatch (n : Nat) (cores : List Nat) : Statement (.nodeDispatch n cores) := of_event rfl
theorem readyPoolAging : Statement .readyPoolAging := of_event rfl
theorem headNodeHold : Statement .headNodeHold := of_event rfl
theorem nodeCompletion (n : Nat) : Statement (.nodeCompletion n) := of_event rfl
theorem tenantInstant (start : Nat) : Statement (.tenantInstant start) := of_event rfl
theorem stepBudgetExpiry (core : Nat) : Statement (.stepBudgetExpiry core) := of_event rfl
theorem nodeBoundaryStop (core : Nat) : Statement (.nodeBoundaryStop core) := of_event rfl
theorem allocationSave (core : Nat) : Statement (.allocationSave core) := of_event rfl
theorem taskRestore (task : Nat) (cores : List Nat) : Statement (.taskRestore task cores) := of_event rfl
theorem parkSweeperWind (core : Nat) (id : BitVec 8) : Statement (.parkSweeperWind core id) := of_event rfl
theorem parkedEviction (core : Nat) (a : ParkedAlloc) : Statement (.parkedEviction core a) := of_event rfl
theorem pipelineErrorRollback (unit : BitVec 8) : Statement (.pipelineErrorRollback unit) := of_event rfl
theorem dieFailure (die : Nat) : Statement (.dieFailure die) := of_event rfl
theorem poolPutInsertion (req : Nat) : Statement (.poolPutInsertion req) := of_event rfl
theorem queuedPutInsertion (pool : Nat) (shard : Nat) : Statement (.queuedPutInsertion pool shard) := of_event rfl
theorem loweringNoticeArrival (pool : Nat) (src : Nat) (dst : Nat) : Statement (.loweringNoticeArrival pool src dst) := of_event rfl
theorem loweringNoticeAcknowledged (pool : Nat) (shard : Nat) : Statement (.loweringNoticeAcknowledged pool shard) := of_event rfl
theorem poolTakeArrival (req : Nat) : Statement (.poolTakeArrival req) := of_event rfl
theorem synchronousTake (req : Nat) : Statement (.synchronousTake req) := of_event rfl
theorem poolSummary (pool : Nat) (shard : Nat) : Statement (.poolSummary pool shard) := of_event rfl
theorem rollingMove (pool : Nat) (src : Nat) (dst : Nat) : Statement (.rollingMove pool src dst) := of_event rfl
theorem pollRound (req : Nat) : Statement (.pollRound req) := of_event rfl
theorem mctlCompletion (req : Nat) : Statement (.mctlCompletion req) := of_event rfl
theorem svcRepairQueue : Statement .svcRepairQueue := of_event rfl
theorem svcCreatePool : Statement .svcCreatePool := of_event rfl
theorem svcDestroyPool : Statement .svcDestroyPool := of_event rfl
theorem svcLaunchRecord : Statement .svcLaunchRecord := of_event rfl
theorem svcAttestation : Statement .svcAttestation := of_event rfl
theorem perfRedRead : Statement .perfRedRead := of_event rfl
theorem perfSelWrite (v : BitVec 64) : Statement (.perfSelWrite v) := of_event rfl
theorem fflagsWrite (v : BitVec 5) : Statement (.fflagsWrite v) := of_event rfl
theorem roundSeedWrite (v : BitVec 64) : Statement (.roundSeedWrite v) := of_event rfl
theorem dutyRegisterWrite (v : BitVec 64) : Statement (.dutyRegisterWrite v) := of_event rfl
theorem counterSample : Statement .counterSample := of_event rfl
theorem traceGapRecord : Statement .traceGapRecord := of_event rfl
theorem coreDump : Statement .coreDump := of_event rfl
theorem replayDivergence : Statement .replayDivergence := of_event rfl
theorem powerUp (r : StageReport) : Statement (.powerUp r) := of_event rfl
theorem ptpLockTimeout : Statement .ptpLockTimeout := of_event rfl
theorem ptpLockChange (locked : Bool) : Statement (.ptpLockChange locked) := of_event rfl
theorem pcieTraining (rate : Nat) (width : Nat) : Statement (.pcieTraining rate width) := of_event rfl
theorem kernelImageLoad (at' root : BitVec 64) (l : LoadStep) : Statement (.kernelImageLoad at' root l) := of_event rfl
theorem clockThrottling (die : Nat) : Statement (.clockThrottling die) := of_event rfl
theorem clockThrottlingEnd (die : Nat) : Statement (.clockThrottlingEnd die) := of_event rfl
theorem remoteSendArrival (r : RemoteSend) : Statement (.remoteSendArrival r) := of_event rfl
theorem hostWrite (pa : Nat) (data : Bytes) : Statement (.hostWrite pa data) := of_event rfl
theorem packetError (q : Nat) : Statement (.packetError q) := of_event rfl
theorem stopRequest (core : Nat) (prio : Nat) (incoming : Option Nat) : Statement (.stopRequest core prio incoming) := of_event rfl
theorem debuggerResume : Statement .debuggerResume := of_event rfl
theorem poisonMapUpdate (frame : Nat) (poisoned : Bool) : Statement (.poisonMapUpdate frame poisoned) := of_event rfl
theorem linkRetraining (link : Nat) : Statement (.linkRetraining link) := of_event rfl

end Sys2Proof.Laws.Encodes
end

