-- ==== Sys2Proof/Laws/Turn.lean ====
section
/-! SUPPORT. Choosing the next step writes nothing: memory and the write log of the state that a turn chooses are those before. -/

namespace Sys2Proof.Machine

/-- The state that a turn chooses. -/
def Turn.state : Turn → State
  | .row _ s => s
  | .fault _ s => s
  | .idle s => s

/-- Same memory, same write log. -/
def Quiet (s t : State) : Prop := t.mem = s.mem ∧ t.wlog = s.wlog

theorem Quiet.refl (s : State) : Quiet s s := ⟨rfl, rfl⟩
theorem Quiet.inv {s t : State} (h : Quiet s t) (hs : Inv s) : Inv t := ⟨h.1 ▸ hs.1, h.2 ▸ hs.2⟩

theorem focus_quiet (s : State) (n : Nat) : Quiet s (s.focus n) := by
  unfold State.focus; split <;> exact ⟨rfl, rfl⟩

theorem urgent_quiet {s t : State} {i : Instr} (h : urgent s = some (i, t)) : Quiet s t := by
  unfold urgent at h
  simp only at h
  split at h
  · cases h; exact Quiet.refl s
  · obtain ⟨ch, _, hc⟩ := Option.map_eq_some_iff.mp h
    cases hc; exact ⟨rfl, rfl⟩

theorem Quiet.trans {s t u : State} (h : Quiet s t) (h' : Quiet t u) : Quiet s u := ⟨h'.1.trans h.1, h'.2.trans h.2⟩

/-- A translation writes nothing. -/
theorem translate_quiet {s t : State} {root : Word} {va : Nat} {e : TlbEntry} (h : translate s root va = .ok (e, t)) : Quiet s t := by
  unfold translate at h
  split at h
  · cases h; exact .refl s
  · split at h
    · cases h; exact ⟨rfl, rfl⟩
    · cases h

/-- Nor do the translations of a fetch. -/
theorem walkFetch_quiet (s : State) : Quiet s s.walkFetch := by
  have page : ∀ (s : State) (r : Word) (va : Nat), Quiet s (match translate s r va with
      | .ok (_, t) => t
      | .error _ => s) := by
    intro s r va
    split
    · next h => exact translate_quiet h
    · exact .refl s
  unfold State.walkFetch
  exact (page _ _ _).trans (page _ _ _)

theorem atIssue_quiet (s : State) (i : Instr) (sl : Slot) : Quiet s (s.atIssue i sl) := ⟨(walkFetch_quiet s).1, (walkFetch_quiet s).2⟩

/-- The service of missed pages comes before the word, as rows of the agenda. -/
theorem serve_quiet (s : State) (pages : List Nat) : Quiet s (s.serve pages).state := by
  unfold State.serve
  simp only
  split
  · exact ⟨rfl, rfl⟩
  · exact .refl s

theorem issueAt_quiet {s u stop : State} {after : Instr → Bytes → Slot} (hu : Quiet s u) (hs : Quiet s stop) :
    Quiet s (issueAt u stop after).state := by
  unfold issueAt
  split
  · exact hs
  · split
    · exact hu.trans (serve_quiet ..)
    · split
      · exact hs
      · split
        · exact hs
        · split
          · exact hs
          · split
            · exact hu.trans (atIssue_quiet ..)
            · exact hu.trans (serve_quiet ..)

theorem issue_quiet (s : State) (c : Ctx) (after : State → Instr → Bytes → Slot) (bad : Slot) : Quiet s (issue s c after bad).state :=
  issueAt_quiet ⟨rfl, rfl⟩ ⟨rfl, rfl⟩

/-- An act of a plan touches no memory. -/
theorem act_quiet (s : State) (a : Act) : Quiet s (s.act a).state := by
  cases a with
  | focus n => exact focus_quiet s n
  | _ => exact ⟨rfl, rfl⟩

theorem beside_quiet (s : State) (next : Slot) : Quiet s (beside s next).state := by
  unfold beside
  simp only
  split
  · exact act_quiet (s.modCore fun k => { k with slot := next }) _
  · exact ⟨rfl, rfl⟩

theorem issueFrom_quiet {s : State} {sl : Slot} {t : Turn} (h : issueFrom s sl = some t) : Quiet s t.state := by
  have ite_quiet : ∀ {p : Prop} [Decidable p] {x : Turn} {y : Option Turn}, Quiet s x.state → (y = some t → Quiet s t.state) →
      (if p then some x else y) = some t → Quiet s t.state := by
    intro p _ x y hx hy h
    by_cases hp : p
    · rw [if_pos hp] at h; exact Option.some.inj h ▸ hx
    · rw [if_neg hp] at h; exact hy h
  have hS : issueFrom.fromS s = some t → Quiet s t.state :=
    ite_quiet (issue_quiet ..) (fun h => absurd h.symm (Option.some_ne_none _))
  have hC : issueFrom.fromC1 s = some t → Quiet s t.state := ite_quiet (issue_quiet ..) hS
  cases sl with
  | l => exact ite_quiet (issue_quiet ..) hC h
  | c1 => exact hC h
  | c2 ve pc => exact ite_quiet (issue_quiet ..) hS h
  | s => exact hS h
  | engine => exact absurd h.symm (Option.some_ne_none _)
  | landing => exact absurd h.symm (Option.some_ne_none _)
  | hold => exact absurd h.symm (Option.some_ne_none _)

theorem slotTurn_quiet (s : State) (sl : Slot) : Quiet s (slotTurn s sl).state := by
  have hb : ∀ sl, Quiet s ((issueFrom s sl).getD (beside s .landing)).state := by
    intro sl
    cases h : issueFrom s sl with
    | none => exact beside_quiet s .landing
    | some t => exact issueFrom_quiet h
  cases sl with
  | l =>
    show Quiet s (if s.core.frozen then beside s .hold else (issueFrom s .l).getD (beside s .landing)).state
    split
    · exact beside_quiet s .hold
    · exact hb .l
  | c1 => exact hb _
  | c2 ve pc => exact hb _
  | s => exact hb _
  | engine => exact beside_quiet s .landing
  | landing => exact Quiet.refl s
  | hold => exact Quiet.refl s

/-- Whatever the turn is, its state has the memory and the write log of the state before. -/
theorem turn_quiet (s : State) : Quiet s (turn s).state := by
  unfold turn
  split
  · exact .refl s
  · split
    · next r _ => exact act_quiet { s with agenda := r } _
    · split
      · next h => exact urgent_quiet h
      · split
        · exact ⟨rfl, rfl⟩
        · exact slotTurn_quiet s _

/-! ### Which turn it is -/

theorem turn_halted {s : State} (h : s.m.halted = true) : turn s = .idle s := by simp [turn, h]

theorem turn_row {s : State} {i : Instr} {r : List Act} (hm : s.m.halted = false) (h : s.agenda = .row i :: r) :
    turn s = .row i { s with agenda := r } := by
  unfold turn; rw [h, hm]; rfl

/-- With an empty agenda and nothing urgent it is the turn of the slot. -/
theorem turn_slot {s : State} (hm : s.m.halted = false) (ha : s.agenda = []) (hu : urgent s = none) (hc : caughtUp s.core = false) :
    turn s = slotTurn s s.core.slot := by
  unfold turn; rw [ha]; simp only [hm, hu, hc, Bool.false_eq_true, if_false]

/-- Nothing is served before a word without host-assisted mode and without a trace buffer. -/
theorem State.fetchMisses_none {s : State} (h : s.servesFirst = false) : s.fetchMisses = [] := by simp [State.fetchMisses, h]
theorem State.misses_none {s : State} (i : Instr) (h : s.servesFirst = false) : s.misses i = [] := by simp [State.misses, h]

theorem issueAt_runs {s stop : State} {after : Instr → Bytes → Slot} {i : Instr} {b rest : Bytes} (hp : s.past = false)
    (hf : s.fetch = some b) (hd : decode b = .ok (i, rest)) (hz : hazard s i = none) (hm : s.fetchMisses = [])
    (hn : s.misses i = []) :
    issueAt s stop after = .row i (s.atIssue i (after i b)) := by
  simp [issueAt, hp, hf, hd, hz, hm, hn]

theorem issueAt_undecodable {s stop : State} {after : Instr → Bytes → Slot} {b : Bytes} {e : DecodeError} (hp : s.past = false)
    (hf : s.fetch = some b) (hd : decode b = .error e) (hm : s.fetchMisses = []) :
    issueAt s stop after = .fault { fltIllegal with aux := pad b 16 } stop := by
  simp [issueAt, hp, hf, hd, hm]

theorem issueAt_past {s stop : State} {after : Instr → Bytes → Slot} (hp : s.past = true) :
    issueAt s stop after = .fault fltIllegal stop := by
  simp [issueAt, hp]

end Sys2Proof.Machine
end

