-- ==== Sys2Proof/Tests/Slice0.lean ====
section
/-! SUPPORT. Tests. The words and values are the spec's own examples where it gives one; the other words are laid out from its
encoding tables (spec/04 R71 to R82). Each theorem `witness_<Name>` shows states and operands that meet the hypotheses of the
statement `Obligations.<Name>`, clause by clause. -/

namespace Sys2Proof.Tests
set_option Elab.async false
open Sys2Proof Sys2Proof.Machine

/-! ### Operands -/

def g0 : Guard := ⟨false, 0, 0⟩
def d (n : BitVec 5) : Dst := ⟨n, false, 0⟩
def r (n : BitVec 5) : Src := .reg n
def el (v : BitVec 3) (i : BitVec 8) : VEl := ⟨v, i⟩
def vd (v : BitVec 3) (i : BitVec 8) : VDst := ⟨⟨v, i⟩, false, 0⟩
def vs (v : BitVec 3) (i : BitVec 8) : VSrc := .el ⟨v, i⟩
def rr (n a b : BitVec 5) : AluRR := ⟨g0, d n, r a, r b⟩
def ri (n a : BitVec 5) (v : BitVec 32) : AluRI := ⟨g0, d n, r a, v⟩
def da (n a : BitVec 5) : OpDA := ⟨g0, d n, r a⟩
def opA (a : BitVec 5) : OpA := ⟨g0, r a⟩
def opAB (a b : BitVec 5) : OpAB := ⟨g0, r a, r b⟩
def opD (n : BitVec 5) : OpD := ⟨g0, d n⟩
def imm (v : BitVec 32) : OpImm := ⟨g0, v⟩
def v1 (f : Fmt) : VOp1 := ⟨g0, vd 1 2, vs 1 0, 0, f, .rne⟩
def v2 (f : Fmt) : VOp2 := ⟨g0, vd 1 2, vs 1 0, vs 1 1, 0, f, .rne⟩
def v3 (f : Fmt) : VOp3 := ⟨g0, vd 1 2, vs 1 0, vs 1 1, vs 2 0, 0, f, .rne⟩

/-- Every word decodes to the instruction beside it. -/
def reads (l : List (IWord × Instr)) : Bool := l.all (fun p => decide (decodeWord p.1 = .ok p.2))

/-! ### Decoding: each constructor, by a word of the spec or one laid out from its tables -/

theorem test_decode_integer : reads [
    (0x001000013015013000000000, .add (rr 19 21 19)),
    (0x101000005006000000000005, .addImmediate (ri 5 6 5)),
    (0x002000005014018000000000, .sub (rr 5 20 24)), (0x102000005014000000000007, .subImmediate (ri 5 20 7)),
    (0x003000005006007000000000, .mul (rr 5 6 7)), (0x10300001B00E000000000018, .mulImmediate (ri 27 14 24)),
    (0x004000005006027000000000, .mulh true (rr 5 6 7)), (0x104000005006000000000003, .mulhImmediate false (ri 5 6 3)),
    (0x005000005006027000000000, .div true (rr 5 6 7)), (0x105000005006020000000003, .divImmediate true (ri 5 6 3)),
    (0x006000005006027000000000, .rem true (rr 5 6 7)), (0x106000005006000000000003, .remImmediate false (ri 5 6 3)),
    (0x007000005006007000000000, .and (rr 5 6 7)), (0x10700000D00A000000000080, .andImmediate (ri 13 10 0x80)),
    (0x008000005006007000000000, .andn (rr 5 6 7)), (0x108000005006000000000001, .andnImmediate (ri 5 6 1)),
    (0x009000005006007000000000, .or (rr 5 6 7)), (0x109000006006000000003800, .orImmediate (ri 6 6 0x3800)),
    (0x00A000005006007000000000, .xor (rr 5 6 7)), (0x10A0000050060000FFFFFFFF, .xorImmediate (ri 5 6 0xFFFFFFFF))] = true := by
  decide
theorem test_decode_bits : reads [
    (0x00B000005006007000000000, .shl (rr 5 6 7)), (0x10B000007007000000000006, .shlImmediate (ri 7 7 6)),
    (0x00C000005006007000000000, .shr false (rr 5 6 7)), (0x10C00000900902000000000C, .shrImmediate true (ri 9 9 12)),
    (0x00D000005006007000000000, .rot (rr 5 6 7)), (0x10D000005006000000000008, .rotImmediate (ri 5 6 8)),
    (0x00E000005006000000000000, .clz (da 5 6)), (0x00F000005006000000000000, .popc (da 5 6)),
    (0x010000005006007000000000, .bext (rr 5 6 7)), (0x110000005006000000000804, .bextImmediate (ri 5 6 0x804)),
    (0x011000005006007000000000, .bins (rr 5 6 7)), (0x111000005006000000001008, .binsImmediate (ri 5 6 0x1008)),
    (0x01200001A01903B000000000, .cmp .ne (rr 26 25 27)), (0x1120000050060800FFFFFFFF, .cmpImmediate .ltu (ri 5 6 0xFFFFFFFF)),
    (0x013000005006007000000000, .sel (rr 5 6 7)),
    (0x014000005006027000000000, .min true (rr 5 6 7)), (0x114000005006000000000009, .minImmediate false (ri 5 6 9)),
    (0x015000005006007000000000, .max false (rr 5 6 7)), (0x115000005006020000000000, .maxImmediate true (ri 5 6 0)),
    (0x016000007000000000040040, .ldi ⟨g0, d 7, 0x40040⟩), (0x017000006000000000013000, .addpc ⟨g0, d 6, 0x13⟩)] = true := by
  decide
theorem test_decode_float : reads [
    (0x201000005006007000000000, .fadd ⟨g0, d 5, r 6, r 7, .fp32, .rne⟩),
    (0x202000005006007000200000, .fmul ⟨g0, d 5, r 6, r 7, .fp16, .rne⟩),
    (0x203000005006007043100000, .ffma 8 ⟨g0, d 5, r 6, r 7, .bf16, .rup⟩),
    (0x204000005006007000001000, .fcmp .lt ⟨g0, d 5, r 6, r 7, .fp32, .rne⟩),
    (0x2050000050060000010C0000, .fcvt ⟨g0, d 5, r 6, .fp32, .int32, .rtz⟩)] = true := by decide
theorem test_decode_memory : reads [
    (0x401000004006000005000000, .ld ⟨g0, d 4, r 6, .b32, .scratch, 0, false⟩),
    (0x40300001801300002E000000, .lda .gang ⟨g0, d 24, r 19, .b64, .global, 0, false⟩),
    (0x402000000009008006000000, .st ⟨g0, r 9, r 8, .b64, .global, 0⟩),
    (0x404000000007006036040000, .stl .gang ⟨g0, r 7, r 6, .b64, .global, 64⟩),
    (0x40500000500400607E008000, .atom .add ⟨g0, d 5, r 4, r 6, .device, .acqRel, .b64, .global, 8⟩),
    (0x40600000500400602E000007, .cas 7 ⟨g0, d 5, r 4, r 6, .gang, .acquire, .b64, .global, 0⟩),
    (0x407000000000000030000000, .fence g0 .release .gang), (0x408000000004000000000000, .monitor (opA 4) 0),
    (0x409000005000006000000000, .mwait g0 (d 5) (r 6)), (0x40A00001A012000000000000, .bsync .or (da 26 18)),
    (0x40B000013005018000000000, .send ⟨g0, 19, r 5, r 24⟩), (0x40C000000012000000000001, .waitc .tmx (opA 18)),
    (0x40D000008000000000000002, .tlrd .tco false (opD 8)), (0x40E000017016007000000000, .ringi (rr 23 22 7)),
    (0x40F00000F000000000000000, .awaitf 0 (opD 15)), (0x410000000000000000000000, .rels g0 0),
    (0x411000004011018000000000, .mput g0 (d 4) (r 17) 24), (0x412000001011000000000000, .mtake (da 1 17)),
    (0x413000008004000000000000, .mstat (da 8 4)), (0x414000005004006000000000, .mctl (rr 5 4 6)),
    (0x415000000004005000000001, .tagset (opAB 4 5) .global 0 1), (0x416000005004000000000000, .tagget (da 5 4) .global 0),
    (0x417000006004005000000000, .ptrtag (rr 6 4 5)), (0x418000000004000000000001, .cflush (opA 4) .global 0 true)] = true := by
  decide
theorem test_decode_control : reads [
    (0x6011800000000000FFFFFFD0, .jmp ⟨⟨false, 6, 0⟩, 0xFFFFFFD0⟩), (0x60200000001E000000000000, .jmpr (opA 30)),
    (0x60300001E000000000000060, .call ⟨g0, d 30, 0x60⟩), (0x60400000001E000000000000, .ret (opA 30)),
    (0x605000000000000000000000, .exit g0), (0x606240000000000000000001, .abort ⟨⟨false, 9, 0⟩, 1⟩),
    (0x607000000000000000000000, .nop (imm 0)), (0x60800000A00000000FFF0000, .tstep 10 false (r 0) 0xFFF0000),
    (0x609980000000000000000051, .trap ⟨⟨true, 6, 0⟩, 0x51⟩), (0x60A000000000000000000021, .svc (imm 0x21)),
    (0x60B000000000000000000000, .eret g0 false), (0x60C000000000000000000007, .bkpt (imm 7)),
    (0x60D00001C000000000000030, .sread (opD 28) 0x30), (0x60E000000005000000000040, .swrite (opA 5) 0x40),
    (0x60F000000004000000000001, .tlbi (opAB 4 0) 1)] = true := by decide
theorem test_decode_vector : reads [
    (0x801000102100000000000000, .vabs (v1 .fp32)),
    (0x802000102100101048000740, .vadd { v2 .int16 with mask := 9 }), (0x803000102100101000000300, .vand (v2 .int32)),
    (0x804000102006000000000000, .vbcast g0 (vd 1 2) (r 6) 0 .fp32), (0x805000102100101000000304, .vcmp (.int .ltu) (v2 .int32)),
    (0x806000300100000000001003, .vcvt 1 .e4m3 ⟨g0, vd 3 0, vs 1 0, 0, .fp32, .rne⟩), (0x807000102100000000000000, .vexp2 (v1 .fp32)),
    (0x808000102100101000200000, .vfma (v3 .fp32)), (0x809000200016100000000000, .vgath g0 (vd 2 0) (r 22) (vs 1 0) 0 .fp32),
    (0x80A000100016000000000002, .vld g0 (vd 1 0) (r 22) 2 0 .fp32), (0x80B000102100000000000480, .vlog2 (v1 .fp16)),
    (0x80C000102100101000000301, .vmax true (v2 .int32)), (0x80D000102100101000000000, .vmin false (v2 .fp32)),
    (0x80E000102100000048000740, .vmov { v1 .int16 with mask := 9 }), (0x80F000102100101001000000, .vmul { v2 .fp32 with rnd := .rtz }),
    (0x810000102100000000000440, .vneg (v1 .bf16))] = true := by decide
theorem test_decode_vector_more : reads [
    (0x811000102100101000000300, .vor (v2 .int32)), (0x812000102100101000000000, .vperm (v2 .fp32)),
    (0x813000102100000000000000, .vrcp (v1 .fp32)), (0x814000005100000000000000, .vred .add false g0 (d 5) (vs 1 0) 0 .fp32 .rne),
    (0x815000102100000000000000, .vrsq (v1 .fp32)), (0x816000102100101005000000, .vscale { v2 .fp32 with rnd := .sr }),
    (0x817000000016101000100000, .vscat g0 (r 22) (vs 1 1) (vs 1 0) 0 .fp32), (0x818000102100101000200000, .vsel (v3 .fp32)),
    (0x819000102100101000000740, .vshl (v2 .int16)), (0x81A000102100101000000301, .vshr true (v2 .int32)),
    (0x81B000000016100000000002, .vst g0 (r 22) (vs 1 0) 2 0 .fp32), (0x81C000102100101000000480, .vsub (v2 .fp16)),
    (0x81D000102100101000000300, .vxor (v2 .int32)), (0x81E000005018000000000001, .view g0 5 (r 24) .vec .fp32),
    (0x81F000600500000000000440, .ttrn g0 (el 6 0) false (el 5 0) .bf16)] = true := by decide
theorem test_decode_engine : reads [
    (0xA01000016014015000000000, .copy ⟨g0, 22, r 20, r 21⟩), (0xA0200000000300E000004010, .wbld (opAB 3 14) 16400),
    (0xA0300000000500F000000000, .mma (opAB 5 15)), (0xA04000000400000000000001, .aclr g0 (el 4 0) 1),
    (0xA05000500400000004000040, .adrain g0 (el 5 0) (el 4 0) .bf16 .rna), (0xA06000016000000000010001, .salloc g0 22 false 16 false true),
    (0xA07000000016000000000000, .sfree (opA 22)), (0xA08000000016007000000000, .wind (opAB 22 7)),
    (0xA09000005016000000000000, .life g0 5 false (r 22)), (0xA0A000000016008000010000, .smap (opAB 22 8) 0x10000),
    (0xA0B000000016000000000000, .sunmap (opA 22)), (0xA0C000005016006000000000, .lock (rr 5 22 6)),
    (0xA0D000000016006000000000, .unlock (opAB 22 6)), (0xC00000000000000000000000, .emulationTrap 0)] = true := by decide

/-! ### Well-formedness: a term that each check refuses -/

theorem test_wf_refuses :
    (Instr.add { rr 5 6 7 with g := ⟨false, 0, 3⟩ }).check = some .guard ∧
    (Instr.add { rr 5 6 7 with a := .latch 0 }).check = some .latchZero ∧
    (Instr.fadd ⟨g0, d 5, r 6, r 7, .int8, .rne⟩).check = some .format ∧
    (Instr.fcmp .eq ⟨g0, d 5, r 6, r 7, .fp32, .rup⟩).check = some .rounding ∧
    (Instr.mtake (da 30 4)).check = some .destination ∧ (Instr.tstep 27 false (r 0) 0).check = some .destination ∧
    (Instr.mput g0 (d 4) (r 17) 25).check = some .pair ∧
    (Instr.fence g0 .relaxed .gang).check = some .order ∧
    (Instr.jmp (imm 2)).check = some .immediate ∧ (Instr.tstep 10 false (r 0) 1).check = some .immediate ∧
    (Instr.tagset (opAB 4 5) .scratch 0 1).check = some .count ∧
    (Instr.salloc g0 22 false 0 false false).check = some .size ∧ (Instr.smap (opAB 22 8) 255).check = some .size ∧
    (Instr.vmax true (v2 .fp32)).check = some .modifier ∧
    (Instr.vcvt 4 .e4m3 (v1 .fp32)).check = some .part ∧
    Instr.fadeTick.check = some .event := by decide

/-- CLS 7, OP 0, a nonzero immediate of a register form, x0 as guard with a bit, a latch as register, JMP by 2, SUBOP 9 of ATOM. -/
theorem test_decode_refuses :
    ([0xE00000000000000000000000, 0x000000000000000000000000, 0x001000013015013000000001, 0x001003013015013000000000,
        0x001000013015813000000000, 0x601000000000000000000002, 0x40500000500400607E008009] : List IWord).all
      (fun w => (decodeWord w).toOption.isNone) = true := by decide

/-! ### Small states -/

def page (v f : Nat) : TlbEntry := { placedPage 0 v f with w := true, tg := true }

/-- A merged task at logical PC 0; virtual pages 0 to 3 stand in frames 1 to 4. -/
def m0 : State :=
  State.reset.modCore (fun k => { k with
    task := some placedTask, merged := true, cur := .C, slot := .c1, mode := .u, tlb := [page 0 1, page 1 2, page 2 3, page 3 4] })

/-- The same task in slices, with nothing in flight. -/
def q0 : State := m0.modCore (fun k => { k with merged := false, cur := .C })

/-- A hub core. -/
def h0 : State := { State.reset with core := { Core.reset 768 with cur := .C } }

/-- s with registers of the context at issue set. -/
def set (s : State) (l : List (BitVec 5 × Word)) : State := s.modHere (fun k => l.foldl (fun k p => k.put p.1 p.2) k)

theorem ready {s : State} (hs : s.wlog = []) (hi : s.core.interlocked = true) {i : Instr} (h : i.check = none) : Ready i g0 s :=
  ⟨hs, h, rfl, .inl hi⟩

theorem readyAll {s : State} (hs : s.wlog = []) (hi : s.core.interlocked = true) {l : List Instr}
    (h : l.all (fun i => i.check.isNone) = true) : ∀ i ∈ l, Ready i g0 s :=
  fun i hm => ready hs hi (by simpa using List.all_eq_true.1 h i hm)

def fine {ε α : Type} : Except ε α → Bool
  | .ok _ => true
  | .error _ => false

theorem ok_of {ε α : Type} : {e : Except ε α} → fine e = true → ∃ a, e = .ok a
  | .ok a, _ => ⟨a, rfl⟩

theorem ok2_of {ε α β : Type} : {e : Except ε (α × β)} → fine e = true → ∃ a b, e = .ok (a, b)
  | .ok (a, b), _ => ⟨a, b, rfl⟩

/-! ### Witnesses: words of class S and F -/

theorem witness_IntegerWordsComplete : ∀ i ∈ [Instr.add (rr 5 6 7), .sub (rr 5 6 7), .mul (rr 5 6 7), .mulh true (rr 5 6 7),
    .mulh false (rr 0 31 0), .div true (rr 5 6 7), .rem true (rr 5 6 7), .and (rr 5 6 7), .andn (rr 5 6 7), .or (rr 5 6 7),
    .xor (rr 5 6 7), .shl (rr 5 6 7), .shr true (rr 5 6 7), .rot (rr 5 6 7), .bext (rr 5 6 7), .bins (rr 5 6 7), .cmp .ltu (rr 5 6 7),
    .sel (rr 5 6 7), .min true (rr 5 6 7), .max true (rr 5 6 7), .ptrtag (rr 5 6 7)], Ready i g0 m0 :=
  readyAll rfl rfl (by decide)
theorem witness_ImmediateWordsComplete : ∀ i ∈ [Instr.addImmediate (ri 5 6 7), .subImmediate (ri 5 6 7), .mulImmediate (ri 5 6 7),
    .mulhImmediate true (ri 5 6 7), .divImmediate true (ri 5 6 0), .remImmediate true (ri 5 6 0), .andImmediate (ri 5 6 7),
    .andnImmediate (ri 5 6 7), .orImmediate (ri 5 6 7), .xorImmediate (ri 5 6 7), .shlImmediate (ri 5 6 63), .shrImmediate true (ri 5 6 63),
    .rotImmediate (ri 5 6 64), .bextImmediate (ri 5 6 7), .binsImmediate (ri 5 6 7), .cmpImmediate .ge (ri 5 6 7),
    .minImmediate true (ri 5 6 7), .maxImmediate true (ri 5 6 7)], Ready i g0 m0 := readyAll rfl rfl (by decide)
theorem witness_OneSourceWordsComplete : (∀ i ∈ [Instr.clz (da 5 6), .popc (da 5 6), .ldi ⟨g0, d 5, 7⟩, .addpc ⟨g0, d 5, 7⟩],
      Ready i g0 m0 ∧ Ready i g0 h0) ∧ m0.place ≠ .flat ∧ m0.core.task = some placedTask ∧ h0.place = .flat :=
  ⟨fun i h => ⟨readyAll rfl rfl (by decide) i h, readyAll rfl rfl (by decide) i h⟩, by decide, rfl, by decide⟩
theorem witness_BitWordValues : ∀ i ∈ [Instr.bext (rr 5 6 7), .bextImmediate (ri 5 6 0), .bins (rr 5 6 7), .binsImmediate (ri 5 6 0x3F3F)],
    Ready i g0 m0 := readyAll rfl rfl (by decide)
theorem witness_FloatWordsComplete : ∀ i ∈ [Instr.fadd ⟨g0, d 5, r 6, r 7, .fp32, .sr⟩, .fmul ⟨g0, d 5, r 6, r 7, .fp16, .dyn⟩,
    .ffma 8 ⟨g0, d 5, r 6, r 7, .bf16, .rup⟩, .fcmp .un ⟨g0, d 5, r 6, r 7, .fp32, .rne⟩, .fcvt ⟨g0, d 5, r 6, .fp32, .int64, .rtz⟩],
    Ready i g0 m0 := readyAll rfl rfl (by decide)
theorem witness_DivisionCases : (∀ i ∈ [Instr.div true (rr 5 6 7), .rem false (rr 5 6 7), .divImmediate true (ri 5 6 0xFFFFFFFF),
    .remImmediate true (ri 5 6 0)], Ready i g0 (set m0 [(6, 0x8000000000000000)])) ∧ (set m0 [(6, 5)]).src (r 6) = 5 ∧
    (0xFFFFFFFF : BitVec 32).signExtend 64 = (-1 : Word) := ⟨readyAll rfl rfl (by decide), by decide, by decide⟩
theorem witness_ExampleWords : (∀ i ∈ [Instr.sub (rr 5 20 24), .subImmediate (ri 5 20 1), .andn (rr 5 6 7), .andnImmediate (ri 5 6 7),
    .shl (rr 7 7 6), .shlImmediate (ri 7 7 6), .popc (da 5 6), .clz (da 5 6)], Ready i g0 m0) ∧
    (∃ a : Word, a.getLsbD 63 = true ∧ ∀ j, 63 < j → a.getLsbD j = false) ∧
    (0x10F000000000000000000000 : IWord).extractLsb' 84 9 = 0x10F ∧ (0x00F000005006001000000000 : IWord).extractLsb' 36 12 ≠ 0 :=
  ⟨readyAll rfl rfl (by decide), ⟨0x8000000000000000, by decide, fun j h => BitVec.getLsbD_of_ge _ _ (by omega)⟩, by decide, by decide⟩

theorem witness_ResultsLand : m0.core.interlocked = true ∧ q0.core.interlocked = false ∧ (vd 1 2).wbs = false ∧ 8 ≤ Fmt.fp32.bits ∧
    (List.replicate 64 ((some 1, 0) : Option Nat × BitVec 5)).length = lanes .fp32 ∧
    (List.replicate 64 ((none, 0) : Option Nat × BitVec 5))[63]? = some (none, 0) ∧ 3 < laneBytes .fp32 := by decide

/-! ### Witnesses: memory words -/

def ld64 (sp : Space) : LoadOp := ⟨g0, d 5, r 6, .b64, sp, 0xFF8, true⟩
def st64 (sp : Space) : StoreOp := ⟨g0, r 6, r 7, .b64, sp, 0xFF8⟩
def at64 (sp : Space) : AtomOpF := ⟨g0, d 5, r 6, r 7, .device, .acqRel, .b64, sp, 0xFF8⟩

/-- A private allocation, id 1, tag 3, 64 KiB at 0; a backed one, id 2, tag 0, with a window on virtual page 1. -/
def al1 : Alloc :=
  { id := 1, base := 0, size := 65536, backed := false, tag := 3, expiry := 1600, expired := false, layout := 0, data := [], gen := 0,
    zero := true, cleared := [], window := none, lines := [], ahead := [], made := 0, freed := none, undo := [], sweep := 0, parked := none }
def al2 : Alloc := { al1 with id := 2, base := 65536, size := 4096, backed := true, tag := 0, window := some (0x1000, 8192) }
def p1 : Word := 0x3000000001000000
def p2 : Word := 0x0000000002000000

/-- m0 with both allocations, and in x6 a pointer whose target lies 8 bytes lower. -/
def ms (p : Word) (l : List (BitVec 5 × Word)) : State := set (m0.modCore (fun k => { k with allocs := [al1, al2] })) ((6, p + 8) :: l)

/-- The target that the checks of a space give; what they leave. -/
def hits (s : State) (sp : Space) (p : Word) (n : Nat) (wr : Bool) : Bool := fine (checkSpace s s.core.cur sp p n { wr := wr } s.who none 0)

theorem witness_LoadAndStoreComplete : ∀ c ∈ [(Space.global, (0x1000 : Word)), (.scratch, p1), (.scratch, p2)],
    let s := ms c.2 []
    Ready (.ld (ld64 c.1)) g0 s ∧ Ready (.st (st64 c.1)) g0 s ∧ s.core.hub = false ∧ s.core.inHandler = false ∧
    mAddr s c.1 (s.src (r 6)) 0xFF8 = .ok c.2 ∧ hits s c.1 c.2 8 false = true ∧ hits s c.1 c.2 8 true = true ∧
    watched s c.1 c.2 8 false = false ∧ watched s c.1 c.2 8 true = false := by
  intro c hc s
  exact ⟨ready rfl rfl (by rfl), ready rfl rfl (by rfl), by revert c; decide +kernel⟩

theorem bind_ok {ε α β : Type} {e : Except ε α} {f : α → Except ε β} (h : fine (e >>= f) = true) :
    ∃ a, e = .ok a ∧ fine (f a) = true := by
  cases e with
  | error x => cases h
  | ok a => exact ⟨a, rfl, h⟩

/-- The pieces of a global check. -/
def somePiece (e : Except Stop (List Piece × State)) : Bool :=
  match e with
  | .ok (_ :: _, _) => true
  | _ => false

theorem piece_of {e : Except Stop (List Piece × State)} (h : somePiece e = true) : ∃ q ps s1, e = .ok (q :: ps, s1) := by
  unfold somePiece at h
  split at h
  · exact ⟨_, _, _, rfl⟩
  · cases h

theorem drained {s : State} (h : s.core.interlocked = true) : Drained s := .inl h

theorem journals {s : State} (h : s.journalHit = none ∧ s.core.journal.length < Config.journalMax) : Journals s :=
  .inr ⟨h.1, .inl h.2⟩

theorem unheld {s : State} (h : s.idemReady = true ∧ s.core.interlocked = true) : Unheld s := fun _ => ⟨h.1, .inl h.2⟩

def acquiring : Sync := ⟨some .gang, none⟩
def releasing : Sync := ⟨none, some .gang⟩

theorem witness_AcquireAndReleaseComplete : ∀ c ∈ [(Space.global, (0x1000 : Word)), (.scratch, p1)],
    let s := ms c.2 []
    Ready (.lda .gang (ld64 c.1)) g0 s ∧ Ready (.stl .gang (st64 c.1)) g0 s ∧ Journals s ∧
    s.core.hub = false ∧ s.core.inHandler = false ∧ mAddr s c.1 (s.src (r 6)) 0xFF8 8 = .ok c.2 ∧
    (∃ bs s1, memRead s c.1 c.2 8 true (some acquiring) 0 = .ok (bs, s1)) ∧
    (∃ s1, memWrite s c.1 c.2 (leBytes 8 (s.src (r 7)).toNat) true (some releasing) 0 = .ok s1) := by
  intro c hc s
  exact ⟨ready rfl rfl (by rfl), ready rfl rfl (by rfl), journals (by revert c; decide +kernel), rfl, rfl, by revert c; decide +kernel,
    ok2_of (by revert c; decide +kernel), ok_of (by revert c; decide +kernel)⟩

/-- What ATOM.ADD and CAS (with x7 for both operands) make of the old bytes. -/
def adds (s : State) (o : Bytes) : Option Bytes := some (leBytes 8 (atomValue .add 64 (leNat o) ((s.src (r 7)).toNat % 2 ^ 64)))
def swaps (s : State) (o : Bytes) : Option Bytes :=
  if leNat o = (s.reg 7).toNat % 2 ^ 64 then some (leBytes 8 ((s.src (r 7)).toNat % 2 ^ 64)) else none

theorem witness_AtomicsComplete : ∀ c ∈ [(Space.global, (0x1000 : Word)), (.scratch, p1)],
    let s := ms c.2 [(7, 0)]
    let sy := syncOf .acqRel .device
    Unheld s ∧ recorded s = .none ∧ s.core.inHandler = false ∧ mAddr s c.1 (s.src (r 6)) 0xFF8 8 = .ok c.2 ∧
    Ready (.atom .add (at64 c.1)) g0 s ∧ Ready (.cas 7 (at64 c.1)) g0 s ∧
    (∃ p, memAtomic s c.1 c.2 8 sy (adds s) = .ok p ∧ fine (recordEntry (p.2.notifyStore c.1 c.2 8
      (w64 (atomValue .add 64 (leNat p.1) ((s.src (r 7)).toNat % 2 ^ 64)))) (some (w64 (leNat p.1))) 0) = true) ∧
    (∃ p, memAtomic s c.1 c.2 8 sy (swaps s) = .ok p ∧ fine (recordEntry (if leNat p.1 = (s.reg 7).toNat % 2 ^ 64 then
      p.2.notifyStore c.1 c.2 8 (w64 ((s.src (r 7)).toNat % 2 ^ 64)) else p.2) (some (w64 (leNat p.1))) 0) = true) := by
  intro c hc s sy
  exact ⟨unheld (by revert c; decide +kernel), by revert c; decide +kernel, by revert c; decide +kernel, by revert c; decide +kernel,
    ready rfl rfl (by rfl), ready rfl rfl (by rfl), bind_ok (by revert c; decide +kernel), bind_ok (by revert c; decide +kernel)⟩

theorem witness_AtomicAndBarrierOperations : 0 < 64 ∧ 2 ^ 63 < 2 ^ 64 ∧
    (0x405000000000000000000009 : IWord).extractLsb' 93 3 = 2 ∧ (0x405000000000000000000009 : IWord).extractLsb' 84 9 = 5 ∧
    9 ≤ ((0x405000000000000000000009 : IWord).extractLsb' 0 12).toNat := by decide

/-- A gang node of one member, which runs the placed task, over one tile. -/
def node0 : Node :=
  { id := 0, q := 0, pkt := 0, order := 0, desc := 0, cmdp := 0, gang := true, cores := 1, mods := 1, root := 0, tenant := 0, prio := 0, kdesc := 0, idesc := 0,
    image := placedTask.img, kflags := 0, handler := Config.allOnes, emul := Config.allOnes, jrnl := 0,
    params := { count := List.replicate 6 1, cbase := List.replicate 6 0, cstep := List.replicate 6 0 }, opnds := [], st := .running, began := none, ended := none,
    journals := none, entered := 0,
    headSince := none, members := [⟨0, 0, 0, none, none⟩], next := 0, returned := [], results := [], status := 0, sight := Sight.new }
def withNode (n : Node) (s : State) : State := { s with m := { s.m with nodes := [n] } }

/-- Two members at their first BSYNC, which name different ops: in either order of their indices. -/
theorem witness_AtomicAndBarrierOperations_mixed : ∀ i ∈ [(0, 1), (1, 0)],
    let a : Arrival := { k := 1, op := .add, val := 3, entries := [], evicted := false }
    let b : Arrival := { a with op := .min, val := 5 }
    let n : Node := { node0 with members := [⟨i.1, 0, 0, none, some a⟩, ⟨i.2, 1, 1, none, some b⟩] }
    n.mods = 1 ∧ n.staying = [⟨i.1, 0, 0, none, some a⟩, ⟨i.2, 1, 1, none, some b⟩] ∧ a.k = b.k ∧
      (n.gather 1 0).map (·.val) = some (if i.1 = 0 then 8 else 3) := by decide

/-- The checks of a word that only names a byte. -/
def named (s : State) (p : Word) : Except Stop (List Piece × State) :=
  checkGlobal s s.root p 1 { wr := false, poison := false, race := false } none none 0
def flushed (s : State) (p : Word) (n : Nat) (wr : Bool) : Except Stop (List Piece × State) :=
  checkGlobal s s.root p n { wr := wr, poison := false, tag := false, race := false } none none 0

theorem witness_FenceAndMonitorComplete :
    let s := ms 0x1000 [(7, 100)]
    let armed (b : Bool) : State := s.modHere (fun k => { k with monitor := some ⟨32, b⟩ })
    let late : State := { (armed false).modHere (fun k => { k with wait := some (.mwait g0 (d 5) (r 7), 0) }) with
      m := { s.m with now := 100 } }
    let cut := s.modCore (fun k => { k with cutWait := true })
    (∀ o ∈ [Order.acquire, .release, .acqRel], Ready (.fence g0 o .gang) g0 s) ∧
    Ready (.monitor (opA 6) 0) g0 s ∧ mAddr s .global (s.src (r 6)) 0 = .ok 0x1008 ∧ (∃ q ps s1, named s 0x1008 = .ok (q :: ps, s1)) ∧
    (∀ u ∈ [s, armed true, late, cut], ReadyOnCore (.mwait g0 (d 5) (r 7)) g0 u ∧ Drained u ∧ Journals u) ∧
    cut.cutHere = true ∧ s.cutHere = false ∧ (armed true).cutHere = false ∧ late.cutHere = false ∧ late.here.draining = false ∧
    s.here.monitor = none ∧ (armed true).here.monitor = some ⟨32, true⟩ ∧ late.here.monitor = some ⟨32, false⟩ ∧
    late.here.wait = some (.mwait g0 (d 5) (r 7), 0) ∧ late.src (r 7) ≠ 0 ∧ (late.src (r 7)).toNat ≤ late.m.now - 0 := by
  intro s armed late cut
  refine ⟨?_, ready rfl rfl (by rfl), by decide +kernel, piece_of (by decide +kernel), ?_, by decide +kernel⟩
  · intro o ho
    exact ready rfl rfl (by revert o; decide)
  · intro u hu
    simp only [List.mem_cons, List.mem_nil_iff, or_false] at hu
    rcases hu with rfl | rfl | rfl | rfl <;>
      exact ⟨⟨ready rfl rfl (by rfl), by rfl, by rfl⟩, drained rfl, journals (by decide +kernel)⟩

theorem witness_TagAndFlushWordsComplete :
    let s := ms 0x1000 [(8, p1), (9, 0x1000)]
    (∀ i ∈ [Instr.cflush (opA 9) .global 0 true, .cflush (opA 8) .scratch 0 true, .tagset (opAB 9 7) .global 0 1,
      .tagset (opAB 8 7) .scratch 0 0, .tagget (da 5 9) .global 0, .tagget (da 5 8) .scratch 0], Ready i g0 s) ∧ s.core.hub = false ∧ s.core.inHandler = false ∧
    mAddr s .global (s.src (r 9)) 0 = .ok 0x1000 ∧ mAddr s .scratch (s.src (r 8)) 0 = .ok p1 ∧ (0x1000 : Word).toNat % 32 = 0 ∧
    (∃ q ps s1, flushed s 0x1000 1 false = .ok (q :: ps, s1)) ∧ (∃ a, checkScratch12 s.core p1 1 0 false = .ok a) ∧
    (∃ l s1, flushed s 0x1000 64 true = .ok (l, s1)) ∧ ((flushed s 0x1000 64 true).toOption.map (fun x => x.1.map (·.entry.tg))) = some [true] := by
  intro s
  exact ⟨readyAll rfl rfl (by decide), rfl, rfl, by decide +kernel, by decide +kernel, by decide, piece_of (by decide +kernel),
    ok_of (by decide +kernel), ok2_of (by decide +kernel), by decide +kernel⟩

theorem witness_LoadAndStoreFrame :
    let s := ms 0x1000 [(7, 0x1122334455667788)]
    Inv s ∧ (∃ t, exec (.ld (ld64 .global)) s = .next t) ∧ (∃ t, exec (.st (st64 .global)) s = .next t) ∧
    (match checkSpace s s.core.cur .global 0x1000 8 { wr := true } s.who none 0 with
      | .ok (.glob [q], _) => decide (q.pa = 0x2000)
      | _ => false) = true := by
  intro s
  have h (i : Instr) : ∃ t, exec i s = .next t := by
    obtain ⟨t, h⟩ := exec_ends i s
    exact ⟨_, h⟩
  exact ⟨⟨by decide +kernel, by decide +kernel⟩, h _, h _, by decide +kernel⟩

/-- A store to a private allocation, one through a window, one over two pages, and a handler's store to its record. -/
theorem witness_LoadAndStoreFrame_stores :
    let pend : Pend := { why := .fault, flt := { code := 0x10, addr := 0, lane := 0, aux := [] }, step := 0, ord := 0, lpc := 24, occ := 0, slice := 3, spc := 0,
                         eng := none, merged := true, early := false, time := 0 }
    let h := (ms 0x240 []).modCore (fun k => { k with phase := .handler pend })
    (∀ c ∈ [(ms p1 [], Space.scratch, p1), (ms p2 [], .scratch, p2), (ms 0x1FFC [], .global, 0x1FFC), (h, .global, 0x240)],
      Inv c.1 ∧ Ready (.st (st64 c.2.1)) g0 c.1 ∧ c.1.core.hub = false ∧ mAddr c.1 c.2.1 (c.1.src (r 6)) 0xFF8 = .ok c.2.2 ∧
      hits c.1 c.2.1 c.2.2 8 true = true ∧ watched c.1 c.2.1 c.2.2 8 true = false ∧ (∃ t, exec (.st (st64 c.2.1)) c.1 = .next t)) ∧
    h.core.inHandler = true ∧ inRecord h 0x240 8 = true := by
  intro pend h
  refine ⟨?_, by decide +kernel, by decide +kernel⟩
  intro c hc
  refine ⟨⟨by revert c; decide +kernel, by revert c; decide +kernel⟩, ready (by revert c; decide +kernel) (by revert c; decide +kernel) (by revert c; decide +kernel),
    by revert c; decide +kernel, by revert c; decide +kernel, by revert c; decide +kernel, by revert c; decide +kernel, ?_⟩
  obtain ⟨t, h⟩ := exec_ends (.st (st64 c.2.1)) c.1
  exact ⟨_, h⟩

/-! ### Witnesses: vector and engine words -/

/-- Every view register holds `v`; x6 holds a scratch pointer, x9 the mask of lane 0, in the state with both allocations. -/
def mv (v : Word) : State :=
  (ms p1 [(9, 1), (22, p1)]).modHere (fun k => { k with view := Vector.replicate 8 v })
def vec : Word := 0x100000
def tile : Word := 0x200000
def accs : Word := 0x300000

theorem witness_VectorWordsComplete :
    (∀ i ∈ [Instr.vabs (v1 .fp32), .vneg (v1 .bf16), .vmov (v1 .int16), .vand (v2 .int32), .vor (v2 .int32), .vxor (v2 .int32),
      .vshl (v2 .int16), .vshr true (v2 .int32), .vperm (v2 .fp32), .vsel (v3 .fp32), .vmax true (v2 .int32), .vmin false (v2 .fp32),
      .vcmp (.int .ltu) (v2 .int32), .vcmp (.flt .un) (v2 .fp32)], Ready i g0 (mv vec)) ∧
    InView (mv vec) [el 1 2, el 1 0, el 1 1, el 2 0] ∧ Sound (mv vec) 256 [el 1 0, el 1 1, el 2 0] ∧ (mv vec).core.hub = false := by
  exact ⟨readyAll rfl rfl (by decide), by unfold InView; decide +kernel, by unfold Sound; decide +kernel, rfl⟩
theorem witness_RoundingVectorWordsComplete :
    (∀ i ∈ [Instr.vexp2 (v1 .fp32), .vlog2 (v1 .fp16), .vrcp (v1 .fp32), .vrsq (v1 .bf16), .vfma (v3 .fp32), .vscale (v2 .fp32),
      .vadd (v2 .int16), .vadd (v2 .fp32), .vsub (v2 .fp16), .vsub (v2 .int32), .vmul (v2 .int32), .vmul (v2 .bf16)], Ready i g0 (mv vec)) ∧
    InView (mv vec) [el 1 2, el 1 0, el 1 1, el 2 0] ∧ Sound (mv vec) 256 [el 1 0, el 1 1, el 2 0] ∧ (mv vec).core.hub = false :=
  ⟨readyAll rfl rfl (by decide), by unfold InView; decide +kernel, by unfold Sound; decide +kernel, rfl⟩
theorem witness_OtherVectorWordsComplete :
    (∀ i ∈ [Instr.vbcast g0 (vd 1 2) (r 6) 0 .fp32, .vcvt 3 .fp32 (v1 .e4m3), .vcvt 1 .e4m3 (v1 .fp32),
      .vred .add false g0 (d 5) (vs 1 0) 0 .fp32 .rne, .view g0 5 (r 9) .vec .fp32], Ready i g0 (mv vec)) ∧
    InView (mv vec) [el 1 2, el 1 0] ∧ Sound (mv vec) 256 [el 1 0] ∧ Fmt.e4m3.bits ≤ Fmt.fp32.bits ∧ Fmt.e4m3.bits < Fmt.fp32.bits ∧
    ((set m0 [(9, 0x7FF00)]).src (r 9)).toNat < 2 ^ 19 ∧ ((set m0 [(9, 0x7FF00)]).src (r 9)).toNat % 256 = 0 ∧
    Ready (.ttrn g0 (el 6 0) false (el 5 0) .bf16) g0 (mv tile) ∧
    (∀ z ∈ [el 6 0, el 5 0], ((mv tile).elKind z = 2 ∨ (mv tile).elKind z = 3) ∧ (mv tile).elBase z + 2048 * Fmt.bf16.bits ≤ Config.regSpace) ∧
    Sound (mv tile) (2048 * Fmt.bf16.bits) [el 5 0] :=
  ⟨readyAll rfl rfl (by decide), by unfold InView; decide +kernel, by unfold Sound; decide +kernel, by decide, by decide, by decide +kernel, by decide +kernel, ready rfl rfl (by rfl),
    by decide +kernel, by unfold Sound; decide +kernel⟩

theorem witness_VectorMemoryWordsComplete :
    let s := mv vec
    let p := s.src (r 22) + 512
    let near := lanePtrs s 9 .fp32 laneAddr p (fun j => j * 4)
    let far := lanePtrs s 9 .fp32 vAddr (s.src (r 22)) (lane .fp32 (s.vsrc (vs 1 0)))
    (∀ i ∈ [Instr.vld g0 (vd 1 0) (r 22) 2 9 .fp32, .vgath g0 (vd 2 0) (r 22) (vs 1 0) 9 .fp32, .vst g0 (r 22) (vs 1 0) 2 9 .fp32,
      .vscat g0 (r 22) (vs 1 1) (vs 1 0) 9 .fp32], Ready i g0 s) ∧
    InView s [el 1 0, el 2 0, el 1 1] ∧ Sound s 256 [el 1 0, el 1 1] ∧ vAddr s (s.src (r 22)) (256 * (2 : BitVec 6).toNat) 0 = .ok p ∧
    (∃ l s1, gather s 4 near = .ok (l, s1)) ∧ (∃ l s1, gather s 4 far = .ok (l, s1)) ∧
    (∃ w s1, scatterCheck s 4 (near.map (fun e => (e.1, e.2, leBytes 4 (lane .fp32 (s.vsrc (vs 1 0)) e.1)))) = .ok (w, s1)) ∧
    (∃ w s1, scatterCheck s 4 (far.map (fun e => (e.1, e.2, leBytes 4 (lane .fp32 (s.vsrc (vs 1 0)) e.1)))) = .ok (w, s1)) := by
  intro s p near far
  exact ⟨readyAll rfl rfl (by decide), by unfold InView; decide +kernel, by unfold Sound; decide +kernel, by decide +kernel, ok2_of (by decide +kernel), ok2_of (by decide +kernel), ok2_of (by decide +kernel), ok2_of (by decide +kernel)⟩

/-- m with the bytes at virtual 0x1000, and their address in x5. -/
def templ (b : Bytes) (l : List (BitVec 5 × Word)) : State :=
  let s := ms p1 ((5, 0x1000) :: (7, 0x1080) :: l)
  { s with mem := s.mem.setRun 0x2000 b }

/-- A copy of one 16-byte chunk from global memory; `ctrl` gives the destination's space. -/
def copyT (ctrl : Nat) : Bytes := List.replicate 16 0 ++ (List.replicate 6 (leBytes 2 1)).flatten ++ List.replicate 60 0 ++ leBytes 8 ctrl
/-- A SEND of 16 bytes of global memory to 0x1100 with the flag at 0x1200. -/
def sendT : Bytes := leBytes 8 0 ++ leBytes 8 0x1200 ++ leBytes 8 1 ++ leBytes 4 0 ++ leBytes 4 16
/-- An MMA of one BF16 element. -/
def mmaT : Bytes := (List.replicate 6 (leBytes 2 1)).flatten ++ List.replicate 82 0 ++ leBytes 2 2 ++ List.replicate 8 0 ++ leBytes 4 0x11

/-- A ring of two 256-byte slots over allocation 1, with `f` filled and one fill pending. -/
def ring (f : Nat) : Ring :=
  { num := 0, alloc := 1, slotsz := 1, nslot := 2, rels := 5, filled := f, pend := [], fills := [], tag := 3, exps := [(5, 1600)], reader := .C, made := 0,
    ended := none, uid := 0 }
def withRing (f : Nat) (s : State) : State := s.modCore (fun k => { k with rings := [ring f] })

def copyBody (s : State) (t : Bytes) : Bytes := leBytes 8 (s.src (r 7)).toNat ++ leBytes 8 (s.reg 22).toNat ++ slice t 16 96

def sendBody (s : State) (t : Bytes) : Bytes := leBytes 8 (s.reg 22).toNat ++ slice t 8 104
def sendRanges (s : State) (t : Bytes) : List Range :=
  rangeOf .global (ptrId (s.src (r 7))) (ptrStart .global (s.src (r 7))) (ptrStart .global (s.src (r 7)) + le (sendBody s t) 28 4) false

def copyOp : OpSrc3 := ⟨g0, 22, r 5, r 7⟩
def copyEntry (b : Bytes) : NewEntry := { kind := .copy, body := b, ranges := copyRanges (nestOf b) none }
def copyCtx (b : Bytes) : Ctx := if (nestOf b).dsp = .global then .S else .L
def copyChain (b : Bytes) : ChainId := if (nestOf b).dsp = .global then .tco else .tci

/-- A copy without a ring appends, once its template can be read. -/
theorem copies {u : State} {kept : Option Bytes} (held : u.here.held = none) (hi : u.core.inHandler = false)
    (h : fine (readTemplate u (u.src (r 5)) kept >>= fun t =>
      if nestOk (copyBody u t.1) && !(nestOf (copyBody u t.1)).re
          && (u.core.merged || decide (u.core.cur = copyCtx (copyBody u t.1))) then
        appendEntry t.2 (copyChain (copyBody u t.1)) (copyEntry (copyBody u t.1))
      else .error .wait) = true) : ∃ s2, CopyAppends copyOp kept u s2 := by
  obtain ⟨t, h, k⟩ := bind_ok h
  split at k
  · rename_i c
    simp only [Bool.and_eq_true, Bool.not_eq_true', Bool.or_eq_true, decide_eq_true_eq] at c
    obtain ⟨s2, e⟩ := ok_of k
    exact ⟨s2, t.2, copyBody u t.1, 0, .inl ⟨held, t.1, h, rfl, rfl⟩, c.1.1, hi, c.2, .inl ⟨c.1.2, e⟩⟩
  · cases k

/-- A SEND of global memory appends, once its template can be read. -/
theorem sends {u : State} {kept : Option Bytes} (held : u.here.held = none) (hi : u.core.inHandler = false) (hc : u.core.merged = true ∨ u.core.cur = .S)
    (h : fine (readTemplate u (u.src (r 5)) kept >>= fun t =>
      if sendOk (sendBody u t.1) && decide (engSpace (le (sendBody u t.1) 38 2 % 4) = .global) && decide (le (sendBody u t.1) 8 8 % 16 = 0)
          && decide ((u.src (r 7)).toNat % 16 = 0) && decide ((u.reg 22).toNat % 16 = 0) then
        checkEng t.2 u.core.cur .global (u.src (r 7)) (le (sendBody u t.1) 28 4) { wr := false } t.2.who 0 >>= fun tg =>
          appendEntry tg.2 .tsx { kind := .send, body := sendBody u t.1, src := u.src (r 7), ranges := sendRanges u t.1 }
      else .error .wait) = true) : ∃ s2, SendAppends copyOp kept u s2 := by
  obtain ⟨t, h, k⟩ := bind_ok h
  split at k
  · rename_i c
    simp only [Bool.and_eq_true, decide_eq_true_eq] at c
    obtain ⟨tg, h3, k3⟩ := bind_ok k
    obtain ⟨s2, e⟩ := ok_of k3
    refine ⟨s2, tg.2, sendBody u t.1, u.src (r 7), ?_, ?_⟩
    · rw [c.1.1.1.2]
      exact .inl ⟨held, t.1, t.2, tg.1, h, rfl, rfl, c.1.1.1.1, hc, hi, c.1.2, c.2, c.1.1.2, h3⟩
    · rw [c.1.1.1.2]; exact e
  · cases k

def mmaBody (s : State) (t : Bytes) : Bytes :=
  slice t 0 72 ++ leBytes 8 (s.src (r 8)).toNat ++ slice t 80 28 ++
    leBytes 4 ((s.here.viewOf (BitVec.ofNat 3 (le t 92 2 / 256))).toNat % 2 ^ 26)

/-- An MMA appends, once its template can be read. -/
theorem multiplies {u : State} {kept : Option Bytes} (held : u.here.held = none) (hc : u.core.merged = true ∨ u.core.cur = .C)
    (h : fine (readTemplate u (u.src (r 5)) kept >>= fun t =>
      if tableOk (mmaBody u t.1) then
        appendEntry t.2 .tmx { kind := .mma, body := mmaBody u t.1, ranges := mmaRanges (tableOf (mmaBody u t.1)) }
      else .error .wait) = true) : ∃ s2, MmaAppends (opAB 5 8) kept u s2 := by
  obtain ⟨t, h, k⟩ := bind_ok h
  split at k
  · rename_i c
    obtain ⟨s2, e⟩ := ok_of k
    exact ⟨s2, t.2, mmaBody u t.1, 0, .inl ⟨held, t.1, h, hc, rfl, rfl, c⟩, e⟩
  · cases k

/-- The template of word i of context c has been asked for. -/
def askedLate (c : Ctx) (i : Instr) (come : Bool) (s : State) : Late :=
  { ctx := c, i := i, at' := s.here, bytes := if s.core.interlocked then none else devRead s s.root 0x1000 112, landAt := 7, arrived := come }
def asked (c : Ctx) (i : Instr) (come : Bool) (s : State) : State := s.modCore (fun k => { k with lates := [askedLate c i come s] })

/-- The words with a template, issued before it has come: in slices and with interlocks. -/
theorem witness_CopyAndSendComplete_asks : ∀ i ∈ [Instr.copy copyOp, .send copyOp, .mma (opAB 5 8)],
    let s := templ [] []
    let u := s.modCore (fun k => { k with merged := false })
    Ready i g0 s ∧ Ready i g0 u ∧ Unheld s ∧ Unheld u ∧ u.core.interlocked = false ∧ s.core.interlocked = true ∧ s.here.held = none ∧
      watched s .global (s.src (r 5)) 112 false = false ∧ watched u .global (u.src (r 5)) 112 false = false ∧ s.core.templateHere i = false ∧
      s.core.hub = false ∧ s.core.inHandler = false := by
  intro i hi s u
  exact ⟨ready rfl rfl (by revert i; decide), ⟨rfl, by revert i; decide, rfl, .inr (by decide +kernel)⟩, unheld (by decide +kernel),
    fun _ => ⟨by decide +kernel, .inr (.inr rfl)⟩, by revert i; decide +kernel⟩

/-- The same with the template there: COPY into each space and into a ring, SEND, MMA. -/
theorem witness_CopyAndSendComplete : ∀ c ∈ [0, 0x40000, 0x80000],
    let s := asked .C (.copy copyOp) true (templ (copyT c) [])
    Ready (.copy copyOp) g0 s ∧ HasTemplate (.copy copyOp) (s.src (r 5)) s ∧ ∃ s2, CopyAppends copyOp none s.withTemplateTaken s2 := by
  intro c hc s
  refine ⟨ready rfl rfl (by rfl), .inr ⟨rfl, by revert c; decide +kernel, rfl, by revert c; decide +kernel⟩, copies rfl rfl (by revert c; decide +kernel)⟩

theorem witness_CopyAndSendComplete_ring :
    let s := asked .C (.copy copyOp) true (withRing 1 (templ (copyT 0x140000) []))
    Ready (.copy copyOp) g0 s ∧ HasTemplate (.copy copyOp) (s.src (r 5)) s ∧ ∃ s2, CopyAppends copyOp none s.withTemplateTaken s2 := by
  intro s
  refine ⟨ready rfl rfl (by rfl), .inr ⟨rfl, by decide +kernel, rfl, by decide +kernel⟩, ?_⟩
  let u := s.withTemplateTaken
  obtain ⟨t, h, k⟩ := bind_ok (e := readTemplate u (u.src (r 5)) none) (f := fun t =>
    if nestOk (copyBody u t.1) && (nestOf (copyBody u t.1)).re && decide (t.2.core.ring (nestOf (copyBody u t.1)).ring = some (ring 1)) then
      appendEntry (t.2.modCore (fun k => modRing k (nestOf (copyBody u t.1)).ring (fun x =>
          { x with pend := x.pend ++ [{ pos := x.nextPos, num := (t.2.core.chain (copyChain (copyBody u t.1))).append + 1, done := none }],
                   fills := x.fills ++ [(x.nextPos, (t.2.core.chain (copyChain (copyBody u t.1))).append + 1)] })))
        (copyChain (copyBody u t.1))
        { kind := .copy, body := copyBody u t.1,
          ranges := copyRanges (nestOf (copyBody u t.1)) (some ((ring 1).alloc, (ring 1).slotOf (ring 1).nextPos * (ring 1).slotsz * 256)),
          ring := some ((nestOf (copyBody u t.1)).ring, (ring 1).slotOf (ring 1).nextPos) }
    else .error .wait) (by decide +kernel)
  split at k
  · rename_i c
    simp only [Bool.and_eq_true, decide_eq_true_eq] at c
    obtain ⟨s2, e⟩ := ok_of k
    exact ⟨s2, t.2, copyBody u t.1, 0, .inl ⟨rfl, t.1, h, rfl, rfl⟩, c.1.1, rfl, .inl rfl, .inr ⟨c.1.2, ring 1, c.2, by decide, e⟩⟩
  · cases k

/-- A COPY that has blocked, on a free chain, with what it read. -/
theorem witness_CopyAndSendComplete_kept :
    let b : Bytes := leBytes 8 0x1100 ++ leBytes 8 0 ++ slice (copyT 0x80000) 16 96
    let s := (templ [] []).modHere (fun k => { k with held := some (b, 0) })
    Ready (.copy copyOp) g0 s ∧ HasTemplate (.copy copyOp) (s.src (r 5)) s ∧ ∃ s2, CopyAppends copyOp none s.withTemplateTaken s2 := by
  intro b s
  obtain ⟨s2, e⟩ : ∃ s2, appendEntry s (copyChain b) (copyEntry b) = .ok s2 := ok_of (by decide +kernel)
  exact ⟨ready rfl rfl (by rfl), .inl rfl, s2, s, b, 0, .inr ⟨rfl, rfl⟩, by decide +kernel, rfl, .inl rfl, .inl ⟨by decide +kernel, e⟩⟩

/-- WBLD of 16 bytes at the end of the first half. -/
theorem witness_CopyAndSendComplete_wbld :
    let s := templ [] [(8, 0x7FFF0)]
    let b := leBytes 8 (s.src (r 5)).toNat ++ leBytes 4 (s.src (r 8)).toNat ++ leBytes 4 16
    Ready (.wbld (opAB 5 8) 16) g0 s ∧ Took s s b 0 (wbldOk (s.src (r 5)) (s.src (r 8)) 16 = true ∧ (s.core.merged = true ∨ s.core.cur = .L) ∧ s = s ∧
        (0 : Word) = 0 ∧ b = leBytes 8 (s.src (r 5)).toNat ++ leBytes 4 (s.src (r 8)).toNat ++ leBytes 4 16) ∧
      ∃ s2, appendEntry s .tci { kind := .wbld, body := b, ranges := [] } = .ok s2 := by
  intro s b
  exact ⟨ready rfl rfl (by rfl), .inl ⟨rfl, by decide +kernel, .inl rfl, rfl, rfl, rfl⟩, ok_of (by decide +kernel)⟩

/-- SEND of 16 bytes of global memory. -/
theorem witness_CopyAndSendComplete_send :
    let s := asked .C (.send copyOp) true (templ sendT [(22, 0x1100)])
    Ready (.send copyOp) g0 s ∧ Unheld s ∧ HasTemplate (.send copyOp) (s.src (r 5)) s ∧ ∃ s2, SendAppends copyOp none s.withTemplateTaken s2 := by
  intro s
  exact ⟨ready rfl rfl (by rfl), unheld (by decide +kernel), .inr ⟨rfl, by decide +kernel, rfl, by decide +kernel⟩, sends rfl rfl (.inl rfl) (by decide +kernel)⟩

/-- In slices the template arrives: a COPY of L, a SEND of S, an MMA of C. -/
theorem witness_CopyAndSendComplete_arrival :
    let sliced (s : State) : State := s.modCore (fun k => { k with merged := false })
    let a := asked .L (.copy copyOp) false (sliced (templ (copyT 0x40000) []))
    let b := asked .S (.send copyOp) false (sliced (templ sendT [(22, 0x1100)]))
    let m := asked .C (.mma (opAB 5 8)) false (sliced (templ mmaT [(8, p1)]))
    (∀ s ∈ [a, b, m], s.wlog = [] ∧ s.core.interlocked = false ∧ s.core.traces = false ∧ s.m.reqs.find? (fun r => r.core == s.core.num && r.answer.isSome) = none ∧
      s.core.flights.find? (fun f => f.ext && !f.arrived) = none) ∧
    (∃ l s2, a.core.lates.find? (fun l => !l.arrived) = some l ∧ l.i = .copy copyOp ∧ CopyAppends copyOp l.bytes (a.atLate l) s2) ∧
    (∃ l s2, b.core.lates.find? (fun l => !l.arrived) = some l ∧ l.i = .send copyOp ∧ SendAppends copyOp l.bytes (b.atLate l) s2) ∧
    (∃ l s2, m.core.lates.find? (fun l => !l.arrived) = some l ∧ l.i = .mma (opAB 5 8) ∧ MmaAppends (opAB 5 8) l.bytes (m.atLate l) s2) := by
  intro sliced a b m
  let la := askedLate .L (.copy copyOp) false (sliced (templ (copyT 0x40000) []))
  let lb := askedLate .S (.send copyOp) false (sliced (templ sendT [(22, 0x1100)]))
  let lm := askedLate .C (.mma (opAB 5 8)) false (sliced (templ mmaT [(8, p1)]))
  refine ⟨by decide +kernel, ?_, ?_, ?_⟩
  · obtain ⟨s2, e⟩ := copies (kept := la.bytes) (u := a.atLate la) rfl rfl (by decide +kernel)
    exact ⟨la, s2, rfl, rfl, e⟩
  · obtain ⟨s2, e⟩ := sends (kept := lb.bytes) (u := b.atLate lb) rfl rfl (.inr rfl) (by decide +kernel)
    exact ⟨lb, s2, rfl, rfl, e⟩
  · obtain ⟨s2, e⟩ := multiplies (kept := lm.bytes) (u := m.atLate lm) rfl (.inr rfl) (by decide +kernel)
    exact ⟨lm, s2, rfl, rfl, e⟩

theorem witness_MatrixWordsComplete :
    let s := asked .C (.mma (opAB 5 8)) true (templ mmaT [(8, p1)])
    (Ready (.mma (opAB 5 8)) g0 s ∧ s.core.hub = false ∧ HasTemplate (.mma (opAB 5 8)) (s.src (r 5)) s ∧ ∃ s2, MmaAppends (opAB 5 8) none s.withTemplateTaken s2) ∧
    (let u := mv accs;
      Ready (.aclr g0 (el 4 0) 7) g0 u ∧ u.elKind (el 4 0) = 3 ∧ u.elBase (el 4 0) + 65536 * 8 ≤ Config.regSpace ∧
      u.here.held = none ∧ u.core.merged = true ∧ (let b := leBytes 4 (u.elBase (el 4 0)) ++ leBytes 2 8
        ∃ t, appendEntry u .tmx { kind := .aclr, body := b, ranges := aclrRanges b } = .ok t)) ∧
    (let u := (mv accs).modHere (fun k => { k with view := k.view.set 5 vec });
      Ready (.adrain g0 (el 5 0) (el 4 0) .bf16 .rna) g0 u ∧ u.elKind (el 4 0) = 3 ∧ viewFmt (u.here.viewOf 4) = 0 ∧ u.elKind (el 5 0) = 1 ∧
      u.elBase (el 4 0) + 65536 ≤ Config.regSpace ∧ u.elBase (el 5 0) + 2048 * Fmt.bf16.bits ≤ Config.regSpace ∧ u.here.held = none ∧ u.core.merged = true ∧
      ∀ b, fine (appendEntry u .tmx { kind := .adrain, body := b, ranges := adrainRanges .bf16 b }) = true) ∧
    ((mv accs).modHere (fun k => { k with view := k.view.set 4 (accs + 12 * 2 ^ 22) })).elKind (el 4 0) = 3 := by
  intro s
  exact ⟨⟨ready rfl rfl (by rfl), rfl, .inr ⟨rfl, by decide +kernel, rfl, by decide +kernel⟩, multiplies rfl (.inl rfl) (by decide +kernel)⟩,
    ⟨ready rfl rfl (by rfl), by decide +kernel, by decide +kernel, rfl, rfl, ok_of (by decide +kernel)⟩,
    ⟨ready rfl rfl (by rfl), by decide +kernel, by decide +kernel, by decide +kernel, by decide +kernel, by decide +kernel, rfl, rfl, fun b => by rfl⟩,
    by decide +kernel⟩

theorem witness_AppendEffect : ∀ ch ∈ [ChainId.tci, .tmx, .tco, .tsx],
    ∃ t, appendEntry m0 ch { kind := .aclr, body := leBytes 4 0 ++ leBytes 2 1, ranges := [] } = .ok t :=
  fun ch _ => ok_of (by revert ch; decide +kernel)

/-- An append that is made again, in the region that it opened the first time. -/
theorem witness_AppendEffect_again :
    let s := (m0.modCore (fun k => k.modChain .tmx (fun x => { x with regions := [(1, 5)] }))).modCore (fun k => { k with redo := [(0, 0)] })
    s.rerun = true ∧ m0.rerun = false ∧ (s.core.chain .tmx).regions.find? (fun r => r.1 == (s.core.chain .tmx).append + 1) = some (1, 5) ∧
      fine (appendEntry s .tmx { kind := .aclr, body := leBytes 4 0 ++ leBytes 2 1, ranges := [] }) = true := by
  decide +kernel

/-- One entry of the copy-in chain issued and one complete. -/
def chained (k : EntryKind) (n : Nat) (dn : List Nat) (b : Bytes) : Entry :=
  { kind := k, num := n, body := pad b 112, ctx := .C, ranges := [], region := 0, step := 0, ord := 0, lpc := 0, spc := 0, occ := 0, begun := true,
    done := dn, first := none, ring := none, src := 0, failed := none, cyc := 0, exempt := false, seq := 0, regs := [], parts := [], merged := true, owes := [] }
def withChain (ch : ChainId) (c : Nat) (e : Entry) (s : State) : State :=
  s.modCore (fun k => k.modChain ch (fun x => { x with append := e.num, counter := c, entries := [e] }))

theorem witness_TimelineWordsComplete :
    let s := withChain .tci 3 (chained .wbld 4 [] []) (set m0 [(7, 3), (8, 4)])
    (∀ i ∈ [Instr.tlrd .tci false (opD 5), .tlrd .tci true (opD 5), .waitc .tci (opA 7), .waitc .tci (opA 8)], Ready i g0 s) ∧ Journals s ∧
    Drained s ∧ s.core.merged = true ∧ (s.src (r 7)).toNat ≤ (s.core.chain .tci).counter ∧ (s.core.chain .tci).counter < (s.src (r 8)).toNat := by
  intro s
  exact ⟨readyAll rfl rfl (by decide), journals (by decide +kernel), drained rfl, by decide +kernel⟩

theorem witness_AllocationWordsComplete :
    let s := ms p1 [(22, p1), (7, 5000)]
    let full := s.modCore (fun k => { k with allocs := [{ al1 with size := 12582912 }] })
    (∀ i ∈ [Instr.salloc g0 23 false 1 false true, .salloc g0 23 false 3072 true false, .sfree (opA 22), .wind (opAB 22 7),
      .life g0 5 false (r 22)], Ready i g0 s ∧ Ready i g0 full) ∧ Journals s ∧ Journals full ∧
    freeId s.core = some 0 ∧ (placeAlloc s.core (4096 * 1)).isSome = true ∧ placeAlloc full.core (4096 * 1) = none ∧
    checkScratch124 s.core (s.src (r 22)) = .ok al1 ∧ al1.backed = false ∧ al1.expired = false ∧ s.core.nowAt < al1.expiry := by
  intro s full
  exact ⟨fun i h => ⟨readyAll rfl rfl (by decide) i h, readyAll rfl rfl (by decide) i h⟩, journals (by decide +kernel), journals (by decide +kernel),
    by decide +kernel⟩

theorem witness_WindowWordsComplete :
    let s := ms p2 [(22, p2), (8, 0x2000), (9, 0x1000), (10, 0x2000)]
    (∀ i ∈ [Instr.smap (opAB 22 8) 0x1000, .sunmap (opA 22), .lock (rr 5 22 9), .lock (rr 5 22 10), .lock (rr 5 22 0), .unlock (opAB 22 9)],
      Ready i g0 s) ∧ s.core.hub = false ∧
    checkScratch124 s.core (s.src (r 22)) = .ok al2 ∧ al2.backed = true ∧ al2.size ≤ (0x1000 : BitVec 32).toNat ∧
    (s.src (r 8)).toNat / 2 ^ 56 % 16 = 0 ∧ (s.src (r 8)).toNat % 256 = 0 ∧
    checkRange s.core (s.src (r 22)) (s.src (r 9)) = .ok (al2, 0x1000) ∧
    (∃ ps s1, checkVirtual s s.root (s.src (r 22)) 0x1000 (128 * (linesOf 0 0x1000).length)
      { wr := false, poison := false, tag := false, race := false } none none 0 = .ok (ps, s1)) ∧
    lockStatus s.core al2 (linesOf 0 0x1000) = 0 ∧
    checkRange s.core (s.src (r 22)) (s.src (r 0)) = .ok (al2, 0x1000) ∧ s.src (r 0) = 0 ∧ s.src (r 9) ≠ 0 ∧ s.src (r 10) ≠ 0 ∧
    checkRange s.core (s.src (r 22)) (s.src (r 10)) = .ok (al2, 0x1000) ∧
    (∃ ps s1, checkVirtual s s.root (s.src (r 22)) 0x1000 (128 * (linesOf 0 0x2000).length)
      { wr := false, poison := false, tag := false, race := false } none none 0 = .ok (ps, s1)) ∧ lockStatus s.core al2 (linesOf 0 0x2000) ≠ 0 := by
  intro s
  exact ⟨readyAll rfl rfl (by decide), rfl, by decide +kernel, by decide, by decide, by decide +kernel, by decide +kernel, by decide +kernel,
    ok2_of (by decide +kernel), by decide +kernel, by decide +kernel, by decide +kernel, by decide +kernel, by decide +kernel, by decide +kernel,
    ok2_of (by decide +kernel), by decide +kernel⟩

def flt0 : Flt := { code := 0x10, addr := 0, lane := 0, aux := [] }
/-- A fault of the word at logical PC 24. -/
def pend0 : Pend :=
  { why := .fault, flt := flt0, step := 0, ord := 0, lpc := 24, occ := 0, slice := 3, spc := 0, eng := none, merged := true, early := false, time := 0 }
def withPhase (p : Phase) (s : State) : State := s.modCore (fun k => { k with phase := p })

/-- Replay meets a release fence that ran before, and an MWAIT with an armed monitor. -/
theorem witness_FenceAndMonitorComplete_replay :
    let s := withPhase (.replay pend0) ((ms 0x1000 [(7, 100)]).modHere (fun k => { k with monitor := some ⟨32, false⟩ }))
    let u := s.modCore (fun k => { k with ran := [(s.here.ord, s.here.pc)] })
    Ready (.fence g0 .release .gang) g0 u ∧ u.core.again = true ∧ ReadyOnCore (.mwait g0 (d 5) (r 7)) g0 s ∧ Drained s ∧ Journals s ∧
    s.cutHere = false ∧ s.here.monitor = some ⟨32, false⟩ ∧ s.here.wait = none ∧ s.core.inReplay = true := by
  intro s u
  exact ⟨ready rfl rfl (by rfl), by decide +kernel, ⟨ready rfl rfl (by rfl), rfl, rfl⟩, drained rfl, journals (by decide +kernel), by decide +kernel⟩

theorem witness_RingWordsComplete :
    let s := ms p1 [(22, p1), (7, 2 * 65536 + 128), (8, 64 * 65536 + 1)]
    let u := withRing 1 s
    Ready (.ringi (rr 23 22 7)) g0 s ∧ checkScratch124 s.core (s.src (r 22)) = .ok al1 ∧ (s.src (r 7)).toNat = 2 * 65536 + 128 ∧
    (s.src (r 8)).toNat = 64 * 65536 + 1 ∧ al1.backed = false ∧ s.core.ringOf al1.id = none ∧ ptrOff (s.src (r 22)) = 0 ∧
    2 * 128 * 256 ≤ al1.size ∧ leastFree ((s.core.rings.filter (fun r => r.ended.isNone)).map (·.num)) 8 = some 0 ∧
    Ready (.awaitf 0 (opD 5)) g0 u ∧ Ready (.rels g0 0) g0 u ∧ Drained u ∧ Journals u ∧ u.core.ring 0 = some (ring 1) ∧ (ring 1).filled ≠ 0 ∧ s.ringNumber = some 0 ∧ s.core.again = false ∧
    (let v := withPhase (.replay pend0) (withRing 0 s); Ready (.rels g0 0) g0 v ∧ Drained v ∧ v.core.ring 0 = some (ring 0) ∧ v.core.inReplay = true) ∧
    (let v := withRing 0 s; Ready (.rels g0 0) g0 v ∧ Drained v ∧ v.core.ring 0 = some (ring 0) ∧ v.core.inReplay = false) := by
  intro s u
  exact ⟨ready rfl rfl (by rfl), by decide +kernel, by decide +kernel, by decide +kernel, by rfl, by decide +kernel, by decide +kernel, by decide,
    by decide +kernel, ready rfl rfl (by rfl), ready rfl rfl (by rfl), drained rfl, journals (by decide +kernel), by decide +kernel, by decide, by decide +kernel, by decide +kernel,
    ⟨ready rfl rfl (by rfl), drained rfl, by decide +kernel⟩, ready rfl rfl (by rfl), drained rfl, by decide +kernel⟩

/-! ### Witnesses: control words -/

theorem witness_TransfersComplete :
    let s := set m0 [(7, 96)]
    (∀ i ∈ [Instr.jmp (imm 48), .jmpr (opA 7), .ret (opA 7), .call ⟨g0, d 30, 48⟩, .nop (imm 5)], Ready i g0 s) ∧
    s.transferOk (s.here.pc + (48 : BitVec 32).signExtend 64) = true ∧ (s.src (r 7)).toNat % 4 = 0 ∧ s.transferOk (s.src (r 7)) = true ∧
    Ready (.jmp (imm 0xFFFFFFF4)) g0 (h0.modHere (fun k => { k with pc := 0x1000 })) ∧
    (h0.modHere (fun k => { k with pc := 0x1000 })).transferOk 0xFF4 = true := by
  intro s
  exact ⟨readyAll rfl rfl (by decide), by decide +kernel, by decide +kernel, by decide +kernel, ready rfl rfl (by rfl), by decide +kernel⟩

theorem no_requests {s : State} (h : s.m.reqs = []) : ∀ r ∈ s.m.reqs, r.core = s.core.num → r.answer ≠ none := by
  rw [h]; exact fun r hr => absurd hr List.not_mem_nil

theorem witness_EndOfTask : m0.core.hub = false ∧ m0.core.task = some placedTask ∧ Ready (.exit g0) g0 m0 ∧ m0.core.inHandler = false ∧ Drained m0 ∧ Appended m0 ∧
    (∀ ch, (m0.core.chain ch).counter = (m0.core.chain ch).append) ∧ Ready (.abort (imm 1)) g0 m0 ∧
    (∀ ch, ∀ e ∈ (m0.core.chain ch).entries, e.begun = false) ∧ (∀ r ∈ m0.m.reqs, r.core = m0.core.num → r.answer ≠ none) :=
  ⟨rfl, rfl, ready rfl rfl (by rfl), rfl, drained rfl, .inl rfl, fun ch => by cases ch <;> rfl, ready rfl rfl (by rfl),
    fun ch e h => (by cases ch <;> cases h), no_requests rfl⟩

theorem witness_TrapAndServiceWords :
    let back := m0.modCore (fun k => { k with svc := some (0x40, some (1, none)) })
    Ready (.trap (imm 0x51)) g0 m0 ∧ m0.core.hub = false ∧ Ready (.trap (imm 0x51)) g0 h0 ∧ h0.core.hub = true ∧ m0.wlog = [] ∧
    Ready (.svc (imm 5)) g0 h0 ∧ h0.core.inHandler = false ∧ ReadyOnCore (.svc (imm 0x40)) g0 back ∧ Drained back ∧
    ReadyOnCore (.svc (imm 0x20)) g0 m0 ∧ m0.core.svc = none ∧ (0x20 : BitVec 32).toNat ∉ [0x21, 0x30, 0x31, 0x40, 0x50] := by
  intro back
  exact ⟨ready rfl rfl (by rfl), rfl, ready rfl rfl (by rfl), rfl, rfl, ready rfl rfl (by rfl), rfl, ⟨ready rfl rfl (by rfl), rfl, rfl⟩, drained rfl,
    ⟨ready rfl rfl (by rfl), rfl, rfl⟩, rfl, by decide⟩

def inTrap (s : State) : State := s.modHere (fun k => { k with trap := some ⟨48, .u, [], false, false⟩ })

theorem witness_ReturnFromException :
    let s := withPhase (.handler pend0) m0
    let u := h0.modCore (fun k => { k with traps := [(0x100, .u)] })
    Ready (.eret g0 true) g0 s ∧ Ready (.eret g0 false) g0 u ∧ Ready (.eret g0 false) g0 (inTrap m0) ∧
    (devRead s placedTask.root (placedTask.faultAddr.toNat + 96) 8).isSome = true ∧ (devRead s placedTask.root (placedTask.faultAddr.toNat + 104) 8).isSome = true ∧
    s.here.trap = none ∧ u.core.phase = .run ∧ u.core.hub = true ∧ u.here.trap = none ∧ (inTrap m0).core.phase = .run ∧
    (let w := inTrap (q0.modHere (fun k => { k with secEnd := 60 }));
      Ready (.eret g0 true) g0 w ∧ w.here.trap = some ⟨48, .u, [], false, false⟩ ∧ w.core.merged = false ∧ ((48 : Word) + 12).toNat = w.here.secEnd) ∧
    (let w := m0.modHere (fun k => { k with trap := some ⟨48, .u, [], false, true⟩ }); Ready (.eret g0 true) g0 w ∧ w.here.trap = some ⟨48, .u, [], false, true⟩) := by
  intro s u
  exact ⟨ready rfl rfl (by rfl), ready rfl rfl (by rfl), ready rfl rfl (by rfl), by decide +kernel, by decide +kernel, rfl, rfl, rfl, rfl, rfl,
    ⟨⟨rfl, rfl, rfl, .inr (by decide)⟩, rfl, rfl, by decide⟩, ready rfl rfl (by rfl), rfl⟩

theorem witness_BreakpointCompletes : (∀ v ∈ [Debugger.none, .slice, .logical],
      Ready (.bkpt (imm 7)) g0 (m0.modCore (fun k => { k with debugger := v }))) ∧
    m0.core.hub = false ∧ m0.core.again = false ∧ m0.place = .plain ∧
    (let s := q0.modCore (fun k => { k with debugger := .logical }); Ready (.bkpt (imm 7)) g0 s ∧ s.core.again = false ∧ s.place = .slice) :=
  ⟨fun _ _ => ready rfl rfl (by rfl), rfl, by decide +kernel, by decide +kernel, ⟨rfl, rfl, rfl, .inr (by decide)⟩, by decide +kernel, by decide +kernel⟩

theorem witness_SystemWordsComplete :
    (∀ n ∈ [(0x010 : BitVec 12), 0x030, 0x203], Ready (.sread (opD 28) n) g0 m0 ∧ sysReadable m0.mode n.toNat = true) ∧
    sysJournalled 0x010 = false ∧ sysJournalled 0x030 = true ∧ sysJournalled 0x203 = true ∧ recorded m0 = .none ∧ Journals m0 ∧
    (∃ s1, recordEntry (noted m0 [sysValue m0 0x030] m0) (some (sysValue m0 0x030)) 0 = .ok s1) ∧
    (∃ s1, recordEntry (noted m0 [] m0) none 0 = .ok s1) ∧
    Ready (.swrite (opA 5) 0x011) g0 m0 ∧ sysWritable m0.mode 0x011 = true ∧ Ready (.tlbi (opAB 4 0) 1) g0 h0 ∧ h0.mode ≠ .u :=
  ⟨fun n h => ⟨ready rfl rfl (by rfl), by revert n; decide +kernel⟩, rfl, rfl, rfl, by decide +kernel, journals (by decide +kernel), ok_of (by decide +kernel),
    ok_of (by decide +kernel), ready rfl rfl (by rfl), by decide +kernel, ready rfl rfl (by rfl), by decide +kernel⟩

theorem witness_StepWordCompletes :
    let s := withNode node0 m0
    let i : Instr := .tstep 26 false (r 0) 0xFFF0000
    ReadyOnCore i g0 s ∧ s.core.merged = true ∧ s.core.cur = .C ∧ s.here.trap = none ∧ s.core.task = some placedTask ∧ s.core.stop = none ∧
    s.core.returning = false ∧ checkAlist s.core (s.src (r 0)) = .ok () ∧ (∀ ch, (s.core.chain ch).slot < 31) ∧
    (∃ s1, s.claimStep .C s.lpc = .ok s1 ∧
      fine (if (s1.core.nextEntry .C).any (fun e => e.coords.length == 6) then Except.ok () else .error Stop.wait) = true) ∧ (26 : BitVec 5) ≠ 0 ∧ (26 : BitVec 5).toNat + 5 < 32 := by
  intro s i
  exact ⟨⟨ready rfl rfl (by rfl), rfl, rfl⟩, rfl, rfl, rfl, rfl, rfl, rfl, by decide +kernel, fun ch => by cases ch <;> decide, bind_ok (by decide +kernel),
    by decide, by decide⟩

/-- TSTEP in a slice: each context with what it waits for, and without. -/
theorem witness_StepWordCompletes_sliced :
    let i : Instr := .tstep 26 false (r 0) 0xFFF0000
    let part : Part := { mask := 0, xs := List.replicate 32 0, flags := 0, round := 0, seed := 0, alist := 0, lpc := 0, secNo := 1, appends := [0, 0, 0, 0], rings := [] }
    let e : StepEntry := { ord := 1, idx := 1, tile := some 0, coords := List.replicate 6 0, l := none, c := none, s := none }
    let full : StepEntry := { e with l := some part, c := some part }
    let q (c : Ctx) (w : List StepEntry) : State := (withNode node0 q0).modCore (fun k => { k with cur := c, window := w })
    let open4 := [2, 3, 4, 5].map (fun o => { e with ord := o })
    (∀ s ∈ [q .L [], q .C [e], q .S [full], q .L open4, q .C [], q .S [e]], ReadyOnCore i g0 s ∧ s.core.merged = false ∧
      s.core.task = some placedTask ∧ Drained s ∧ Appended s ∧ checkAlist s.core (s.src (r 0)) = .ok () ∧ (∀ ch, (s.core.chain ch).slot < 31) ∧ s.core.stop = none ∧
      s.leftBehind (s.here.ord + 1) s.lpc = false) ∧
    (q .L []).core.window.length < 4 ∧ (∃ s1, (q .L []).claimStep .L (q .L []).lpc = .ok s1 ∧
      fine (if (s1.core.nextEntry .L).any (fun e => e.coords.length == 6) then Except.ok () else .error Stop.wait) = true) ∧
    (q .C [e]).core.nextEntry .C = some e ∧ (q .S [full]).core.nextEntry .S = some full ∧ full.l = some part ∧ full.c = some part ∧
    (q .L open4).core.nextEntry .L = none ∧ 4 ≤ (q .L open4).core.window.length ∧ (q .C []).core.nextEntry .C = none ∧
    (q .S [e]).core.nextEntry .S = some e ∧ e.l = none := by
  intro i part e full q open4
  refine ⟨?_, by decide +kernel, bind_ok (by decide +kernel), by decide +kernel⟩
  intro s hs
  refine ⟨⟨⟨by revert s; decide +kernel, rfl, by revert s; decide +kernel, .inr (by revert s; decide +kernel)⟩, by revert s; decide +kernel, by revert s; decide +kernel⟩,
    by revert s; decide +kernel, by revert s; decide +kernel, .inr (by revert s; decide +kernel), .inr (by revert s; decide +kernel),
    by revert s; decide +kernel, ?_, by revert s; decide +kernel⟩
  intro ch; revert s; cases ch <;> decide +kernel

/-- A replayed step that closes while an entry before that of its TSTEP is left. -/
theorem witness_StepWordCompletes_leftBehind :
    let i : Instr := .tstep 26 false (r 0) 0xFFF0000
    let part : Part := { mask := 0, xs := List.replicate 32 0, flags := 0, round := 0, seed := 0, alist := 0, lpc := 0, secNo := 1, appends := [0, 0, 0, 0], rings := [] }
    let full : StepEntry := { ord := 1, idx := 1, tile := some 0, coords := List.replicate 6 0, l := some part, c := some part, s := none }
    let t : Task := { placedTask with replay := true, journal := 0x2000, jcap := 2, jused := [(1, 1)] }
    let q := q0.modCore (fun k => { k with cur := .S, window := [full], task := some t })
    let s : State := { q with mem := q.mem.setRun 0x3020 (leBytes 8 q.lpc.toNat) }
    ReadyOnCore i g0 s ∧ s.core.merged = false ∧ s.core.task = some t ∧ Drained s ∧ Appended s ∧ checkAlist s.core (s.src (r 0)) = .ok () ∧
    (∀ ch, (s.core.chain ch).slot < 31) ∧ s.core.nextEntry .S = some full ∧ s.leftBehind (s.here.ord + 1) s.lpc = true := by
  intro i part full t q s
  exact ⟨⟨⟨rfl, rfl, rfl, .inr (by decide +kernel)⟩, rfl, rfl⟩, rfl, rfl, .inr (by decide +kernel), .inr (by decide +kernel), by decide +kernel,
    fun ch => by cases ch <;> decide +kernel, by decide +kernel, by decide +kernel⟩

/-- A claim of a tile, and of none. -/
theorem witness_StepWordCompletes_claim :
    let x : Node := { node0 with next := 1 }
    placedTask.replay = false ∧ placedTask.record = false ∧ q0.core.nextEntry .L = none ∧ placedTask.spent = false ∧
      (withNode node0 q0).m.taskNode placedTask = some node0 ∧ node0.nextTile = some 0 ∧ (withNode x q0).m.taskNode placedTask = some x ∧ x.nextTile = none := by
  decide +kernel

theorem witness_BarrierWordCompletes :
    let s := withNode node0 m0
    let u := withNode { node0 with results := [⟨1, 5, [], false⟩] } m0
    (∀ x ∈ [s, u], ReadyOnCore (.bsync .or (da 26 18)) g0 x ∧ Drained x ∧ Appended x ∧ x.core.task = some placedTask ∧ x.journalHit = none ∧
      x.core.journal.length < 256 ∧ x.core.tco.counter = x.core.tco.append ∧ x.core.tsx.counter = x.core.tsx.append) ∧
    placedTask.pool = false ∧ s.m.taskNode placedTask = some node0 ∧ node0.gathered 1 = none ∧ node0.broken = false ∧
    (((s.arriveBsync placedTask 1 .or (s.src (r 18))).m.taskNode placedTask).bind (fun n => n.gathered 1)).isSome = true ∧
    (u.m.taskNode placedTask).bind (fun n => n.gathered 1) = some ⟨1, 5, [], false⟩ := by
  intro s u
  refine ⟨?_, by decide +kernel⟩
  intro x hx
  simp only [List.mem_cons, List.mem_nil_iff, or_false] at hx
  rcases hx with rfl | rfl <;> exact ⟨⟨ready rfl rfl (by rfl), rfl, rfl⟩, drained rfl, .inl rfl, by decide +kernel⟩

def snap0 : Snap := { addr := 0, size := 0, agent := none, die := 0, scopes := [], entries := [], evicted := false }
/-- An element; an empty shard of die 0; a pool of that shard, whose handle is 0x701. -/
def elem (k : Word) (n : Nat) : Elem := { key := k, payload := k + 1, origin := 0, seq := n, tick := 0, snap := snap0 }
def shard0 : Shard := { die := 0, elems := [], seq := 3, known := [], notice := none, queued := [], completed := 2, summaries := [] }
def pool0 : Pool :=
  { num := 1, gen := 7, tenant := 0, q := 1, age := false, shift := 0, qmax := 16, ageok := false, shiftmin := 0, caps := 4, sramq := 0, shards := [shard0] }
def withPool (p : Pool) (s : State) : State := { s with m := { s.m with pools := [p] } }

theorem witness_PoolWordsComplete :
    let s := withPool pool0 (set m0 [(4, 0x701), (6, 4), (7, 0x7FF)])
    (∀ i ∈ [Instr.mput g0 (d 5) (r 4) 24, .mtake (da 29 4), .mstat (da 30 4), .mctl (rr 5 4 6), .mctl (rr 5 4 7)], Ready i g0 s) ∧
    Unheld s ∧ recorded s = .none ∧ (∃ s1, recordEntry s none 0 = .ok s1) ∧ (∃ s1, holdRecords s 3 = .ok s1) ∧
    poolOf s (s.src (r 4)) = some pool0 ∧ s.core.inHandler = false ∧ pool0.ctlStatus (s.src (r 6)).toNat = 0 ∧ pool0.ctlStatus (s.src (r 7)).toNat ≠ 0 := by
  intro s
  exact ⟨readyAll rfl rfl (by decide), unheld (by decide +kernel), by decide +kernel, ok_of (by decide +kernel), ok_of (by decide +kernel), by decide +kernel⟩

/-! ### Witnesses: events of the sequencer, of faults and of stops -/

def flight0 : Flight :=
  { ctx := .C, puts := [.reg .C 5 7], lt := 0, cap := [], flags := 0, landAt := 0, dueBy := 0, arrived := true, req := none, sec := 0, listed := false, ext := false, late := none,
    counted := true }
def flying (f : Flight) (s : State) : State := s.modCore (fun k => { k with flights := [f] })
def req0 : Req :=
  { num := 9, core := 0, ctx := .C, pool := 1, ask := .put 5 6, snap := snap0, pend := pend0, shard := 0, tries := 0, forwards := 0, sync := false,
    inserted := false, caused := [], poll := none, answer := none }
def withReq (l : List Req) (s : State) : State := { s with m := { s.m with reqs := l } }
def hdr0 : Nat := 9 * 2 ^ 60 + 2 * 2 ^ 48
def slice0 : Machine.Slice := { img := 0x1000, len := 32, idx := 0x1800 }
/-- q0 with C at the header of a section of two words. -/
def atHdr : State :=
  let t := { placedTask with img := { placedTask.img with c := slice0 } }
  let s := q0.modCore (fun k => { k with task := some t, c := { k.c with hdr := true } })
  { s with mem := s.mem.setRun 0x2000 (leBytes 8 hdr0) }

theorem witness_SequencerEvents :
    let f := flying flight0 q0
    let froz := q0.modCore (fun k => { k with throttled := true })
    let a : Req := { req0 with answer := some (.done [0] none) }
    let w : Instr := .waitc .tci (opA 7)
    let b := q0.modCore (fun k => { k with c := { k.c with wait := some (w, 0) } })
    let h := atHdr.modCore (fun k => { k with c := { k.c with strings := [(.L, 0)] } })
    let late := (h.modCore (fun k => { k with c := { k.c with strings := [(.L, 9)] } })).modM (fun m => { m with now := 10001 })
    let ext : Flight := { flight0 with ext := true, arrived := false }
    let hold := q0.modCore (fun k => { k with slot := .hold })
    let atL := froz.modCore (fun k => { k with slot := .l })
    let ends := withPhase (.ending 0x42 [.C]) f
    hold.core.slot = .hold ∧ (atL.core.slot = .l ∧ atL.core.frozen = true) ∧ (∃ st ds, ends.core.phase = .ending st ds) ∧
    (∀ st ds, f.core.phase ≠ .ending st ds) ∧ flight0.arrived = true ∧ (5 : BitVec 5) ≠ 0 ∧
    (flying ext q0).core.interlocked = false ∧ ext.late = none ∧ (flying ext q0).core.cyc ≤ ext.landAt ∧ a.answer = some (.done [0] none) ∧
    f.core.slot ≠ .hold ∧ (f.core.slot = .l → f.core.frozen = false) ∧ flight0.landAt ≤ f.core.cyc ∧ froz.core.frozen = true ∧
    (withReq [a] q0).m.reqs.find? (fun r => r.core == q0.core.num && r.answer.isSome) = some a ∧
    b.core.c.wait = some (w, 0) ∧ b.core.c.woken = false ∧ Drained q0 ∧ Machine.ready { b with core := { b.core with cur := .C } } w = true ∧
    atHdr.core.running = true ∧ atHdr.core.c.hdr = true ∧ atHdr.core.c.strings = [] ∧ atHdr.core.c.ended = false ∧ atHdr.core.c.trap = none ∧
    devRead atHdr atHdr.root ((atHdr.sliceOf .C).img + atHdr.core.c.pc).toNat 8 = some (leBytes 8 hdr0) ∧ hdrOk hdr0 = true ∧
    stringsOf .C hdr0 (atHdr.core.c.secNo + 1) = [] ∧
    h.core.running = true ∧ h.core.c.strings ≠ [] ∧ h.core.drained .C = true ∧ h.core.c.strings.all h.core.satisfied = true ∧
    (q0.modCore (fun k => { k with c := { k.c with secDone := 1 } })).core.canRetire .C = true ∧
    (flying ext q0).m.reqs.find? (fun r => r.core == q0.core.num && r.answer.isSome) = none ∧
    (flying ext q0).core.flights.find? (fun f => f.ext && !f.arrived) = some ext ∧ late.core.task.isSome = true ∧ late.core.c.hdr = true ∧
    (∃ w ∈ late.core.c.strings, late.core.satisfied w = false) ∧ late.m.stallTimeout < late.m.now - late.core.c.stringSince := by
  intro f froz a w b h late ext hold atL ends
  refine ⟨?_, ?_, ⟨_, _, rfl⟩, (by intro st ds h; cases h), ?_, ?_, ?_, ?_, ?_, ?_, ?_, ?_, ?_, ?_, ?_, ?_, ?_, .inr ?_, ?_⟩ <;> decide +kernel

/-- An external result that lands as it comes, with interlocks and behind its cycle; no template of the context has come; a stall of a
blocked WAITC. -/
theorem witness_SequencerEvents_late :
    let ext : Flight := { flight0 with ext := true, arrived := false }
    let behind := (flying ext q0).modCore (fun k => { k with cyc := 9 })
    let w : Instr := .waitc .tci (opA 7)
    let b := q0.modCore (fun k => { k with c := { k.c with wait := some (w, 0) } })
    let o := asked .C (.copy copyOp) false b
    let stalled := b.modM (fun m => { m with now := 10001 })
    (∀ s ∈ [flying ext m0, behind], s.core.flights = [ext] ∧ s.core.flights.find? (fun f => f.ext && !f.arrived) = some ext ∧
      s.m.reqs.find? (fun r => r.core == s.core.num && r.answer.isSome) = none) ∧ ext.late = none ∧ ext.puts = [.reg .C 5 7] ∧
    (flying ext m0).core.interlocked = true ∧ ext.landAt < behind.core.cyc ∧
    (∀ l ∈ o.core.lates, ({ o.core with cur := .C } : Core).lateReady l = false) ∧ stalled.core.task.isSome = true ∧
    stalled.core.c.hdr = false ∧ stalled.core.c.wait = some (w, 0) ∧ stalled.m.stallTimeout < stalled.m.now - 0 := by
  decide +kernel

/-- A context blocked in MWAIT with an armed monitor, which the device may wake. -/
theorem witness_SequencerEvents_wake :
    let w : Instr := .mwait g0 (d 5) (r 0)
    let b := q0.modCore (fun k => { k with c := { k.c with wait := some (w, 0), monitor := some ⟨3, false⟩ } })
    b.core.c.wait = some (w, 0) ∧ b.core.c.woken = false ∧ deviceWakes w = true ∧ Drained { b with core := { b.core with cur := .C } } ∧
    Machine.ready { b with core := { b.core with cur := .C } } w = false := by
  intro w b
  refine ⟨?_, ?_, ?_, .inr ?_, ?_⟩ <;> decide +kernel

theorem witness_PassingMovesOn :
    let at' (pc : Word) (last : Bool) := q0.modCore (fun k => { k with c := { k.c with pc := pc, secEnd := 32, last := last } })
    m0.place ≠ .slice ∧ (at' 8 false).place = .slice ∧ ((at' 8 false).here.pc + 12).toNat ≠ (at' 8 false).here.secEnd ∧
    (∀ l ∈ [true, false], (at' 20 l).place = .slice ∧ ((at' 20 l).here.pc + 12).toNat = (at' 20 l).here.secEnd ∧ (at' 20 l).here.last = l) := by
  decide +kernel

theorem witness_FaultEvents :
    let t : Task := { placedTask with handler := 120 }
    let s := q0.modCore (fun k => { k with task := some t })
    let at24 := withPhase (.replay pend0) (s.modCore (fun k => { k with c := { k.c with pc := 24, hist := [(0, 24)] } }))
    let at1 := withPhase (.replay { pend0 with occ := 1 }) at24
    s.core.busy = false ∧ s.core.awaits = false ∧ s.core.nonIdem = false ∧ pend0.early = false ∧ pend0.why = .fault ∧
    (withPhase (.pend pend0) s).core.phase = .pend pend0 ∧ (at24.core.atTarget pend0 = true ∨ at1.core.atTarget { pend0 with occ := 1 } = true) ∧
    handlerOf t pend0.flt.code = (0x10, 120) ∧ (120 : Word) ≠ Config.allOnes ∧ pend0.flt.code ≠ 0x42 ∧ pend0.flt.code ≠ 0x32 := by decide +kernel

theorem witness_StopEvents :
    let host : State := { q0 with m := { q0.m with duty := 1 } }
    let dbg := q0.modCore (fun k => { k with debugger := .slice, c := { k.c with dbg := true } })
    let lg := q0.modCore (fun k => { k with debugger := .logical })
    let stop : Pend := { pend0 with why := .stop false, lpc := 0 }
    let rep := withPhase (.replay stop) m0
    host.core.trappable .C = true ∧ host.m.duty.getLsbD 0 = true ∧ dbg.core.trappable .C = true ∧ dbg.core.c.dbg = true ∧ dbg.core.merged = false ∧
    dbg.core.debugger ≠ .none ∧ lg.core.stopping = true ∧ lg.place = .slice ∧ rep.core.atTarget stop = true ∧
    q0.core.phase = .run ∧ q0.core.rollbacks < 2 ∧ 2 ≤ (q0.modCore (fun k => { k with rollbacks := 2 })).core.rollbacks ∧
    (∀ o ∈ [none, some (true, pend0), some (false, pend0)],
      (withPhase (.stopped stop o) m0).core.phase = .stopped stop o ∧ (withPhase (.stopped stop o) m0).core.hub = false) := by decide +kernel
/-- The unit that fails has an entry in progress, or none. -/
theorem witness_StopEvents_failing :
    let e := chained .wbld 1 [] []
    let s := (withChain .tci 0 e q0).modCore (fun k => { k with rollbacks := 2 })
    s.core.phase = .run ∧ 2 ≤ s.core.rollbacks ∧ s.core.failing 4 = some (.tci, e) ∧ s.core.failing 1 = none := by decide +kernel
theorem witness_StopEvents_divergence :
    let t : Task := { placedTask with replay := true }
    let s := m0.modCore (fun k => { k with task := some t })
    let lg := q0.modCore (fun k => { k with task := some t, debugger := .logical })
    s.core.task = some t ∧ t.replay = true ∧ s.core.debugger = .none ∧ (∀ ch, ∀ e ∈ (s.core.chain ch).entries, e.begun = false) ∧
    (∀ r ∈ s.m.reqs, r.core = s.core.num → r.answer ≠ none) ∧ lg.core.task = some t ∧ lg.core.debugger ≠ .none ∧ lg.place = .slice :=
  ⟨rfl, rfl, rfl, fun ch e h => (by cases ch <;> cases h), no_requests rfl, rfl, by decide, by decide +kernel⟩

/-! ### Witnesses: engines -/

/-- A copy of 16 bytes from 0x1100 to register space 0. -/
def copyB : Bytes := leBytes 8 0x1100 ++ leBytes 8 0 ++ slice (copyT 0x80000) 16 96
def wbldB : Bytes := leBytes 8 0x1100 ++ leBytes 4 0x7FFF0 ++ leBytes 4 16
def aclrB : Bytes := leBytes 4 0 ++ leBytes 2 8
def sendB : Bytes := leBytes 8 0x1100 ++ slice sendT 8 104

/-- The two accesses of chunk k of the nest of e, whose destination lies at y. -/
def chunkAccesses (s : State) (e : Entry) (k : Nat) (y : Word) : List EngAccess :=
  let n := nestOf e.body
  [⟨n.ssp, engAt s.core n.ssp n.src (n.sAt k), n.c, false⟩, ⟨n.dsp, y, n.c, true⟩]

theorem witness_EngineEvents :
    let cp := chained .copy 1 [] copyB
    let s := withChain .tci 0 cp m0
    let wb := chained .wbld 1 [] wbldB
    let u := withChain .tci 0 wb m0
    let ac := chained .aclr 1 [] aclrB
    let v := withChain .tmx 0 ac m0
    let q (x : State) : State := x.modCore (fun k => { k with cur := .C })
    s.core.phase = .run ∧ s.core.throttled = false ∧ s.core.traces = false ∧ Memory.wf s.mem = true ∧ mayBegin (withChain .tci 0 { cp with begun := false } m0).core .tci { cp with begun := false } = true ∧
    s.core.entry .tci 1 = some cp ∧ 0 < prodList (nestOf cp.body).count ∧ sameSpace cp (nestOf cp.body) = false ∧ (nestOf cp.body).dsp = .regs ∧
    (∃ p, engSpot (q s) .S (nestOf cp.body).ssp (nestOf cp.body).src ((nestOf cp.body).sAt 0) (nestOf cp.body).c false (s.engineWho cp) 0 = .ok p ∧
      fine (match destSpot p.2 cp (nestOf cp.body) 0 (s.engineWho cp) with
        | .ok (.regs 0, y, _) => engWatch (q s) (s.core.watching cp) (chunkAccesses s cp 0 y) ()
        | _ => .error Stop.wait) = true) ∧
    u.core.entry .tci 1 = some wb ∧ 0 < wbldChunks wb ∧ u.core.debugger = .none ∧
    (∃ tg s1, checkSpace (q u) wb.ctx .global (w64 (le wb.body 0 8) + w64 (256 * 0)) (min 256 (le wb.body 12 4 - 256 * 0)) { wr := false }
      (u.engineWho wb) none 0 = .ok (tg, s1)) ∧
    v.core.entry .tmx 1 = some ac ∧ v.core.rsGen = none ∧ (v.core.chain .tmx).finished = [] ∧ 1 = (v.core.chain .tmx).counter + 1 ∧
    (withChain .tmx 0 { ac with done := [0] } m0).core.entry .tmx 1 = some { ac with done := [0] } := by
  intro cp s wb u ac v q
  exact ⟨rfl, rfl, by decide +kernel, by decide +kernel, by decide +kernel, by decide +kernel, by decide +kernel, by decide +kernel, by decide +kernel, bind_ok (by decide +kernel), by decide +kernel,
    by decide +kernel, by decide +kernel, ok2_of (by decide +kernel), by decide +kernel, by decide +kernel, by decide +kernel, by decide +kernel, by decide +kernel⟩

/-- A second chunk, of two, to global memory and to scratch, after the first; and the fill of a ring slot. -/
theorem witness_EngineEvents_copies : ∀ c ∈ [((0 : Nat), (0x1200 : Word), (none : Option (Nat × Nat))), (0x40000, p1, none), (0x140000, 0, some (0, 0))],
    let b := leBytes 8 0x1100 ++ leBytes 8 c.2.1.toNat ++ leBytes 2 2 ++ slice (copyT c.1) 18 94
    let e := { chained .copy 1 [0] b with ring := c.2.2, ranges := copyRanges (nestOf b) (c.2.2.map (fun _ => (1, 0))) }
    let s := withChain .tci 0 e (withRing 1 (ms p1 []))
    s.core.traces = false ∧ s.core.entry .tci 1 = some e ∧ Memory.wf s.mem = true ∧ 1 < prodList (nestOf e.body).count ∧
    (∃ p, engSpot (s.modCore (fun k => { k with cur := .C })) .S (nestOf e.body).ssp (nestOf e.body).src ((nestOf e.body).sAt 1) (nestOf e.body).c false
        (s.engineWho e) 1 = .ok p ∧
      fine (destSpot p.2 e (nestOf e.body) 1 (s.engineWho e) >>= fun x =>
        engWatch (s.modCore (fun k => { k with cur := .C })) (s.core.watching e) (chunkAccesses s e 1 x.2.1) ()) = true) := by
  intro c hc b e s
  exact ⟨by revert c; decide +kernel, by revert c; decide +kernel, by revert c; decide +kernel, by revert c; decide +kernel, bind_ok (by revert c; decide +kernel)⟩

/-- The last chunk of a ring fill is done. -/
theorem witness_EngineEvents_fill :
    let e := { chained .copy 1 [0] (leBytes 8 0x1100 ++ leBytes 8 0 ++ slice (copyT 0x140000) 16 96) with ring := some (0, 0) }
    let r0 : Ring := { ring 1 with pend := [⟨6, 1, none⟩] }
    let s := withChain .tci 0 e ((ms p1 []).modCore (fun k => { k with rings := [r0] }))
    s.core.entry .tci 1 = some e ∧ prodList (nestOf e.body).count ≤ e.done.length ∧ s.core.rings = [r0] ∧ r0.pend.map (·.num) = [1] ∧
      s.core.traces = false := by decide +kernel

/-- One pass of an MMA of one element, from allocation 1 and a BF16 tile of one row. -/
theorem witness_EngineEvents_pass :
    let e := chained .mma 1 [] (slice mmaT 0 72 ++ leBytes 8 p1.toNat ++ slice mmaT 80 28 ++ leBytes 4 accs.toNat)
    let s := (withChain .tmx 0 e (ms p1 [])).modCore (fun k =>
      { k with wb := k.wb.putRun 0 (leBytes 16 (1 + 272 * 2 ^ 32) ++ List.replicate 256 0) })
    s.core.entry .tmx 1 = some e ∧ e.done.length < prodList (tableOf e.body).count ∧ 
    (∃ x, passCheck (s.modCore (fun k => { k with cur := .C })) e (tableOf e.body) 0 = .ok x ∧
      fine (checkAcc x.2 x.1 (tableOf e.body) false) = true) ∧
    (withChain .tmx 0 (chained .adrain 1 [] []) m0).core.entry .tmx 1 = some (chained .adrain 1 [] []) ∧ badRow m0.core.badRegs 0 65536 = none := by
  intro e s
  exact ⟨by decide +kernel, by decide +kernel, bind_ok (by decide +kernel), by decide +kernel, by decide +kernel⟩

theorem witness_SendEvents :
    let e := { chained .send 1 [] sendB with src := 0x1300 }
    let s := withChain .tsx 0 e m0
    let e1 := { e with done := [1] }
    let s1 := withChain .tsx 0 e1 m0
    let q (x : State) : State := x.modCore (fun k => { k with cur := .C })
    s.core.phase = .run ∧ (s.core.throttled = false ∧ s.core.traces = false) ∧ e.begun = true ∧ e.kind = .send ∧ s.core.entry .tsx 1 = some e ∧ e.failed = none ∧ Entry.remote e = false ∧ s.core.debugger = .none ∧
    (∃ p, engSpot (q s) .S (engSpace (le e.body 38 2 % 4)) e.src 0 (le e.body 28 4) false (s.engineWho e) 0 = .ok p ∧
      fine (checkSpace p.2 .S .global (w64 (le e.body 0 8)) (le e.body 28 4) { wr := true } (s.engineWho e) none 0) = true) ∧
    s1.core.entry .tsx 1 = some e1 ∧ le e1.body 8 8 ≠ 0 ∧
    (∃ tg s2, checkSpace (q s1) .S .global (w64 (le e1.body 8 8)) 8 { wr := true, align := true } (s1.engineWho e1) (some 8) 0 = .ok (tg, s2)) ∧
    ({ e with done := [2, 1] } : Entry).done.length = (if le e.body 8 8 = 0 then 1 else 2) ∧ s.core.tsx.finished = [] := by
  intro e s e1 s1 q
  exact ⟨rfl, ⟨rfl, by decide +kernel⟩, rfl, rfl, by decide +kernel, rfl, by decide +kernel, rfl, bind_ok (by decide +kernel), by decide +kernel, by decide +kernel, ok2_of (by decide +kernel),
    by decide +kernel, by decide +kernel⟩

/-! ### Witnesses: memory, lines and scheduling -/

/-- A task whose table, at 0x20000, maps virtual 0x0 to 0xFFFF as one page at 0x50000, with extra bits in the leaf. -/
def tabled (bits : Nat) : State :=
  let s := q0.modCore (fun k => { k with task := some { placedTask with root := 0x20000 } })
  let a := (s.mem.setRun 0x20000 (leBytes 8 0x21001)).setRun 0x21000 (leBytes 8 0x22001)
  { s with mem := (a.setRun 0x22000 (leBytes 8 0x23001)).setRun 0x23000 (leBytes 8 (0x50003 + bits)) }

theorem witness_MemoryEvents :
    let s := tabled 0
    let cow := tabled 0x84
    let full := m0.modCore (fun k => k.modChain .tco (fun c => { c with slot := 31 }))
    (s.core.traces = false ∧ cow.core.traces = false ∧ s.core.tlb.find? (fun e => e.root == s.root && e.vpage == (0x5000 : Word).toNat % 2 ^ 56 / 4096) = none) ∧
    (∃ e, walk s s.root ((0x5000 : Word).toNat % 2 ^ 56) = .ok e) ∧ full.core.task = some placedTask ∧ 31 ≤ (full.core.chain .tco).slot ∧
    leafAt cow ((0x5000 : Word).toNat % 2 ^ 56) cow.root.toNat levels = some (0x23000, 0x50087, 16) ∧ bitOf 0x50087 7 = true ∧ bitOf 0x50087 2 = true := by
  intro s cow full
  exact ⟨by decide +kernel, ok_of (by decide +kernel), by decide +kernel, by decide +kernel, by decide +kernel, by decide +kernel⟩

/-- Line 3 of the window of allocation 2. -/
def line3 (st : LineState) (e : Nat) : Line := { num := 3, st := st, expiry := e, inv := false, pa := 0x44 }
def lined (l : List Line) : State := (m0.modCore (fun k => { k with allocs := [{ al2 with lines := l }] }))

theorem witness_LineEvents :
    let s := ms p1 []
    let late : State := s.modCore (fun k => { k with nowAt := 1600 })
    late.core.alloc 1 = some al1 ∧ al1.backed = false ∧ al1.expiry ≤ late.core.nowAt ∧ al1.zero = true ∧ 256 * 255 < al1.size ∧ 255 ∉ al1.cleared ∧
    s.core.alloc 2 = some al2 ∧ al2.window = some (0x1000, 8192) ∧ 128 * 63 < 8192 ∧
    (let lapsed := { al2 with lines := [{ line3 .clean 0 with num := 63 }] }
      ∀ a ∈ [al2, lapsed], ∀ l ∈ a.lines, l.num = 63 → l.lapsed s.core.nowAt = true) ∧
    fine (checkVirtual s s.root 0 (0x1000 + 128 * 63) 128 { wr := false, poison := false, tag := false, race := false } none none 0) = true ∧
    (∀ st ∈ [LineState.clean, .dirty, .writing, .rewritten], (lined [line3 st 0]).core.alloc 2 = some { al2 with lines := [line3 st 0] }) ∧
    (line3 .dirty 160).expiry ≤ m0.core.nowAt + 160 ∧ (line3 .dirty 16).expiry ≤ m0.core.nowAt + 16 ∧ rowOf al2 3 = 1 ∧
    (line3 .clean 0).expiry ≤ m0.core.nowAt := by
  decide +kernel

def queue0 : Queue :=
  { num := 5, root := 0, widx := 3, ridx := 2, st := .active, tenant := 0, prio := 1, size := 4, base := 0x1000, slot := some 0, notified := 0, notes := [], called := none, waiting := none,
    held := none, sight := Sight.new, past := [], hostRing := none }
def withQueues (l : List Queue) (s : State) : State := { s with m := { s.m with queues := l, stage := 8 } }
/-- 64 queues with slots: numbers 100 to 163, granted at ticks 1 to 64. -/
def taken64 : List Queue := (List.range 64).map (fun i => { queue0 with num := 100 + i, prio := 2, slot := some (i + 1) })

theorem witness_QueueEvents :
    let s := withQueues [queue0] m0
    let w : Queue := { queue0 with slot := none, waiting := some 0, num := 6, prio := 7 }
    let g := withQueues [w] m0
    let low : Queue := { queue0 with prio := 0, slot := some 0 }
    let e := withQueues (low :: w :: taken64.drop 1) m0
    let h : Queue := { queue0 with slot := some 0 }
    let v : State := { withQueues (w :: h :: taken64.drop 1) m0 with m := { (withQueues (w :: h :: taken64.drop 1) m0).m with now := 80000 } }
    s.m.queue 5 = some queue0 ∧ s.m.stage = 8 ∧ queue0.st ≠ .error ∧ queue0.widx < (18 : Word).toNat ∧ (18 : Word).toNat - queue0.ridx ≤ 2 ^ queue0.size ∧
    2 ^ queue0.size < (19 : Word).toNat - queue0.ridx ∧ g.m.slotted.length < 64 ∧ g.m.waitHead = some w ∧ g.m.queue 6 = some w ∧
    queue0.slot.isSome = true ∧ (∀ p ∈ s.m.packets, p.q ≠ 5) ∧ queue0.notified + 1000 ≤ 1000 ∧
    e.m.queue 5 = some low ∧ e.m.queue 6 = some w ∧ e.m.waitHead = some w ∧ e.m.lowest = some low ∧ 64 ≤ e.m.slotted.length ∧ low.prio < w.effective e.m.now ∧
    v.m.queue 6 = some w ∧ v.m.queue 5 = some h ∧ v.m.longest = some h ∧ w.waits = true ∧ w.waiting.getD v.m.now + 80000 ≤ v.m.now ∧ 64 ≤ v.m.slotted.length ∧ v.m.mapperOn = true := by
  decide +kernel

/-- The packet of type `k`, with bytes 24 to 39, at the read index of queue 5. -/
def packet (k : Nat) (b : Bytes) : State :=
  let s := withQueues [queue0] m0
  { s with mem := s.mem.setRun 0x2080 (leBytes 24 k ++ b) }
def packetOf (k : Nat) (b : Bytes) : Bytes := pad (leBytes 24 k ++ b) 64
def packet0 : Packet := { q := 5, idx := 1, kind := .signal, sig := 0, addend := 0, nodes := [], met := true, since := 0, status := 0, told := 0 }

theorem witness_PacketEvents :
    (∀ k ∈ [(1, []), (2, leBytes 8 0 ++ leBytes 4 1), (3, leBytes 8 0x1000 ++ leBytes 8 7), (4, []), (5, [])],
      nextPacket (packet k.1 k.2) 5 = some (queue0, packetOf k.1 k.2) ∧ packetOk (packetOf k.1 k.2) = true ∧ le (packetOf k.1 k.2) 0 1 = k.1 ∧
      (packet k.1 k.2).m.tracked + packetNodes (packetOf k.1 k.2) ≤ Config.trackerMax) ∧
    nextPacket (packet 6 []) 5 = some (queue0, packetOf 6 []) ∧ packetOk (packetOf 6 []) = false ∧
    (let x : Queue := { queue0 with held := some (0x1000, 0) };
      devRead (withQueues [x] m0) x.root (0x1000 : Word).toNat 8 = some (leBytes 8 0) ∧ (0 : Word).toNat ≤ leNat (leBytes 8 0)) ∧
    (let s := withQueues [queue0] { m0 with m := { m0.m with packets := [packet0] } };
      s.m.packets.find? (fun o => o.q == 5 && o.idx == packet0.idx) = some packet0 ∧ s.m.packetDone packet0 = true ∧ packet0.sig = 0) ∧
    (let p : Packet := { packet0 with sig := 0x1000, addend := 3 }
      let s := withQueues [queue0] { m0 with m := { m0.m with packets := [p] } };
      s.m.packets.find? (fun o => o.q == 5 && o.idx == p.idx) = some p ∧ s.m.packetDone p = true ∧ p.sig ≠ 0 ∧
      (devRead (devWrite s queue0.root 0x1008 (leBytes 8 0)) queue0.root 0x1000 8).isSome = true) := by
  decide +kernel

def ready0 : Node := { node0 with st := .ready, members := [], kflags := 0 }
/-- The node is ready and core 1 is the one core allotted to its tenant, which runs. -/
def sched (n : Node) : State :=
  let s := withNode n m0
  let m : Module := { s.m with stage := 8, running := [0], tenants := [⟨0, [1], 1000, 0⟩], sched := ⟨Config.ptpStart, 100000, [(0, 5)]⟩ }
  { s with others := [(1, Core.reset 1)], m := m }

theorem witness_NodeEvents :
    let p : Node := { ready0 with st := .pending }
    let s := sched ready0
    let bad : Node := { ready0 with kflags := 0x18 }
    let big : Node := { ready0 with cores := 2, headSince := some 0 }
    let b : State := (sched big).modM (fun m => { m with now := 10000 })
    let x : Node := { node0 with members := [⟨0, 0, 0, some 0, none⟩], next := 1 }
    (sched p).m.node 0 = some p ∧ (sched p).m.rejected p.idesc p.root = false ∧ (∀ i ∈ (sched p).m.nodes, p.dependsOn i = false) ∧ (sched p).m.packets = [] ∧
    s.m.node 0 = some ready0 ∧ badModes s ready0 = false ∧ ready0.kflags.getLsbD 3 = false ∧ canDispatch s ready0 [1] = true ∧ 1 ≠ s.core.num ∧
    (s.coreAt 1).num = 1 ∧ badModes (sched bad) bad = true ∧ s.m.head = some ready0 ∧ b.m.head = some big ∧ b.m.held = none ∧ big.fits b = false ∧
    0 + 10000 ≤ b.m.now ∧ x.gang = true ∧ (∀ m ∈ x.members, m.ended.isSome = true) ∧ x.exhausted = true ∧ (sched x).m.node 0 = some x ∧ ({ x with gang := false } : Node).more = false ∧
    (∃ e ∈ s.m.sched.entries, e.2 = 5) ∧
    (let first : Node := { big with id := 1, prio := 7 }
      let h : State := (sched ready0).modM (fun m => { m with nodes := [ready0, first], hold := some (1, [1]) })
      h.m.node 0 = some ready0 ∧ canDispatch h ready0 [1] = true ∧ h.m.held = some (1, [1]) ∧ 1 ≠ ready0.id) := by
  decide +kernel

/-- The instant 5 ns after the start of the fade clock is due at its tick 0. -/
theorem witness_NodeEvents_instant : (sched ready0).m.instantDue 5 = true := by
  have h : (sched ready0).m.instantOff 5 = 5 := by
    show ((((Config.ptpStart : Int) + (5 : Nat)) - (Config.ptpStart + 100 * 0 : Nat)) % (100000 : Nat)).toNat = 5
    rw [show (((Config.ptpStart : Int) + (5 : Nat)) - (Config.ptpStart + 100 * 0 : Nat)) = 5 by omega]
    decide
  unfold Module.instantDue
  rw [h]; decide +kernel

def stop0 (sv : Bool) : StopReq := { since := 0, prio := 0, incoming := none, instant := false, saving := sv, midStep := false }
def saved0 : Saved := { task := placedTask, core := 0, boundary := none, ckpt := Ckpt.launch, dir := [], midStep := false, hz := [0, 0, 0], redo := [], chains := [] }

theorem witness_SaveEvents :
    let s := m0.modCore (fun k => { k with stop := some (stop0 false) })
    let late : State := s.modM (fun m => { m with now := 1000 })
    let sv := m0.modCore (fun k => { k with stop := some (stop0 true) })
    let r : State := { (sched ready0).modM (fun m => { m with saved := [saved0], tenants := [⟨0, [0], 1000, 0⟩] }) with core := Core.reset 0 }
    m0.core.task = some placedTask ∧ m0.core.stop = none ∧ late.core.phase = .run ∧
    late.core.merged = true ∧ (stop0 false).since + ((late.m.tenant placedTask.tenant).map (·.budget)).getD 1000 ≤ late.m.now ∧ s.core.notStarted = true ∧
    sv.core.allEntries = [] ∧ sv.core.nextSave = none ∧ (devRead sv placedTask.root placedTask.saveArea.toNat 512).isSome = true ∧
    r.m.saved.find? (fun w => w.task.num.toNat == saved0.task.num.toNat) = some saved0 ∧ saved0.task.kmerged = true ∧ resumeGroup r.m saved0 = [saved0] ∧
    saved0.fitsOn r r.core.num = true := by
  decide +kernel

/-- The allocations that a save takes: a window, an expired one, live ones that are copied as they are and wound first, and one whose data area
is not mapped; and under another policy. -/
theorem witness_SaveEvents_allocations :
    let small : Alloc := { al1 with size := 4096 }
    let sv (a : Alloc) : State := m0.modCore (fun k => { k with stop := some (stop0 true), allocs := [a] })
    let data (s : State) (a : Alloc) := devRead s placedTask.root (placedTask.saveArea + w64 (4096 + a.base)).toNat a.size
    (∀ a ∈ [al2, { small with expiry := 0 }, small, { small with expiry := 2 }, al1],
      (sv a).core.task = some placedTask ∧ (sv a).core.stop = some (stop0 true) ∧ (sv a).core.allEntries = [] ∧ (sv a).core.nextSave = some a ∧
      (sv a).core.saveTick = none) ∧
    (((sv al1).m.tenant placedTask.tenant).map (·.park)).getD 0 = 0 ∧ al2.backed = true ∧ al1.backed = false ∧
    saveExpiry (sv small).core.saved { small with expiry := 0 } ≤ (sv small).m.now ∧ (sv small).m.now < saveExpiry (sv small).core.saved small ∧
    (sv small).m.now < saveExpiry (sv small).core.saved { small with expiry := 2 } ∧ (sv small).m.now < saveExpiry (sv small).core.saved al1 ∧
    saveExpiry (sv small).core.saved small - 0 ≥ saveTime 4096 ∧ saveExpiry (sv small).core.saved { small with expiry := 2 } - 0 < saveTime 4096 ∧
    (data (sv small) small).isSome = true ∧ data (sv al1) al1 = none ∧
    ((((sv al1).modM (fun m => { m with tenants := [⟨0, [0], 1000, 1⟩] })).m.tenant placedTask.tenant).map (·.park)).getD 0 ≠ 0 := by
  decide +kernel

/-- A save area whose directory names one allocation, of each state but 1. -/
theorem witness_SaveEvents_restore : ∀ st ∈ [(0 : BitVec 8), 2, 3],
    let e : DirEntry := { id := 1, ring := none, tag := 3, state := st, layout := 0, rem := 100, size := 4096, window := none, data := 0x1000 }
    let v : Saved := { saved0 with dir := [e] }
    let r : State := { (sched ready0).modM (fun m => { m with saved := [v], tenants := [⟨0, [0], 1000, 0⟩] }) with core := Core.reset 0 }
    r.m.saved.find? (fun w => w.task.num.toNat == v.task.num.toNat) = some v ∧ v.boundary = none ∧ e.state ≠ 1 ∧ resumeGroup r.m v = [v] ∧
      v.fitsOn r r.core.num = true ∧ (placeAlloc r.core e.size).isSome = true ∧ r.core.alloc e.id = none := by
  decide +kernel

theorem witness_ParkingAndDieEvents :
    let a : Alloc := { al1 with parked := some 0, expiry := 160 }
    let b : Alloc := { al2 with parked := some 0, lines := [line3 .dirty 100] }
    let m : Module := { State.reset.m with saved := [saved0], tenants := [⟨0, [0], 1000, 1⟩] }
    let s : State := { State.reset with core := { Core.reset 0 with allocs := [a, b] }, m := m }
    parkedAt s 1 = [(a, saved0)] ∧ ((s.m.tenant saved0.task.tenant).map (·.park)).getD 0 = 1 ∧ parkedLife saved0.ckpt s.m.now a = 160 ∧
    devRead s saved0.task.root saved0.task.saveArea.toNat 512 = none ∧
    parkedAt s 2 = [(b, saved0)] ∧ b.backed = true ∧ parkedLife saved0.ckpt s.m.now b = 100 ∧ s.m.dieOut.getLsbD 0 = false ∧ s.core.num / 24 = 0 ∧
    (Core.reset 767).num / 24 = 31 ∧ s.m.dieOut.getLsbD 31 = false := by
  decide +kernel

/-! ### Witnesses: pools -/

def pooled (sh : List Shard) (q : Req) (l : List Req) : State := withReq (q :: l) (withPool { pool0 with shards := sh } m0)
def four : List Elem := [elem 1 0, elem 2 1, elem 3 2, elem 4 3]
def take0 : Req := { req0 with ask := .take true }
def total2 : Nat := 2

theorem witness_PutAndTakeEvents :
    let p (sh : List Shard) : Pool := { pool0 with shards := sh }
    let fullS : Shard := { shard0 with elems := four }
    let q : Req := { req0 with num := 10 }
    let queued : Shard := { shard0 with queued := [(10, false)] }
    let both : Shard := { shard0 with queued := [(10, false)], notice := some { fence := none, pending := [1], move := none } }
    let one : Shard := { shard0 with elems := [elem 1 0] }
    let k : Req := { take0 with sync := true }
    let polled : Req := { take0 with poll := some (some 2) }
    let low : Shard := { shard0 with notice := some { fence := none, pending := [1], move := none } }
    let s := pooled [fullS] req0 []
    s.m.req 9 = some req0 ∧ req0.answer = none ∧ s.m.pool 1 = some (p [fullS]) ∧ (p [fullS]).shard 0 = some fullS ∧ (∀ x ∈ (p [fullS]).shards, x.waits 9 = false) ∧
    (p [fullS]).shards.length * pool0.caps ≤ (p [fullS]).count ∧
    (pooled [shard0] req0 []).m.pool 1 = some (p [shard0]) ∧ (p [shard0]).count < 1 * pool0.caps ∧ shard0.elems.length < pool0.caps ∧ shard0.notice = none ∧ shard0.queued = [] ∧
    (pooled [low] req0 []).m.pool 1 = some (p [low]) ∧ (p [low]).shard 0 = some low ∧ low.notice ≠ none ∧
    precedes ((p [low]).stamp 5 m0.m.now, low.die, low.seq) ((p [low]).published low) = true ∧
    (∀ x ∈ [queued, both], (pooled [x] req0 [q]).m.req 10 = some q ∧ x.queued.find? (fun w => !w.2) = some (10, false) ∧ (p [x]).shard 0 = some x ∧
      (p [x]).count < 1 * pool0.caps) ∧ q.shard = req0.shard ∧ (p [both]).num = req0.pool ∧ queued.die = req0.shard ∧
    (pooled [one] take0 []).m.req 9 = some take0 ∧ ((p [one]).held one).head? = some (elem 1 0) ∧
    ((p [one]).dies.all (fun d => ((p [one]).knows one d).all (fun f => !before f ((p [one]).rank (elem 1 0))))) = true ∧
    (pooled [shard0] k []).m.req 9 = some k ∧ (p [shard0]).syncShard = none ∧ (p [one]).syncShard = some (0, elem 1 0) ∧
    (pooled [shard0] polled []).m.req 9 = some polled ∧ polled.poll = some (some (((p [shard0]).shards.map (·.completed)).foldl (· + ·) 0)) ∧
    (∀ x ∈ (p [shard0]).shards, (p [shard0]).held x = [] ∧ x.queued = []) := by
  decide +kernel

theorem witness_FenceEvents :
    let nt : Notice := { fence := none, pending := [1], move := none }
    let a : Shard := { shard0 with notice := some nt }
    let b : Shard := { shard0 with die := 1 }
    let p : Pool := { pool0 with shards := [a, b] }
    let acked : Pool := { pool0 with shards := [{ a with notice := some { nt with pending := [], move := none } }, b] }
    let src : Shard := { shard0 with elems := [elem 1 0] }
    let p2 : Pool := { pool0 with shards := [src, b] }
    let c : Req := { req0 with ask := .ctl 4, inserted := true }
    let moved : Pool := { pool0 with shards := [{ a with notice := some { nt with pending := [], move := some (1, elem 1 0) } }, { b with elems := [elem 1 0] }] }
    let wide : Pool := { p2 with q := 16 }
    (withPool p m0).m.pool 1 = some p ∧ p.shard 0 = some a ∧ a.notice = some nt ∧ 1 ∈ nt.pending ∧ acked.shard 0 = some { a with notice := some { nt with pending := [], move := none } } ∧
    moved.shard 0 = some { a with notice := some { nt with pending := [], move := some (1, elem 1 0) } } ∧
    p2.shard 0 = some src ∧ p2.movable src = [elem 1 0] ∧ wide.movable src = [elem 1 0] ∧ p2.shard 1 = some b ∧ p2.leastFence (p2.published src) = true ∧ p2.greatestFence (p2.published b) = true ∧
    b.notice = none ∧ b.elems.length < p2.caps ∧ Fence.below (p2.fenceWith b (elem 1 0)) (p2.published b) = true ∧
    wide.shard 0 = some src ∧ wide.shard 1 = some b ∧ wide.leastFence (wide.published src) = true ∧ wide.greatestFence (wide.published b) = true ∧
    Fence.below (wide.fenceWith b (elem 1 0)) (wide.published b) = false ∧ b.elems.length < wide.caps ∧
    (withReq [c] (withPool p m0)).m.req 9 = some c ∧ (∀ x ∈ p.shards, x.die ∉ c.caused) ∧ c.pool = 1 := by
  decide +kernel

/-! ### Witnesses: services, observing and the outside -/

/-- A merged task with that table, service n called and x1, x2 in the context that called it. -/
def called (n : BitVec 32) (x1 x2 : Word) : State :=
  withPool pool0 ((tabled 4).modCore (fun k => { k with merged := true, svc := some (n, none), s := (k.s.put 1 x1).put 2 x2 }))

/-- A repair queue in state 1; a grant record of a pool that takes 64 entries of each die. -/
def repairB : Bytes := leBytes 8 0 ++ leBytes 8 1 ++ leBytes 8 41 ++ leBytes 8 0
def grantB : Bytes := leBytes 8 1 ++ leBytes 4 1 ++ leBytes 4 64 ++ leBytes 8 1024 ++ List.replicate 40 0
def launch0 : LaunchRec := { q := 3, idx := 7, times := [] }

theorem read_of {s : State} {p : Word} {n : Nat} {acq : Bool} {bs : Bytes} (h : ((svcRead s p n acq).toOption.map (·.1)) = some bs) :
    ∃ t, svcRead s p n acq = .ok (bs, t) := by
  cases e : svcRead s p n acq with
  | error x => rw [e] at h; cases h
  | ok q => rw [e] at h; exact ⟨q.2, by simp only [Except.toOption, Option.map_some, Option.some.injEq] at h; rw [← h]⟩

theorem witness_ServiceEvents :
    let a := called 0x21 0x1000 0
    let b := called 0x30 0x1000 0
    let c := called 0x31 0x701 0
    (∃ s1, svcRead a (a.core.svcCtx.get 1 + 8) 8 true = .ok (leBytes 8 0, s1)) ∧ leNat (leBytes 8 0) ≠ 1 ∧
    (∃ s1, svcRead b (b.core.svcCtx.get 1) 64 = .ok (leBytes 64 0, s1)) ∧ grantOk (leBytes 64 0) = false ∧
    c.core.svc = some (0x31, none) ∧ poolOf c (c.core.svcCtx.get 1) = some pool0 ∧ (called 0x40 0 0).m.launches = [] := by
  intro a b c
  exact ⟨read_of (by decide +kernel), by decide, read_of (by decide +kernel), by decide +kernel, by decide +kernel, by decide +kernel, by decide +kernel⟩

/-- The services that do what they are for. -/
theorem witness_ServiceEvents_done :
    let s (b : Bytes) (n : BitVec 32) (x1 x2 : Word) : State :=
      { called n x1 x2 with mem := (called n x1 x2).mem.setRun 0x51000 b, m := { (called n x1 x2).m with launches := [launch0] } }
    let a := s repairB 0x21 0x1000 0
    let b := s grantB 0x30 0x1000 0
    let c := s [] 0x40 (3 * 2 ^ 32 + 7) 0x1000
    a.core.svc = some (0x21, none) ∧ (∃ x, svcRead a (a.core.svcCtx.get 1 + 8) 8 true = .ok x ∧ (x.1 = leBytes 8 1 ∧
      ∃ y, svcRead x.2 (a.core.svcCtx.get 1 + 16) 8 = .ok y ∧ (y.1 = leBytes 8 41 ∧
        ∃ z, svcWrite y.2 (a.core.svcCtx.get 1 + 24) (leBytes 8 42) = .ok z ∧
          fine (svcWrite z (a.core.svcCtx.get 1 + 8) (leBytes 8 0) true) = true))) ∧
    b.core.svc = some (0x30, none) ∧ (∃ s1, svcRead b (b.core.svcCtx.get 1) 64 = .ok (grantB, s1)) ∧ grantOk grantB = true ∧
    b.m.pools.length < Config.pools ∧ b.m.diesIn ≠ [] ∧ (∀ d ∈ b.m.diesIn, b.m.sramUsed d + le grantB 12 4 ≤ Config.poolSram) ∧
    c.core.svc = some (0x40, none) ∧ (∃ s1, svcWrite c (c.core.svcCtx.get 2) (pad launch0.bytes 64) = .ok s1) ∧
    c.m.launches.find? (fun r => r.q == (c.core.svcCtx.get 1).toNat / 2 ^ 32 && r.idx % 2 ^ 32 == (c.core.svcCtx.get 1).toNat % 2 ^ 32) =
      some launch0 := by
  intro s a b c
  refine ⟨by decide +kernel, ?_, by decide +kernel, read_of (by decide +kernel), by decide +kernel, by decide +kernel, by decide +kernel,
    by decide +kernel, by decide +kernel, ok_of (by decide +kernel), by decide +kernel⟩
  obtain ⟨x, h, k⟩ := bind_ok (e := svcRead a (a.core.svcCtx.get 1 + 8) 8 true) (f := fun x =>
    svcRead x.2 (a.core.svcCtx.get 1 + 16) 8 >>= fun y => svcWrite y.2 (a.core.svcCtx.get 1 + 24) (leBytes 8 42) >>= fun z =>
      if x.1 = leBytes 8 1 ∧ y.1 = leBytes 8 41 then svcWrite z (a.core.svcCtx.get 1 + 8) (leBytes 8 0) true else .error .wait)
    (by decide +kernel)
  obtain ⟨y, hy, ky⟩ := bind_ok k
  obtain ⟨z, hz, kz⟩ := bind_ok ky
  split at kz
  · rename_i e
    exact ⟨x, h, e.1, y, hy, e.2, z, hz, kz⟩
  · cases kz

/-- The report of service 0x50, whatever its length, fits at a mapped address. -/
theorem witness_ServiceEvents_report :
    let s : State := (called 0x50 0x1000 0x2000).modM (fun m => { m with stage := 8 })
    s.core.svc = some (0x50, none) ∧ s.m.stage = 8 ∧ ∃ b s1, svcRead s (s.core.svcCtx.get 1) 32 = .ok (b, s1) ∧
      ∃ s2, svcWrite s1 (s.core.svcCtx.get 2) (s.m.report b) = .ok s2 := by
  intro s
  refine ⟨by decide +kernel, by decide +kernel, ?_⟩
  have all : ∀ n : Fin 1025, fine (svcRead s (s.core.svcCtx.get 1) 32 >>= fun q =>
      svcCheck q.2 (s.core.svcCtx.get 2) n.1 true) = true := by decide +kernel
  obtain ⟨⟨b, s1⟩, h, _⟩ := bind_ok (all 0)
  refine ⟨b, s1, h, ?_⟩
  have k := all ⟨(s.m.report b).length, by unfold Module.report; simp only [List.length_take]; omega⟩
  rw [h] at k
  obtain ⟨⟨ps, t⟩, e⟩ := ok_of k
  have e2 : svcCheck s1 (s.core.svcCtx.get 2) (s.m.report b).length true = .ok (ps, t) := e
  exact ⟨_, by unfold svcWrite; rw [e2]⟩

theorem witness_ObservingEvents :
    let f : Flight := { flight0 with arrived := false, puts := [.reg .C 5 0], landAt := 8 }
    let s := flying f m0
    let c := m0.modCore (fun k => { k with perf := { k.perf with sample := [⟨.C, none⟩] } })
    let g := m0.modCore (fun k => { k with trace := { k.trace with ctl := 1, len := 4096, dropped := 3 } })
    s.core.flights = [f] ∧ f.req = none ∧ f.ext = false ∧ f.late = none ∧ s.core.interlocked = true ∧ perfSelOk 0x3 = true ∧ perfSelOk 0xFFFFFFFFFFFFFFFF = false ∧
    c.core.perf.sample = [⟨.C, none⟩] ∧ c.core.traces = false ∧ g.core.traces = true ∧ g.core.trace.dropped ≠ 0 ∧ g.traceMapped = true ∧
    (withPhase (.ending 0x42 [.L, .C]) m0).core.phase = .ending 0x42 [.L, .C] ∧ m0.core.cutDump = [] ∧
    ((withPhase (.ending 0x42 [.L]) m0).modCore (fun k => { k with cutDump := [[1]] })).core.cutDump ≠ [] := by
  decide +kernel

def report0 (ok : Bool) (n : BitVec 8) : StageReport :=
  { ok := ok, reason := n, linksDown := 0, diesOut := 0, coresOut := [], portsUp := 0, ptpLocked := true, number := 0, queues := [] }

theorem witness_OutsideEvents :
    let st (n : BitVec 8) : State := m0.modM (fun m => { m with stage := n })
    let m : RemoteSend := { root := 0, dst := 0x1000, flag := 0, addend := 0, payload := leBytes 16 7 }
    let o : CodeObject := { base := 0x20000, externs := [], kernels := [] }
    let head : Bytes := leBytes 4 0x314F4843 ++ leBytes 4 1 ++ List.replicate 56 0
    let u : State := { m0 with mem := m0.mem.setRun 0x2000 head }
    let cut : BitVec 64 := BitVec.allOnes 64
    let k : State := { m0 with mem := m0.mem.setRun 0x2000 (head.take 32 ++ leBytes 4 1 ++ List.replicate 28 0 ++ [4, 1] ++ List.replicate 22 0) }
    let boot : State := { m0 with m := { m0.m with bootPage := some 0x1000, stage := 8 } }
    let q0' : QueueMade := { num := 5, root := 0, tenant := 0, prio := 1, size := 4, base := 0x1000, inHost := false }
    Memory.wf m0.mem = true ∧ (st 2).m.stage = 2 ∧ hubCut 0 = false ∧ hubCut cut = true ∧ (st 0).m.stage = 0 ∧
    (st 6).m.ptpSince + 100000000 ≤ ((st 6).modM (fun m => { m with now := 100000000 })).m.now ∧
    ({ m0 with m := { m0.m with bootPage := some 0x1000 } } : State).m.bootPage = some 0x1000 ∧
    (m0.loadObject 0x1000 0 { o with base := 0x1000 } = .error .base) ∧ (∃ p, u.loadObject 0x1000 0 o = .ok p) ∧ objectGiven m0 0x1000 0 { o with base := 0x1000 } = true ∧
    objectGiven u 0x1000 0 o = true ∧ objectGiven k 0x1000 0 o = false ∧ ((st 8).m.showsBoot 0 = false ∧ boot.m.showsBoot 1 = true ∧ rangeGranules 0x1000 8 = [0x1000 / 32]) ∧
    queueOk q0' = true ∧ (report0 true 0).ptpLocked = true ∧ (st 0).m.stage.toNat < 8 ∧ (st 7).m.stage.toNat < 8 ∧ (report0 true 0).ok = true ∧ (st 1).m.stage = 1 ∧ (report0 false 3).ok = false ∧ (st 6).m.stage = 6 ∧
    (st 8).m.stage = 8 ∧ 16 ∈ [1, 2, 4, 8, 16] ∧ m0.core.num < 768 ∧ m0.core.num / 24 = 0 ∧ (devRead m0 0 0x1000 128).isSome = true ∧
    (∃ s1, remoteWrite m0 m.root m.dst (fun _ => m.payload) m.payload.length = .ok s1) ∧ populated 0 4 = true ∧ populated (Config.stackBytes - 4) 4 = true := by
  intro st m o head u cut k boot q0'
  exact ⟨by decide +kernel, by decide +kernel, by decide +kernel, by decide +kernel, by decide +kernel, by decide +kernel, rfl, by rfl,
    ok_of (by decide +kernel), by decide +kernel, by decide +kernel, by decide +kernel, by decide +kernel, by decide +kernel, by decide, by decide +kernel, by decide +kernel, by decide, by decide +kernel, by decide, by decide +kernel, by decide +kernel, by decide, by decide +kernel,
    by decide +kernel, by decide +kernel, ok_of (by decide +kernel), by decide +kernel, by decide +kernel⟩

/-! ### Witnesses: frames, faults and the step -/

theorem witness_ScalarWordFrame : ∀ i ∈ [Instr.add (rr 5 6 7), .fadd ⟨g0, d 5, r 6, r 7, .fp32, .rne⟩, .ldi ⟨g0, d 0, 7⟩],
    (scalarDst i).isSome = true ∧ i.check = none ∧ m0.wlog = [] ∧ (∃ t, exec i m0 = .next t) ∧ (∃ t, exec i q0 = .next t) := by
  intro i hi
  refine ⟨by revert i; decide, by revert i; decide, rfl, ?_, ?_⟩ <;>
    exact let ⟨_, h⟩ := exec_ends i _; ⟨_, h⟩

theorem witness_GuardAndBars :
    h0.core.hub = true ∧ hubBarred (.exit g0) = true ∧ hubBarred (.ld (ld64 .scratch)) = true ∧ hubBarred (.copy ⟨g0, 22, r 20, r 21⟩) = true ∧
    hubBarred (.ld (ld64 .global)) = false ∧ allowed (.tlbi (opAB 4 0) 1) m0.mode = false ∧ allowed (.tlbi (opAB 4 0) 1) h0.mode = true ∧
    allowed (.swrite (opA 5) 0x000) m0.mode = false ∧ m0.here.guard (guardOf (.abort ⟨⟨false, 9, 0⟩, 1⟩)) = false ∧
    (Instr.abort ⟨⟨false, 9, 0⟩, 1⟩).check = none ∧ m0.core.interlocked = true ∧ m0.here.wait = none := by
  decide +kernel

theorem witness_TakingAFault :
    let t : Task := { placedTask with handler := 120 }
    let s := m0.modCore (fun k => { k with task := some t })
    q0.core.hub = false ∧ q0.core.phase = .run ∧ q0.core.merged = false ∧ s.core.merged = true ∧ handlerOf t 0x10 = (0x10, 120) ∧
    (120 : Word) ≠ Config.allOnes ∧ handlerOf placedTask 0x10 = (0x10, Config.allOnes) ∧ handlerOf t 0x19 = (0x10, 120) ∧
    (withPhase (.handler pend0) s).core.phase = .handler pend0 ∧ (withPhase (.handler pend0) s).core.hub = false ∧ h0.core.hub = true ∧ h0.core.traps.length < 4 ∧
    h0.core.traces = false ∧
    4 ≤ (h0.modCore (fun k => { k with traps := List.replicate 4 (0, .u) })).core.traps.length := by
  decide +kernel

/-- q0 with every slice at 0x1000, every context at the first word of its section, and the words w there. -/
def running (sl : Slot) (w : IWord) : State :=
  let t : Task := { placedTask with img := { pimg := 0, pwords := 2, regbits := 0, l := slice0, c := slice0, s := slice0 } }
  let x (k : Context) : Context := { k with pc := 8, secEnd := 32, hdr := false, secNo := 1 }
  let s := q0.modCore (fun k => { k with task := some t, slot := sl, l := x k.l, c := x k.c, s := x k.s })
  { s with mem := s.mem.setRun 0x2000 (leBytes 8 hdr0 ++ leBytes 12 w.toNat ++ leBytes 12 w.toNat) }
def nopWord : IWord := 0x607000000000000000000000
def nopBytes : Bytes := leBytes 12 nopWord.toNat

theorem witness_StepRunsTheDecodedWord :
    let s := running .l nopWord
    let u := running .c1 0
    (∀ sl ∈ [Slot.l, .c1, .c2 true 8, .s], let s := running sl nopWord; s.m.halted = false ∧ s.agenda = [] ∧ urgent s = none ∧ caughtUp s.core = false) ∧
    s.core.frozen = false ∧ s.core.merged = false ∧ (∀ c ∈ [Ctx.L, .C, .S], s.core.canIssue c = true ∧ (s.onCtx c).past = false ∧
      (s.onCtx c).fetch = some nopBytes ∧ decode nopBytes = .ok (.nop (imm 0), []) ∧ hazard (s.onCtx c) (.nop (imm 0)) = none ∧
      (s.onCtx c).fetchMisses = [] ∧ (s.onCtx c).misses (.nop (imm 0)) = []) ∧ (u.onCtx .C).fetchMisses = [] ∧
    pairs (running (.c2 true 8) nopWord) true 8 = true ∧ u.core.canIssue .C = true ∧ (u.onCtx .C).past = false ∧ (u.onCtx .C).fetch = some (leBytes 12 0) ∧
    (decode (leBytes 12 0)).toOption = none ∧
    (let v := m0.modCore (fun k => { k with c := { k.c with pc := 12 * 4096 } });
      urgent v = none ∧ v.core.slot = .c1 ∧ v.core.canIssue .C = true ∧ (v.onCtx .C).past = true) ∧
    (let t := { placedTask with root := 0x20000 }
      let w : State := { (tabled 0).modCore (fun k => { k with task := some t, merged := true, tlb := [] }) with m := { m0.m with duty := 1 } }
      w.agenda = [] ∧ urgent w = none ∧ caughtUp w.core = false ∧ w.core.slot = .c1 ∧ w.core.canIssue .C = true ∧ (w.onCtx .C).past = false ∧
      (w.onCtx .C).fetchMisses ≠ [] ∧ w.m.duty.getLsbD 0 = true) := by
  decide +kernel

theorem witness_StepRunsTheDecodedWord_agenda :
    m0.m.halted = false ∧ ({ m0 with agenda := [.row .fadeTick] } : State).agenda = .row .fadeTick :: [] := ⟨by decide +kernel, rfl⟩

theorem witness_StepRunsTheDecodedWord_halted : (m0.modM (fun m => m.halt 3)).m.halted = true := by decide +kernel

theorem witness_DecodeOfEncode : (Instr.add (rr 31 0 31)).wf = true ∧ encode (.add (rr 31 0 31)) = some 0x00100001F00001F000000000 ∧
    (Instr.emulationTrap 0x1FFFFFFFFFFFFFFFFFFFFFFF).wf = true := by decide

theorem witness_StepKeepsInv : Inv m0 ∧ (∃ t, step m0 = .next t) ∧ Memory.wf (running .c1 nopWord).mem = true := by
  refine ⟨⟨by decide +kernel, rfl⟩, ?_, by decide +kernel⟩
  unfold step
  cases turn m0 with
  | row i t => exact let ⟨_, h⟩ := exec_ends i t; ⟨_, h⟩
  | fault f t => exact ⟨_, rfl⟩
  | idle t => exact ⟨_, rfl⟩

/-! ### Values: what a step makes of the values of the spec's examples -/

/-- One step of s, on a core whose C issues first, that fetches and runs the word w. -/
def ran (s : State) (w : Nat) : Option State :=
  match step ((s.modCore (fun k => { k with slot := .c1 })).withFetchWord 96 w) with
  | .next t => some t
  | _ => none

/-- The register n after the word w with these registers set, and the flags. -/
def after (w : Nat) (l : List (BitVec 5 × Word)) (n : BitVec 5) : Option Word := (ran (set m0 l) w).map (·.core.c.get n)
def flags (w : Nat) (l : List (BitVec 5 × Word)) (n : BitVec 5) : Option (Word × BitVec 5) :=
  (ran (set m0 l) w).map (fun t => (t.core.c.get n, t.core.c.fflags))

theorem test_integer_values :
    after 0x001000013015013000000000 [(21, 0x2000000000), (19, 0x400)] 19 = some 0x2000000400 ∧
    after 0x002000005014018000000000 [(20, 12), (24, 28)] 5 = some 0xFFFFFFFFFFFFFFF0 ∧
    after 0x10300001B00E000000000018 [(14, 4)] 27 = some 96 ∧
    after 0x004000005006027000000000 [(6, 0xFFFFFFFFFFFFFFFF), (7, 2)] 5 = some 0xFFFFFFFFFFFFFFFF ∧
    after 0x004000005006007000000000 [(6, 0xFFFFFFFFFFFFFFFF), (7, 2)] 5 = some 1 ∧
    after 0x005000005006027000000000 [(6, 0xFFFFFFFFFFFFFFF9), (7, 2)] 5 = some 0xFFFFFFFFFFFFFFFD ∧
    after 0x005000005006007000000000 [(6, 0xFFFFFFFFFFFFFFF9), (7, 2)] 5 = some 0x7FFFFFFFFFFFFFFC ∧
    after 0x005000005006027000000000 [(6, 7), (7, 0)] 5 = some 0xFFFFFFFFFFFFFFFF ∧
    after 0x006000005006027000000000 [(6, 0xFFFFFFFFFFFFFFF9), (7, 2)] 5 = some 0xFFFFFFFFFFFFFFFF ∧
    after 0x006000005006007000000000 [(6, 0xFFFFFFFFFFFFFFF9), (7, 2)] 5 = some 1 ∧
    after 0x10700000D00A000000000080 [(10, 0x180)] 13 = some 0x80 ∧
    after 0x008000005006007000000000 [(6, 0xFF), (7, 0x0F)] 5 = some 0xF0 ∧
    after 0x109000006006000000003800 [(6, 0x1C00000009)] 6 = some 0x1C00003809 ∧
    after 0x10A0000050060000FFFFFFFF [(6, 0x0F)] 5 = some 0xFFFFFFFFFFFFFFF0 := by decide +kernel

theorem test_bit_values :
    after 0x10B000007007000000000006 [(7, 12)] 7 = some 768 ∧
    after 0x10C00000900902000000000C [(9, 0xFFFFFFFF80000000)] 9 = some 0xFFFFFFFFFFF80000 ∧
    after 0x10C00000900900000000000C [(9, 0xFFFFFFFF80000000)] 9 = some 0x000FFFFFFFF80000 ∧
    after 0x10D000005006000000000008 [(6, 0xAB)] 5 = some 0xAB00000000000000 ∧
    after 0x10D000005006000000000048 [(6, 0xAB)] 5 = some 0xAB00000000000000 ∧
    after 0x00E000005006000000000000 [(6, 0x10000)] 5 = some 47 ∧
    after 0x00F000005006000000000000 [(6, 0xF0F0)] 5 = some 8 ∧
    after 0x110000005006000000000804 [(6, 0x12345678)] 5 = some 0x67 ∧
    after 0x111000005006000000001008 [(5, 0xFFFFFFFFFFFFFFFF), (6, 0x1234)] 5 = some 0xFFFFFFFFFF1234FF ∧
    after 0x1120000050060800FFFFFFFF [(6, 5)] 5 = some 1 ∧ after 0x1120000050060800FFFFFFFF [(6, 0xFFFFFFFFFFFFFFFF)] 5 = some 0 ∧
    after 0x013000005006007000000000 [(5, 1), (6, 0xFFFFFFFFFFFFFFFC), (7, 9)] 5 = some 0xFFFFFFFFFFFFFFFC ∧
    after 0x014000005006027000000000 [(6, 0xFFFFFFFFFFFFFFFF), (7, 3)] 5 = some 0xFFFFFFFFFFFFFFFF ∧
    after 0x014000005006007000000000 [(6, 0xFFFFFFFFFFFFFFFF), (7, 3)] 5 = some 3 ∧
    after 0x115000005006020000000000 [(6, 0xFFFFFFFFFFFFFFFB)] 5 = some 0 ∧
    after 0x115000005006000000000000 [(6, 0xFFFFFFFFFFFFFFFB)] 5 = some 0xFFFFFFFFFFFFFFFB ∧
    after 0x0160000010000000FFFFFFFE [] 1 = some 0xFFFFFFFFFFFFFFFE ∧
    after 0x417000006004005000000000 [(4, 0x2000001000), (5, 0xB)] 6 = some 0xB000002000001000 := by decide +kernel

theorem test_float_values :
    flags 0x201000005006007000000000 [(6, 0x7F7FFFFF), (7, 0x7F7FFFFF)] 5 = some (0x7F800000, 5) ∧
    flags 0x202000005006007000200000 [(6, 1), (7, 0x3800)] 5 = some (0, 3) ∧
    flags 0x203000005006007043100000 [(6, 0x3F81), (7, 0x3F81), (8, 0xBF80)] 5 = some (0x3C81, 1) ∧
    flags 0x204000005006007000001000 [(6, 0x7FC00000), (7, 0x3F800000)] 5 = some (0, 16) ∧
    flags 0x204000005006007000003000 [(6, 0x7FC00000), (7, 0x3F800000)] 5 = some (1, 0) ∧
    flags 0x2050000050060000010C0000 [(6, 0xC0300000)] 5 = some (0xFFFFFFFFFFFFFFFE, 1) ∧
    flags 0x2050000050060000000C0000 [(6, 0xC0300000)] 5 = some (0xFFFFFFFFFFFFFFFD, 1) ∧
    flags 0x2050000050060000010C0000 [(6, 0x7F800000)] 5 = some (0x7FFFFFFF, 16) := by decide +kernel

/-- What is in flight after the word w: results of global memory come later (03 R64). -/
def coming (s : State) (w : Nat) : Option (List Put) := (ran s w).map (fun t => t.core.flights.flatMap (·.puts))

/-- `LD.8[.SX] x5, 0(x5)` on a byte 0xF6. -/
theorem test_load_extends :
    let s := set { m0 with mem := m0.mem.setRun 0x3100 [0xF6] } [(5, 0x2100)]
    coming s 0x401000005005000000000001 = some [.reg .C 5 0xFFFFFFFFFFFFFFF6] ∧ coming s 0x401000005005000000000000 = some [.reg .C 5 0xF6] := by decide +kernel

/-- A store is little-endian; ATOM.ADD gives the old value and writes the sum. -/
theorem test_store_and_atom :
    let s := set m0 [(9, 0x2100), (8, 0x1122334455667788), (4, 0x20F8), (6, 1)]
    let u := { s with mem := s.mem.setRun 0x3100 (leBytes 8 0x10) }
    (ran s 0x402000000009008006000000).map (fun t => t.mem.getRun 0x3100 8) = some [0x88, 0x77, 0x66, 0x55, 0x44, 0x33, 0x22, 0x11] ∧
    (ran u 0x40500000500400607E008000).map (fun t => (t.core.flights.flatMap (·.puts), t.mem.getRun 0x3100 8)) = some ([.reg .C 5 0x10], leBytes 8 0x11) := by decide +kernel

/-- m0 with these bytes in register space, where every view register names base 0 with kind VEC, and these registers. -/
def spaced (l : List (BitVec 5 × Word)) (b : Bytes) : State := (set (mv vec) l).modCore (fun k => { k with rs := k.rs.putRun 0 b })

theorem test_vector_values :
    let add := spaced [(9, 3)] (pad (leBytes 2 0x7FFF ++ leBytes 2 0xFFFF) 256 ++ leBytes 2 1 ++ leBytes 2 2)
    let red := spaced [] (leBytes 4 0x4B800000 ++ leBytes 4 0x3F800000 ++ leBytes 4 0x3F800000)
    let cvt := spaced [] (List.replicate 20 0 ++ leBytes 4 0x43FA0000 ++ leBytes 4 0x7FC00000 ++ leBytes 4 0x3F800000)
    let cmp := spaced [(9, 1)] (pad (leBytes 4 0xFFFFFFFF) 256 ++ leBytes 4 1)
    (ran add 0x802000102100101048000740).map (fun t => (t.core.rsRun 512 4, t.core.c.fflags)) = some ([0x00, 0x80, 0x01, 0x00], 0) ∧
    (ran red 0x814000005100000000000000).map (·.core.c.get 5) = some 0x4B800001 ∧
    (ran cvt 0x806000300100000000001003).map (fun t => (t.core.rsRun 69 3, t.core.c.fflags)) = some ([0x7E, 0x7F, 0x38], 5) ∧
    (ran cmp 0x805000102100101048000304).map (fun t => t.core.rsRun 512 4) = some [0, 0, 0, 0] ∧
    (ran cmp 0x805000102100101048000302).map (fun t => t.core.rsRun 512 4) = some [0xFF, 0xFF, 0xFF, 0xFF] := by decide +kernel

theorem test_vector_special_values :
    let one (v : Nat) : State := spaced [(9, 1)] (leBytes 4 v)
    let scale := spaced [(9, 1)] (pad (leBytes 4 0x3FC00000) 256 ++ leBytes 4 (2 ^ 32 - 150))
    (ran (one 0x43000000) 0x807000102100000048000000).map (fun t => (t.core.rsRun 512 4, t.core.c.fflags)) = some (leBytes 4 0x7F800000, 5) ∧
    (ran (one 0xC0800000) 0x815000102100000048000000).map (fun t => (t.core.rsRun 512 4, t.core.c.fflags)) = some (leBytes 4 0x7FC00000, 16) ∧
    (ran scale 0x816000102100101048000000).map (fun t => (t.core.rsRun 512 4, t.core.c.fflags)) = some (leBytes 4 1, 3) := by decide +kernel

/-- The link of a CALL and its target on a hub core; JMP back by four words in a plain image. -/
theorem test_transfers :
    let h := (h0.modHere (fun k => { k with pc := 0x08300100 }))
    let go (s : State) (i : Instr) : Option State := match exec i s with
      | .next t => some t
      | _ => none
    (go h (.call ⟨g0, d 30, 0x60⟩)).map (fun t => (t.core.c.get 30, t.core.c.pc)) = some (0x0830010C, 0x08300160) ∧
    (go (set (m0.modHere (fun k => { k with pc := 312 })) [(6, 1)]) (.jmp ⟨⟨false, 6, 0⟩, 0xFFFFFFD0⟩)).map (·.core.c.pc) = some 264 ∧
    (go (m0.modHere (fun k => { k with pc := 312 })) (.jmp ⟨⟨false, 6, 0⟩, 0xFFFFFFD0⟩)).map (·.core.c.pc) = some 324 := by decide +kernel

/-- ADDPC at word 1 of a plain image at 0x12_3456_0000; AWAITF of slot 2 of a ring of 16 KiB slots; TLRD with and without AP. -/
theorem test_core_words :
    let t : Task := { placedTask with img := { placedTask.img with pimg := 0x1234560000 } }
    let s := m0.modCore (fun k => { k with task := some t, c := { k.c with pc := 12 } })
    let r2 : Ring := { ring 1 with alloc := 0, slotsz := 64, nslot := 4, rels := 2, tag := 0 }
    let a := m0.modCore (fun k => { k with rings := [r2], allocs := [{ al1 with id := 0, tag := 0 }] })
    let c := m0.modCore (fun k => k.modChain .tco (fun x => { x with append := 5, counter := 3 }))
    let go (s : State) (i : Instr) (n : BitVec 5) : Option Word := match exec i s with
      | .next t => some (t.core.c.get n)
      | _ => none
    go s (.addpc ⟨g0, d 6, 0x13⟩) 6 = some 0x123457300C ∧ go a (.awaitf 0 (opD 15)) 15 = some 0x8000 ∧
    go c (.tlrd .tco false (opD 8)) 8 = some 3 ∧ go c (.tlrd .tco true (opD 8)) 8 = some 5 := by decide +kernel

/-- The boot status word of 18 R272's example; the host port before it has trained, in stage 1, and from the end of stage 1 on. -/
theorem test_boot_word :
    let m : Module := { m0.m with stage := 8, reason := 0, ptpLock := true, dieOut := 0x400, pcie := (6, 16) }
    m.bootWord = 0x0800000100000400 ∧ m.barRead 0 8 = .value 0x0800000100000400 ∧ m.configRead = .responds ∧
    ({ m with stage := 1 } : Module).configRead = .retry ∧ ({ m with pcie := (0, 0) } : Module).configRead = .silent := by decide +kernel

/-- Die 0 has its two row links, one column link and one to hub 0 (01 R8): with those of the grid down no step leads from it, and
without link 56 hub 0 reaches dies 2, 4 and 6 only. -/
theorem test_links_down : linkStep (2 ^ 0 + 2 ^ 7 + 2 ^ 32) 1 = 1 ∧ hubStart (2 ^ 56) 0 = 0x54 := by decide +kernel

end Sys2Proof.Tests
end

section
/-! PROOFS. What reset leaves (spec/00, 02 R30, 07 R142, 18 R272). -/

namespace Sys2Proof.Machine

/-- Nothing has been written at reset: memory holds no cell, and the write log is empty. -/
theorem State.reset_inv : Inv State.reset := ⟨rfl, rfl⟩

@[simp] theorem Core.chain_reset (n : Nat) (ch : ChainId) : (Core.reset n).chain ch = Chain.reset := by
  cases ch <;> rfl

theorem Core.reset_mode_compute {n : Nat} (h : n < 768) : (Core.reset n).mode = .u := if_pos h

theorem Core.reset_mode_hub {n : Nat} (h : 768 ≤ n) : (Core.reset n).mode = .s := if_neg (Nat.not_lt.mpr h)

/-- The stall timeout at reset is the default of R30, 1 ms in ticks of 100 ns (R142). -/
theorem Module.reset_stallTimeout : Module.reset.stallTimeout = 10000 := rfl

/-- No chain of a core has had an append or a completion at reset. -/
theorem Core.reset_chain_counts (n : Nat) (ch : ChainId) :
    ((Core.reset n).chain ch).append = 0 ∧ ((Core.reset n).chain ch).counter = 0 := by
  rw [Core.chain_reset]
  exact ⟨rfl, rfl⟩

/-- Settles O59: the invariant, the modes and the chains by their lemmas; register 0 reads 0 in every context (R6), and the fade
clock, STAGE and the task are fields of the reset state. -/
theorem resetState : Obligations.ResetState := by
  unfold Obligations.ResetState
  have clock : State.reset.m.now = 0 := rfl
  have stage : State.reset.m.stage = 0 := rfl
  have noTask : State.reset.core.task = none := rfl
  exact ⟨State.reset_inv, Context.get_zero _, clock, stage, Module.reset_stallTimeout, Core.reset_mode_hub (le_refl 768),
    Core.reset_mode_compute (by decide), noTask, Core.reset_chain_counts 0⟩

end Sys2Proof.Machine
end

section
/-! PROOFS. Memory as a run of written bytes leaves it, and the rows that show the boot status word (spec/18 R272). -/

namespace Sys2Proof.Machine

/-- A run of bytes reads back where it was written, and every other address reads as before. -/
theorem Cells.get_setRun (bs : Bytes) : ∀ {c : Cells} (_ : Memory.wf c = true) (a x : Nat),
    (c.setRun a bs).get x = if a ≤ x ∧ x < a + bs.length then bs.getD (x - a) 0 else c.get x := by
  induction bs with
  | nil => intro c _ a x; rw [if_neg (by simp only [List.length_nil]; omega)]; rfl
  | cons b r ih =>
    intro c h a x
    show ((c.set a b).setRun (a + 1) r).get x = _
    rw [ih (Cells.wf_set h a b), Cells.get_set h, List.length_cons]
    rcases Nat.lt_trichotomy x a with lt | rfl | gt
    · rw [if_neg (by omega), if_neg (by omega), if_neg (by omega)]
    · rw [if_neg (by omega), if_pos rfl, if_pos (by omega), Nat.sub_self]; rfl
    · have next : x - a = x - (a + 1) + 1 := by omega
      rw [next, List.getD_cons_succ, if_neg (show ¬ x = a by omega)]
      exact if_congr (by omega) rfl rfl

/-- Performing a run of writes is writing the run into memory, after the writes made before it. -/
theorem Cells.commit_physWriteRun (c : Cells) (bs : Bytes) : ∀ (s : State) (pa : Nat),
    c.commit (s.physWriteRun pa bs).wlog = (c.commit s.wlog).setRun pa bs := by
  induction bs with
  | nil => intro s pa; rfl
  | cons b r ih => intro s pa; exact ih (s.physWrite pa b) (pa + 1)

@[simp] theorem State.physWriteRun_m (s : State) (pa : Nat) (bs : Bytes) : (s.physWriteRun pa bs).m = s.m := by
  obtain ⟨w, h⟩ := physWriteRun_eq bs s pa
  rw [h]

@[simp] theorem State.physWriteRun_core (s : State) (pa : Nat) (bs : Bytes) : (s.physWriteRun pa bs).core = s.core := by
  obtain ⟨w, h⟩ := physWriteRun_eq bs s pa
  rw [h]

@[simp] theorem settled_m (s t : State) : (settled s t).m = t.m := rfl
@[simp] theorem settled_core (s t : State) : (settled s t).core = t.core := rfl
@[simp] theorem settled_mem (s t : State) : (settled s t).mem = s.mem.commit t.wlog := rfl

/-- Where the step has written nothing, memory stays. -/
theorem settled_mem_of_quiet {s t : State} (h : t.wlog = []) : (settled s t).mem = s.mem := by rw [settled_mem, h]; rfl

/-- An event that leaves the state as it is. -/
theorem takes_self {i : Instr} {s : State} (hw : s.wlog = []) (h : Takes i s s) : exec i s = .next s := by
  rw [h, settled, hw]
  cases s
  cases hw
  rfl

/-! ### The boot status word (18 R272) -/

theorem State.showBoot_of_none {s : State} (h : s.m.bootPage = none) : s.showBoot = s := by unfold State.showBoot; rw [h]

theorem State.showBoot_of_some {s : State} {p : Nat} (h : s.m.bootPage = some p) :
    s.showBoot = s.physWriteRun p (leBytes 8 s.m.bootWord.toNat) := by unfold State.showBoot; rw [h]

@[simp] theorem State.showBoot_m (s : State) : s.showBoot.m = s.m := by
  cases h : s.m.bootPage with
  | none => rw [State.showBoot_of_none h]
  | some p => rw [State.showBoot_of_some h, State.physWriteRun_m]

@[simp] theorem State.showBoot_core (s : State) : s.showBoot.core = s.core := by
  cases h : s.m.bootPage with
  | none => rw [State.showBoot_of_none h]
  | some p => rw [State.showBoot_of_some h, State.physWriteRun_core]

theorem leBytes_length (n v : Nat) : (leBytes n v).length = n := by
  induction n generalizing v with
  | zero => rfl
  | succ n ih => exact congrArg (· + 1) (ih _)

/-- A row that has written nothing else leaves the boot status word at its page, whole. -/
theorem bootWord_stands {s t : State} (hs : Memory.wf s.mem = true) (ht : t.wlog = []) {p i : Nat} (hp : t.m.bootPage = some p)
    (hi : i < 8) : (settled s t.showBoot).mem.get (p + i) = (leBytes 8 t.m.bootWord.toNat).getD i 0 := by
  rw [settled_mem, State.showBoot_of_some hp, Cells.commit_physWriteRun, ht, Cells.get_setRun _ (Cells.wf_commit hs []),
    leBytes_length, if_pos (by omega), Nat.add_sub_cancel_left]

end Sys2Proof.Machine
end

section
/-! PROOFS. Power-up (spec/18 R269 to R273): what the work of each stage leaves. -/

namespace Sys2Proof.Machine

/-! ### The stages -/

theorem exec_powerUp {s : State} (hw : s.wlog = []) (r : StageReport) :
    exec (.powerUp r) s = .next (settled s (s.endStage r).showBoot) :=
  runEvent_eq (body := fun s => (s.endStage r).showBoot) hw

/-- The stage in progress gives way to the next. -/
def Module.nextStage (m : Module) : Module := { m with stage := m.stage + 1 }

theorem State.stage_eq {s : State} {n : BitVec 8} (h : s.m.stage.toNat = n.toNat) : s.m.stage = n := BitVec.eq_of_toNat_eq h

theorem State.endStage_self_test {s : State} (h : s.m.stage.toNat = 0) (r : StageReport) : s.endStage r = s.modM Module.nextStage := by
  simp only [State.endStage, h]; rfl

theorem State.endStage_host {s : State} (h : s.m.stage.toNat = 1) (r : StageReport) : s.endStage r =
    if r.ok then s.modM Module.nextStage
    else if r.reason = 1 ∨ r.reason = 2 ∨ r.reason = 3 then s.modM (fun m => m.halt r.reason) else s := by
  simp only [State.endStage, h]; rfl

/-- What the report says of the links, and of the dies that they leave without a path (18 R269 stage 2). -/
def Module.withLinks (down : BitVec 64) (m : Module) : Module :=
  { m with linksDown := down, dieOut := m.dieOut ||| unreached down }

theorem State.endStage_links {s : State} (h : s.m.stage.toNat = 2) (r : StageReport) : s.endStage r =
    if hubCut r.linksDown then (s.modM (Module.withLinks r.linksDown)).modM (fun m => m.halt 4)
    else (s.modM (Module.withLinks r.linksDown)).modM Module.nextStage := by
  simp only [State.endStage, h]; rfl

theorem State.endStage_memory {s : State} (h : s.m.stage.toNat = 3) (r : StageReport) :
    s.endStage r = s.modM (fun m => Module.nextStage { m with dieOut := m.dieOut ||| r.diesOut, gtags := [] }) := by
  simp only [State.endStage, h]; rfl

theorem State.endStage_dies {s : State} (h : s.m.stage.toNat = 4) (r : StageReport) :
    s.endStage r = s.modM (fun m => Module.nextStage { m with dieOut := m.dieOut ||| r.diesOut }) := by
  simp only [State.endStage, h]; rfl

theorem State.endStage_cores {s : State} (h : s.m.stage.toNat = 5) (r : StageReport) :
    s.endStage r = (s.marchAll r.coresOut).modM (fun m => Module.nextStage { m with ptpSince := m.now }) := by
  simp only [State.endStage, h]; rfl

/-- What the report says of the ports (18 R269 stage 6). -/
def State.withPorts (s : State) (up : BitVec 8) : State := s.modM (fun m => { m with ports := up })

theorem State.endStage_ptp {s : State} (h : s.m.stage.toNat = 6) (r : StageReport) :
    s.endStage r = if s.m.ptpOver then (s.withPorts r.portsUp).startResident false
      else if r.ptpLocked then (s.withPorts r.portsUp).startResident true else s.withPorts r.portsUp := by
  simp only [State.endStage, h]; rfl

theorem State.endStage_resident {s : State} (h : s.m.stage.toNat = 7) (r : StageReport) :
    s.endStage r = if r.ok then s.ready r else s.modM (fun m => m.halt 5) := by
  simp only [State.endStage, h]

theorem Module.ptpOver_iff (m : Module) : m.ptpOver = true ↔ m.ptpSince + 100000000 ≤ m.now := decide_eq_true_iff

/-! ### Another core in focus -/

/-- What is put into a list by its key is found there first. -/
theorem find?_upsert {α : Type} (key : α → Nat) (x : α) (l : List α) : (upsert key x l).find? (fun p => key p == key x) = some x := by
  induction l with
  | nil => simp [upsert]
  | cons y r ih =>
    unfold upsert
    split
    · simp
    · split
      · simp
      · next ne => rw [List.find?_cons_of_neg (by simpa using Ne.symm ne), ih]

@[simp] theorem State.focus_m (s : State) (n : Nat) : (s.focus n).m = s.m := by unfold State.focus; split <;> rfl

theorem State.focus_self {s : State} {n : Nat} (h : s.core.num = n) : s.focus n = s := if_pos h

/-- A core that loses the focus to one of another number is found under its own. -/
theorem State.find?_focus {s : State} {n : Nat} (h : s.core.num ≠ n) :
    (s.focus n).others.find? (fun p => p.1 == s.core.num) = some (s.core.num, s.core) := by
  unfold State.focus; rw [if_neg h]; exact find?_upsert (·.1) (s.core.num, s.core) _

theorem State.focus_core_of_find? {s : State} {n : Nat} {k : Core} (h : s.core.num ≠ n)
    (hk : s.others.find? (fun p => p.1 == n) = some (n, k)) : (s.focus n).core = k := by
  unfold State.focus; rw [if_neg h, hk]; rfl

/-- Something done on a core by its number. The core in focus stays in focus; it alone is changed where the number is its own, and where
the number is another's it stays, unless what stands under that number bears its own. -/
theorem State.onCore_modCore (s : State) (c : Nat) {g : Core → Core} (hg : ∀ k, (g k).num = k.num) :
    let t := s.onCore c (fun x => x.modCore g)
    t.m = s.m ∧ t.wlog = s.wlog ∧ t.core.num = s.core.num ∧ (t.core = s.core ∨ ∃ k, t.core = g k) ∧
      (c = s.core.num → t.core = g s.core) := by
  by_cases own : s.core.num = c
  · have back : s.onCore c (fun x => x.modCore g) = s.modCore g := by
      unfold State.onCore
      rw [State.focus_self own]
      exact State.focus_self (hg s.core)
    rw [back]
    exact ⟨rfl, rfl, hg s.core, .inr ⟨_, rfl⟩, fun _ => rfl⟩
  · have mod : (s.onCore c (fun x => x.modCore g)).m = s.m := by simp [State.onCore]
    have log : (s.onCore c (fun x => x.modCore g)).wlog = s.wlog :=
      (focus_quiet ((s.focus c).modCore g) s.core.num).2.trans (focus_quiet s c).2
    refine ⟨mod, log, ?_⟩
    by_cases there : (s.focus c).core.num = s.core.num
    · have stay : (s.onCore c (fun x => x.modCore g)).core = g (s.focus c).core :=
        congrArg State.core (State.focus_self ((hg _).trans there))
      rw [stay]
      exact ⟨(hg _).trans there, .inr ⟨_, rfl⟩, fun e => absurd e.symm own⟩
    · have back : (s.onCore c (fun x => x.modCore g)).core = s.core :=
        State.focus_core_of_find? (fun e => there ((hg _).symm.trans e)) (State.find?_focus own)
      rw [back]
      exact ⟨rfl, .inl rfl, fun e => absurd e.symm own⟩

/-- The same on every core of a list: what the change gives is true of the core in focus, if its number is among them. -/
theorem State.onCores_modCore {g : Core → Core} (hg : ∀ k, (g k).num = k.num) {P : Core → Prop} (hP : ∀ k, P (g k)) (l : List Nat) :
    ∀ s : State, (s.core.num ∈ l ∨ P s.core) →
      let t := l.foldl (fun s c => s.onCore c (fun x => x.modCore g)) s
      t.m = s.m ∧ P t.core := by
  induction l with
  | nil => intro s h; exact ⟨rfl, h.resolve_left (List.not_mem_nil)⟩
  | cons c l ih =>
    intro s h
    obtain ⟨mod, -, num, core, own⟩ := State.onCore_modCore s c hg
    have next : (s.onCore c (fun x => x.modCore g)).core.num ∈ l ∨ P (s.onCore c (fun x => x.modCore g)).core := by
      rw [num]
      rcases h with h | h
      · rcases List.mem_cons.mp h with e | h
        · exact .inr (own e.symm ▸ hP _)
        · exact .inl h
      · rcases core with e | ⟨k, e⟩
        · exact .inr (e ▸ h)
        · exact .inr (e ▸ hP k)
    obtain ⟨mod', core'⟩ := ih _ next
    exact ⟨mod'.trans mod, core'⟩

/-! ### A stage that ends well -/

/-- Having had the focus on other cores leaves the module beside the cores, and writes nothing. -/
theorem State.onCores_frame (l : List Nat) : ∀ s : State, (l.foldl (fun s c => s.onCore c (fun x => x)) s).m = s.m ∧
    (l.foldl (fun s c => s.onCore c (fun x => x)) s).wlog = s.wlog := by
  induction l with
  | nil => intro s; exact ⟨rfl, rfl⟩
  | cons c l ih =>
    intro s
    obtain ⟨mod, log⟩ := ih (s.onCore c (fun x => x))
    obtain ⟨mod', log', -⟩ := State.onCore_modCore s c (g := fun k => k) (fun _ => rfl)
    exact ⟨mod.trans mod', log.trans log'⟩

/-- The march test of stage 5 leaves the stage as it is, and writes nothing to memory. -/
theorem State.marchAll_frame (s : State) (out : List Nat) : (s.marchAll out).m.stage = s.m.stage ∧ (s.marchAll out).wlog = s.wlog := by
  obtain ⟨mod, log⟩ := State.onCores_frame (out.filter (fun c => decide (c < Config.computeCores))) s
  have stage := congrArg Module.stage mod
  exact ⟨stage, log⟩

/-- The work of a stage writes nothing to memory. -/
theorem State.endStage_wlog {s : State} (h : s.m.stage.toNat < 8) (r : StageReport) : (s.endStage r).wlog = s.wlog := by
  generalize hn : s.m.stage.toNat = n at h
  match n, h with
  | 0, _ => rw [State.endStage_self_test hn]; rfl
  | 1, _ =>
    rw [State.endStage_host hn]
    split
    · rfl
    · split <;> rfl
  | 2, _ => rw [State.endStage_links hn]; split <;> rfl
  | 3, _ => rw [State.endStage_memory hn]; rfl
  | 4, _ => rw [State.endStage_dies hn]; rfl
  | 5, _ => rw [State.endStage_cores hn]; exact (s.marchAll_frame r.coresOut).2
  | 6, _ =>
    rw [State.endStage_ptp hn]
    split
    · rfl
    · split <;> rfl
  | 7, _ => rw [State.endStage_resident hn]; split <;> rfl

/-- A stage that ends well is followed by the next (18 R269). -/
theorem State.endStage_next {s : State} {r : StageReport} (h : s.m.stage.toNat < 8) (ok : r.ok = true) (locked : r.ptpLocked = true)
    (whole : s.m.stage = 2 → hubCut r.linksDown = false) : (s.endStage r).m.stage = s.m.stage + 1 := by
  generalize hn : s.m.stage.toNat = n at h
  match n, h with
  | 0, _ => rw [State.endStage_self_test hn]; rfl
  | 1, _ => rw [State.endStage_host hn, if_pos ok]; rfl
  | 2, _ => rw [State.endStage_links hn, whole (State.stage_eq hn)]; rfl
  | 3, _ => rw [State.endStage_memory hn]; rfl
  | 4, _ => rw [State.endStage_dies hn]; rfl
  | 5, _ =>
    rw [State.endStage_cores hn]
    exact congrArg (· + 1) (s.marchAll_frame r.coresOut).1
  | 6, _ =>
    rw [State.endStage_ptp hn, State.stage_eq (n := 6) hn, if_pos locked]
    split <;> rfl
  | 7, _ => rw [State.endStage_resident hn, if_pos ok, State.stage_eq (n := 7) hn]; rfl

/-! ### The queues of the resident system (12 R204) -/

theorem makeQueues_cons (old : List Queue) (q : QueueMade) (l : List QueueMade) : makeQueues old (q :: l) =
    makeQueues (if queueOk q && !old.any (fun x => x.num == q.num) then old ++ [queueOf q] else old) l := by
  unfold makeQueues
  rw [List.filter_cons]
  cases queueOk q
  · rfl
  · cases h : old.any (fun x => x.num == q.num) <;>
      simp only [if_true, List.foldl_cons, h, Bool.not_true, Bool.not_false, Bool.true_and, Bool.false_eq_true, if_false]

/-- Every queue made is one that stood before, or one of the good descriptors of the list. -/
theorem mem_makeQueues {x : Queue} (l : List QueueMade) : ∀ {old : List Queue}, x ∈ makeQueues old l →
    x ∈ old ∨ ∃ q ∈ l, queueOk q = true ∧ x = queueOf q := by
  induction l with
  | nil => intro old h; exact .inl h
  | cons q l ih =>
    intro old h
    rw [makeQueues_cons] at h
    rcases ih h with h | ⟨p, hp, ok, e⟩
    · split at h
      · next made =>
        rcases List.mem_append.mp h with h | h
        · exact .inl h
        · exact .inr ⟨q, List.mem_cons_self, (Bool.and_eq_true_iff.mp made).1, List.mem_singleton.mp h⟩
      · exact .inl h
    · exact .inr ⟨p, List.mem_cons_of_mem _ hp, ok, e⟩

/-- The queues that stand stay, and every good descriptor has a queue of its number. -/
theorem exists_mem_makeQueues {n : Nat} (l : List QueueMade) : ∀ {old : List Queue},
    ((∃ x ∈ old, x.num = n) ∨ ∃ q ∈ l, queueOk q = true ∧ q.num = n) → ∃ x ∈ makeQueues old l, x.num = n := by
  induction l with
  | nil => intro old h; exact h.resolve_right (by simp)
  | cons q l ih =>
    intro old h
    rw [makeQueues_cons]
    apply ih
    rcases h with ⟨x, hx, e⟩ | ⟨p, hp, ok, e⟩
    · exact .inl ⟨x, by split <;> simp [hx], e⟩
    · rcases List.mem_cons.mp hp with rfl | hp
      · left
        cases had : old.any (fun x => x.num == p.num)
        · exact ⟨queueOf p, by simp [ok], e⟩
        · obtain ⟨x, hx, ex⟩ := List.any_eq_true.mp had
          exact ⟨x, by simpa using hx, (beq_iff_eq.mp ex).trans e⟩
      · exact .inr ⟨p, hp, ok, e⟩

/-- What a queue descriptor has to be (12 R204). -/
theorem queueOk_iff (q : QueueMade) : queueOk q = true ↔
    q.num < 4096 ∧ q.tenant < 16 ∧ q.prio < 8 ∧ 4 ≤ q.size ∧ q.size ≤ 16 ∧ q.base.toNat % 64 = 0 := decide_eq_true_iff

/-- A good descriptor whose number no other has becomes the queue of that number. -/
theorem queueOf_mem_makeQueues {l : List QueueMade} {q : QueueMade} (hq : q ∈ l) (ok : queueOk q = true)
    (one : ∀ p ∈ l, p.num = q.num → p = q) : queueOf q ∈ makeQueues [] l := by
  obtain ⟨x, hx, num⟩ := exists_mem_makeQueues l (old := []) (.inr ⟨q, hq, ok, rfl⟩)
  obtain ⟨p, hp, -, rfl⟩ := (mem_makeQueues l hx).resolve_left List.not_mem_nil
  rwa [one p hp num] at hx

/-! ### Stage 6, and the changes of the PTP lock (18 R271) -/

/-- The state in which PTP_LOCK_TIMEOUT ends stage 6. -/
theorem exec_ptpLockTimeout {s : State} (hw : s.wlog = []) (h6 : s.m.stage = 6) (late : s.m.ptpOver = true) :
    exec .ptpLockTimeout s = .next (settled s (s.startResident false).showBoot) :=
  takes_event (body := fun s => if s.m.stage = 6 ∧ s.m.ptpOver then (s.startResident false).showBoot else s) rfl hw (if_pos ⟨h6, late⟩)

/-- The resident system's mapping leaves of the core its translations of other frames, and all that is no translation (18 R272). -/
theorem State.startResident_core (s : State) (b : Bool) : { (s.startResident b).core with tlb := s.core.tlb } = s.core ∧
    ∀ e ∈ (s.startResident b).core.tlb, e ∈ s.core.tlb ∧ ∀ p, (s.startResident b).m.bootPage = some p → e.frame ≠ frameOf p := by
  refine ⟨rfl, fun e he => ?_⟩
  obtain ⟨mem, other⟩ := List.mem_filter.mp he
  refine ⟨mem, fun p hp => ?_⟩
  cases hp
  exact bne_iff_ne.mp other

theorem exec_ptpLockChange {s : State} (hw : s.wlog = []) (h8 : s.m.stage = 8) (b : Bool) :
    exec (.ptpLockChange b) s = .next (settled s (s.modM (fun m => { m with ptpLock := b })).showBoot) :=
  takes_event (body := fun s => if s.m.stage = 7 ∨ s.m.stage = 8 then (s.modM (fun m => { m with ptpLock := b })).showBoot else s)
    rfl hw (if_pos (.inr h8))

/-! ### PCIe training and throttling (18 R273, 01 R18) -/

theorem exec_pcieTraining {s : State} (hw : s.wlog = []) {rate width : Nat} (ok : pcieOk rate width = true)
    (early : s.m.stage = 0 ∨ s.m.stage = 1) :
    exec (.pcieTraining rate width) s = .next (settled s (s.modM (fun m => { m with pcie := (rate, width) }))) := by
  refine takes_event (body := fun s => if pcieOk rate width && (s.m.stage == 0 || s.m.stage == 1)
    then s.modM (fun m => { m with pcie := (rate, width) }) else s) rfl hw (if_pos ?_)
  simpa [ok] using early

/-- What is done on every core of a die is done on the core in focus, if it is of the die; the module beside the cores stays. -/
theorem State.onDie_core {s : State} {die : Nat} (hd : die < 32) (mine : s.core.num / 24 = die) {g : Core → Core}
    (hg : ∀ k, (g k).num = k.num) {P : Core → Prop} (hP : ∀ k, P (g k)) : (s.onDie die g).m = s.m ∧ P (s.onDie die g).core := by
  unfold State.onDie
  rw [if_neg (Nat.not_le.mpr hd)]
  refine State.onCores_modCore hg hP _ s (.inl (List.mem_map.mpr ⟨s.core.num % 24, List.mem_range.mpr (Nat.mod_lt _ (by decide)), ?_⟩))
  rw [← mine]
  exact Nat.mod_add_div _ 24

/-- All 24 cores of a die stand still or go on (01 R18). -/
theorem exec_clockThrottling {s : State} (hw : s.wlog = []) (die : Nat) :
    exec (.clockThrottling die) s = .next (settled s (s.onDie die (fun k => { k with throttled := true }))) :=
  runEvent_eq (body := fun s => s.onDie die (fun k => { k with throttled := true })) hw

theorem exec_clockThrottlingEnd {s : State} (hw : s.wlog = []) (die : Nat) :
    exec (.clockThrottlingEnd die) s = .next (settled s (s.onDie die (fun k => { k with throttled := false }))) :=
  runEvent_eq (body := fun s => s.onDie die (fun k => { k with throttled := false })) hw

end Sys2Proof.Machine
end

section
/-! PROOFS. The loader's verdicts (spec/04 R93, spec/05 R110), and what arrives from outside (spec/08 R169, spec/10 R197). -/

namespace Sys2Proof.Machine

/-! ### KERNEL_IMAGE_LOAD -/

/-- The verdict on an image. -/
def imageLoad (s : State) (desc root : Word) (merged : Bool) (by' : Bytes) : Load :=
  { desc := desc, root := root, object := false, reject := loadCheck s root { imageOf by' with pwords := le by' 8 8 } merged, exports := [] }

/-- The verdict on a code object, with what a committed one exports. -/
def objectLoad (file root : Word) (reject : Option Reject) (out : List (Bytes × Word)) : Load :=
  { desc := file, root := root, object := true, reject := reject, exports := out }

/-- A kernel of a committed object stands as an image that was accepted. -/
def kernelLoad (root : Word) (k : LoadedKernel) : Load := { desc := k.desc, root := root, object := false, reject := none, exports := [] }

/-- The image of a descriptor that can be read is judged. (The unfolding is by the equation of the constant: of the applied function the
kernel would first evaluate the read itself.) -/
theorem State.loadImage_of_read {s : State} {desc root : Word} {by' : Bytes} (read : devRead s root desc.toNat 128 = some by') (b : Bool) :
    s.loadImage desc root b = s.modM (fun m => { m with loads := m.loads ++ [imageLoad s desc root b by'] }) := by
  rw [State.loadImage.eq_unfold]
  beta_reduce
  rw [read]
  rfl

/-- The load of an image keeps its verdict, and does nothing else (04 R93). -/
theorem takes_imageLoad {s : State} (hw : s.wlog = []) {desc root : Word} {b : Bool} {by' : Bytes}
    (read : devRead s root desc.toNat 128 = some by') :
    Takes (.kernelImageLoad desc root (.image b)) s (s.modM (fun m => { m with loads := m.loads ++ [imageLoad s desc root b by'] })) :=
  takes_event (body := fun s => s.loadImage desc root b) rfl hw (State.loadImage_of_read read b)

/-- A code object, with what the loader makes of it (05 R110). -/
def objectLoaded (s : State) (file root : Word) (o : CodeObject) : State :=
  match s.loadObject file root o with
  | .error e => s.modM (fun m => { m with loads := m.loads ++ [objectLoad file root (some e) []] })
  | .ok (t, ks, out) => t.modM (fun m => { m with loads := m.loads ++ objectLoad file root none out :: ks.map (kernelLoad root) })

theorem takes_objectLoad {s : State} (hw : s.wlog = []) (file root : Word) (o : CodeObject) :
    Takes (.kernelImageLoad file root (.object o)) s (if objectGiven s file root o then objectLoaded s file root o else s) := by
  change execKernelImageLoad file root (.object o) s = _
  unfold execKernelImageLoad
  rw [runEvent_eq hw]
  cases h : objectGiven s file root o
  · simp only [h, Bool.not_false, if_true, Bool.false_eq_true, if_false]
  · simp only [h, Bool.not_true, Bool.false_eq_true, if_false, if_true, objectLoaded]
    cases s.loadObject file root o <;> rfl

/-! ### Writes from outside -/

/-- The payload of a SEND without a flag add is all that arrives (08 R169). -/
theorem takes_remoteSendArrival {s s1 : State} (hw : s.wlog = []) {m : RemoteSend} (plain : m.flag = 0)
    (write : remoteWrite s m.root m.dst (fun _ => m.payload) m.payload.length = .ok s1) : Takes (.remoteSendArrival m) s s1 := by
  change execRemoteSendArrival m s = _
  unfold execRemoteSendArrival
  rw [runEvent_eq hw]
  simp only [write, plain, if_true]

@[simp] theorem State.sawWrite_wlog (s : State) (pa n : Nat) (keep : Option (BitVec 8)) : (s.sawWrite pa n keep).wlog = s.wlog := rfl

/-- A write that the monitors see leaves the registers of every context. -/
theorem State.sawWrite_x (s : State) (pa n : Nat) (keep : Option (BitVec 8)) (c : Ctx) :
    ((s.sawWrite pa n keep).core.ctx c).x = (s.core.ctx c).x := by
  have ctx : (s.sawWrite pa n keep).core.ctx c = (linesOf pa n).foldl Context.sawWrite (s.core.ctx c) := by cases c <;> rfl
  obtain ⟨_, h⟩ := sawWrite_ctx (linesOf pa n) (s.core.ctx c)
  rw [ctx, h]

/-- A notify write is another row: it leaves core and write log. -/
theorem State.notified_frame (s : State) (pa n : Nat) (v : Word) : (s.notified pa n v none).core = s.core ∧
    (s.notified pa n v none).wlog = s.wlog := by
  unfold State.notified
  split
  · split <;> exact ⟨rfl, rfl⟩
  · exact ⟨rfl, rfl⟩

/-- Memory, monitors, snapshots and writers after a write by the host (10 R197). -/
def hostWritten (s : State) (pa : Nat) (data : Bytes) : State :=
  ((s.physWriteRun pa data).sawWrite pa data.length).modM (fun m =>
    (rangeGranules pa data.length).foldl (fun m g => raceForget m g) (dropSnaps m pa data.length))

/-- A write of the host is performed, unless it is empty, lies outside the stacks or reaches the boot status word (18 R272). -/
theorem takes_hostWrite {s : State} (hw : s.wlog = []) (pa : Nat) (data : Bytes) : Takes (.hostWrite pa data) s
    (if !populated pa data.length || data.isEmpty || (rangeGranules pa data.length).any (fun g => s.m.showsBoot (g / 128)) then s
    else (hostWritten s pa data).notified pa data.length (w64 (leNat data)) none) :=
  takes_event (body := fun s =>
    if !populated pa data.length || data.isEmpty || (rangeGranules pa data.length).any (fun g => s.m.showsBoot (g / 128)) then s
    else (hostWritten s pa data).notified pa data.length (w64 (leNat data)) none) rfl hw rfl

end Sys2Proof.Machine
end

section
/-! PROOFS. The events of power-up and from outside the module (spec/18, spec/04 R93, spec/08 R169). -/

namespace Sys2Proof.Machine

/-- A stage that ends well (18 R269): the next one, and the boot status word at its page. -/
theorem powerUp_next {s : State} (hw : s.wlog = []) {r : StageReport} (h : s.m.stage.toNat < 8) (ok : r.ok = true)
    (locked : r.ptpLocked = true) (whole : s.m.stage = 2 → hubCut r.linksDown = false) :
    ∃ t, exec (.powerUp r) s = .next t ∧ t.m.stage = s.m.stage + 1 ∧ (t.m.bootPage = none → t.mem = s.mem) ∧
      (Memory.wf s.mem = true → ∀ p, t.m.bootPage = some p → ∀ i, i < 8 → t.mem.get (p + i) = (leBytes 8 t.m.bootWord.toNat).getD i 0) := by
  have quiet : (s.endStage r).wlog = [] := (State.endStage_wlog h r).trans hw
  refine ⟨_, exec_powerUp hw r, ?_, fun none => ?_, fun wf p page i hi => ?_⟩
  · rw [settled_m, State.showBoot_m, State.endStage_next h ok locked whole]
  · rw [settled_m, State.showBoot_m] at none
    rw [State.showBoot_of_none none, settled_mem_of_quiet quiet]
  · rw [settled_m, State.showBoot_m] at page ⊢
    exact bootWord_stands wf quiet page hi

/-- Stage 6 ends unlocked after 10 s, before that when the lock is reported, and goes on otherwise (18 R271). -/
theorem powerUp_ptp {s : State} (hw : s.wlog = []) (r : StageReport) (h : s.m.stage = 6) : ∃ t, exec (.powerUp r) s = .next t ∧
    (s.m.ptpSince + 100000000 ≤ s.m.now → t.m.stage = 7 ∧ t.m.ptpLock = false) ∧
    (s.m.now < s.m.ptpSince + 100000000 → r.ptpLocked = true → t.m.stage = 7 ∧ t.m.ptpLock = true) ∧
    (s.m.now < s.m.ptpSince + 100000000 → r.ptpLocked = false → t.m.stage = 6) := by
  refine ⟨_, exec_powerUp hw r, ?_⟩
  rw [settled_m, State.showBoot_m, State.endStage_ptp (congrArg BitVec.toNat h)]
  refine ⟨fun late => ?_, fun early lock => ?_, fun early lock => ?_⟩
  · rw [if_pos ((Module.ptpOver_iff _).mpr late)]
    exact ⟨rfl, rfl⟩
  · rw [if_neg (fun late => by have := (Module.ptpOver_iff _).mp late; omega), if_pos lock]
    exact ⟨rfl, rfl⟩
  · rw [if_neg (fun late => by have := (Module.ptpOver_iff _).mp late; omega), lock]
    exact h

/-- Stage 7 ends with the queues of the good descriptors, idle (12 R204; 18 R269). -/
theorem powerUp_resident {s : State} (hw : s.wlog = []) (r : StageReport) (h : s.m.stage = 7) (ok : r.ok = true) :
    ∃ t, exec (.powerUp r) s = .next t ∧ t.m.stage = 8 ∧ t.m.duty = 0 ∧
      (∀ x ∈ t.m.queues, x.st = .idle ∧ x.widx = 0 ∧ x.ridx = 0 ∧ x.slot = none ∧ x.num < 4096 ∧ 4 ≤ x.size ∧ x.size ≤ 16) ∧
      (∀ q ∈ r.queues, queueOk q = true → (∀ p ∈ r.queues, p.num = q.num → p = q) → ∃ x ∈ t.m.queues, x.num = q.num ∧ x.root = q.root ∧
        x.base = q.base ∧ x.size = q.size ∧ x.tenant = q.tenant ∧ x.prio = q.prio) := by
  refine ⟨_, exec_powerUp hw r, ?_⟩
  rw [settled_m, State.showBoot_m, State.endStage_resident (congrArg BitVec.toNat h), if_pos ok]
  refine ⟨rfl, rfl, fun x hx => ?_, fun q hq good one => ⟨_, queueOf_mem_makeQueues hq good one, rfl, rfl, rfl, rfl, rfl, rfl⟩⟩
  obtain ⟨q, -, good, rfl⟩ := (mem_makeQueues r.queues hx).resolve_left List.not_mem_nil
  obtain ⟨num, -, -, least, greatest, -⟩ := (queueOk_iff q).mp good
  exact ⟨rfl, rfl, rfl, rfl, num, least, greatest⟩

/-- A stage 2 that cuts a hub off halts the module (18 R269). -/
theorem powerUp_hubCut {s : State} (hw : s.wlog = []) {r : StageReport} (h : s.m.stage = 2) (cut : hubCut r.linksDown = true) :
    ∃ t, exec (.powerUp r) s = .next t ∧ t.m.stage = 0xFF ∧ t.m.reason = 4 := by
  refine ⟨_, exec_powerUp hw r, ?_⟩
  rw [settled_m, State.showBoot_m, State.endStage_links (congrArg BitVec.toNat h), if_pos cut]
  exact ⟨rfl, rfl⟩

/-- A failed stage 1 halts the module with its reason (18 R269). -/
theorem powerUp_hostFails {s : State} (hw : s.wlog = []) {r : StageReport} (h : s.m.stage = 1) (failed : r.ok = false)
    (why : r.reason = 1 ∨ r.reason = 2 ∨ r.reason = 3) :
    ∃ t, exec (.powerUp r) s = .next t ∧ t.m.stage = 0xFF ∧ t.m.reason = r.reason := by
  refine ⟨_, exec_powerUp hw r, ?_⟩
  rw [settled_m, State.showBoot_m, State.endStage_host (congrArg BitVec.toNat h), failed, if_pos why]
  exact ⟨rfl, rfl⟩

theorem ptpLockTimeout_ends {s : State} (hw : s.wlog = []) (h : s.m.stage = 6) (late : s.m.ptpSince + 100000000 ≤ s.m.now) :
    ∃ t, exec .ptpLockTimeout s = .next t ∧ t.m.stage = 7 ∧ t.m.ptpLock = false ∧ { t.core with tlb := s.core.tlb } = s.core ∧
      ∀ e ∈ t.core.tlb, e ∈ s.core.tlb ∧ ∀ p, t.m.bootPage = some p → e.frame ≠ frameOf p := by
  refine ⟨_, exec_ptpLockTimeout hw h ((Module.ptpOver_iff _).mpr late), ?_⟩
  rw [settled_m, settled_core, State.showBoot_m, State.showBoot_core]
  exact ⟨rfl, rfl, State.startResident_core s false⟩

theorem ptpLockChange_shows {s : State} (hw : s.wlog = []) (h : s.m.stage = 8) (b : Bool) :
    ∃ t, exec (.ptpLockChange b) s = .next t ∧ t.m.ptpLock = b ∧ t.m.stage = 8 ∧ t.core = s.core := by
  refine ⟨_, exec_ptpLockChange hw h b, ?_⟩
  rw [settled_m, settled_core, State.showBoot_m, State.showBoot_core]
  exact ⟨rfl, h, rfl⟩

theorem pcieTraining_trains {s : State} (hw : s.wlog = []) {rate width : Nat} (least : 1 ≤ rate) (greatest : rate ≤ 6)
    (known : width ∈ [1, 2, 4, 8, 16]) (early : s.m.stage = 0 ∨ s.m.stage = 1) :
    ∃ t, exec (.pcieTraining rate width) s = .next t ∧ t.m.pcie = (rate, width) ∧ t.core = s.core := by
  have ok : pcieOk rate width = true := Bool.and_eq_true_iff.mpr ⟨decide_eq_true ⟨least, greatest⟩, List.contains_iff_mem.mpr known⟩
  exact ⟨_, exec_pcieTraining hw ok early, rfl, rfl⟩

/-- A throttled core stands still until the throttling of its die ends (01 R18). -/
theorem clockThrottling_onDie {s : State} (hw : s.wlog = []) {die : Nat} (hd : die < 32) (mine : s.core.num / 24 = die) :
    (∃ t, exec (.clockThrottling die) s = .next t ∧ t.core.throttled = true ∧ t.core.frozen = true ∧ t.m = s.m) ∧
    (∃ t, exec (.clockThrottlingEnd die) s = .next t ∧ t.core.throttled = false ∧ t.m = s.m) := by
  obtain ⟨mod, still⟩ := State.onDie_core hd mine (g := fun k => { k with throttled := true }) (fun _ => rfl)
    (P := fun k => k.throttled = true) (fun _ => rfl)
  obtain ⟨mod', moves⟩ := State.onDie_core hd mine (g := fun k => { k with throttled := false }) (fun _ => rfl)
    (P := fun k => k.throttled = false) (fun _ => rfl)
  exact ⟨⟨_, exec_clockThrottling hw die, still, Bool.or_eq_true_iff.mpr (.inl still), mod⟩, ⟨_, exec_clockThrottlingEnd hw die, moves, mod'⟩⟩

theorem imageLoad_judged {s : State} (hw : s.wlog = []) {desc root : Word} {b : Bool} {by' : Bytes}
    (read : devRead s root desc.toNat 128 = some by') :
    ∃ t x, exec (.kernelImageLoad desc root (.image b)) s = .next t ∧ t.m.loads = s.m.loads ++ [x] ∧ x.desc = desc ∧
      x.reject = loadCheck s root { imageOf by' with pwords := le by' 8 8 } b ∧ t.mem = s.mem :=
  ⟨_, imageLoad s desc root b by', takes_imageLoad hw read, rfl, rfl, rfl, settled_mem_of_quiet hw⟩

/-- A step that does not name all that its object needs is none. -/
theorem objectLoad_notGiven {s : State} (hw : s.wlog = []) {file root : Word} {o : CodeObject} (given : objectGiven s file root o = false) :
    exec (.kernelImageLoad file root (.object o)) s = .next s := by
  have takes := takes_objectLoad hw file root o
  rw [given] at takes
  exact takes_self hw takes

/-- Nothing of a rejected object is written (05 R110). -/
theorem objectLoad_rejected {s : State} (hw : s.wlog = []) {file root : Word} {o : CodeObject} {e : Reject}
    (given : objectGiven s file root o = true) (bad : s.loadObject file root o = .error e) :
    ∃ t x, exec (.kernelImageLoad file root (.object o)) s = .next t ∧ t.m.loads = s.m.loads ++ [x] ∧ x.desc = file ∧ x.reject = some e ∧
      t.mem = s.mem := by
  have takes := takes_objectLoad hw file root o
  rw [if_pos given, objectLoaded, bad] at takes
  exact ⟨_, objectLoad file root (some e) [], takes, rfl, rfl, rfl, settled_mem_of_quiet hw⟩

/-- A committed object and its kernels stand among the loads, accepted (05 R110). -/
theorem objectLoad_committed {s s1 : State} (hw : s.wlog = []) {file root : Word} {o : CodeObject} {ks : List LoadedKernel}
    {out : List (Bytes × Word)} (given : objectGiven s file root o = true) (good : s.loadObject file root o = .ok (s1, ks, out)) :
    ∃ t, exec (.kernelImageLoad file root (.object o)) s = .next t ∧ t.mem = s.mem.commit s1.wlog ∧
      (∃ x ∈ t.m.loads, x.desc = file ∧ x.object = true ∧ x.reject = none ∧ x.exports = out) ∧
      (∀ k ∈ ks, ∃ x ∈ t.m.loads, x.desc = k.desc ∧ x.root = root ∧ x.object = false ∧ x.reject = none) := by
  have takes := takes_objectLoad hw file root o
  rw [if_pos given, objectLoaded, good] at takes
  refine ⟨_, takes, rfl, ⟨objectLoad file root none out, ?_, rfl, rfl, rfl, rfl⟩, fun k hk => ⟨kernelLoad root k, ?_, rfl, rfl, rfl, rfl⟩⟩
  · exact List.mem_append_right _ List.mem_cons_self
  · exact List.mem_append_right _ (List.mem_cons_of_mem _ (List.mem_map_of_mem hk))

/-- The host does not write the boot status word (18 R272). -/
theorem hostWrite_bootPage {s : State} (hw : s.wlog = []) {pa : Nat} {data : Bytes}
    (boot : ∃ g ∈ rangeGranules pa data.length, s.m.showsBoot (g / 128) = true) : exec (.hostWrite pa data) s = .next s := by
  have takes := takes_hostWrite hw pa data
  rw [List.any_eq_true.mpr boot, Bool.or_true, if_pos rfl] at takes
  exact takes_self hw takes

/-- A write of the host is performed in memory, and changes no register (10 R197). -/
theorem hostWrite_performed {s : State} (hw : s.wlog = []) {pa : Nat} {data : Bytes} (wf : Memory.wf s.mem = true)
    (inside : populated pa data.length = true) (full : data ≠ [])
    (free : ∀ g ∈ rangeGranules pa data.length, s.m.showsBoot (g / 128) = false) :
    ∃ t, exec (.hostWrite pa data) s = .next t ∧ (∀ i, i < data.length → t.mem.get (pa + i) = data.getD i 0) ∧
      (∀ a, a < pa ∨ pa + data.length ≤ a → t.mem.get a = s.mem.get a) ∧ (∀ c, (t.core.ctx c).x = (s.core.ctx c).x) := by
  have takes := takes_hostWrite hw pa data
  have clear : (rangeGranules pa data.length).any (fun g => s.m.showsBoot (g / 128)) = false :=
    List.any_eq_false.mpr (fun g hg => Bool.eq_false_iff.mp (free g hg))
  rw [inside, clear, List.isEmpty_eq_false_iff.mpr full, Bool.not_true, Bool.or_self, Bool.or_self, if_neg Bool.false_ne_true] at takes
  obtain ⟨core, log⟩ := State.notified_frame (hostWritten s pa data) pa data.length (w64 (leNat data))
  have mem : ∀ a, (s.mem.commit ((hostWritten s pa data).notified pa data.length (w64 (leNat data)) none).wlog).get a =
      if pa ≤ a ∧ a < pa + data.length then data.getD (a - pa) 0 else s.mem.get a := by
    intro a
    have run : (hostWritten s pa data).wlog = (s.physWriteRun pa data).wlog := rfl
    rw [log, run, Cells.commit_physWriteRun, hw, Cells.get_setRun _ (Cells.wf_commit wf [])]
    rfl
  refine ⟨_, takes, fun i hi => ?_, fun a out => ?_, fun c => ?_⟩
  · rw [settled_mem, mem, if_pos (by omega), Nat.add_sub_cancel_left]
  · rw [settled_mem, mem, if_neg (by omega)]
  · rw [settled_core, core]
    calc (((s.physWriteRun pa data).sawWrite pa data.length).core.ctx c).x
        = ((s.physWriteRun pa data).core.ctx c).x := State.sawWrite_x ..
      _ = (s.core.ctx c).x := by rw [State.physWriteRun_core]

/-- Settles O50: one lemma above for each event and case, on a state between steps. -/
theorem outsideEvents : Obligations.OutsideEvents := by
  unfold Obligations.OutsideEvents
  intro s s1 r b rate width die desc root m pa l data by' o e ks out hw
  exact ⟨powerUp_next hw, powerUp_ptp hw r, powerUp_resident hw r, powerUp_hubCut hw, powerUp_hostFails hw, ptpLockTimeout_ends hw,
    fun h => ptpLockChange_shows hw h b, pcieTraining_trains hw, fun hd _ mine => clockThrottling_onDie hw hd mine, imageLoad_judged hw,
    objectLoad_notGiven hw, objectLoad_rejected hw, objectLoad_committed hw, takes_remoteSendArrival hw, hostWrite_bootPage hw,
    hostWrite_performed hw, takes_self hw (takes_event (body := fun s => s) rfl hw rfl)⟩

end Sys2Proof.Machine
end

section
/-! PROOFS. What a word that passes does beside its effect (spec/02 R29, spec/03 R52, spec/04 R78). -/

namespace Sys2Proof.Machine

/-- A context after a word that is not the last of its section, or is (02 R29). -/
def Context.onward (k : Context) (ends : Bool) : Context :=
  if ends then ({ k with pc := k.pc + 12 } : Context).endSection else { k with pc := k.pc + 12 }

/-- The word at issue in a slice is the last one of its section. -/
def State.atSectionEnd (s : State) : Bool := decide (s.place = .slice ∧ (s.here.pc + 12).toNat = s.here.secEnd)

@[simp] theorem Context.endSection_pc (k : Context) : k.endSection.pc = k.pc := by
  unfold Context.endSection; split <;> rfl
@[simp] theorem Context.endSection_wait (k : Context) : k.endSection.wait = k.wait := by
  unfold Context.endSection; split <;> rfl
@[simp] theorem Context.endSection_held (k : Context) : k.endSection.held = k.held := by
  unfold Context.endSection; split <;> rfl
@[simp] theorem Context.endSection_hist (k : Context) : k.endSection.hist = k.hist := by
  unfold Context.endSection; split <;> rfl
@[simp] theorem Context.endSection_lastLpc (k : Context) : k.endSection.lastLpc = k.lastLpc := by
  unfold Context.endSection; split <;> rfl
@[simp] theorem Context.endSection_secDone (k : Context) : k.endSection.secDone = k.secNo := by
  unfold Context.endSection; split <;> rfl
theorem Context.endSection_last {k : Context} (h : k.last = true) : k.endSection.ended = true := by
  unfold Context.endSection; rw [if_pos h]
theorem Context.endSection_more {k : Context} (h : k.last = false) : k.endSection.hdr = true := by
  unfold Context.endSection; rw [if_neg (by rw [h]; exact Bool.false_ne_true)]

/-- The context of the word, once it counts as issued. -/
def State.issuedHere (u : State) (ord : Nat) (lpc : Word) : Context :=
  { u.here with
    hist := if u.core.inProgram && !u.filler then (ord, lpc) :: u.here.hist else u.here.hist,
    lastLpc := if u.here.trap.isNone then lpc else u.here.lastLpc,
    wait := none, woken := false, draining := false, full := false, held := none, pass := false }

theorem State.here_issued (u : State) (ord : Nat) (lpc : Word) : (u.issued ord lpc).here = u.issuedHere ord lpc := by
  show (u.issued ord lpc).core.ctx (u.issued ord lpc).core.cur = _
  rw [(SameCore.issued u ord lpc).1, issued_ctx, if_pos rfl]
  rfl

/-- Going on to the next word, at the context that does; where a region of the plain image begins its section counter advances
(02 R29; 04 R92). -/
theorem State.advance_here (u : State) :
    let x := u.here.onward u.atSectionEnd
    u.advance.here = x ∨ (u.place = .plain ∧ u.advance.here = { x with secNo := x.secNo + 1 }) := by
  intro x
  have cur : u.advance.core.cur = u.core.cur := (SameCore.advance u).1
  have onward : x = if u.place = .slice ∧ (u.here.pc + 12).toNat = u.here.secEnd then
      ({ u.here with pc := u.here.pc + 12 } : Context).endSection else { u.here with pc := u.here.pc + 12 } := by
    simp only [x, Context.onward, State.atSectionEnd, decide_eq_true_eq]
  have moved := advance_ctx u u.core.cur
  dsimp only at moved
  rw [if_pos rfl, ← onward] at moved
  show u.advance.core.ctx u.advance.core.cur = x ∨ _ ∧ u.advance.core.ctx u.advance.core.cur = _
  rw [cur]
  exact moved

/-- The word stands at the end of its section still, once it counts as issued. -/
theorem State.atSectionEnd_issued (u : State) (ord : Nat) (lpc : Word) : (u.issued ord lpc).atSectionEnd = u.atSectionEnd := by
  unfold State.atSectionEnd
  rw [issued_place, State.here_issued]
  rfl

/-- The context of the word once it has passed. -/
theorem passed_here (s u : State) :
    let x := (u.issuedHere s.here.ord s.lpc).onward u.atSectionEnd
    (passed s u).here = x ∨ (u.place = .plain ∧ (passed s u).here = { x with secNo := x.secNo + 1 }) := by
  have h := State.advance_here (u.issued s.here.ord s.lpc)
  rw [State.atSectionEnd_issued, State.here_issued, issued_place] at h
  exact h

end Sys2Proof.Machine
end

section
/-! PROOFS. O51: what every word that passes does beside its effect. -/

namespace Sys2Proof.Machine

/-- Where a word that passed stands, whatever its place. -/
theorem passed_here_fields (s u : State) :
    let x := (u.issuedHere s.here.ord s.lpc).onward u.atSectionEnd
    let t := passed s u
    t.here.pc = x.pc ∧ t.here.wait = x.wait ∧ t.here.held = x.held ∧ t.here.hist = x.hist ∧ t.here.lastLpc = x.lastLpc ∧
      t.here.hdr = x.hdr ∧ t.here.ended = x.ended ∧ t.here.secDone = x.secDone := by
  intro x t
  rcases passed_here s u with h | ⟨-, h⟩
  · rw [show t.here = x from h]; exact ⟨rfl, rfl, rfl, rfl, rfl, rfl, rfl, rfl⟩
  · rw [show t.here = { x with secNo := x.secNo + 1 } from h]; exact ⟨rfl, rfl, rfl, rfl, rfl, rfl, rfl, rfl⟩

/-- A word that passes writes what its effect has written, and touches nothing outside the core. -/
theorem passed_outside (s u : State) : (passed s u).mem = s.mem.commit u.wlog ∧ (passed s u).wlog = [] ∧ (passed s u).m = u.m ∧
    (passed s u).others = u.others ∧ (passed s u).agenda = u.agenda := by
  obtain ⟨log, m, others, agenda, -, -⟩ := reach_only ((u.issued s.here.ord s.lpc).modHere (fun k =>
    let k1 := { k with pc := k.pc + 12 }
    if (u.issued s.here.ord s.lpc).place = .slice ∧ k1.pc.toNat = k.secEnd then k1.endSection else k1))
  exact ⟨congrArg s.mem.commit log, rfl, m, others, agenda⟩

/-- Nor does it touch anything of the core beside contexts, counters and phase. -/
theorem passed_core (s u : State) : SameCore u.core (passed s u).core :=
  (SameCore.issued u _ _).trans (SameCore.advance _)

theorem Context.onward_fields (k : Context) (ends : Bool) : (k.onward ends).pc = k.pc + 12 ∧ (k.onward ends).wait = k.wait ∧
    (k.onward ends).held = k.held ∧ (k.onward ends).hist = k.hist ∧ (k.onward ends).lastLpc = k.lastLpc := by
  unfold Context.onward
  cases ends
  · exact ⟨rfl, rfl, rfl, rfl, rfl⟩
  · simp

/-- Settles O51: the context of the word by `passed_here`, the rest of the state by the frames of `issued` and `advance`. -/
theorem passingMovesOn : Obligations.PassingMovesOn := by
  unfold Obligations.PassingMovesOn
  intro s u t
  obtain ⟨mem, log, m, others, agenda⟩ := passed_outside s u
  obtain ⟨cur, flights, rs, allocs, -⟩ := passed_core s u
  obtain ⟨pc, wait, held, hist, last, hdr, ended, secDone⟩ := passed_here_fields s u
  obtain ⟨opc, owait, oheld, ohist, olast⟩ := Context.onward_fields (u.issuedHere s.here.ord s.lpc) u.atSectionEnd
  refine ⟨mem, log, m, others, agenda, cur, flights, rs, allocs, pc.trans opc, wait.trans owait, held.trans oheld, hist.trans ohist,
    (last.trans olast).trans ?_, fun c => ?_, fun place => ?_, fun place inside => ?_, fun place ends => ?_⟩
  · exact if_congr Option.isNone_iff_eq_none rfl rfl
  · obtain ⟨x, latch, view, fflags, round, -⟩ := passed_ctx s u c
    exact ⟨x, latch, view, fflags, round⟩
  · have goesOn : u.atSectionEnd = false := decide_eq_false (fun h => place h.1)
    rw [goesOn] at hdr ended
    exact ⟨hdr, ended⟩
  · have goesOn : u.atSectionEnd = false := decide_eq_false (fun h => inside h.2)
    rw [goesOn] at hdr ended secDone
    exact ⟨hdr, ended, secDone⟩
  · have atEnd : u.atSectionEnd = true := decide_eq_true ⟨place, ends⟩
    rw [atEnd] at hdr ended secDone
    exact ⟨secDone.trans (Context.endSection_secDone _), fun h => ended.trans (Context.endSection_last h),
      fun h => hdr.trans (Context.endSection_more h)⟩

end Sys2Proof.Machine
end

section
/-! PROOFS. The frame of the device's own writes: trace records, fault records and the records of steps (spec/17 R258, spec/15 R241). -/

namespace Sys2Proof.Machine

/-- t is s but for monitors, copies that windows hold, the write log, snapshots and race tags, the trace registers and the
performance counter. -/
structure Logged (s t : State) : Prop where
  core : ∃ (l c x : Context) (al : List Alloc) (tr : Trace) (pf : Perf), sawCtx s.core.l l ∧ sawCtx s.core.c c ∧ sawCtx s.core.s x ∧
    t.core = { s.core with l := l, c := c, s := x, allocs := al, trace := tr, perf := pf }
  mod : ∃ sn ra, t.m = { s.m with snaps := sn, races := ra }
  mem : t.mem = s.mem
  agenda : t.agenda = s.agenda

theorem Logged.refl (s : State) : Logged s s :=
  ⟨⟨_, _, _, _, _, _, .refl _, .refl _, .refl _, rfl⟩, ⟨_, _, rfl⟩, rfl, rfl⟩

theorem Logged.trans {s t u : State} (h : Logged s t) (h' : Logged t u) : Logged s u := by
  obtain ⟨⟨l, c, x, _, _, _, hl, hc, hx, hk⟩, ⟨_, _, hm⟩, mem, agenda⟩ := h
  obtain ⟨⟨l', c', x', al, tr, pf, hl', hc', hx', hk'⟩, ⟨sn, ra, hm'⟩, mem', agenda'⟩ := h'
  rw [hk] at hl' hc' hx'
  exact ⟨⟨l', c', x', al, tr, pf, hl.trans hl', hc.trans hc', hx.trans hx', by rw [hk', hk]⟩, ⟨sn, ra, by rw [hm', hm]⟩,
    mem'.trans mem, agenda'.trans agenda⟩

theorem Wrote.logged {s t : State} (h : Wrote s t) : Logged s t := by
  obtain ⟨⟨l, c, x, al, hl, hc, hx, hk⟩, mod, mem, agenda, -⟩ := h
  exact ⟨⟨l, c, x, al, s.core.trace, s.core.perf, hl, hc, hx, hk⟩, mod, mem, agenda⟩

/-- An update of the trace registers and of the performance counter. -/
theorem Logged.counted (s : State) {f : Core → Core} (h : ∃ tr pf, f s.core = { s.core with trace := tr, perf := pf }) :
    Logged s (s.modCore f) := by
  obtain ⟨tr, pf, h⟩ := h
  exact ⟨⟨_, _, _, _, tr, pf, .refl _, .refl _, .refl _, h⟩, ⟨_, _, rfl⟩, rfl, rfl⟩

/-! ### What such a write leaves -/

section
variable {s t : State} (h : Logged s t)
include h

theorem Logged.ctx (c : Ctx) : sawCtx (s.core.ctx c) (t.core.ctx c) := by
  obtain ⟨⟨l, c', x, al, tr, pf, hl, hc, hx, hk⟩, -, -, -⟩ := h
  rw [hk]
  cases c
  · exact hl
  · exact hc
  · exact hx

theorem Logged.get (c : Ctx) (n : BitVec 5) : (t.core.ctx c).get n = (s.core.ctx c).get n := by
  obtain ⟨_, hm⟩ := h.ctx c
  rw [hm]; rfl

theorem Logged.pc (c : Ctx) : (t.core.ctx c).pc = (s.core.ctx c).pc := by
  obtain ⟨_, hm⟩ := h.ctx c
  rw [hm]

theorem Logged.ord (c : Ctx) : (t.core.ctx c).ord = (s.core.ctx c).ord := by
  obtain ⟨_, hm⟩ := h.ctx c
  rw [hm]

theorem Logged.core_fields : t.core.num = s.core.num ∧ t.core.mode = s.core.mode ∧ t.core.merged = s.core.merged ∧
    t.core.cur = s.core.cur ∧ t.core.flights = s.core.flights ∧ t.core.task = s.core.task ∧ t.core.phase = s.core.phase ∧
    t.core.traps = s.core.traps ∧ t.core.hubFaults = s.core.hubFaults ∧ t.core.inService = s.core.inService ∧
    t.core.window = s.core.window ∧ t.core.ckpt = s.core.ckpt ∧ t.core.stop = s.core.stop ∧ t.core.returning = s.core.returning := by
  obtain ⟨⟨l, c', x, al, tr, pf, -, -, -, hk⟩, -, -, -⟩ := h
  rw [hk]
  exact ⟨rfl, rfl, rfl, rfl, rfl, rfl, rfl, rfl, rfl, rfl, rfl, rfl, rfl, rfl⟩

theorem Logged.mod_fields : t.m.reqs = s.m.reqs ∧ t.m.reports = s.m.reports ∧ t.m.stalls = s.m.stalls := by
  obtain ⟨-, ⟨sn, ra, hm⟩, -, -⟩ := h
  rw [hm]
  exact ⟨rfl, rfl, rfl⟩

end

/-! ### The writes -/

theorem devWrite_logged (s : State) (root : Word) (va : Nat) (bs : Bytes) : Logged s (devWrite s root va bs) :=
  (devWrite_wrote s root va bs).logged

theorem State.putTrace_logged (s : State) (at' : BitVec 8 × Word) (kind : Nat) (lpc : Word) (body : Bytes) :
    Logged s (s.putTrace at' kind lpc body) := by
  unfold State.putTrace
  exact (devWrite_logged ..).trans (Logged.counted _ ⟨_, _, rfl⟩)

theorem State.putGap_logged (s : State) (at' : BitVec 8 × Word) : Logged s (s.putGap at') := by
  unfold State.putGap
  dsimp only
  split
  · exact .refl s
  · exact (State.putTrace_logged ..).trans (Logged.counted _ ⟨_, _, rfl⟩)

theorem State.dropTrace_logged (s : State) : Logged s s.dropTrace := by
  unfold State.dropTrace
  exact Logged.counted s ⟨_, _, rfl⟩

/-- A trace record is such a write, whether it is put, dropped or not asked for (17 R264). -/
theorem State.traceAt_logged (s : State) (kind : Nat) (at' : BitVec 8 × Word) (lpc : Word) (body : Bytes) :
    Logged s (s.traceAt kind at' lpc body) := by
  unfold State.traceAt
  split
  · exact .refl s
  · split
    · exact s.dropTrace_logged
    · have gaps : Logged s ((s.putGap at').putGap at') := (State.putGap_logged ..).trans (State.putGap_logged ..)
      dsimp only
      split
      · exact gaps.trans (State.putTrace_logged ..)
      · exact gaps.trans (State.dropTrace_logged _)

/-- With no trace buffer there is no record. -/
theorem State.traceAt_off {s : State} (h : s.core.traces = false) (kind : Nat) (at' : BitVec 8 × Word) (lpc : Word) (body : Bytes) :
    s.traceAt kind at' lpc body = s := by
  unfold State.traceAt
  rw [h]
  rfl

theorem State.pinSamples_logged (s : State) : Logged s s.pinSamples := by
  unfold State.pinSamples
  exact Logged.counted s ⟨_, _, rfl⟩

theorem State.countFor_logged (s : State) (c : Core → Ctx) (ev : Nat) (n : Nat) :
    Logged s (s.modCore (fun k => k.countFor (c k) ev n)) := Logged.counted s ⟨_, _, rfl⟩

/-- A fault that is noted is counted and traced. -/
theorem State.noteFault_logged (s : State) (p : Pend) (code : BitVec 8) : Logged s (s.noteFault p code) :=
  ((s.countFor_logged _ 8 _).trans (State.pinSamples_logged _)).trans (State.traceAt_logged ..)

theorem State.writeRecord_logged (s : State) (p : Pend) (code : BitVec 8) : Logged s (s.writeRecord p code) := by
  unfold State.writeRecord
  split
  · exact devWrite_logged ..
  · exact .refl s

end Sys2Proof.Machine
end

section
/-! PROOFS. What taking a fault leaves: the handler that is entered, the task that ends, the trap of a hub core (spec/15 R240 to R244, spec/21 R307). -/

namespace Sys2Proof.Machine

/-! ### The end of a task that is to be dumped (20 R280; 17 R265) -/

theorem statusOf_code (code : BitVec 8) (detail : Nat) : (statusOf code.toNat detail).extractLsb' 0 8 = code := by
  apply BitVec.eq_of_toNat_eq
  have small := code.isLt
  unfold statusOf w64
  simp only [BitVec.extractLsb'_toNat, BitVec.toNat_ofNat, Nat.shiftRight_zero]
  omega

/-- The end with a code of a precise fault or of the sequencer leaves all three contexts to be dumped. -/
theorem dumpFor_statusOf {code : BitVec 8} (h : code ≠ 0x42) (h' : code ≠ 0x32) (detail : Nat) :
    dumpFor (statusOf code.toNat detail) = [.L, .C, .S] := by
  unfold dumpFor
  rw [statusOf_code, if_neg]
  rintro (e | e)
  · exact h e
  · exact h' e

@[simp] theorem State.cancelChain_stalls (s : State) (ch : ChainId) : (s.cancelChain ch).m.stalls = s.m.stalls := by cases ch <;> rfl

/-- The stalls that the watchdog has counted stay when entries are withdrawn. -/
theorem State.cancelAll_stalls (s : State) : s.cancelAll.m.stalls = s.m.stalls := by
  simp only [State.cancelAll, chainIds, List.foldl_cons, List.foldl_nil, State.cancelChain_stalls]

/-- A task with contexts to dump is ending, and has not ended yet. -/
theorem State.endSoon_ending {s : State} {st : Word} (task : s.core.task.isSome = true) (dump : dumpFor st = [.L, .C, .S]) :
    (s.endSoon st).core.phase = .ending st [.L, .C, .S] ∧ (s.endSoon st).m.stalls = s.m.stalls := by
  have some : s.core.task.isNone = false := by
    cases h : s.core.task with
    | none => rw [h] at task; cases task
    | some _ => rfl
  unfold State.endSoon
  rw [some, dump]
  dsimp only [Bool.false_eq_true, if_false]
  unfold State.settleEnd
  simp only [State.modCore_core, List.isEmpty_cons, Bool.not_false, Bool.or_true, if_true]
  exact ⟨rfl, s.cancelAll_stalls⟩

/-- A fault that ends its task. -/
theorem State.endReport_ending {s : State} {p : Pend} {code : BitVec 8} (task : s.core.task.isSome = true) (h : code ≠ 0x42)
    (h' : code ≠ 0x32) : (s.endReport p code).core.phase = .ending (statusOf code.toNat p.lpc.toNat) [.L, .C, .S] ∧
      (s.endReport p code).m.stalls = s.m.stalls := by
  have written := s.writeRecord_logged p code
  obtain ⟨-, -, -, -, -, same, -⟩ := written.core_fields
  obtain ⟨phase, stalls⟩ := State.endSoon_ending (s := s.writeRecord p code) (by rw [same]; exact task) (dumpFor_statusOf h h' p.lpc.toNat)
  exact ⟨phase, stalls.trans written.mod_fields.2.2⟩

theorem State.failTask_ending {s : State} {p : Pend} {code : BitVec 8} (task : s.core.task.isSome = true) (h : code ≠ 0x42)
    (h' : code ≠ 0x32) : (s.failTask p code).core.phase = .ending (statusOf code.toNat p.lpc.toNat) [.L, .C, .S] ∧
      (s.failTask p code).m.stalls = s.m.stalls := by
  have noted := s.noteFault_logged p code
  obtain ⟨-, -, -, -, -, same, -⟩ := noted.core_fields
  obtain ⟨phase, stalls⟩ := State.endReport_ending (s := s.noteFault p code) (p := p) (by rw [same]; exact task) h h'
  exact ⟨phase, stalls.trans noted.mod_fields.2.2⟩

/-- A fault of a handler's own word ends its task with code 0x22 (15 R244). -/
theorem State.handlerFault_ending {s : State} (p : Pend) (task : s.core.task.isSome = true) :
    (s.handlerFault p).core.phase = .ending (statusOf 0x22 p.lpc.toNat) [.L, .C, .S] := by
  obtain ⟨-, -, -, -, -, same, -⟩ := (s.noteFault_logged p 0x22).core_fields
  exact (State.endSoon_ending (by rw [same]; exact task) (dumpFor_statusOf (code := 0x22) (by decide) (by decide) _)).1

/-! ### The handler (15 R243) -/

/-- What entering a handler has done before control goes there. -/
def State.reported (s : State) (p : Pend) (code : BitVec 8) : State := ((s.modCore Core.endReplay).noteFault p code).writeRecord p code

theorem State.reported_logged (s : State) (p : Pend) (code : BitVec 8) : Logged (s.modCore Core.endReplay) (s.reported p code) :=
  (State.noteFault_logged ..).trans (State.writeRecord_logged ..)

/-- The core that runs a handler at h for a task, the fault record's address in x1 and the code in x2. -/
def Core.inHandlerAt (k : Core) (t : Task) (p : Pend) (code : BitVec 8) (h : Word) : Core :=
  { (k.modAll Context.loseLatches) with
    phase := .handler p, merged := true, cur := .C, slot := .l, lates := [], returning := !t.kmerged,
    c := { ((k.c.put 1 t.faultAddr).put 2 (code.setWidth 64)).loseLatches with pc := h, wait := none, issueAt := 0, trap := none } }

theorem State.enterHandler_eq {s : State} {p : Pend} {t : Task} {code : BitVec 8} {h : Word} (task : s.core.task = some t)
    (named : handlerOf t p.flt.code = (code, h)) (given : h ≠ Config.allOnes) :
    s.enterHandler p = ((s.reported p code).modCore (fun k => k.inHandlerAt t p code h)).reach := by
  unfold State.enterHandler
  rw [task]
  simp only [named, if_neg given]
  rfl

/-- Where no handler is registered the fault ends its task (15 R240). -/
theorem State.enterHandler_none {s : State} {p : Pend} {t : Task} {code : BitVec 8} (task : s.core.task = some t)
    (named : handlerOf t p.flt.code = (code, Config.allOnes)) :
    s.enterHandler p = ((s.modCore Core.endReplay).noteFault p code).endReport p code := by
  unfold State.enterHandler
  rw [task]
  simp only [named, if_true]

theorem Core.inHandlerAt_get (k : Core) (t : Task) (p : Pend) (code : BitVec 8) (h : Word) (n : BitVec 5) :
    (k.inHandlerAt t p code h).c.get n = if n = 2 then code.setWidth 64 else if n = 1 then t.faultAddr else k.c.get n := by
  show ((k.c.put 1 t.faultAddr).put 2 (code.setWidth 64)).get n = _
  rw [Context.get_put, Context.get_put]
  have two : (2 : BitVec 5) ≠ 0 := by decide
  have one : (1 : BitVec 5) ≠ 0 := by decide
  simp only [two, one, ne_eq, not_false_eq_true, and_true]

/-- The handler stands at its first word, with registers 1 and 2 set and the others as they were. -/
theorem State.enterHandler_stands {s : State} {p : Pend} {t : Task} {code : BitVec 8} {h : Word} (task : s.core.task = some t)
    (named : handlerOf t p.flt.code = (code, h)) (given : h ≠ Config.allOnes) :
    let u := s.enterHandler p
    u.core.phase = .handler p ∧ u.core.c.pc = h ∧ u.core.c.get 1 = t.recAddr + 512 ∧ u.core.c.get 2 = code.setWidth 64 ∧
      u.core.merged = true ∧ u.core.cur = .C ∧ (∀ n, n ≠ 1 → n ≠ 2 → u.core.c.get n = s.core.c.get n) := by
  intro u
  have gets : ∀ n, ((s.reported p code).core.inHandlerAt t p code h).c.get n =
      if n = 2 then code.setWidth 64 else if n = 1 then t.faultAddr else s.core.c.get n := by
    intro n
    rw [Core.inHandlerAt_get]
    exact if_congr Iff.rfl rfl (if_congr Iff.rfl rfl ((s.reported_logged p code).get .C n))
  have moved := (reach_only ((s.reported p code).modCore (fun k => k.inHandlerAt t p code h))).2.2.2.2.2
  rw [← State.enterHandler_eq task named given] at moved
  rcases moved with e | ⟨-, e⟩ <;>
  · rw [show u.core = _ from e]
    exact ⟨rfl, rfl, (gets 1).trans rfl, (gets 2).trans rfl, rfl, rfl, fun n h1 h2 => (gets n).trans (by rw [if_neg h2, if_neg h1])⟩

/-! ### The trap of a hub core (21 R307) -/

/-- What a fault of hub code has noted before it traps. -/
def State.hubNoted (s : State) (pc : Word) (f : Flt) : State :=
  ((s.modCore (fun k => k.count 8 (if preciseCode f.code then 1 else 0))).pinSamples.traceAt 6 (3, 0) pc
    (leBytes 8 f.code.toNat ++ leBytes 8 f.addr.toNat))

theorem State.hubNoted_logged (s : State) (pc : Word) (f : Flt) : Logged s (s.hubNoted pc f) :=
  ((s.countFor_logged (fun k => k.cur) 8 _).trans (State.pinSamples_logged _)).trans (State.traceAt_logged ..)

theorem State.hubFault_eq (s : State) (pc : Word) (f : Flt) : s.hubFault pc f =
    ((s.hubNoted pc f).modCore (fun k => { k with hubFaults := (pc, f) :: k.hubFaults })).hubPush pc (faultMode s.core.mode) f.code.toNat := rfl

/-- Without a trace buffer the note is kept in the counters alone. -/
theorem State.hubNoted_untraced {s : State} (h : s.core.traces = false) (pc : Word) (f : Flt) :
    (s.hubNoted pc f).wlog = s.wlog ∧ (s.hubNoted pc f).m = s.m ∧ (s.hubNoted pc f).core.c = s.core.c := by
  unfold State.hubNoted
  rw [State.traceAt_off (by exact h)]
  exact ⟨rfl, rfl, rfl⟩

theorem State.hubPush_room {s : State} (h : s.core.traps.length < 4) (pc : Word) (mode : Mode) (v : Nat) : s.hubPush pc mode v =
    (s.modCore (fun k => { k with traps := (pc, k.mode) :: k.traps, mode := mode })).modHere
      (fun k => { k with pc := Config.hubVector v, wait := none, held := none }) := by
  unfold State.hubPush; rw [if_neg (by omega)]

theorem State.hubPush_full {s : State} (h : 4 ≤ s.core.traps.length) (pc : Word) (mode : Mode) (v : Nat) : s.hubPush pc mode v =
    (s.modCore (fun k => { k with inService := false })).modM
      (fun m => { m with reports := m.reports ++ [{ code := 0x31, core := s.core.num, chain := none, num := 0 }] }) := by
  unfold State.hubPush; rw [if_pos h]

/-- Where a fault goes by its mode (04 R89). -/
theorem faultMode_eq (md : Mode) : faultMode md = if md = .u then .s else .m := by cases md <;> rfl

end Sys2Proof.Machine
end

section
/-! PROOFS. Taking a fault (spec/02 R38, R45; spec/15 R240 to R244; spec/21 R307). -/

namespace Sys2Proof.Machine

/-- Off the hub a fault of the word at issue goes by the phase of its core. -/
theorem State.takeFault_raise {s : State} (hub : s.core.hub = false) (f : Flt) : s.takeFault f = s.raise (s.pendOf .fault f) := by
  unfold State.takeFault
  rw [hub, if_neg Bool.false_ne_true]

theorem State.raise_sliced {s : State} (run : s.core.phase = .run) (sliced : s.core.merged = false) (p : Pend) :
    s.raise p = s.modCore (fun k => { k with phase := .pend p }) := by
  unfold State.raise
  simp only [run, sliced, Bool.false_eq_true, if_false]

theorem State.raise_merged {s : State} (run : s.core.phase = .run) (merged : s.core.merged = true) (p : Pend) :
    s.raise p = s.enterHandler p := by
  unfold State.raise
  simp only [run, merged, if_true]

theorem State.raise_inHandler {s : State} {q : Pend} (handler : s.core.phase = .handler q) (p : Pend) : s.raise p = s.handlerFault p := by
  unfold State.raise
  simp only [handler]

/-- Sliced running stops for a rebuild that names the word (02 R38). -/
theorem takeFault_sliced {s : State} (f : Flt) (hub : s.core.hub = false) (run : s.core.phase = .run) (sliced : s.core.merged = false) :
    let t := s.takeFault f
    t.core.phase = .pend (s.pendOf .fault f) ∧ (s.pendOf .fault f).lpc = s.lpc ∧ (s.pendOf .fault f).flt = f ∧
      (∀ c, t.core.ctx c = s.core.ctx c) ∧ t.m = s.m ∧ t.wlog = s.wlog := by
  intro t
  have eq : t = s.modCore (fun k => { k with phase := .pend (s.pendOf .fault f) }) :=
    (State.takeFault_raise hub f).trans (State.raise_sliced run sliced _)
  rw [eq]
  exact ⟨rfl, rfl, rfl, fun c => by cases c <;> rfl, rfl, rfl⟩

/-- Merged running enters the handler (02 R45; 15 R243). -/
theorem takeFault_handled {s : State} {f : Flt} {k : Task} {code : BitVec 8} {h : Word} (hub : s.core.hub = false)
    (run : s.core.phase = .run) (merged : s.core.merged = true) (task : s.core.task = some k)
    (named : handlerOf k f.code = (code, h)) (given : h ≠ Config.allOnes) :
    let t := s.takeFault f
    t.core.phase = .handler (s.pendOf .fault f) ∧ t.core.c.pc = h ∧ t.core.c.get 1 = k.recAddr + 512 ∧
      t.core.c.get 2 = code.setWidth 64 ∧ t.core.merged = true ∧ t.core.cur = .C ∧
      (∀ n, n ≠ 1 → n ≠ 2 → t.core.c.get n = s.core.c.get n) := by
  rw [State.takeFault_raise hub, State.raise_merged run merged]
  exact State.enterHandler_stands task named given

/-- Without a handler the task ends with the code (15 R240). -/
theorem takeFault_unhandled {s : State} {f : Flt} {k : Task} {code : BitVec 8} (hub : s.core.hub = false)
    (run : s.core.phase = .run) (merged : s.core.merged = true) (task : s.core.task = some k)
    (named : handlerOf k f.code = (code, Config.allOnes)) (h32 : code ≠ 0x32) (h42 : code ≠ 0x42) :
    (s.takeFault f).core.phase = .ending (statusOf code.toNat s.lpc.toNat) [.L, .C, .S] := by
  rw [State.takeFault_raise hub, State.raise_merged run merged, State.enterHandler_none task named]
  obtain ⟨-, -, -, -, -, same, -⟩ := ((s.modCore Core.endReplay).noteFault_logged (s.pendOf .fault f) code).core_fields
  refine (State.endReport_ending ?_ h42 h32).1
  rw [same]
  show (s.core.task.map _).isSome = true
  rw [task]
  rfl

/-- In a handler the task ends with code 0x22 (15 R244). -/
theorem takeFault_inHandler {s : State} {k : Task} {p : Pend} (f : Flt) (hub : s.core.hub = false) (handler : s.core.phase = .handler p)
    (task : s.core.task = some k) : (s.takeFault f).core.phase = .ending (statusOf 0x22 s.lpc.toNat) [.L, .C, .S] := by
  rw [State.takeFault_raise hub, State.raise_inHandler handler]
  exact State.handlerFault_ending _ (by rw [task]; rfl)

theorem State.takeFault_hub {s : State} (hub : s.core.hub = true) (f : Flt) : s.takeFault f = s.hubFault s.core.c.pc f := by
  unfold State.takeFault
  rw [hub, if_pos rfl]

/-- A hub core pushes pc and mode and goes to the vector of the code (21 R307). -/
theorem takeFault_trap {s : State} (f : Flt) (hub : s.core.hub = true) (room : s.core.traps.length < 4) :
    let t := s.takeFault f
    t.core.traps = (s.core.c.pc, s.core.mode) :: s.core.traps ∧ t.core.hubFaults = (s.core.c.pc, f) :: s.core.hubFaults ∧
      t.here.pc = Config.hubVector f.code.toNat ∧ t.core.mode = (if s.core.mode = .u then .s else .m) ∧
      (s.core.traces = false → t.wlog = s.wlog ∧ t.m = s.m) := by
  intro t
  obtain ⟨-, mode, -, -, -, -, -, traps, hubFaults, -⟩ := (s.hubNoted_logged s.core.c.pc f).core_fields
  have eq : t = _ := (State.takeFault_hub hub f).trans ((State.hubFault_eq s s.core.c.pc f).trans
    (State.hubPush_room (by rw [State.modCore_core, traps]; exact room) _ _ _))
  rw [eq]
  refine ⟨?_, ?_, ?_, ?_, fun quiet => ?_⟩
  · rw [State.modHere_core, Core.modCtx_traps]
    show (_, (s.hubNoted s.core.c.pc f).core.mode) :: (s.hubNoted s.core.c.pc f).core.traps = _
    rw [mode, traps]
  · rw [State.modHere_core, Core.modCtx_hubFaults]
    show (_, f) :: (s.hubNoted s.core.c.pc f).core.hubFaults = _
    rw [hubFaults]
  · unfold State.here
    rw [State.modHere_core, Core.modCtx_cur, Core.ctx_modCtx_same]
  · rw [State.modHere_core, Core.modCtx_mode]
    exact faultMode_eq _
  · obtain ⟨log, mod, -⟩ := State.hubNoted_untraced quiet s.core.c.pc f
    exact ⟨log, mod⟩

/-- A fifth trap takes the hub core out of service (21 R307). -/
theorem takeFault_fifth {s : State} (f : Flt) (hub : s.core.hub = true) (full : 4 ≤ s.core.traps.length) :
    let t := s.takeFault f
    t.core.inService = false ∧ t.core.c.pc = s.core.c.pc ∧ t.core.mode = s.core.mode ∧ (s.core.traces = false → t.core.c = s.core.c) ∧
      t.m.reports = s.m.reports ++ [{ code := 0x31, core := s.core.num, chain := none, num := 0 }] := by
  intro t
  have noted := s.hubNoted_logged s.core.c.pc f
  obtain ⟨num, mode, -, -, -, -, -, traps, -⟩ := noted.core_fields
  have eq : t = _ := (State.takeFault_hub hub f).trans ((State.hubFault_eq s s.core.c.pc f).trans
    (State.hubPush_full (by rw [State.modCore_core, traps]; exact full) _ _ _))
  rw [eq]
  refine ⟨rfl, noted.pc .C, mode, fun quiet => (State.hubNoted_untraced quiet s.core.c.pc f).2.2, ?_⟩
  show (s.hubNoted s.core.c.pc f).m.reports ++ [{ code := 0x31, core := (s.hubNoted s.core.c.pc f).core.num, chain := none, num := 0 }] = _
  rw [noted.mod_fields.2.1, num]

/-- Settles O54: one lemma for each of the places where a fault may be taken. -/
theorem takingAFault : Obligations.TakingAFault := by
  unfold Obligations.TakingAFault
  intro s f k code h p
  exact ⟨takeFault_sliced f, takeFault_handled, takeFault_unhandled, takeFault_inHandler f, takeFault_trap f, takeFault_fifth f⟩

end Sys2Proof.Machine
end

section
/-! PROOFS. What a result that lands leaves of the core (spec/03 R61 to R64): flights, steps, journals and clocks. -/

namespace Sys2Proof.Machine

/-- The state of a core that a landing result does not reach: its flights, what it runs and where, its steps and journals. -/
structure Untouched (k l : Core) : Prop where
  num : l.num = k.num
  merged : l.merged = k.merged
  cur : l.cur = k.cur
  cyc : l.cyc = k.cyc
  phase : l.phase = k.phase
  flights : l.flights = k.flights
  lates : l.lates = k.lates
  window : l.window = k.window
  ckpt : l.ckpt = k.ckpt
  journal : l.journal = k.journal
  replayed : l.replayed = k.replayed
  nonIdem : l.nonIdem = k.nonIdem

theorem Untouched.refl (k : Core) : Untouched k k := ⟨rfl, rfl, rfl, rfl, rfl, rfl, rfl, rfl, rfl, rfl, rfl, rfl⟩

theorem Untouched.trans {k l n : Core} (h : Untouched k l) (h' : Untouched l n) : Untouched k n :=
  ⟨h'.num.trans h.num, h'.merged.trans h.merged, h'.cur.trans h.cur, h'.cyc.trans h.cyc, h'.phase.trans h.phase,
    h'.flights.trans h.flights, h'.lates.trans h.lates, h'.window.trans h.window, h'.ckpt.trans h.ckpt, h'.journal.trans h.journal,
    h'.replayed.trans h.replayed, h'.nonIdem.trans h.nonIdem⟩

theorem Untouched.foldl {α : Type} {f : Core → α → Core} (step : ∀ k a, Untouched k (f k a)) (l : List α) (k : Core) :
    Untouched k (l.foldl f k) := by
  induction l generalizing k with
  | nil => exact .refl k
  | cons a r ih => exact (step k a).trans (ih _)

theorem Untouched.modCtx (k : Core) (c : Ctx) (f : Context → Context) : Untouched k (k.modCtx c f) := by
  cases c <;> exact ⟨rfl, rfl, rfl, rfl, rfl, rfl, rfl, rfl, rfl, rfl, rfl, rfl⟩

theorem Untouched.modAll (k : Core) (f : Context → Context) : Untouched k (k.modAll f) :=
  ⟨rfl, rfl, rfl, rfl, rfl, rfl, rfl, rfl, rfl, rfl, rfl, rfl⟩

theorem Untouched.modAlloc (k : Core) (id : BitVec 8) (f : Alloc → Alloc) : Untouched k (modAlloc k id f) :=
  ⟨rfl, rfl, rfl, rfl, rfl, rfl, rfl, rfl, rfl, rfl, rfl, rfl⟩

/-- An SWRITE that takes effect. -/
theorem Core.sysWrite_untouched (k : Core) (c : Ctx) (num : BitVec 12) (v : Word) : Untouched k (k.sysWrite c num v) := by
  unfold Core.sysWrite
  split
  case h_1 => exact (Untouched.modCtx _ _ _).trans (Untouched.modAll _ _)
  case h_2 =>
    split
    · exact Untouched.modCtx _ _ _
    · exact .refl k
  case h_3 => exact Untouched.modAll _ _
  case h_12 =>
    split
    · exact Untouched.modCtx _ _ _
    · exact .refl k
  all_goals exact ⟨rfl, rfl, rfl, rfl, rfl, rfl, rfl, rfl, rfl, rfl, rfl, rfl⟩

theorem Core.rsMerge_untouched (bs : Bytes) : ∀ (k : Core) (a : Nat) (ms : Bytes), Untouched k (k.rsMerge a bs ms) := by
  induction bs with
  | nil => intro k a ms; exact .refl k
  | cons b r ih =>
    intro k a ms
    cases ms with
    | nil => exact .refl k
    | cons m ms =>
      refine Untouched.trans ?_ (ih _ (a + 1) ms)
      split
      · exact .refl k
      · exact ⟨rfl, rfl, rfl, rfl, rfl, rfl, rfl, rfl, rfl, rfl, rfl, rfl⟩

theorem Core.healScratch_untouched (k : Core) (id : BitVec 8) (off n : Nat) : Untouched k (k.healScratch id off n) := by
  obtain ⟨b, h⟩ := healScratch_only k id off n
  rw [h]
  exact ⟨rfl, rfl, rfl, rfl, rfl, rfl, rfl, rfl, rfl, rfl, rfl, rfl⟩

theorem Core.freeAlloc_untouched (k : Core) (id : BitVec 8) (ord : Nat) : Untouched k (k.freeAlloc id ord) := by
  unfold Core.freeAlloc
  split
  · exact .refl k
  · exact ⟨rfl, rfl, rfl, rfl, rfl, rfl, rfl, rfl, rfl, rfl, rfl, rfl⟩

/-- One write of a result, of each kind. -/
theorem Core.applyPut_untouched (k : Core) (p : Put) : Untouched k (k.applyPut p) := by
  cases p with
  | reg c n v => exact Untouched.modCtx k c (fun x => x.put n v)
  | view c w v => exact Untouched.modCtx k c (fun x => { x with view := x.view.set w.toNat v w.isLt })
  | bytes a bs m =>
    have merged := Core.rsMerge_untouched bs k a m
    exact ⟨merged.num, merged.merged, merged.cur, merged.cyc, merged.phase, merged.flights, merged.lates, merged.window, merged.ckpt,
      merged.journal, merged.replayed, merged.nonIdem⟩
  | sys c num v => exact Core.sysWrite_untouched k c num v
  | scratch id off bs => exact (k.healScratch_untouched id off bs.length).trans (Untouched.modAlloc _ _ _)
  | expiry id t => exact ⟨rfl, rfl, rfl, rfl, rfl, rfl, rfl, rfl, rfl, rfl, rfl, rfl⟩
  | tag id t => exact Untouched.modAlloc _ _ _
  | free id ord => exact Core.freeAlloc_untouched k id ord
  | unpin cs id ls => exact Untouched.foldl (fun k c => Untouched.modCtx k c _) cs k

/-- A result lands: its writes, its latch and its flags. -/
theorem Core.applyFlight_untouched (k : Core) (f : Flight) : Untouched k (k.applyFlight f) :=
  (Untouched.foldl Core.applyPut_untouched f.puts k).trans (Untouched.modCtx _ _ _)

/-- Results land on a core and in the module. -/
theorem State.applyFlights_untouched (s : State) (fs : List Flight) : Untouched s.core (s.applyFlights fs).core :=
  Untouched.foldl Core.applyFlight_untouched fs s.core

/-- A result of one register gives it its value. -/
theorem Core.applyFlight_get (k : Core) {f : Flight} {d : BitVec 5} {v : Word} (puts : f.puts = [.reg f.ctx d v]) (hd : d ≠ 0) :
    ((k.applyFlight f).ctx f.ctx).get d = v := by
  unfold Core.applyFlight Core.applyPuts
  rw [puts, Core.ctx_modCtx_same]
  show (((k.modCtx f.ctx (fun x => x.put d v)).ctx f.ctx).get d) = v
  rw [Core.ctx_modCtx_same, Context.get_put, if_pos ⟨rfl, hd⟩]

end Sys2Proof.Machine
end

section
/-! PROOFS. A rebuild, the replay, the entry of a handler, and an early fault of an engine (spec/02 R38 to R41, R408; spec/15 R243). -/

namespace Sys2Proof.Machine

@[simp] theorem Core.modChain_flights (k : Core) (c : ChainId) (f : Chain → Chain) : (k.modChain c f).flights = k.flights := by
  cases c <;> rfl

/-- An update of every chain leaves the flights. -/
theorem Core.mapChains_flights (f : ChainId → Chain → Chain) (k : Core) :
    (chainIds.foldl (fun k c => k.modChain c (f c)) k).flights = k.flights := by
  simp only [chainIds, List.foldl_cons, List.foldl_nil, Core.modChain_flights]

/-- A context loaded from a checkpoint has its registers (02 R38 step 4). -/
theorem Context.get_load (k : Context) (c : Ckpt) {i : BitVec 5} (h : i ≠ 0) : (k.load c).get i = c.xs.getD i.toNat 0 := by
  have nonzero : i.toNat ≠ 0 := fun e => h (BitVec.eq_of_toNat_eq e)
  unfold Context.get
  rw [if_neg h]
  show ((Vector.range 32).map (fun i => if i = 0 then (0 : Word) else c.xs.getD i 0))[i.toNat]'_ = _
  rw [Vector.getElem_map, Vector.getElem_range, if_neg nonzero]

theorem Context.get_rebuilt (k : Context) (c : Ckpt) (cyc : Nat) {i : BitVec 5} (h : i ≠ 0) :
    (k.rebuilt c cyc).get i = c.xs.getD i.toNat 0 := Context.get_load k c h

/-- The state of a rebuild once every result has landed (02 R38 step 1). -/
def State.allLanded (s : State) : State := (s.modCore (fun k => { k with flights := [] })).applyFlights s.core.landing

theorem State.allLanded_untouched (s : State) : Untouched { s.core with flights := [] } s.allLanded.core :=
  State.applyFlights_untouched (s.modCore (fun k => { k with flights := [] })) s.core.landing

/-- What the rebuild makes of the core k, whose results have landed, with rings and allocations set back (02 R38 steps 2 to 5). -/
def Core.setBack (k : Core) (p : Pend) (rings : List Ring) (allocs : List Alloc) : Core :=
  let c := k.ckpt
  let chains := chainIds.foldl (fun k ch => k.modChain ch (fun x => x.setBack (c.tline.getD (chainCode ch) 0))) k
  { (chains.modAll (fun x => x.rebuilt c k.cyc)) with
    rings := rings, allocs := allocs, merged := true, cur := .C, slot := .l,
    returning := (match k.task with
      | some t => !t.kmerged
      | none => false),
    window := k.window.map (fun e => { e with l := none, c := none, s := none }), lates := [],
    ran := k.executed, nonIdem := false, replayed := k.journal ++ k.replayed, journal := [], svc := none, secAppends := [], phase := .rebuilt p }

theorem State.rebuild_eq {s : State} {t : Task} (task : s.core.task = some t) (idem : s.core.nonIdem = false) (p : Pend) :
    ∃ (rings : List Ring) (allocs : List Alloc) (back : Task → Task) (withdrawn : Module → Module), s.rebuild p =
      ((((s.allLanded.modCore (fun k => k.setBack p rings allocs)).modTask back).loseSpaces).modM withdrawn).reach := by
  have noEarly : s.allLanded.core.nonIdem = false := s.allLanded_untouched.nonIdem.trans idem
  have landed : (s.modCore (fun k => { k with flights := [] })).applyFlights s.core.landing = s.allLanded := rfl
  unfold State.rebuild
  simp only [task, landed, noEarly, Bool.false_eq_true, if_false]
  exact ⟨_, _, _, _, rfl⟩

/-- The core l stands at the checkpoint of the core k, in merged running, with all that k has journalled to be replayed (02 R38). -/
structure StandsBack (k l : Core) (p : Pend) : Prop where
  phase : l.phase = .rebuilt p
  merged : l.merged = true
  cur : l.cur = .C
  pc : l.c.pc = k.ckpt.lpc
  regs : ∀ i : BitVec 5, i ≠ 0 → l.c.get i = k.ckpt.xs.getD i.toNat 0
  append : ∀ ch, (l.chain ch).append = k.ckpt.tline.getD (chainCode ch) 0
  flights : l.flights = k.flights
  lates : l.lates = []
  window : ∀ e ∈ l.window, e.l = none ∧ e.c = none ∧ e.s = none
  replayed : l.replayed = k.journal ++ k.replayed

theorem Core.setBack_standsBack (k : Core) (p : Pend) (rings : List Ring) (allocs : List Alloc) :
    StandsBack k (k.setBack p rings allocs) p where
  phase := rfl
  merged := rfl
  cur := rfl
  pc := rfl
  regs := fun _ h => Context.get_rebuilt _ _ _ h
  append := fun ch => by cases ch <;> rfl
  flights := Core.mapChains_flights (fun ch x => x.setBack (k.ckpt.tline.getD (chainCode ch) 0)) k
  lates := rfl
  window := fun e he => by
    obtain ⟨x, -, rfl⟩ := List.mem_map.mp he
    exact ⟨rfl, rfl, rfl⟩
  replayed := rfl

theorem StandsBack.modTask {k : Core} {p : Pend} {s : State} (h : StandsBack k s.core p) (f : Task → Task) :
    StandsBack k (s.modTask f).core p :=
  ⟨h.phase, h.merged, h.cur, h.pc, h.regs, fun ch => by rw [← h.append ch]; cases ch <;> rfl, h.flights, h.lates, h.window, h.replayed⟩

theorem StandsBack.loseSpaces {k : Core} {p : Pend} {s : State} (h : StandsBack k s.core p) : StandsBack k s.loseSpaces.core p :=
  ⟨h.phase, h.merged, h.cur, h.pc, h.regs, fun ch => by rw [← h.append ch]; cases ch <;> rfl, h.flights, h.lates, h.window, h.replayed⟩

theorem StandsBack.modM {k : Core} {p : Pend} {s : State} (h : StandsBack k s.core p) (f : Module → Module) :
    StandsBack k (s.modM f).core p := h

/-- A region boundary advances section counters alone (04 R92). -/
theorem StandsBack.reach {k : Core} {p : Pend} {s : State} (h : StandsBack k s.core p) : StandsBack k s.reach.core p := by
  obtain ⟨-, -, -, -, -, e | ⟨-, e⟩⟩ := reach_only s
  · rw [e]; exact h
  · rw [e]
    exact ⟨h.phase, h.merged, h.cur, h.pc, h.regs, fun ch => by rw [← h.append ch]; cases ch <;> rfl, h.flights, h.lates, h.window, h.replayed⟩

/-- A rebuild after a fault sets the core back, and writes nothing (02 R38). -/
theorem State.rebuild_standsBack {s : State} {t : Task} (task : s.core.task = some t) (idem : s.core.nonIdem = false) (p : Pend) :
    StandsBack s.allLanded.core (s.rebuild p).core p ∧ (s.rebuild p).wlog = s.wlog := by
  obtain ⟨rings, allocs, back, withdrawn, eq⟩ := State.rebuild_eq task idem p
  rw [eq]
  refine ⟨?_, (reach_only _).1⟩
  have back1 : StandsBack s.allLanded.core (s.allLanded.modCore (fun k => k.setBack p rings allocs)).core p :=
    Core.setBack_standsBack _ p rings allocs
  exact ((back1.modTask back).loseSpaces.modM withdrawn).reach

/-- PRECISE_FAULT_REBUILD once every result has arrived and no entry is under way (02 R38). -/
theorem preciseFaultRebuild_rebuilds {s : State} {p : Pend} {k : Task} (hw : s.wlog = []) (task : s.core.task = some k)
    (pend : s.core.phase = .pend p) (late : p.early = false) (why : p.why = .fault) (idle : s.core.busy = false)
    (here : s.core.awaits = false) (idem : s.core.nonIdem = false) :
    ∃ t, exec .preciseFaultRebuild s = .next t ∧ t.core.phase = .rebuilt p ∧ t.core.merged = true ∧ t.core.cur = .C ∧
      t.core.c.pc = s.core.ckpt.lpc ∧ (∀ i : BitVec 5, i ≠ 0 → t.core.c.get i = s.core.ckpt.xs.getD i.toNat 0) ∧
      (∀ c, (t.core.chain c).append = s.core.ckpt.tline.getD (chainCode c) 0) ∧ t.core.flights = [] ∧ t.core.lates = [] ∧
      (∀ e ∈ t.core.window, e.l = none ∧ e.c = none ∧ e.s = none) ∧ t.core.replayed = s.core.journal ++ s.core.replayed ∧
      t.mem = s.mem := by
  have takes : Takes .preciseFaultRebuild s (s.rebuild p) := by
    show execPreciseFaultRebuild s = _
    unfold execPreciseFaultRebuild
    rw [runEvent_eq hw]
    simp only [pend, late, idle, here, why, Bool.or_self, Bool.false_eq_true, if_false, reduceCtorEq]
  obtain ⟨back, quiet⟩ := State.rebuild_standsBack task idem p
  have landed := s.allLanded_untouched
  have ckpt : s.allLanded.core.ckpt = s.core.ckpt := landed.ckpt
  refine ⟨_, takes, back.phase, back.merged, back.cur, back.pc.trans (congrArg Ckpt.lpc ckpt), fun i hi => ?_, fun c => ?_,
    back.flights.trans landed.flights, back.lates, back.window, ?_, settled_mem_of_quiet (quiet.trans hw)⟩
  · rw [← ckpt]; exact back.regs i hi
  · rw [← ckpt]; exact back.append c
  · rw [settled_core, back.replayed, landed.journal, landed.replayed]

theorem mergedReplay_replays {s : State} {p : Pend} (hw : s.wlog = []) (rebuilt : s.core.phase = .rebuilt p) :
    exec .mergedReplay s = .next { s with core := { s.core with phase := .replay p } } := by
  have takes : Takes .mergedReplay s (s.modCore (fun k => { k with phase := .replay p })) := by
    show execMergedReplay s = _
    unfold execMergedReplay
    rw [runEvent_eq hw]
    simp only [rebuilt]
  rw [takes, settled, State.modCore_wlog, hw]
  cases s
  cases hw
  rfl

/-- HANDLER_ENTRY at the faulting word (15 R243). -/
theorem handlerEntry_enters {s : State} {p : Pend} {k : Task} {code : BitVec 8} {h : Word} (hw : s.wlog = [])
    (task : s.core.task = some k) (replay : s.core.phase = .replay p) (why : p.why = .fault) (there : s.core.atTarget p = true)
    (named : handlerOf k p.flt.code = (code, h)) (given : h ≠ Config.allOnes) :
    ∃ t, exec .handlerEntry s = .next t ∧ t.core.phase = .handler p ∧ t.core.c.pc = h ∧ t.core.merged = true ∧
      t.core.c.get 1 = k.recAddr + 512 ∧ t.core.c.get 2 = code.setWidth 64 := by
  have takes : Takes .handlerEntry s (s.enterHandler p) := by
    show execHandlerEntry s = _
    unfold execHandlerEntry
    rw [runEvent_eq hw]
    simp only [replay, why, there, decide_true, Bool.and_self, if_true]
  obtain ⟨phase, pc, one, two, merged, -⟩ := State.enterHandler_stands task named given
  exact ⟨_, takes, phase, pc, merged, one, two⟩

/-- EARLY_ENGINE_FAULT ends the task (02 R408). -/
theorem earlyEngineFault_ends {s : State} {p : Pend} {k : Task} {ch : ChainId} {n : Nat} (hw : s.wlog = [])
    (task : s.core.task = some k) (pend : s.core.phase = .pend p) (early : p.early = true) (eng : p.eng = some (ch, n))
    (h42 : p.flt.code ≠ 0x42) (h32 : p.flt.code ≠ 0x32) :
    ∃ t, exec (.earlyEngineFault ch) s = .next t ∧
      t.core.phase = .ending (statusOf p.flt.code.toNat p.lpc.toNat) [.L, .C, .S] := by
  have takes : Takes (.earlyEngineFault ch) s (s.failTask p p.flt.code) := by
    show execEarlyEngineFault ch s = _
    unfold execEarlyEngineFault
    rw [runEvent_eq hw]
    simp only [pend, early, eng, Option.map_some, beq_self_eq_true, Bool.and_self, if_true]
  exact ⟨_, takes, (State.failTask_ending (by rw [task]; rfl) h42 h32).1⟩

/-- Settles O35: one lemma for each event. -/
theorem faultEvents : Obligations.FaultEvents := by
  unfold Obligations.FaultEvents
  intro s p k code h ch n hw task
  exact ⟨preciseFaultRebuild_rebuilds hw task, mergedReplay_replays hw, handlerEntry_enters hw task, earlyEngineFault_ends hw task⟩

end Sys2Proof.Machine
end

section
/-! PROOFS. Results in flight as a cycle ends and as data arrive (spec/03 R58, R62 to R64, R69). -/

namespace Sys2Proof.Machine

/-! ### What an update of a context's sequencing leaves: its registers -/

/-- Every register of every context reads in l as in k. -/
def SameRegs (k l : Core) : Prop := ∀ c n, (l.ctx c).get n = (k.ctx c).get n

theorem SameRegs.trans {k l n : Core} (h : SameRegs k l) (h' : SameRegs l n) : SameRegs k n :=
  fun c i => (h' c i).trans (h c i)

theorem SameRegs.modCtx (k : Core) (c : Ctx) {f : Context → Context} (h : ∀ x : Context, (f x).x = x.x) : SameRegs k (k.modCtx c f) := by
  intro e n
  rw [Core.ctx_modCtx]
  split
  · next eq =>
    subst eq
    unfold Context.get
    rw [h]
  · rfl

/-- An update of parts of the core that are no context. -/
theorem SameRegs.of_contexts {k l : Core} (h : l.l = k.l) (h' : l.c = k.c) (h'' : l.s = k.s) : SameRegs k l := by
  intro c n
  cases c
  · exact congrArg (Context.get · n) h
  · exact congrArg (Context.get · n) h'
  · exact congrArg (Context.get · n) h''

/-! ### The clocks of a cycle -/

/-- One update of each context in turn, L first. -/
def Core.inTurn (f : Ctx → Core → Core) (k : Core) : Core := f .S (f .C (f .L k))

theorem Untouched.inTurn {f : Ctx → Core → Core} (h : ∀ c k, Untouched k (f c k)) (k : Core) : Untouched k (k.inTurn f) :=
  ((h .L k).trans (h .C _)).trans (h .S _)

theorem SameRegs.inTurn {f : Ctx → Core → Core} (h : ∀ c k, SameRegs k (f c k)) (k : Core) : SameRegs k (k.inTurn f) :=
  ((h .L k).trans (h .C _)).trans (h .S _)

def Core.endScoreboardOf (c : Ctx) (k : Core) : Core :=
  k.modCtx c (fun x => { x with sbm := x.sbm && k.flights.any (fun f => f.ctx == c && f.listed) })

def Core.beginBlockOf (now : Nat) (c : Ctx) (k : Core) : Core :=
  k.modCtx c (fun x => if x.draining && k.drained c then { x with draining := false, wait := x.wait.map (fun w => (w.1, now)) } else x)

theorem Core.beginBlocks_untouched (k : Core) (now : Nat) : Untouched k (k.beginBlocks now) :=
  Untouched.inTurn (f := Core.beginBlockOf now) (fun c k => Untouched.modCtx k c _) k

theorem Core.endScoreboard_untouched (k : Core) : Untouched k k.endScoreboard :=
  Untouched.inTurn (f := Core.endScoreboardOf) (fun c k => Untouched.modCtx k c _) k

theorem Core.countFor_untouched (k : Core) (c : Ctx) (ev n : Nat) : Untouched k (k.countFor c ev n) :=
  ⟨rfl, rfl, rfl, rfl, rfl, rfl, rfl, rfl, rfl, rfl, rfl, rfl⟩

theorem Core.countStrings_untouched (k : Core) (n : Nat) : Untouched k (k.countStrings n) := by
  unfold Core.countStrings
  split
  · exact Core.countFor_untouched ..
  · exact .refl k

theorem Core.beginBlocks_regs (k : Core) (now : Nat) : SameRegs k (k.beginBlocks now) :=
  SameRegs.inTurn (f := Core.beginBlockOf now) (fun c k => SameRegs.modCtx k c (fun x => by split <;> rfl)) k

theorem Core.endScoreboard_regs (k : Core) : SameRegs k k.endScoreboard :=
  SameRegs.inTurn (f := Core.endScoreboardOf) (fun c k => SameRegs.modCtx k c (fun _ => rfl)) k

theorem Core.countFor_regs (k : Core) (c : Ctx) (ev n : Nat) : SameRegs k (k.countFor c ev n) := SameRegs.of_contexts rfl rfl rfl

theorem Core.countStrings_regs (k : Core) (n : Nat) : SameRegs k (k.countStrings n) := by
  unfold Core.countStrings
  split
  · exact Core.countFor_regs k _ _ _
  · exact fun _ _ => rfl

/-- The core that counts the cycle, before its clocks move on. -/
def Core.cycleCounted (k : Core) (banks : List (Ctx × Nat)) (now : Nat) : Core :=
  ((k.countFor (crowder banks k.cur) 2 (overcommit banks)).countStrings (1 + overcommit banks)).endScoreboard.beginBlocks now

theorem Core.cycleCounted_untouched (k : Core) (banks : List (Ctx × Nat)) (now : Nat) : Untouched k (k.cycleCounted banks now) :=
  (((Core.countFor_untouched ..).trans (Core.countStrings_untouched ..)).trans (Core.endScoreboard_untouched _)).trans
    (Core.beginBlocks_untouched ..)

theorem Core.cycleCounted_regs (k : Core) (banks : List (Ctx × Nat)) (now : Nat) : SameRegs k (k.cycleCounted banks now) :=
  (((Core.countFor_regs k _ _ _).trans (Core.countStrings_regs _ _)).trans (Core.endScoreboard_regs _)).trans
    (Core.beginBlocks_regs _ _)

theorem Core.nextCycle_frame (k : Core) (banks : List (Ctx × Nat)) (now : Nat) : (k.nextCycle banks now).cyc = k.cyc + 1 ∧
    (k.nextCycle banks now).slot = .l ∧ (k.nextCycle banks now).flights = k.flights ∧ SameRegs k (k.nextCycle banks now) :=
  ⟨rfl, rfl, (k.cycleCounted_untouched banks now).flights,
    (k.cycleCounted_regs banks now).trans (SameRegs.of_contexts rfl rfl rfl)⟩

/-- Time passes outside the core (07 R142). -/
theorem State.tickWall_frame (s : State) (n : Nat) : (s.tickWall n).core = s.core ∧ (s.tickWall n).wlog = s.wlog ∧
    (s.tickWall n).m.wall = s.m.wall + n * s.core.period := by
  unfold State.tickWall
  dsimp only
  split <;> exact ⟨rfl, rfl, rfl⟩

/-! ### Flights that stay -/

/-- A flight that yields is as much to come as before. -/
theorem yielded_arrived (fs : List Flight) (goes : Flight → Bool) (x : Flight × Nat) :
    (if x.1.arrived then x.1 else x.1.yield ((laterThan fs x.2 x.1).filter goes)).arrived = x.1.arrived := by
  split <;> rfl

/-- Of the flights that stay, those that have arrived stay as they are. -/
theorem yielding_arrived (fs : List Flight) (goes : Flight → Bool) :
    (yielding fs goes).filter (·.arrived) = fs.filter (fun f => f.arrived && !goes f) := by
  calc (yielding fs goes).filter (·.arrived)
      = ((fs.zipIdx.filter (fun x => !goes x.1)).filter (·.1.arrived)).map
          (fun x => if x.1.arrived then x.1 else x.1.yield ((laterThan fs x.2 x.1).filter goes)) := by
        rw [yielding, List.filter_map]
        congr 1
        exact List.filter_congr (fun x _ => yielded_arrived fs goes x)
    _ = ((fs.zipIdx.filter (fun x => !goes x.1)).filter (·.1.arrived)).map (·.1) :=
        List.map_congr_left (fun x hx => if_pos (List.mem_filter.mp hx).2)
    _ = ((fs.zipIdx.map (·.1)).filter (fun f => f.arrived && !goes f)) := by
        rw [List.filter_filter, List.filter_map]
        rfl
    _ = _ := by rw [List.zipIdx_map_fst]

/-- With no result that goes every flight stays as it is: none yields. -/
theorem yielding_none {fs : List Flight} {goes : Flight → Bool} (h : ∀ f ∈ fs, goes f = false) : yielding fs goes = fs := by
  have later : ∀ (i : Nat) (f : Flight), (laterThan fs i f).filter goes = [] := by
    intro i f
    refine List.filter_eq_nil_iff.mpr (fun g hg => ?_)
    obtain ⟨x, hx, rfl⟩ := List.mem_map.mp hg
    rw [h x.1 (List.fst_mem_of_mem_zipIdx (List.mem_of_mem_filter hx))]
    exact Bool.false_ne_true
  have alone : ∀ f : Flight, f.yield [] = f := fun f => by
    unfold Flight.yield
    simp only [List.filter_nil, List.flatMap_nil, List.foldl_nil, List.map_id', List.any_nil, Bool.false_eq_true, if_false]
  calc yielding fs goes
      = (fs.zipIdx.filter (fun x => !goes x.1)).map (·.1) := by
        refine List.map_congr_left (fun x _ => ?_)
        rw [later, alone, ite_self]
    _ = (fs.zipIdx.map (·.1)).filter (fun f => !goes f) := by rw [List.filter_map]; rfl
    _ = fs.filter (fun f => !goes f) := by rw [List.zipIdx_map_fst]
    _ = fs := List.filter_eq_self.mpr (fun f hf => by rw [h f hf]; rfl)

theorem bySlice_one (f : Flight) : bySlice [f] = [f] := by
  unfold bySlice
  cases h : f.ctx <;> simp [h]

theorem bySlice_nil : bySlice [] = [] := rfl

end Sys2Proof.Machine
end

section
/-! PROOFS. RESULT_LANDING and EXTERNAL_RESULT_ARRIVAL (spec/03 R62 to R64). -/

namespace Sys2Proof.Machine

/-! ### RESULT_LANDING (03 R62, R64) -/

/-- The task of the core is ending: none of its results lands (20 R280). -/
def Core.Ending (k : Core) : Prop := ∃ st ds, k.phase = .ending st ds

theorem Core.lands_running {k : Core} (h : ¬ k.Ending) (f : Flight) : k.lands f = (f.arrived && decide (f.landAt ≤ k.cyc)) := by
  unfold Core.lands
  split
  · next st ds e => exact absurd ⟨st, ds, e⟩ h
  · exact Bool.and_true _

theorem Core.lands_ending {k : Core} (h : k.Ending) (f : Flight) : k.lands f = false := by
  obtain ⟨st, ds, e⟩ := h
  unfold Core.lands
  rw [e]
  exact Bool.and_false _

theorem Core.staying_running {k : Core} (h : ¬ k.Ending) :
    k.staying.filter (·.arrived) = k.flights.filter (fun f => f.arrived && !decide (f.landAt ≤ k.cyc)) := by
  rw [Core.staying, yielding_arrived]
  refine List.filter_congr (fun f _ => ?_)
  rw [Core.lands_running h]
  cases f.arrived <;> rfl

theorem Core.staying_ending {k : Core} (h : k.Ending) : k.staying.filter (·.arrived) = k.flights.filter (·.arrived) := by
  rw [Core.staying, yielding_arrived]
  exact List.filter_congr (fun f _ => by rw [Core.lands_ending h]; exact Bool.and_true _)

/-- The one result in flight is due: it alone lands. -/
theorem Core.due_one {k : Core} {f : Flight} (one : k.flights = [f]) (lands : k.lands f = true) : k.due = [f] := by
  have due : k.flights.filter k.lands = [f] := by rw [one]; exact List.filter_cons_of_pos lands
  unfold Core.due
  dsimp only
  rw [due]
  cases counted : f.counted
  · simp [counted, bySlice_nil]
  · simp [counted, bySlice_one]

/-- The core of an unfrozen cycle whose results have landed. -/
def State.landedCore (s : State) : Core := s.core.due.foldl Core.applyFlight { s.core with flights := s.core.staying }

theorem State.landedCore_untouched (s : State) : Untouched { s.core with flights := s.core.staying } s.landedCore :=
  Untouched.foldl Core.applyFlight_untouched _ _

theorem State.endCycle_core (s : State) : s.endCycle.core = s.landedCore.nextCycle s.core.banks s.m.now := rfl

theorem takes_resultLanding {s : State} (hw : s.wlog = []) (notHeld : s.core.slot ≠ .hold)
    (open' : s.core.slot = .l → s.core.frozen = false) :
    Takes .resultLanding s (s.endCycle.tickWall (1 + overcommit s.core.banks)) := by
  have unfrozen : ¬ (s.core.slot = .hold ∨ (s.core.slot = .l ∧ s.core.frozen = true)) := by
    rintro (h | ⟨h, frozen⟩)
    · exact notHeld h
    · rw [open' h] at frozen; cases frozen
  show execResultLanding s = _
  unfold execResultLanding
  rw [runEvent_eq hw, if_neg unfrozen]

/-- An unfrozen cycle lands exactly what is due, and the next one begins (03 R62). -/
theorem resultLanding_unfrozen {s : State} (hw : s.wlog = []) (f : Flight) (d : BitVec 5) (v : Word) (notHeld : s.core.slot ≠ .hold)
    (open' : s.core.slot = .l → s.core.frozen = false) : ∃ t, exec .resultLanding s = .next t ∧
      t.core.cyc = s.core.cyc + 1 ∧ t.core.slot = .l ∧ t.core.flights = s.core.staying ∧ t.mem = s.mem ∧
      (¬s.core.Ending →
        t.core.flights.filter (·.arrived) = s.core.flights.filter (fun f => f.arrived && !decide (f.landAt ≤ s.core.cyc)) ∧
        (s.core.flights = [f] → f.arrived = true → f.landAt ≤ s.core.cyc → f.puts = [.reg f.ctx d v] → d ≠ 0 →
          (t.core.ctx f.ctx).get d = v)) ∧
      (s.core.Ending → t.core.flights.filter (·.arrived) = s.core.flights.filter (·.arrived)) := by
  obtain ⟨ticked, quiet, -⟩ := s.endCycle.tickWall_frame (1 + overcommit s.core.banks)
  obtain ⟨cyc, slot, flights, regs⟩ := s.landedCore.nextCycle_frame s.core.banks s.m.now
  have stay : (s.landedCore.nextCycle s.core.banks s.m.now).flights = s.core.staying := flights.trans s.landedCore_untouched.flights
  refine ⟨_, takes_resultLanding hw notHeld open', ?_⟩
  rw [settled_core, ticked, State.endCycle_core, stay]
  refine ⟨cyc.trans (congrArg (· + 1) s.landedCore_untouched.cyc), slot, rfl, settled_mem_of_quiet (quiet.trans hw), fun running => ?_,
    fun ending => Core.staying_ending ending⟩
  refine ⟨Core.staying_running running, fun one here due puts hd => ?_⟩
  have lands : s.core.lands f = true := by rw [Core.lands_running running, here, decide_eq_true due]; rfl
  rw [regs, State.landedCore, Core.due_one one lands]
  exact Core.applyFlight_get _ puts hd

/-- The core that counts a frozen cycle. -/
def Core.frozenCounted (k : Core) (now : Nat) : Core := ((k.countFor (k.overdue.getD k.cur) 2 1).countStrings 1).beginBlocks now

/-- A frozen cycle only passes (03 R64). -/
theorem resultLanding_frozen {s : State} (hw : s.wlog = [])
    (frozen : s.core.slot = .hold ∨ (s.core.slot = .l ∧ s.core.frozen = true)) : ∃ t, exec .resultLanding s = .next t ∧
      t.core.cyc = s.core.cyc ∧ t.core.flights = s.core.flights ∧ t.m.wall = s.m.wall + s.core.period := by
  have takes : Takes .resultLanding s
      ((s.modCore (fun k => { k.frozenCounted s.m.now with slot := .l, nowAt := s.m.now })).tickWall 1) := by
    show execResultLanding s = _
    unfold execResultLanding
    rw [runEvent_eq hw, if_pos frozen]
    rfl
  obtain ⟨ticked, -, wall⟩ := (s.modCore (fun k => { k.frozenCounted s.m.now with slot := .l, nowAt := s.m.now })).tickWall_frame 1
  have same : Untouched s.core (s.core.frozenCounted s.m.now) :=
    ((Core.countFor_untouched ..).trans (Core.countStrings_untouched ..)).trans (Core.beginBlocks_untouched ..)
  have period : (s.core.frozenCounted s.m.now).period = s.core.period := by unfold Core.period Core.hub; rw [same.num]
  refine ⟨_, takes, ?_⟩
  rw [settled_core, settled_m, ticked, wall, Nat.one_mul]
  exact ⟨same.cyc, same.flights, congrArg (s.m.wall + ·) period⟩

/-! ### Data arrive (03 R64, R66, R69) -/

/-- Results that an arrival of `p` lets land at once. -/
def Core.landsAtOnce (k : Core) (p : Flight → Bool) (x : Flight) : Bool :=
  (p x && !x.arrived) && x.late.isNone && (k.interlocked || decide (x.landAt < k.cyc))

/-- Results that an arrival of `p` puts on the landing list of an in-place trap. -/
def joinsList (p : Flight → Bool) (x : Flight) : Bool := (p x && !x.arrived) && x.late.isSome

/-- Flights that an arrival leaves: those that stay, and have arrived where they are meant. -/
def Core.arrivedFlights (k : Core) (p : Flight → Bool) (f : Flight → Flight) : List Flight :=
  mapIf (fun x => p x && !x.arrived) (fun x => { f x with arrived := true })
    ((yielding k.flights (k.landsAtOnce p)).filter (fun x => !joinsList p x))

/-- The results that land at once. -/
def Core.landingNow (k : Core) (p : Flight → Bool) (f : Flight → Flight) : List Flight :=
  bySlice ((k.flights.filter (k.landsAtOnce p)).map (fun x => { f x with arrived := true }))

/-- The results that have come since its in-place trap join the landing list of a context (03 R66). -/
def captureOf (gs : List Flight) (c : Ctx) (k : Core) : Core := k.modCtx c (fun x => x.capture (gs.filter (fun g => g.ctx == c)))

theorem Core.arrive_eq (k : Core) (p : Flight → Bool) (f : Flight → Flight) : k.arrive p f =
    ((k.landingNow p f).foldl Core.applyFlight { k with flights := k.arrivedFlights p f }).inTurn
      (captureOf ((k.flights.filter (joinsList p)).map (fun x => { f x with arrived := true }))) := rfl

theorem Core.arrive_untouched (k : Core) (p : Flight → Bool) (f : Flight → Flight) :
    Untouched { k with flights := k.arrivedFlights p f } (k.arrive p f) := by
  rw [Core.arrive_eq]
  exact (Untouched.foldl Core.applyFlight_untouched _ _).trans (Untouched.inTurn (f := captureOf _) (fun c k => Untouched.modCtx k c _) _)

/-- Registers change only by the results that land at once. -/
theorem Core.arrive_regs (k : Core) (p : Flight → Bool) (f : Flight → Flight) :
    SameRegs ((k.landingNow p f).foldl Core.applyFlight { k with flights := k.arrivedFlights p f }) (k.arrive p f) := by
  rw [Core.arrive_eq]
  exact SameRegs.inTurn (f := captureOf _) (fun c k => SameRegs.modCtx k c (fun _ => rfl)) _

/-- What is meant by an arrival and stays in flight has arrived. -/
theorem Core.arrivedFlights_meant {k : Core} {p : Flight → Bool} {f : Flight → Flight} {g : Flight} (h : g ∈ k.arrivedFlights p f) :
    g.arrived = true ∨ p g = false := by
  obtain ⟨x, -, rfl⟩ := List.mem_map.mp h
  cases hp : p x <;> cases ha : x.arrived <;> simp [hp, ha]

/-! The arrival of the data of one result. -/

section
variable {k : Core} {f : Flight}

theorem joinsList_this (notLate : f.late = none) (x : Flight) : joinsList (· == f) x = false := by
  by_cases e : x = f
  · subst e; simp [joinsList, notLate]
  · simp [joinsList, e]

theorem landsAtOnce_other {x : Flight} (h : x ≠ f) : k.landsAtOnce (· == f) x = false := by simp [Core.landsAtOnce, h]

/-- Flights that stay and are still to come are as many as those still to come that do not go. -/
theorem yielding_waiting (fs : List Flight) (goes : Flight → Bool) :
    ((yielding fs goes).filter (fun g => !g.arrived)).length = (fs.filter (fun g => !g.arrived && !goes g)).length := by
  calc ((yielding fs goes).filter (fun g => !g.arrived)).length
      = ((fs.zipIdx.filter (fun x => !goes x.1)).filter (fun x => !x.1.arrived)).length := by
        rw [yielding, List.filter_map, List.length_map]
        congr 1
        exact List.filter_congr (fun x _ => congrArg (!·) (yielded_arrived fs goes x))
    _ = ((fs.zipIdx.map (·.1)).filter (fun g => !g.arrived && !goes g)).length := by
        rw [List.filter_filter, List.filter_map, List.length_map]
        rfl
    _ = _ := by rw [List.zipIdx_map_fst]

/-- Flights that are still to come after the data of one result have come: no more than the others that were so before. -/
theorem Core.arrivedFlights_waiting (waits : f.arrived = false) :
    ((k.arrivedFlights (· == f) id).filter (fun g => !g.arrived)).length ≤
      (k.flights.filter (fun g => !g.arrived && !(g == f))).length := by
  have left : ∀ l : List Flight, ((mapIf (fun x => (x == f) && !x.arrived) (fun x => { x with arrived := true }) l).filter (fun g => !g.arrived)).length =
      (l.filter (fun g => !g.arrived && !(g == f))).length := by
    intro l
    rw [mapIf, List.filter_map, List.length_map]
    congr 1
    refine List.filter_congr (fun x _ => ?_)
    by_cases e : x = f
    · subst e; simp [waits]
    · simp [e]
  refine (left _).trans_le ?_
  cases goes : k.landsAtOnce (· == f) f
  · have none : ∀ g ∈ k.flights, k.landsAtOnce (· == f) g = false := fun g _ => by
      by_cases e : g = f
      · rw [e]; exact goes
      · exact landsAtOnce_other e
    rw [yielding_none none]
    exact (List.filter_sublist.filter _).length_le
  · have only : ∀ g ∈ k.flights, (!g.arrived && !(k.landsAtOnce (· == f) g)) = (!g.arrived && !(g == f)) := fun g _ => by
      by_cases e : g = f
      · rw [e, goes, beq_self_eq_true]
      · rw [landsAtOnce_other e, beq_eq_false_iff_ne.mpr e]
    calc _ ≤ ((yielding k.flights (k.landsAtOnce (· == f))).filter (fun g => !g.arrived)).length := by
          refine List.Sublist.length_le ?_
          refine (List.filter_sublist.filter _).trans ?_
          exact List.monotone_filter_right _ (fun g hg => (Bool.and_eq_true_iff.mp hg).1)
      _ = _ := by rw [yielding_waiting, List.filter_congr only]

/-- The one result that has come is no longer to come. -/
theorem Core.arrive_fewer (waits : f.arrived = false) (mem : f ∈ k.flights) :
    ((k.arrive (· == f) id).flights.filter (fun g => !g.arrived)).length < (k.flights.filter (fun g => !g.arrived)).length := by
  rw [(k.arrive_untouched (· == f) id).flights]
  refine (Core.arrivedFlights_waiting waits).trans_lt ?_
  rw [show (fun g : Flight => !g.arrived && !(g == f)) = (fun g => (!(g == f)) && !g.arrived) from funext fun g => Bool.and_comm _ _,
    ← List.filter_filter]
  exact List.length_filter_lt_length_iff_exists.mpr ⟨f, List.mem_filter.mpr ⟨mem, by rw [waits]; rfl⟩, by simp⟩

/-- One that has come in time, without interlocks, is left to land in its cycle. -/
theorem Core.arrive_inTime (waits : f.arrived = false) (mem : f ∈ k.flights) (sliced : k.interlocked = false) (notLate : f.late = none)
    (inTime : k.cyc ≤ f.landAt) : f ∉ (k.arrive (· == f) id).flights ∧ { f with arrived := true } ∈ (k.arrive (· == f) id).flights ∧
      SameRegs k (k.arrive (· == f) id) := by
  have none : ∀ g ∈ k.flights, k.landsAtOnce (· == f) g = false := fun g _ => by
    by_cases e : g = f
    · rw [e]; simp [Core.landsAtOnce, sliced, Nat.not_lt.mpr inTime]
    · exact landsAtOnce_other e
  have stay : k.arrivedFlights (· == f) id = mapIf (fun x => (x == f) && !x.arrived) (fun x => { x with arrived := true }) k.flights := by
    rw [Core.arrivedFlights, yielding_none none]
    congr 1
    exact List.filter_eq_self.mpr (fun g _ => by rw [joinsList_this notLate]; rfl)
  have landing : k.landingNow (· == f) id = [] := by
    rw [Core.landingNow, List.filter_eq_nil_iff.mpr (fun g hg => by rw [none g hg]; exact Bool.false_ne_true)]
    rfl
  rw [(k.arrive_untouched (· == f) id).flights]
  show f ∉ k.arrivedFlights _ _ ∧ _ ∈ k.arrivedFlights _ _ ∧ _
  rw [stay]
  refine ⟨fun h => ?_, List.mem_map.mpr ⟨f, mem, by simp [waits]⟩, ?_⟩
  · obtain ⟨x, -, e⟩ := List.mem_map.mp h
    by_cases hx : x = f
    · subst hx
      have := congrArg Flight.arrived e
      simp [waits] at this
    · simp [hx] at e
  · have regs := k.arrive_regs (· == f) id
    rw [landing] at regs
    exact SameRegs.trans (SameRegs.of_contexts rfl rfl rfl) regs

/-- The one result in flight lands as its data come where interlocks or its cycle ask for it. -/
theorem Core.arrive_atOnce {d : BitVec 5} {v : Word} (waits : f.arrived = false) (one : k.flights = [f]) (notLate : f.late = none)
    (now : k.interlocked = true ∨ f.landAt < k.cyc) (puts : f.puts = [.reg f.ctx d v]) (hd : d ≠ 0) :
    (k.arrive (· == f) id).flights = [] ∧ ((k.arrive (· == f) id).ctx f.ctx).get d = v := by
  have goes : k.landsAtOnce (· == f) f = true := by
    have : (k.interlocked || decide (f.landAt < k.cyc)) = true := by
      rcases now with h | h
      · rw [h]; rfl
      · rw [decide_eq_true h, Bool.or_true]
    simp [Core.landsAtOnce, waits, notLate, this]
  have landing : k.landingNow (· == f) id = [{ f with arrived := true }] := by
    rw [Core.landingNow, one, List.filter_cons_of_pos goes]
    exact bySlice_one _
  have stay : k.arrivedFlights (· == f) id = [] := by
    have gone : yielding [f] (k.landsAtOnce (· == f)) = [] := by simp [yielding, goes]
    rw [Core.arrivedFlights, one, gone]
    rfl
  refine ⟨(k.arrive_untouched (· == f) id).flights.trans stay, ?_⟩
  rw [k.arrive_regs (· == f) id, landing]
  exact Core.applyFlight_get (f := { f with arrived := true }) _ puts hd

end

end Sys2Proof.Machine
end

section
/-! PROOFS. Answers of the pool, blocked contexts, section headers, strings, retirement and the watchdog (spec/02 R26 to R31, spec/03 R64, R65). -/

namespace Sys2Proof.Machine

/-! ### EXTERNAL_RESULT_ARRIVAL (03 R64; 13 R237) -/

theorem State.takeLearns_frame (s : State) (r : Req) (sn : Option Snap) : (s.takeLearns r sn).m = s.m := by
  unfold State.takeLearns
  split
  · rfl
  · unfold State.modSight
    split <;> rfl

/-- A result waits for a request. -/
def Req.meant (r : Req) (f : Flight) : Bool := f.req == some r.num

/-- An answer with its values: the request is gone, and what waited for it has come (13 R237). -/
theorem State.poolLands_done (s : State) (r : Req) (vals : List Word) (sn : Option Snap) :
    (s.poolLands r (.done vals sn)).m.reqs = s.m.reqs ∧
      (∀ f ∈ (s.poolLands r (.done vals sn)).core.flights, f.req = some r.num → f.arrived = true) := by
  have came : ∀ k : Core, ∀ f ∈ (k.arrive r.meant (withValues vals)).flights, f.req = some r.num → f.arrived = true := by
    intro k f hf req
    rw [(k.arrive_untouched r.meant (withValues vals)).flights] at hf
    refine (Core.arrivedFlights_meant hf).resolve_right (fun h => ?_)
    have : r.meant f = true := beq_iff_eq.mpr req
    rw [h] at this
    cases this
  have reqs : ((s.recordAnswer r (.done vals sn)).takeLearns r sn).m.reqs = s.m.reqs := by
    rw [State.takeLearns_frame]; rfl
  unfold State.poolLands
  dsimp only
  split
  case h_3 => exact ⟨reqs, came _⟩
  all_goals
    have traced := State.traceAt_logged
      ((((s.recordAnswer r (.done vals sn)).takeLearns r sn)).modCore (fun k => k.arrive r.meant (withValues vals)))
      (poolTrace r vals).1 (r.pend.slice, r.pend.spc) r.pend.lpc (poolTrace r vals).2
    obtain ⟨-, -, -, -, flights, -⟩ := traced.core_fields
    obtain ⟨same, -⟩ := traced.mod_fields
    exact ⟨same.trans reqs, fun f hf => came _ f ((congrArg (f ∈ ·) flights).mp hf)⟩

theorem externalArrival_answered {s : State} {r : Req} {vals : List Word} {sn : Option Snap} (hw : s.wlog = [])
    (found : s.m.reqs.find? (fun r => r.core == s.core.num && r.answer.isSome) = some r) (done : r.answer = some (.done vals sn))
    (running : ¬s.core.Ending) :
    ∃ t, exec .externalResultArrival s = .next t ∧ t.m.reqs = s.m.reqs.filter (fun q => q.num != r.num) ∧
      (∀ f ∈ t.core.flights, f.req = some r.num → f.arrived = true) := by
  have lands : s.poolAnswer r =
      (s.modM (fun m => { m with reqs := m.reqs.filter (fun x => x.num != r.num) })).poolLands r (.done vals sn) := by
    unfold State.poolAnswer
    rw [done]
    split
    · next h => cases h
    · next st ds _ e => exact absurd ⟨st, ds, e⟩ running
    · next h _ => cases h; rfl
  have takes : Takes .externalResultArrival s (s.poolAnswer r) := by
    show execExternalResultArrival s = _
    unfold execExternalResultArrival
    rw [runEvent_eq hw]
    simp only [found]
  obtain ⟨reqs, came⟩ := State.poolLands_done (s.modM (fun m => { m with reqs := m.reqs.filter (fun x => x.num != r.num) })) r vals sn
  refine ⟨_, takes, ?_⟩
  rw [settled_m, settled_core, lands]
  exact ⟨reqs, came⟩

theorem externalArrival_oldest {s : State} {f : Flight} (hw : s.wlog = []) (d : BitVec 5) (v : Word)
    (none : s.m.reqs.find? (fun r => r.core == s.core.num && r.answer.isSome) = none)
    (found : s.core.flights.find? (fun f => f.ext && !f.arrived) = some f) :
    ∃ t, exec .externalResultArrival s = .next t ∧ t.m = s.m ∧ t.mem = s.mem ∧
      (t.core.flights.filter (fun g => !g.arrived)).length < (s.core.flights.filter (fun g => !g.arrived)).length ∧
      (s.core.interlocked = false → f.late = .none → s.core.cyc ≤ f.landAt → f ∉ t.core.flights ∧
        { f with arrived := true } ∈ t.core.flights ∧ ∀ c n, (t.core.ctx c).get n = (s.core.ctx c).get n) ∧
      (s.core.flights = [f] → f.late = .none → (s.core.interlocked = true ∨ f.landAt < s.core.cyc) → f.puts = [.reg f.ctx d v] → d ≠ 0 →
        t.core.flights = [] ∧ (t.core.ctx f.ctx).get d = v) := by
  have takes : Takes .externalResultArrival s (s.modCore (fun k => k.arrive (· == f) id)) := by
    show execExternalResultArrival s = _
    unfold execExternalResultArrival
    rw [runEvent_eq hw]
    simp only [none, found]
  have mem := List.mem_of_find?_eq_some found
  have waits : f.arrived = false := by
    have := List.find?_some found
    simpa using (Bool.and_eq_true_iff.mp this).2
  exact ⟨_, takes, rfl, settled_mem_of_quiet hw, Core.arrive_fewer waits mem, Core.arrive_inTime waits mem,
    fun one notLate now puts hd => Core.arrive_atOnce waits one notLate now puts hd⟩

/-! ### CONTEXT_UNBLOCK (03 R65) -/

/-- The state that asks whether context c may go on. -/
def State.asCtx (s : State) (c : Ctx) : State := { s with core := { s.core with cur := c } }

theorem State.asCtx_here (s : State) (c : Ctx) : (s.asCtx c).here = s.core.ctx c := by cases c <;> rfl

/-- A blocked context that has drained, and whose late words all wait on, is asked for its word at issue alone. -/
theorem contextUnblock_asks {s : State} {c : Ctx} {i : Instr} {since : Nat} (hw : s.wlog = [])
    (waits : (s.core.ctx c).wait = some (i, since)) (asleep : (s.core.ctx c).woken = false) (drained : Drained (s.asCtx c))
    (lates : ∀ l ∈ s.core.lates, l.ctx = c → (s.asCtx c).core.lateReady l = false) :
    Takes (.contextUnblock c) s
      (if ready (s.asCtx c) i then s.modCore (fun k => k.modCtx c (fun x => { x with woken := true }))
      else if deviceWakes i then
        s.modCore (fun k => k.modCtx c (fun x => { x with woken := true, monitor := x.monitor.map (fun m => { m with event := true }) }))
      else s) := by
  have noLate : (s.asCtx c).core.lates.find? (fun l => l.ctx == c && (s.asCtx c).core.lateReady l) = none := by
    refine List.find?_eq_none.mpr (fun l hl h => ?_)
    obtain ⟨mine, is⟩ := Bool.and_eq_true_iff.mp h
    rw [lates l hl (beq_iff_eq.mp mine)] at is
    cases is
  have asked : (!(s.asCtx c).here.woken && ((s.asCtx c).core.interlocked || (s.asCtx c).core.drained c)) = true := by
    rw [State.asCtx_here, asleep]
    exact Bool.or_eq_true_iff.mpr drained
  have wait : (s.asCtx c).here.wait = some (i, since) := by rw [State.asCtx_here]; exact waits
  show execContextUnblock c s = _
  unfold execContextUnblock
  rw [runEvent_eq hw]
  generalize asCtx : ({ s with core := { s.core with cur := c } } : State) = t
  dsimp only
  obtain rfl : s.asCtx c = t := asCtx
  rw [noLate, wait]
  dsimp only
  rw [if_pos asked]

theorem contextUnblock_ready {s : State} {c : Ctx} {i : Instr} {since : Nat} (hw : s.wlog = [])
    (waits : (s.core.ctx c).wait = some (i, since)) (asleep : (s.core.ctx c).woken = false) (drained : Drained (s.asCtx c))
    (is : ready (s.asCtx c) i = true) (lates : ∀ l ∈ s.core.lates, l.ctx = c → (s.asCtx c).core.lateReady l = false) :
    ∃ t, exec (.contextUnblock c) s = .next t ∧ (t.core.ctx c).woken = true ∧ (t.core.ctx c).pc = (s.core.ctx c).pc ∧ t.mem = s.mem := by
  have takes := contextUnblock_asks hw waits asleep drained lates
  rw [if_pos is] at takes
  refine ⟨_, takes, ?_, ?_, settled_mem_of_quiet hw⟩ <;> cases c <;> rfl

theorem contextUnblock_device {s : State} {c : Ctx} {i : Instr} {since : Nat} (hw : s.wlog = [])
    (waits : (s.core.ctx c).wait = some (i, since)) (asleep : (s.core.ctx c).woken = false) (device : deviceWakes i = true)
    (drained : Drained (s.asCtx c)) (not : ready (s.asCtx c) i = false)
    (lates : ∀ l ∈ s.core.lates, l.ctx = c → (s.asCtx c).core.lateReady l = false) :
    ∃ t, exec (.contextUnblock c) s = .next t ∧ (t.core.ctx c).woken = true ∧ t.mem = s.mem ∧
      (t.core.ctx c).monitor = (s.core.ctx c).monitor.map (fun m => { m with event := true }) := by
  have takes := contextUnblock_asks hw waits asleep drained lates
  rw [if_neg (ne_true_of_eq_false not), if_pos device] at takes
  refine ⟨_, takes, ?_, settled_mem_of_quiet hw, ?_⟩ <;> cases c <;> rfl

/-! ### SECTION_HEADER_CHECK, STRING_WAIT_SATISFIED and SECTION_RETIRE (02 R27 to R29) -/

theorem sectionHeaderCheck_enters {s : State} {c : Ctx} {b : Bytes} (hw : s.wlog = []) (running : s.core.running = true)
    (hdr : (s.core.ctx c).hdr = true) (strings : (s.core.ctx c).strings = []) (goes : (s.core.ctx c).ended = false)
    (trap : (s.core.ctx c).trap = none) (read : devRead s s.root ((s.sliceOf c).img + (s.core.ctx c).pc).toNat 8 = some b)
    (good : hdrOk (leNat b) = true)
    (satisfied : ∀ w ∈ stringsOf c (leNat b) ((s.core.ctx c).secNo + 1), s.core.satisfied w = true) :
    ∃ t, exec (.sectionHeaderCheck c) s = .next t ∧ (t.core.ctx c).hdr = false ∧
      (t.core.ctx c).pc = w64 ((s.core.ctx c).pc.toNat + 8) ∧ (t.core.ctx c).secNo = (s.core.ctx c).secNo + 1 ∧
      (t.core.ctx c).secEnd = (s.core.ctx c).pc.toNat + 8 + 12 * hdrLen (leNat b) ∧ t.mem = s.mem := by
  have noneOpen : (stringsOf c (leNat b) ((s.core.ctx c).secNo + 1)).filter (fun w => !s.core.satisfied w) = [] :=
    List.filter_eq_nil_iff.mpr (fun w hw' h => by rw [satisfied w hw'] at h; cases h)
  have takes : Takes (.sectionHeaderCheck c) s (s.modCore (fun k => k.setCtx c (Context.enter
      { s.core.ctx c with
        secNo := (s.core.ctx c).secNo + 1, secStart := (s.core.ctx c).pc.toNat,
        secEnd := (s.core.ctx c).pc.toNat + 8 + 12 * hdrLen (leNat b), last := bitOf (leNat b) 1, strings := [],
        stringSince := s.m.now }))) := by
    show execSectionHeaderCheck c s = _
    unfold execSectionHeaderCheck
    rw [runEvent_eq hw]
    simp only [running, hdr, strings, goes, trap, read, good, noneOpen, List.isEmpty_nil, Option.isNone_none, Bool.not_false,
      Bool.and_self, Bool.not_true, Bool.false_eq_true, if_false, if_true]
  refine ⟨_, takes, ?_, ?_, ?_, ?_, settled_mem_of_quiet hw⟩ <;> cases c <;> rfl

theorem stringWaitSatisfied_enters {s : State} {c : Ctx} (hw : s.wlog = []) (running : s.core.running = true)
    (hdr : (s.core.ctx c).hdr = true) (strings : (s.core.ctx c).strings ≠ []) (drained : s.core.drained c = true)
    (satisfied : (s.core.ctx c).strings.all s.core.satisfied = true) :
    ∃ t, exec (.stringWaitSatisfied c) s = .next t ∧ (t.core.ctx c).hdr = false ∧ (t.core.ctx c).strings = [] ∧
      (t.core.ctx c).pc = w64 ((s.core.ctx c).secStart + 8) := by
  have some : (s.core.ctx c).strings.isEmpty = false := List.isEmpty_eq_false_iff.mpr strings
  have takes : Takes (.stringWaitSatisfied c) s (s.modCore (fun k => k.modCtx c Context.enter)) := by
    show execStringWaitSatisfied c s = _
    unfold execStringWaitSatisfied
    rw [runEvent_eq hw]
    simp only [running, hdr, some, drained, satisfied, Bool.not_false, Bool.and_self, if_true]
  refine ⟨_, takes, ?_, ?_, ?_⟩ <;> cases c <;> rfl

theorem sectionRetire_counts {s : State} {c : Ctx} (hw : s.wlog = []) (running : s.core.running = true)
    (can : s.core.canRetire c = true) :
    ∃ t, exec (.sectionRetire c) s = .next t ∧ (t.core.ctx c).retired = (s.core.ctx c).retired + 1 ∧
      (∀ e, e ≠ c → (t.core.ctx e).retired = (s.core.ctx e).retired) := by
  have does : (!(s.core.running && s.core.canRetire c)) = false := by rw [running, can]; rfl
  have event : exec (.sectionRetire c) s = execSectionRetire c s := rfl
  rw [event]
  unfold execSectionRetire
  rw [runEvent_eq hw]
  dsimp only
  rw [does]
  refine ⟨_, rfl, ?_, fun e other => ?_⟩
  · cases c <;> rfl
  · exact congrArg Context.retired (Core.ctx_modCtx_other s.core c e _ other)

/-! ### STALL_WATCHDOG (02 R30; 15 R241) -/

/-- The stall is noted before its report. -/
def State.noteStall (s : State) (c : Ctx) (w : BitVec 20) : State :=
  s.modM (fun m => { m with stalls := m.stalls ++ [(s.core.num, s.sliceCode c, (s.core.ctx c).secNo, w)] })

theorem State.noteStall_report {s : State} (c : Ctx) (w : BitVec 20) (lpc : Word) (task : s.core.task.isSome = true) :
    ((s.noteStall c w).seqReport c 0x21 lpc).core.phase = .ending (statusOf 0x21 lpc.toNat) [.L, .C, .S] ∧
      ((s.noteStall c w).seqReport c 0x21 lpc).m.stalls.length = s.m.stalls.length + 1 := by
  obtain ⟨phase, stalls⟩ := State.failTask_ending (s := s.noteStall c w) (code := 0x21)
    (p := { why := .fault, flt := { code := 0x21, addr := 0, lane := 0, aux := aux0 }, step := ((s.noteStall c w).core.ctx c).step,
            ord := ((s.noteStall c w).core.ctx c).ord, lpc := lpc, occ := 0, slice := (s.noteStall c w).sliceCode c,
            spc := ((s.noteStall c w).core.ctx c).pc, eng := none, merged := (s.noteStall c w).core.merged, early := false,
            time := (s.noteStall c w).m.now })
    task (by decide) (by decide)
  refine ⟨phase, (congrArg List.length stalls).trans ?_⟩
  show (s.m.stalls ++ [_]).length = _
  rw [List.length_append]
  rfl

theorem stallWatchdog_string {s : State} {c : Ctx} (hw : s.wlog = []) (task : s.core.task.isSome = true)
    (hdr : (s.core.ctx c).hdr = true) (opened : ∃ w ∈ (s.core.ctx c).strings, s.core.satisfied w = false)
    (late : s.m.stallTimeout < s.m.now - (s.core.ctx c).stringSince) :
    ∃ t, exec (.stallWatchdog c) s = .next t ∧
      t.core.phase = .ending (statusOf 0x21 (s.core.ctx c).lastLpc.toNat) [.L, .C, .S] ∧
      t.m.stalls.length = s.m.stalls.length + 1 := by
  have waits : (s.core.ctx c).strings.any (fun w => !s.core.satisfied w) = true := by
    obtain ⟨w, hw, h⟩ := opened
    exact List.any_eq_true.mpr ⟨w, hw, by rw [h]; rfl⟩
  have takes : Takes (.stallWatchdog c) s ((s.noteStall c
      ((((s.core.ctx c).strings.filter (fun w => !s.core.satisfied w)).map (·.2)).headD 0)).seqReport c 0x21 (s.core.ctx c).lastLpc) := by
    show execStallWatchdog c s = _
    unfold execStallWatchdog
    rw [runEvent_eq hw]
    simp only [Option.isNone_eq_false_iff.mpr task, hdr, waits, late, decide_true, Bool.and_self, Bool.false_eq_true, if_false, if_true]
    rfl
  obtain ⟨phase, stalls⟩ := State.noteStall_report c _ (s.core.ctx c).lastLpc task
  refine ⟨_, takes, ?_⟩
  rw [settled_core, settled_m]
  exact ⟨phase, stalls⟩

theorem stallWatchdog_waitc {s : State} {c : Ctx} {ch : ChainId} {o : OpA} {since : Nat} (hw : s.wlog = [])
    (task : s.core.task.isSome = true) (hdr : (s.core.ctx c).hdr = false)
    (waits : (s.core.ctx c).wait = some (.waitc ch o, since)) (late : s.m.stallTimeout < s.m.now - since) :
    ∃ t, exec (.stallWatchdog c) s = .next t ∧ t.core.phase = .ending (statusOf 0x21 (s.nextLpc c).toNat) [.L, .C, .S] := by
  have takes : Takes (.stallWatchdog c) s ((s.noteStall c 0).seqReport c 0x21 (s.nextLpc c)) := by
    show execStallWatchdog c s = _
    unfold execStallWatchdog
    rw [runEvent_eq hw]
    simp only [Option.isNone_eq_false_iff.mpr task, hdr, waits, late, decide_true, Bool.and_self, Bool.false_and, Bool.false_eq_true,
      if_false, if_true]
    rfl
  obtain ⟨phase, -⟩ := State.noteStall_report c 0 (s.nextLpc c) task
  refine ⟨_, takes, ?_⟩
  rw [settled_core]
  exact phase

/-- Settles O34: each row takes the one branch that its hypotheses choose, and what its effect leaves is read off. -/
theorem sequencerEvents : Obligations.SequencerEvents := by
  unfold Obligations.SequencerEvents
  intro s c f d v r vals sn i since b hw x ending
  refine ⟨resultLanding_unfrozen hw f d v, resultLanding_frozen hw,
    externalArrival_answered hw, externalArrival_oldest hw d v, ?unblocked, ?woken, sectionHeaderCheck_enters hw,
    stringWaitSatisfied_enters hw, sectionRetire_counts hw, stallWatchdog_string hw, fun ch o => stallWatchdog_waitc hw⟩
  case unblocked => exact fun waits asleep ⟨drained, is, lates⟩ => contextUnblock_ready hw waits asleep drained is lates
  case woken => exact fun waits asleep device ⟨drained, not, lates⟩ => contextUnblock_device hw waits asleep device drained not lates

end Sys2Proof.Machine
end

section
/-! PROOFS. What the parts of a TSTEP leave of the core: the claim, the markers, and the closing of a step (spec/02 R32 to R35). -/

namespace Sys2Proof.Machine

/-! ### What a TSTEP leaves of the core until its coordinates land -/

/-- What the registers read, what is in flight, how the core runs, and whether it has a task, are the same. -/
structure Opens (k l : Core) : Prop where
  merged : l.merged = k.merged
  cur : l.cur = k.cur
  flights : l.flights = k.flights
  stop : l.stop = k.stop
  returning : l.returning = k.returning
  task : l.task.isSome = k.task.isSome
  regs : SameRegs k l

theorem Opens.refl (k : Core) : Opens k k := ⟨rfl, rfl, rfl, rfl, rfl, rfl, fun _ _ => rfl⟩

theorem Opens.trans {k l n : Core} (h : Opens k l) (h' : Opens l n) : Opens k n :=
  ⟨h'.merged.trans h.merged, h'.cur.trans h.cur, h'.flights.trans h.flights, h'.stop.trans h.stop, h'.returning.trans h.returning,
    h'.task.trans h.task, h.regs.trans h'.regs⟩

theorem Opens.modCtx (k : Core) (c : Ctx) {f : Context → Context} (h : ∀ x : Context, (f x).x = x.x) : Opens k (k.modCtx c f) := by
  have regs := SameRegs.modCtx k c h
  cases c <;> exact ⟨rfl, rfl, rfl, rfl, rfl, rfl, regs⟩

theorem Opens.modChain (k : Core) (ch : ChainId) (f : Chain → Chain) : Opens k (k.modChain ch f) := by
  cases ch <;> exact ⟨rfl, rfl, rfl, rfl, rfl, rfl, fun c _ => by cases c <;> rfl⟩

theorem Opens.modTask (s : State) (f : Task → Task) : Opens s.core (s.modTask f).core :=
  ⟨rfl, rfl, rfl, rfl, rfl, Option.isSome_map, fun c _ => by cases c <;> rfl⟩

theorem Logged.opens {s t : State} (h : Logged s t) : Opens s.core t.core := by
  obtain ⟨-, -, merged, cur, flights, task, -, -, -, -, -, -, stop, returning⟩ := h.core_fields
  exact ⟨merged, cur, flights, stop, returning, congrArg Option.isSome task, h.get⟩

/-! ### The claim (02 R32) -/

/-- The window and the task of the core are new, and nothing else of it: it has a task if it had one. -/
def Claims (s t : State) : Prop :=
  ∃ w k, t.core = { s.core with window := w, task := k } ∧ k.isSome = s.core.task.isSome

theorem Claims.refl (s : State) : Claims s s := ⟨s.core.window, s.core.task, rfl, rfl⟩

theorem Claims.trans {s t u : State} (h : Claims s t) (h' : Claims t u) : Claims s u := by
  obtain ⟨w, k, core, task⟩ := h
  obtain ⟨w', k', core', task'⟩ := h'
  refine ⟨w', k', by rw [core', core], ?_⟩
  rw [core] at task'
  exact task'.trans task

theorem Claims.modTask (s : State) (f : Task → Task) : Claims s (s.modTask f) :=
  ⟨s.core.window, s.core.task.map f, rfl, Option.isSome_map⟩

theorem Claims.ctx {s t : State} (h : Claims s t) (c : Ctx) : t.core.ctx c = s.core.ctx c := by
  obtain ⟨w, k, core, -⟩ := h
  rw [core]
  cases c <;> rfl

theorem Claims.opens {s t : State} (h : Claims s t) : Opens s.core t.core := by
  have same : SameRegs s.core t.core := fun c n => by rw [h.ctx c]
  obtain ⟨w, k, core, task⟩ := h
  rw [core] at same ⊢
  exact ⟨rfl, rfl, rfl, rfl, rfl, task, same⟩

theorem State.claimTile_claims (s : State) (c : Ctx) (tile : Option Nat) : Claims s (s.claimTile c tile) := by
  unfold State.claimTile
  split
  case h_1 => exact .refl s
  case h_2 =>
    dsimp only
    split
    case h_1 => exact ⟨_, s.core.task, rfl, rfl⟩
    case h_2 => exact Claims.trans ⟨_, s.core.task, rfl, rfl⟩ (Claims.modTask _ _)

/-- An entry that the window holds already is not claimed again. -/
theorem State.claimOnce_claims (s : State) (c : Ctx) (tile : Option Nat) :
    Claims s (if (s.core.nextEntry c).isSome then s else s.claimTile c tile) := by
  split
  · exact .refl s
  · exact s.claimTile_claims c tile

theorem recordAs_claims {s t : State} {ord : Nat} {d0 : Option Word} {d1 : Word} (h : recordAs s ord d0 d1 = .ok t) : Claims s t := by
  unfold recordAs at h
  split at h
  · cases h; exact .refl s
  · split at h
    · cases h; exact .refl s
    · split at h
      · cases h
      · cases h; exact .modTask s _

theorem State.claimStep_claims {s t : State} {c : Ctx} {lpc : Word} (h : s.claimStep c lpc = .ok t) : Claims s t := by
  unfold State.claimStep at h
  dsimp only at h
  split at h
  case h_1 => cases h; exact .refl s
  case h_2 =>
    split at h
    · split at h
      · cases h; exact s.claimOnce_claims c _
      · split at h
        · cases h; exact s.claimOnce_claims c _
        · cases h
        · cases h; exact (Claims.modTask s _).trans (State.claimOnce_claims _ c _)
    · split at h
      · cases h; exact s.claimOnce_claims c _
      · split at h
        · cases h
        · next u recorded => cases h; exact (s.claimOnce_claims c _).trans (recordAs_claims recorded)

theorem Claims.nextEntry {s t : State} (h : Claims s t) (c : Ctx) :
    t.core.nextEntry c = t.core.window.find? (fun e => e.ord == (s.core.ctx c).ord + 1) := by
  unfold Core.nextEntry
  rw [h.ctx c]

theorem Core.modChain_window (k : Core) (ch : ChainId) (f : Chain → Chain) : (k.modChain ch f).window = k.window := by cases ch <;> rfl

/-! ### The markers (08 R153) -/

theorem State.mark_opens (s : State) (ch : ChainId) : Opens s.core (s.mark ch).core ∧ (s.mark ch).core.window = s.core.window := by
  have written := devWrite_logged s s.root ((s.core.chain ch).seg.toNat + 128 * (s.core.chain ch).slot) (slotBytes .marker [] 0)
  obtain ⟨-, -, -, -, -, -, -, -, -, -, window, -⟩ := written.core_fields
  have opens := written.opens
  unfold State.mark
  dsimp only
  generalize devWrite s s.root _ _ = u at opens window
  exact ⟨opens.trans (Opens.modChain u.core ch (fun c => { c with slot := c.slot + 1 })),
    (Core.modChain_window u.core ch _).trans window⟩

theorem State.markAll_opens (l : List ChainId) (s : State) :
    Opens s.core (l.foldl State.mark s).core ∧ (l.foldl State.mark s).core.window = s.core.window := by
  induction l generalizing s with
  | nil => exact ⟨.refl _, rfl⟩
  | cons ch r ih =>
    obtain ⟨opens, window⟩ := s.mark_opens ch
    obtain ⟨rest, same⟩ := ih (s.mark ch)
    exact ⟨opens.trans rest, same.trans window⟩

/-! ### The closing of a step (02 R34) -/

theorem Opens.modAll (k : Core) {f : Context → Context} (h : ∀ x : Context, (f x).x = x.x) : Opens k (k.modAll f) :=
  ⟨rfl, rfl, rfl, rfl, rfl, rfl, fun c n => by rw [modAll_ctx]; unfold Context.get; rw [h]⟩

theorem Opens.reap (k : Core) : Opens k k.reap := ⟨rfl, rfl, rfl, rfl, rfl, rfl, SameRegs.of_contexts rfl rfl rfl⟩

theorem Core.closeBefore_opens (k : Core) (c : Ckpt) : Opens k (k.closeBefore c) := by
  have swept : Opens k (k.modAll (fun x => { x with hist := x.hist.filter (fun h => decide (c.ord ≤ h.1)) })) :=
    Opens.modAll k (fun _ => rfl)
  unfold Core.closeBefore
  dsimp only
  refine Opens.trans (Opens.trans swept ?_) (Opens.reap _)
  exact ⟨rfl, rfl, rfl, rfl, rfl, rfl, SameRegs.of_contexts rfl rfl rfl⟩

/-- Flushing records writes what it writes and then updates the task, if there is one. -/
theorem State.flushRecords_cases (s : State) (ord : Nat) :
    s.flushRecords ord = s ∨ ∃ u f, Logged s u ∧ s.flushRecords ord = u.modTask f := by
  unfold State.flushRecords
  split
  case h_1 => exact .inl rfl
  case h_2 t _ =>
    dsimp only
    split
    · exact .inr ⟨s, _, .refl s, rfl⟩
    · exact .inr ⟨_, _, (devWrite_logged ..).trans (devWrite_logged ..), rfl⟩

theorem State.flushRecords_opens (s : State) (ord : Nat) : Opens s.core (s.flushRecords ord).core ∧
    (s.flushRecords ord).core.ckpt = s.core.ckpt ∧ (s.flushRecords ord).core.window = s.core.window := by
  rcases s.flushRecords_cases ord with same | ⟨u, f, written, same⟩
  · rw [same]
    exact ⟨.refl _, rfl, rfl⟩
  · obtain ⟨-, -, -, -, -, -, -, -, -, -, window, ckpt, -⟩ := written.core_fields
    rw [same]
    exact ⟨written.opens.trans (Opens.modTask u f), ckpt, window⟩

/-- Closing a step leaves its checkpoint, and no window entry of a step before it. -/
theorem State.closeStep_closes {s : State} (task : s.core.task.isSome = true) (c : Ckpt) : Opens s.core (s.closeStep c).core ∧
    (s.closeStep c).core.ckpt = c ∧ (∀ w ∈ (s.closeStep c).core.window, c.ord ≤ w.ord) := by
  obtain ⟨t, task⟩ := Option.isSome_iff_exists.mp task
  unfold State.closeStep
  rw [task]
  dsimp only
  have written := (devWrite_logged s t.root t.recAddr.toNat c.bytes).opens
  generalize devWrite s t.root t.recAddr.toNat c.bytes = u at written
  obtain ⟨flushed, ckpt, window⟩ := (u.modCore (fun k => k.closeBefore c)).flushRecords_opens c.ord
  refine ⟨(written.trans (u.core.closeBefore_opens c)).trans flushed, ckpt, ?_⟩
  rw [window]
  exact fun w hw => of_decide_eq_true (List.mem_filter.mp hw).2

end Sys2Proof.Machine
end

section
/-! PROOFS. The parts of a checkpoint, the entry that it is made from, and the landing of the coordinates (spec/02 R32 to R35). -/

namespace Sys2Proof.Machine

/-! ### Parts and checkpoints -/

theorem State.capture_xs (s : State) (c : Ctx) (mask : BitVec 32) (alist lpc : Word) (sec : BitVec 20) {i : Nat} (h : i < 32) :
    (s.capture c mask alist lpc sec).xs.getD i 0 = (s.core.ctx c).get (BitVec.ofNat 5 i) := by
  unfold State.capture
  simp [h]

theorem assemble_xs (k : Core) (t : Task) (e : StepEntry) (l c p : Part) {i : Nat} (h : 1 ≤ i) (h' : i < 32) :
    (assemble k t e l c p).xs.getD i 0 = if l.mask.getLsbD i then l.xs.getD i 0 else if c.mask.getLsbD i then c.xs.getD i 0
      else if p.mask.getLsbD i then p.xs.getD i 0 else 0 := by
  have notZero : i ≠ 0 := Nat.ne_of_gt h
  unfold assemble
  simp [h', notZero]

theorem StepEntry.setPart_ord (e : StepEntry) (c : Ctx) (p : Part) : (e.setPart c p).ord = e.ord := by cases c <;> rfl

/-! ### The window -/

/-- What an update of the elements that satisfy a test makes of the first of them. -/
theorem find?_mapIf {α : Type} {p : α → Bool} {f : α → α} (keeps : ∀ x, p (f x) = p x) (l : List α) :
    (mapIf p f l).find? p = (l.find? p).map f := by
  induction l with
  | nil => rfl
  | cons a r ih =>
    unfold mapIf at ih ⊢
    rw [List.map_cons]
    cases h : p a with
    | true => rw [if_pos rfl, List.find?_cons_of_pos ((keeps a).trans h), List.find?_cons_of_pos h]; rfl
    | false =>
      have not : ¬p a = true := ne_true_of_eq_false h
      rw [if_neg Bool.false_ne_true, List.find?_cons_of_neg not, ih, List.find?_cons_of_neg not]

theorem State.finishStep_closes {s : State} {n : Nat} {e : StepEntry} {l c p : Part} (task : s.core.task.isSome = true)
    (found : s.core.window.find? (fun e => e.ord == n) = some e) (hl : e.l = some l) (hc : e.c = some c) (hs : e.s = some p) :
    ∃ k, s.finishStep n = s.closeStep (assemble s.core k e l c p) := by
  obtain ⟨k, task⟩ := Option.isSome_iff_exists.mp task
  refine ⟨k, ?_⟩
  unfold State.finishStep
  simp only [task, found, hl, hc, hs]

/-! ### The coordinates land (02 R32) -/

theorem State.landPlain_inFlight (s : State) (d : BitVec 5) (wbs : Bool) (v : Word) (lat : Nat) (c : Ctx) :
    (s.landPlain d wbs v lat).core.inFlight c ≤ s.core.inFlight c + 1 := by
  cases merged : s.core.interlocked with
  | false =>
    have := s.land_inFlight { puts := dstPuts s.core.cur ⟨d, wbs, 0⟩ v, lt := 0, cap := leBytes 8 v.toNat, lat := lat } c merged
    rwa [resultsOf_dst] at this
  | true =>
    obtain ⟨-, -, -, -, -, -, -, flights, -⟩ := landReg_frame s ⟨d, wbs, 0⟩ v lat 0
    have same := flights.resolve_right (fun h => by rw [merged] at h; cases h.1)
    unfold State.landPlain Core.inFlight
    rw [same.2]
    exact Nat.le_add_right _ _

theorem State.landCoords_inFlight (s : State) (d : BitVec 5) (wbs : Bool) (l : List Word) (c : Ctx) :
    (s.landCoords d wbs l).core.inFlight c ≤ s.core.inFlight c + l.length := by
  have fold : ∀ (ps : List (Word × Nat)) (s : State),
      (ps.foldl (fun s p => s.landPlain (d + BitVec.ofNat 5 p.2) wbs p.1 4) s).core.inFlight c ≤ s.core.inFlight c + ps.length := by
    intro ps
    induction ps with
    | nil => exact fun s => Nat.le_refl _
    | cons p r ih =>
      intro s
      have one := s.landPlain_inFlight (d + BitVec.ofNat 5 p.2) wbs p.1 4 c
      have rest := ih (s.landPlain (d + BitVec.ofNat 5 p.2) wbs p.1 4)
      rw [List.foldl_cons, List.length_cons]
      omega
  have := fold l.zipIdx s
  rwa [List.length_zipIdx] at this

/-- In merged running a result is there at once. -/
theorem State.landPlain_merged {s : State} (merged : s.core.merged = true) {d : BitVec 5} (hd : d ≠ 0) (v : Word) (lat : Nat) :
    (s.landPlain d false v lat).core.merged = true ∧ (s.landPlain d false v lat).core.cur = s.core.cur ∧
    (s.landPlain d false v lat).core.ckpt = s.core.ckpt ∧
    ∀ n, ((s.landPlain d false v lat).core.ctx s.core.cur).get n = if n = d then v else (s.core.ctx s.core.cur).get n := by
  obtain ⟨-, -, -, -, others, -, -, -, same⟩ := landReg_frame s ⟨d, false, 0⟩ v lat 0
  obtain ⟨cur, -, -, -, stays, -, -, -, -, -, -, ckpt, -⟩ := same
  refine ⟨stays.trans merged, cur, ckpt, fun n => ?_⟩
  split
  · next eq =>
    subst eq
    have at' : s.landPlain n false v lat = s.modCore (fun k => k.applyFlight (landing s ⟨n, false, 0⟩ v lat 0)) := by
      have now : (s.core.interlocked && true && !false) = true := by rw [show s.core.interlocked = true from merged]; rfl
      exact if_pos now
    rw [at']
    exact s.core.applyFlight_get (f := landing s ⟨n, false, 0⟩ v lat 0) rfl hd
  · next ne => exact others s.core.cur n (.inr (.inl ne))

/-- x[d + i] without a carry. -/
theorem toNat_add_ofNat {d : BitVec 5} {i : Nat} (h : d.toNat + i < 32) : (d + BitVec.ofNat 5 i).toNat = d.toNat + i := by
  rw [BitVec.toNat_add, BitVec.toNat_ofNat, Nat.mod_eq_of_lt (show i < 2 ^ 5 by omega), Nat.mod_eq_of_lt h]

/-- A run of registers, from x[d + k] on, that takes a list. -/
theorem landFrom_merged {d : BitVec 5} (hd : 0 < d.toNat) (l : List Word) (k : Nat) (s : State) (merged : s.core.merged = true)
    (fits : d.toNat + k + l.length ≤ 32) :
    let t := (l.zipIdx k).foldl (fun s p => s.landPlain (d + BitVec.ofNat 5 p.2) false p.1 4) s
    t.core.cur = s.core.cur ∧ t.core.ckpt = s.core.ckpt ∧
    (∀ i, i < l.length → (t.core.ctx s.core.cur).get (d + BitVec.ofNat 5 (k + i)) = l.getD i 0) ∧
    (∀ n : BitVec 5, n.toNat < d.toNat + k ∨ d.toNat + k + l.length ≤ n.toNat →
      (t.core.ctx s.core.cur).get n = (s.core.ctx s.core.cur).get n) := by
  induction l generalizing k s with
  | nil => exact ⟨rfl, rfl, fun i h => absurd h (Nat.not_lt_zero i), fun _ _ => rfl⟩
  | cons v r ih =>
    rw [List.length_cons] at fits
    have first : (d + BitVec.ofNat 5 k).toNat = d.toNat + k := toNat_add_ofNat (by omega)
    have notZero : d + BitVec.ofNat 5 k ≠ 0 := fun h => by
      rw [h] at first
      have : d.toNat + k = 0 := first.symm
      omega
    obtain ⟨stays, cur, ckpt, gets⟩ := s.landPlain_merged merged notZero v 4
    obtain ⟨cur', ckpt', takes, others⟩ := ih (k + 1) (s.landPlain (d + BitVec.ofNat 5 k) false v 4) stays (by omega)
    rw [cur] at cur' takes others
    refine ⟨cur', ckpt'.trans ckpt, fun i hi => ?_, fun n hn => ?_⟩
    · cases i with
      | zero => exact (others _ (.inl (by rw [Nat.add_zero, first]; omega))).trans ((gets _).trans (if_pos rfl))
      | succ j =>
        have := takes j (Nat.lt_of_succ_lt_succ hi)
        rwa [Nat.add_right_comm] at this
    · rw [List.length_cons] at hn
      have other : n ≠ d + BitVec.ofNat 5 k := fun h => by
        rw [h, first] at hn
        omega
      exact (others n (by omega)).trans ((gets n).trans (if_neg other))

end Sys2Proof.Machine
end

section
/-! PROOFS. O31: TSTEP in merged running, in a slice, and its claim (spec/02 R32 to R35; spec/17 R267). -/

namespace Sys2Proof.Machine

/-! ### The frame of the word -/

/-- With nothing in its way a TSTEP is the one of merged running or the one of its slice. -/
theorem exec_tstep {s : State} {d : BitVec 5} {wbs : Bool} {b : Src} {mask : BitVec 32}
    (ready : ReadyOnCore (.tstep d wbs b mask) ⟨false, 0, 0⟩ s) (task : s.core.task.isSome = true) (drained : Drained s)
    (appended : Appended s) (alist : checkAlist s.core (s.src b) = .ok ()) (slots : ∀ ch, (s.core.chain ch).slot < 31) :
    exec (.tstep d wbs b mask) s = .next (settled s (s.complete (.tstep d wbs b mask)
      (if s.core.merged then tstepMerged d wbs b mask s else tstepSliced d wbs b mask s))) := by
  have empty : (markedChains s.core.merged s.core.cur).any (fun ch => decide (31 ≤ (s.core.chain ch).slot)) = false :=
    List.any_eq_false.mpr (fun ch _ h => Nat.not_le.mpr (slots ch) (of_decide_eq_true h))
  have quiet : (s.core.interlocked || s.core.drained s.core.cur) = true := Bool.or_eq_true_iff.mpr drained
  have none : (s.core.interlocked || s.core.appended s.core.cur) = true := Bool.or_eq_true_iff.mpr appended
  have event : exec (.tstep d wbs b mask) s = execTstep d wbs b mask s := rfl
  rw [event]
  unfold execTstep
  rw [runWord_body ready.toReady (fun h => absurd h (ne_true_of_eq_false ready.compute)) rfl
    (fun h => absurd h (ne_true_of_eq_false ready.user))]
  unfold behindAppends Machine.drained
  simp only [quiet, none, alist, Option.isNone_eq_false_iff.mpr task, empty, Bool.false_eq_true, if_false, if_true]

/-- The window entry of step n is filled in. -/
def State.fillStep (s : State) (n : Nat) (f : StepEntry → StepEntry) : State :=
  s.modCore (fun k => { k with window := mapIf (fun x => x.ord == n) f k.window })

theorem State.fillStep_opens (s : State) (n : Nat) (f : StepEntry → StepEntry) : Opens s.core (s.fillStep n f).core :=
  ⟨rfl, rfl, rfl, rfl, rfl, rfl, SameRegs.of_contexts rfl rfl rfl⟩

theorem State.opened_opens (s : State) (e : StepEntry) : Opens s.core (s.modHere (fun x => x.opened e)).core :=
  Opens.modCtx s.core s.core.cur (f := fun x => x.opened e) (fun _ => rfl)

/-- What the TSTEP of the context at issue captures. -/
def State.ownPart (s : State) (mask : BitVec 32) (alist : Word) : Part := s.capture s.core.cur mask alist s.lpc s.secBefore

/-- The state that a context's part, and the step, stand in: s1 has the claim. -/
def State.captured (s s1 : State) (mask : BitVec 32) (alist : Word) (e : StepEntry) : State :=
  (s1.fillStep (s.here.ord + 1) (fun x => x.setPart s.core.cur (s.ownPart mask alist))).modHere (fun x => x.opened e)

theorem State.captured_opens {s s1 : State} (claims : Claims s s1) (mask : BitVec 32) (alist : Word) (e : StepEntry) :
    Opens s.core (s.captured s1 mask alist e).core ∧ (s.captured s1 mask alist e).core.window =
      mapIf (fun x => x.ord == s.here.ord + 1) (fun x => x.setPart s.core.cur (s.ownPart mask alist)) s1.core.window :=
  ⟨claims.opens.trans ((s1.fillStep_opens _ _).trans (State.opened_opens _ e)), Core.modCtx_window ..⟩

/-! ### In a slice -/

section
variable {s : State} {d : BitVec 5} {wbs : Bool} {b : Src} {mask : BitVec 32}

theorem tstepSliced_L {s1 : State} {e : StepEntry} (cur : s.core.cur = .L)
    (free : s.core.window.length < 4 ∨ (s.core.nextEntry .L).isSome = true) (claimed : s.claimStep .L s.lpc = .ok s1)
    (entry : s1.core.nextEntry .L = some e) :
    tstepSliced d wbs b mask s = .ok (.next (((s.captured s1 mask (s.src b) e).mark .tci).landCoords d wbs e.coords)) := by
  unfold tstepSliced State.captured State.fillStep State.ownPart
  cases own : s.core.nextEntry .L with
  | some _ =>
    simp only [cur, own, claimed, entry, reduceCtorEq, decide_false, Bool.false_and, Bool.not_true, Bool.false_eq_true, if_false, if_true,
      not_false_eq_true, ne_eq]
    rfl
  | none =>
    have room : s.core.window.length < Config.windowMax := free.resolve_right (fun h => by rw [own] at h; cases h)
    simp only [cur, own, room, claimed, entry, reduceCtorEq, decide_false, decide_true, Bool.false_and, Bool.not_true,
      Bool.false_eq_true, if_false, if_true, not_false_eq_true, ne_eq]
    rfl

theorem tstepSliced_C {e : StepEntry} (cur : s.core.cur = .C) (entry : s.core.nextEntry .C = some e) :
    tstepSliced d wbs b mask s = .ok (.next (((s.captured s mask (s.src b) e).mark .tmx).landCoords d wbs e.coords)) := by
  unfold tstepSliced State.captured State.fillStep State.ownPart
  simp only [cur, entry, Option.isSome_some, reduceCtorEq, decide_false, Bool.false_and, Bool.not_true, Bool.false_eq_true, if_false,
    if_true, not_false_eq_true, ne_eq]
  rfl

theorem tstepSliced_S {e : StepEntry} (cur : s.core.cur = .S) (behind : s.leftBehind (s.here.ord + 1) s.lpc = false)
    (entry : s.core.nextEntry .S = some e) (hl : e.l.isSome = true) (hc : e.c.isSome = true)
    (noStop : ((((s.captured s mask (s.src b) e).mark .tco).mark .tsx).finishStep (s.here.ord + 1)).core.stop = none) :
    tstepSliced d wbs b mask s = .ok (.next (((((s.captured s mask (s.src b) e).mark .tco).mark .tsx).finishStep
      (s.here.ord + 1)).landCoords d wbs e.coords)) := by
  have goesOn : ((((s.captured s mask (s.src b) e).mark .tco).mark .tsx).finishStep (s.here.ord + 1)).core.stop.isSome = false := by
    rw [noStop]; rfl
  unfold tstepSliced
  unfold State.captured State.fillStep State.ownPart at goesOn ⊢
  simp only [cur] at goesOn
  simp only [cur, entry, hl, hc, behind, markedChains, List.foldl_cons, List.foldl_nil, goesOn, reduceCtorEq, Bool.and_self,
    Bool.and_false, Bool.not_true, Bool.false_eq_true, if_false, not_true_eq_false, ne_eq]

/-- L waits for a closed step, C for L's claim, S for the parts of both. -/
theorem tstepSliced_blocks (waits : (s.core.cur = .L ∧ s.core.nextEntry .L = none ∧ 4 ≤ s.core.window.length) ∨
    (s.core.cur = .C ∧ s.core.nextEntry .C = none) ∨
    (s.core.cur = .S ∧ ∀ e, s.core.nextEntry .S = some e → e.l = none ∨ e.c = none)) :
    tstepSliced d wbs b mask s = .ok (.block s) := by
  unfold tstepSliced
  rcases waits with ⟨cur, entry, full⟩ | ⟨cur, entry⟩ | ⟨cur, lacks⟩
  · simp only [cur, entry, Nat.not_lt.mpr full, decide_false, Bool.not_false, if_true]
  · simp only [cur, entry, Option.isSome_none, Bool.not_false, if_true]
  · cases entry : s.core.nextEntry .S with
    | none => simp only [cur, entry, Bool.not_false, if_true]
    | some e =>
      have not : (e.l.isSome && e.c.isSome) = false := by
        rcases lacks e entry with h | h
        · rw [h]; rfl
        · rw [h]; exact Bool.and_false _
      simp only [cur, entry, not, Bool.not_false, if_true]

theorem tstepSliced_diverges {e : StepEntry} (cur : s.core.cur = .S) (behind : s.leftBehind (s.here.ord + 1) s.lpc = true)
    (entry : s.core.nextEntry .S = some e) (hl : e.l.isSome = true) (hc : e.c.isSome = true) :
    tstepSliced d wbs b mask s = .error .diverge := by
  unfold tstepSliced
  simp only [cur, entry, hl, hc, behind, decide_true, Bool.and_self, Bool.not_true, Bool.false_eq_true, if_false, if_true]

end

/-! ### In merged running (22 R368) -/

/-- The one part of a step that all three contexts share in merged running. -/
def State.wholePart (s : State) (mask : BitVec 32) (alist : Word) : Part :=
  { s.capture .C mask alist s.lpc s.secBefore with flags := s.core.allFlags }

def StepEntry.setWhole (e : StepEntry) (p : Part) : StepEntry := { e with l := some p, c := some p, s := some p }

/-- The state that the whole step stands in, with all chains marked: s1 has the claim. -/
def State.capturedWhole (s s1 : State) (mask : BitVec 32) (alist : Word) (e : StepEntry) : State :=
  (chainIds.foldl State.mark (s1.fillStep (s.here.ord + 1) (fun x => x.setWhole (s.wholePart mask alist)))).modHere (fun x => x.opened e)

theorem State.capturedWhole_opens {s s1 : State} (claims : Claims s s1) (mask : BitVec 32) (alist : Word) (e : StepEntry) :
    Opens s.core (s.capturedWhole s1 mask alist e).core ∧ (s.capturedWhole s1 mask alist e).core.window =
      mapIf (fun x => x.ord == s.here.ord + 1) (fun x => x.setWhole (s.wholePart mask alist)) s1.core.window := by
  obtain ⟨marks, window⟩ := State.markAll_opens chainIds (s1.fillStep (s.here.ord + 1) (fun x => x.setWhole (s.wholePart mask alist)))
  exact ⟨claims.opens.trans (((s1.fillStep_opens _ _).trans marks).trans (State.opened_opens _ e)),
    (Core.modCtx_window ..).trans window⟩

theorem tstepMerged_next {s s1 : State} {d : BitVec 5} {wbs : Bool} {b : Src} {mask : BitVec 32} {e : StepEntry}
    (claimed : s.claimStep .C s.lpc = .ok s1) (entry : s1.core.nextEntry .C = some e)
    (noStop : ((s.capturedWhole s1 mask (s.src b) e).finishStep (s.here.ord + 1)).core.stop = none)
    (stays : ((s.capturedWhole s1 mask (s.src b) e).finishStep (s.here.ord + 1)).core.returning = false) :
    tstepMerged d wbs b mask s =
      .ok (.next (((s.capturedWhole s1 mask (s.src b) e).finishStep (s.here.ord + 1)).landCoords d wbs e.coords)) := by
  have goesOn : ((s.capturedWhole s1 mask (s.src b) e).finishStep (s.here.ord + 1)).core.stop.isSome = false := by
    rw [noStop]; rfl
  unfold tstepMerged
  unfold State.capturedWhole State.fillStep StepEntry.setWhole State.wholePart at goesOn stays ⊢
  simp only [claimed, entry, goesOn, stays, Bool.false_and, Bool.false_eq_true, if_false]

/-! ### The closing -/

/-- The step closes with the checkpoint of the entry that its last part has filled. -/
theorem State.finishStep_window {s m : State} {n : Nat} {w : List StepEntry} {f : StepEntry → StepEntry} {e : StepEntry} {l c p : Part}
    (opens : Opens s.core m.core) (task : s.core.task.isSome = true) (window : m.core.window = mapIf (fun x => x.ord == n) f w)
    (keeps : ∀ x, (f x).ord = x.ord) (found : w.find? (fun x => x.ord == n) = some e) (hl : (f e).l = some l) (hc : (f e).c = some c)
    (hs : (f e).s = some p) :
    ∃ k, Opens s.core (m.finishStep n).core ∧ (m.finishStep n).core.ckpt = assemble m.core k (f e) l c p ∧ (f e).ord = n ∧
      ∀ x ∈ (m.finishStep n).core.window, n ≤ x.ord := by
  have test := List.find?_some found
  have its : (f e).ord = n := (keeps e).trans (beq_iff_eq.mp test)
  have has : m.core.task.isSome = true := opens.task.trans task
  have filled : m.core.window.find? (fun x => x.ord == n) = some (f e) := by
    rw [window, find?_mapIf (p := fun x : StepEntry => x.ord == n) (fun x => by rw [keeps x]), found]
    rfl
  obtain ⟨k, closes⟩ := State.finishStep_closes has filled hl hc hs
  obtain ⟨rest, ckpt, from'⟩ := State.closeStep_closes has (assemble m.core k (f e) l c p)
  rw [closes]
  exact ⟨k, opens.trans rest, ckpt, its, fun x hx => Nat.le_trans (Nat.le_of_eq its.symm) (from' x hx)⟩

end Sys2Proof.Machine
end

section
/-! PROOFS. O31: how a TSTEP completes, and what its claim takes (spec/02 R32 to R35; spec/17 R267). -/

namespace Sys2Proof.Machine

/-! ### A claim takes what the walker gives (02 R32) -/

theorem State.claimTile_appends {s : State} {k : Task} {n : Node} (task : s.core.task = some k) (node : s.m.taskNode k = some n)
    (c : Ctx) (tile : Option Nat) :
    ∃ e, (s.claimTile c tile).core.window = s.core.window ++ [e] ∧ e.ord = (s.core.ctx c).ord + 1 ∧ e.l = none ∧ e.c = none ∧
      e.s = none ∧ e.tile = tile ∧ (∀ i, tile = some i → e.coords = n.params.coords i ∧ e.idx = (s.core.ctx c).step + 1) ∧
      (tile = none → e.coords = noCoords ∧ e.idx = (s.core.ctx c).step) := by
  unfold State.claimTile
  rw [task]
  cases tile with
  | none => exact ⟨_, rfl, rfl, rfl, rfl, rfl, rfl, fun i h => absurd h (by simp), fun _ => ⟨rfl, rfl⟩⟩
  | some i =>
    simp only [node]
    refine ⟨_, rfl, rfl, rfl, rfl, rfl, rfl, fun j h => ?_, fun h => absurd h (by simp)⟩
    cases h
    exact ⟨rfl, rfl⟩

/-- Claiming leaves record mode as it is. -/
theorem State.claimTile_record {s : State} {k : Task} (task : s.core.task = some k) (c : Ctx) (tile : Option Nat) :
    ∃ k', (s.claimTile c tile).core.task = some k' ∧ k'.record = k.record := by
  unfold State.claimTile
  cases tile with
  | none => exact ⟨{ k with spent := true }, by rw [task]; simp [State.modTask, task], rfl⟩
  | some i => exact ⟨k, by rw [task]; exact task, rfl⟩

theorem recordAs_off {s : State} {k : Task} (task : s.core.task = some k) (off : k.record = false) (ord : Nat) (d0 : Option Word)
    (d1 : Word) : recordAs s ord d0 d1 = .ok s := by
  unfold recordAs
  simp only [task, off, Bool.not_false, Bool.true_or, if_true]

/-- Outside record and replay mode a claim is the walker's tile alone. -/
theorem State.claimStep_walks {s : State} {k : Task} {c : Ctx} (lpc : Word) (task : s.core.task = some k) (replay : k.replay = false)
    (record : k.record = false) (entry : s.core.nextEntry c = none) : s.claimStep c lpc = .ok (s.claimTile c s.walkerTile) := by
  obtain ⟨k', task', same⟩ := s.claimTile_record task c s.walkerTile
  unfold State.claimStep
  simp only [task, replay, entry, Option.isSome_none, Bool.false_eq_true, if_false, recordAs_off task' (same.trans record), ite_self]

theorem State.walkerTile_eq {s : State} {k : Task} {n : Node} (task : s.core.task = some k) (node : s.m.taskNode k = some n) :
    s.walkerTile = if k.spent then none else n.nextTile := by
  unfold State.walkerTile
  simp only [task, node, Option.bind_some]

theorem claimStep_takes {s : State} {c : Ctx} {k : Task} {n : Node} (lpc : Word) (task : s.core.task = some k) (replay : k.replay = false)
    (record : k.record = false) (entry : s.core.nextEntry c = none) (node : s.m.taskNode k = some n) :
    ∃ s1 e, s.claimStep c lpc = .ok s1 ∧ s1.core.nextEntry c = some e ∧ s1.core.window = s.core.window ++ [e] ∧
      e.l = none ∧ e.c = none ∧ e.s = none ∧
      (∀ i, k.spent = false → n.nextTile = some i → e.tile = some i ∧ e.coords = n.params.coords i ∧ e.idx = (s.core.ctx c).step + 1) ∧
      (k.spent = true ∨ n.nextTile = none → e.tile = none ∧ e.coords = [-1, 0, 0, 0, 0, 0] ∧ e.idx = (s.core.ctx c).step) := by
  obtain ⟨e, window, ord, hl, hc, hs, tile, given, exhausted⟩ := s.claimTile_appends task node c s.walkerTile
  have walker := State.walkerTile_eq task node
  refine ⟨_, e, s.claimStep_walks lpc task replay record entry, ?_, window, hl, hc, hs, fun i fresh next => ?_, fun gone => ?_⟩
  · have noneBefore : s.core.window.find? (fun e => e.ord == (s.core.ctx c).ord + 1) = none := entry
    rw [(s.claimTile_claims c s.walkerTile).nextEntry c, window, List.find?_append, noneBefore, Option.none_or]
    exact List.find?_cons_of_pos (beq_iff_eq.mpr ord)
  · have is : s.walkerTile = some i := by rw [walker, fresh, next]; rfl
    obtain ⟨coords, idx⟩ := given i is
    exact ⟨tile.trans is, coords, idx⟩
  · have is : s.walkerTile = none := by
      rw [walker]
      rcases gone with h | h
      · rw [h]; rfl
      · rw [h, ite_self]
    obtain ⟨coords, idx⟩ := exhausted is
    exact ⟨tile.trans is, coords, idx⟩

/-! ### In a slice -/

theorem Core.inFlight_drained {k : Core} {c : Ctx} (h : k.drained c = true) : k.inFlight c = 0 := by
  have none : k.flights.filter (fun f => f.ctx == c && f.counted) = [] := by
    refine List.filter_eq_nil_iff.mpr (fun f hf is => ?_)
    have := List.all_eq_true.mp h f hf
    obtain ⟨own, counted⟩ := Bool.and_eq_true_iff.mp is
    simp [beq_iff_eq.mp own, counted] at this
  unfold Core.inFlight
  rw [none]
  rfl

theorem State.unbank_ctx (s : State) (c : Ctx) : s.unbank.core.ctx c = s.core.ctx c := by cases c <;> rfl

section
variable {s : State} {d : BitVec 5} {b : Src} {mask : BitVec 32} (ready : ReadyOnCore (.tstep d false b mask) ⟨false, 0, 0⟩ s)
  (sliced : s.core.merged = false) (task : s.core.task.isSome = true) (drained : Drained s) (appended : Appended s)
  (alist : checkAlist s.core (s.src b) = .ok ()) (slots : ∀ ch, (s.core.chain ch).slot < 31)
include ready sliced task drained appended alist slots

theorem exec_tstepSliced {r : Except Stop Fin} (body : tstepSliced d false b mask s = r) :
    exec (.tstep d false b mask) s = .next (settled s (s.complete (.tstep d false b mask) r)) := by
  rw [exec_tstep ready task drained appended alist slots, if_neg (ne_true_of_eq_false sliced), body]

/-- The six coordinates find room: the context has drained (03 R63). -/
theorem completes_tstepSliced {u : State} {l : List Word} (body : tstepSliced d false b mask s = .ok (.next (u.landCoords d false l)))
    (opens : Opens s.core u.core) (six : l.length = 6) : Completes (.tstep d false b mask) s (u.landCoords d false l) := by
  have quiet : s.core.drained s.core.cur = true :=
    drained.resolve_left (fun h => ne_true_of_eq_false sliced h)
  have empty : u.core.inFlight s.core.cur = 0 := by
    have := Core.inFlight_drained quiet
    unfold Core.inFlight at this ⊢
    rwa [opens.flights]
  have fits : (u.landCoords d false l).core.inFlight s.core.cur ≤ Config.inFlightMax := by
    have := u.landCoords_inFlight d false l s.core.cur
    show _ ≤ 24
    omega
  have notMany : s.tooMany (u.landCoords d false l) = false := by
    unfold State.tooMany
    rw [decide_eq_false (Nat.not_lt.mpr fits), Bool.and_false]
  unfold Completes
  rw [exec_tstepSliced ready sliced task drained appended alist slots body]
  unfold State.complete
  simp only [notMany, Bool.false_eq_true, if_false]
  rfl

theorem tstep_L {s1 : State} {e : StepEntry} (cur : s.core.cur = .L)
    (free : s.core.window.length < 4 ∨ (s.core.nextEntry .L).isSome = true) (claimed : s.claimStep .L s.lpc = .ok s1)
    (entry : s1.core.nextEntry .L = some e) (six : e.coords.length = 6) :
    Completes (.tstep d false b mask) s (((s.captured s1 mask (s.src b) e).mark .tci).landCoords d false e.coords) := by
  obtain ⟨captured, -⟩ := State.captured_opens (State.claimStep_claims claimed) mask (s.src b) e
  obtain ⟨marked, -⟩ := (s.captured s1 mask (s.src b) e).mark_opens .tci
  exact completes_tstepSliced ready sliced task drained appended alist slots (tstepSliced_L cur free claimed entry)
    (captured.trans marked) six

theorem tstep_C {e : StepEntry} (cur : s.core.cur = .C) (entry : s.core.nextEntry .C = some e) (six : e.coords.length = 6) :
    Completes (.tstep d false b mask) s (((s.captured s mask (s.src b) e).mark .tmx).landCoords d false e.coords) := by
  obtain ⟨captured, -⟩ := State.captured_opens (.refl s) mask (s.src b) e
  obtain ⟨marked, -⟩ := (s.captured s mask (s.src b) e).mark_opens .tmx
  exact completes_tstepSliced ready sliced task drained appended alist slots (tstepSliced_C cur entry) (captured.trans marked) six

theorem tstep_S {e : StepEntry} {l c : Part} (cur : s.core.cur = .S) (noStop : s.core.stop = none)
    (behind : s.leftBehind (s.here.ord + 1) s.lpc = false) (entry : s.core.nextEntry .S = some e) (hl : e.l = some l)
    (hc : e.c = some c) (six : e.coords.length = 6) :
    let u := (((s.captured s mask (s.src b) e).mark .tco).mark .tsx).finishStep (s.here.ord + 1)
    Completes (.tstep d false b mask) s (u.landCoords d false e.coords) ∧
      u.core.ckpt.ord = s.here.ord + 1 ∧ u.core.ckpt.idx = e.idx ∧ u.core.ckpt.lpc = s.lpc ∧ u.core.ckpt.coords = e.coords ∧
      u.core.ckpt.alist = s.src b ∧ u.core.ckpt.round = c.round ∧ u.core.ckpt.flags = l.flags ||| c.flags ||| s.here.fflags ∧
      (∀ i, 1 ≤ i → i < 32 → u.core.ckpt.xs.getD i 0 =
        if l.mask.getLsbD i then l.xs.getD i 0 else if c.mask.getLsbD i then c.xs.getD i 0
        else if mask.getLsbD i then s.here.get (BitVec.ofNat 5 i) else 0) ∧
      (∀ w ∈ u.core.window, s.here.ord + 1 ≤ w.ord) := by
  intro u
  obtain ⟨captured, window⟩ := State.captured_opens (.refl s) mask (s.src b) e
  obtain ⟨marked, same⟩ := (s.captured s mask (s.src b) e).mark_opens .tco
  obtain ⟨marked', same'⟩ := ((s.captured s mask (s.src b) e).mark .tco).mark_opens .tsx
  have found : s.core.window.find? (fun x => x.ord == s.here.ord + 1) = some e := by
    unfold State.here
    rw [cur]
    exact entry
  obtain ⟨k, opens, ckpt, its, from'⟩ := State.finishStep_window (captured.trans (marked.trans marked')) task
    (same'.trans (same.trans window)) (fun x => x.setPart_ord s.core.cur _) found (l := l) (c := c) (p := s.ownPart mask (s.src b))
    (by rw [cur]; exact hl) (by rw [cur]; exact hc) (by rw [cur]; rfl)
  have kept : (e.setPart s.core.cur (s.ownPart mask (s.src b))).idx = e.idx ∧
      (e.setPart s.core.cur (s.ownPart mask (s.src b))).coords = e.coords := by rw [cur]; exact ⟨rfl, rfl⟩
  refine ⟨completes_tstepSliced ready sliced task drained appended alist slots
    (tstepSliced_S cur behind entry (by rw [hl]; rfl) (by rw [hc]; rfl) (opens.stop.trans noStop)) opens six, ?_⟩
  have at' : u.core.ckpt = _ := ckpt
  rw [at']
  refine ⟨its, kept.1, rfl, kept.2, rfl, rfl, rfl, fun i lo hi => ?_, from'⟩
  rw [assemble_xs _ _ _ _ _ _ lo hi]
  unfold State.ownPart
  rw [State.capture_xs _ _ _ _ _ _ hi]
  rfl

/-- TSTEP waits as a blocked word does. -/
theorem tstep_blocks (waits : (s.core.cur = .L ∧ s.core.nextEntry .L = none ∧ 4 ≤ s.core.window.length) ∨
    (s.core.cur = .C ∧ s.core.nextEntry .C = none) ∨
    (s.core.cur = .S ∧ ∀ e, s.core.nextEntry .S = some e → e.l = none ∨ e.c = none)) :
    Takes (.tstep d false b mask) s (s.blockOn (.tstep d false b mask)) :=
  exec_tstepSliced ready sliced task drained appended alist slots (tstepSliced_blocks waits)

theorem tstep_diverges {e : StepEntry} (cur : s.core.cur = .S) (entry : s.core.nextEntry .S = some e) (hl : e.l.isSome = true)
    (hc : e.c.isSome = true) (behind : s.leftBehind (s.here.ord + 1) s.lpc = true) :
    ∃ t, exec (.tstep d false b mask) s = .next t ∧ t.agenda = .row .replayDivergence :: s.agenda ∧ t.here.pc = s.here.pc ∧
      t.mem = s.mem := by
  have takes := exec_tstepSliced ready sliced task drained appended alist slots (tstepSliced_diverges cur behind entry hl hc)
  refine ⟨_, takes, rfl, congrArg Context.pc (s.unbank_ctx s.core.cur), settled_mem_of_quiet ready.between⟩

end

/-! ### In merged running (22 R368) -/

theorem Context.get_congr {k l : Context} (h : k.x = l.x) (n : BitVec 5) : k.get n = l.get n := by
  unfold Context.get
  rw [h]

/-- The registers of a context after a word that passed are those of its effect. -/
theorem passed_get (s u : State) (c : Ctx) (n : BitVec 5) : ((passed s u).core.ctx c).get n = (u.core.ctx c).get n :=
  Context.get_congr (passed_ctx s u c).1 n

theorem passed_ckpt (s u : State) : (passed s u).core.ckpt = u.core.ckpt := by
  obtain ⟨-, -, -, -, -, -, -, -, -, -, -, ckpt, -⟩ := passed_core s u
  exact ckpt

theorem tstep_merged {s s1 : State} {d : BitVec 5} {b : Src} {mask : BitVec 32} {e : StepEntry}
    (ready : ReadyOnCore (.tstep d false b mask) ⟨false, 0, 0⟩ s) (merged : s.core.merged = true) (cur : s.core.cur = .C)
    (task : s.core.task.isSome = true) (noStop : s.core.stop = none) (stays : s.core.returning = false)
    (alist : checkAlist s.core (s.src b) = .ok ()) (slots : ∀ ch, (s.core.chain ch).slot < 31) (claimed : s.claimStep .C s.lpc = .ok s1)
    (entry : s1.core.nextEntry .C = some e) (six : e.coords.length = 6) (hd : d ≠ 0) (fits : d.toNat + 5 < 32) :
    ∃ t, exec (.tstep d false b mask) s = .next t ∧
      (∀ i, i < 6 → t.core.c.get (d + BitVec.ofNat 5 i) = e.coords.getD i 0) ∧
      (∀ n : BitVec 5, n.toNat < d.toNat ∨ d.toNat + 6 ≤ n.toNat → t.core.c.get n = s.core.c.get n) ∧
      t.core.ckpt.idx = e.idx ∧ t.core.ckpt.ord = s.here.ord + 1 ∧ t.core.ckpt.lpc = s.lpc ∧ t.core.ckpt.coords = e.coords ∧
      (∀ i, 1 ≤ i → i < 32 → t.core.ckpt.xs.getD i 0 = if mask.getLsbD i then s.core.c.get (BitVec.ofNat 5 i) else 0) := by
  have claims := State.claimStep_claims claimed
  obtain ⟨captured, window⟩ := State.capturedWhole_opens claims mask (s.src b) e
  have found : s1.core.window.find? (fun x => x.ord == s.here.ord + 1) = some e := by
    rw [claims.nextEntry .C] at entry
    unfold State.here
    rwa [cur]
  obtain ⟨k, opens, ckpt, its, -⟩ := State.finishStep_window captured task window (fun _ => rfl) found rfl rfl rfl
  have body := tstepMerged_next (d := d) (wbs := false) (b := b) (mask := mask) claimed entry (opens.stop.trans noStop)
    (opens.returning.trans stays)
  generalize (s.capturedWhole s1 mask (s.src b) e).finishStep (s.here.ord + 1) = u at opens ckpt body
  have positive : 0 < d.toNat := Nat.pos_of_ne_zero (fun h => hd (BitVec.eq_of_toNat_eq h))
  obtain ⟨-, ckpt', takes, others⟩ := landFrom_merged positive e.coords 0 u (opens.merged.trans merged) (by omega)
  have at' : u.core.cur = .C := opens.cur.trans cur
  rw [at'] at takes others
  have is : (passed s (u.landCoords d false e.coords)).core.ckpt = _ := (passed_ckpt s _).trans (ckpt'.trans ckpt)
  refine ⟨passed s (u.landCoords d false e.coords), ?_, fun i hi => ?_, fun n hn => ?_, ?_⟩
  · have notMany : s.tooMany (u.landCoords d false e.coords) = false := by
      unfold State.tooMany Core.interlocked
      rw [merged]
      rfl
    rw [exec_tstep ready task (.inl merged) (.inl merged) alist slots, if_pos merged, body]
    unfold State.complete
    simp only [notMany, Bool.false_eq_true, if_false]
    rfl
  · have := takes i (by omega)
    rw [Nat.zero_add] at this
    exact (passed_get s _ .C _).trans this
  · exact (passed_get s _ .C n).trans ((others n (by omega)).trans (opens.regs .C n))
  · rw [is]
    refine ⟨rfl, its, rfl, rfl, fun i lo hi => ?_⟩
    have xs : (s.wholePart mask (s.src b)).xs.getD i 0 = s.core.c.get (BitVec.ofNat 5 i) :=
      s.capture_xs .C mask (s.src b) s.lpc s.secBefore hi
    rw [assemble_xs _ _ _ _ _ _ lo hi, xs]
    show (if mask.getLsbD i then _ else if mask.getLsbD i then _ else if mask.getLsbD i then _ else _) = _
    cases mask.getLsbD i <;> rfl

/-- Settles O31: merged running, a slice (where each context goes on, waits or diverges), and the claim. -/
theorem stepWordCompletes : Obligations.StepWordCompletes := by
  unfold Obligations.StepWordCompletes
  refine ⟨?merged, ?sliced, ?claim⟩
  case merged =>
    intro s s1 d b mask k e ready merged cur _ task noStop stays alist slots claimed entry six hd fits
    exact tstep_merged ready merged cur (by rw [task]; rfl) noStop stays alist slots claimed entry six hd fits
  case sliced =>
    intro s d b mask k ready sliced task drained appended alist slots p captured
    have has : s.core.task.isSome = true := by rw [task]; rfl
    exact ⟨fun s1 e => tstep_L ready sliced has drained appended alist slots,
      fun e => tstep_C ready sliced has drained appended alist slots,
      fun e l c => tstep_S ready sliced has drained appended alist slots, tstep_blocks ready sliced has drained appended alist slots,
      fun e => tstep_diverges ready sliced has drained appended alist slots⟩
  case claim =>
    intro s c lpc k n task replay record entry node
    exact claimStep_takes lpc task replay record entry node

end Sys2Proof.Machine
end

section
/-! PROOFS. Where the bytes of a vector result come to lie (spec/23 R371). -/

namespace Sys2Proof.Machine

/-! ### Little-endian bytes -/

/-- Byte i of the little-endian form of a value. -/
theorem leBytes_getD {n i : Nat} (h : i < n) (v : Nat) : (leBytes n v).getD i 0 = BitVec.ofNat 8 (v / 2 ^ (8 * i)) := by
  induction n generalizing i v with
  | zero => omega
  | succ n ih =>
    cases i with
    | zero => rw [Nat.mul_zero, Nat.pow_zero, Nat.div_one]; rfl
    | succ i =>
      have shift : 2 ^ (8 * (i + 1)) = 256 * 2 ^ (8 * i) := by rw [Nat.mul_succ, Nat.pow_add, Nat.mul_comm]
      rw [shift, ← Nat.div_div_eq_div_mul]
      exact ih (by omega) _

/-- The bytes of a value are its value again, as far as they reach. -/
theorem leNat_leBytes (n v : Nat) : leNat (leBytes n v) = v % 256 ^ n := by
  induction n generalizing v with
  | zero => exact (Nat.mod_one v).symm
  | succ n ih =>
    show (BitVec.ofNat 8 v).toNat + 256 * leNat (leBytes n (v / 256)) = _
    rw [ih, BitVec.toNat_ofNat, show 256 ^ (n + 1) = 2 ^ 8 * 256 ^ n from Nat.pow_succ', Nat.mod_mul]
    rfl

/-- A scalar in the low bytes of a latch reads back (23 R371). -/
theorem w64_leBytes (v : Word) : w64 (leNat (slice (leBytes 8 v.toNat) 0 8)) = v := by
  have whole : slice (leBytes 8 v.toNat) 0 8 = leBytes 8 v.toNat := rfl
  have fits : v.toNat % 256 ^ 8 = v.toNat := Nat.mod_eq_of_lt v.isLt
  rw [whole, leNat_leBytes, fits, w64, BitVec.ofNat_toNat, BitVec.setWidth_eq]

/-! ### Runs of bytes of one length -/

/-- Byte i of the run that item j lays out. -/
theorem getD_flatMap_runs {α : Type} {g : α → Bytes} {w : Nat} (len : ∀ a, (g a).length = w) {i : Nat} (hi : i < w)
    {l : List α} {j : Nat} {a : α}
    (at' : l[j]? = some a) : (l.flatMap g).getD (j * w + i) 0 = (g a).getD i 0 := by
  induction l generalizing j with
  | nil => simp at at'
  | cons x r ih =>
    rw [List.flatMap_cons]
    cases j with
    | zero =>
      obtain rfl : x = a := by simpa using at'
      rw [Nat.zero_mul, Nat.zero_add, List.getD_append _ _ _ _ (by rw [len]; exact hi)]
    | succ j =>
      rw [List.getD_append_right _ _ _ _ (by rw [len, Nat.succ_mul]; omega), len, Nat.succ_mul,
        show j * w + w + i - w = j * w + i by omega]
      exact ih (by simpa using at')

theorem length_flatMap_runs {α : Type} {g : α → Bytes} {w : Nat} (len : ∀ a, (g a).length = w) (l : List α) :
    (l.flatMap g).length = l.length * w := by
  rw [List.length_flatMap, List.map_congr_left (fun a _ => len a), List.map_const', List.sum_replicate, smul_eq_mul]

theorem layLanes_length (f : Fmt) (rs : List (Option Nat)) : (layLanes f rs).length = rs.length * laneBytes f :=
  length_flatMap_runs (fun _ => leBytes_length _ _) rs

theorem layLanes_getD {f : Fmt} {rs : List (Option Nat)} {j i : Nat} {r : Option Nat} (at' : rs[j]? = some r) (hi : i < laneBytes f) :
    (layLanes f rs).getD (j * laneBytes f + i) 0 = BitVec.ofNat 8 (r.getD 0 / 2 ^ (8 * i)) := by
  unfold layLanes
  rw [getD_flatMap_runs (fun _ => leBytes_length _ _) hi at', leBytes_getD hi]

theorem layMask_getD {f : Fmt} {rs : List (Option Nat)} {j i : Nat} {r : Option Nat} (at' : rs[j]? = some r) (hi : i < laneBytes f) :
    (layMask f rs).getD (j * laneBytes f + i) 0 = if r.isSome then 0xFF else 0 := by
  unfold layMask
  rw [getD_flatMap_runs (fun _ => List.length_replicate) hi at', List.getD_replicate _ hi]

/-- Whole lanes fill 256 bytes (06 R113). -/
theorem lanes_fill {f : Fmt} (h : 8 ≤ f.bits) : lanes f * laneBytes f = 256 := by
  cases f <;> first | rfl | exact absurd h (by decide)

/-! ### Register-space bytes -/

theorem Core.rsByte_insert (k : Core) (a : Nat) (b : Byte) (o : Nat) :
    ({ k with rs := k.rs.insert a b } : Core).rsByte o = if o = a then b else k.rsByte o := by
  unfold Core.rsByte
  dsimp only
  rw [Cells.find_insert]
  by_cases h : o = a
  · rw [if_pos h, if_pos h]
  · rw [if_neg h, if_neg h]

/-- A byte merged bit by bit: the bits of the mask are written. -/
def mergeByte (old b m : Byte) : Byte := (old &&& ~~~m) ||| (b &&& m)

@[simp] theorem mergeByte_none (old b : Byte) : mergeByte old b 0 = old := by
  have none : (0 : Byte) = 0#8 := rfl
  rw [mergeByte, none, BitVec.and_zero, BitVec.or_zero, BitVec.not_zero, BitVec.and_allOnes]

@[simp] theorem mergeByte_all (old b : Byte) : mergeByte old b 0xFF = b := by
  have all : (0xFF : Byte) = BitVec.allOnes 8 := rfl
  rw [mergeByte, all, BitVec.not_allOnes, BitVec.and_allOnes, BitVec.and_zero, BitVec.zero_or]

/-- Merged bytes are merged one by one where they reach; everywhere else the register space stays. -/
theorem Core.rsByte_rsMerge (bs : Bytes) : ∀ (k : Core) (a : Nat) (ms : Bytes) (o : Nat), (k.rsMerge a bs ms).rsByte o =
    if a ≤ o ∧ o < a + bs.length then mergeByte (k.rsByte o) (bs.getD (o - a) 0) (ms.getD (o - a) 0) else k.rsByte o := by
  induction bs with
  | nil => intro k a ms o; rw [if_neg (by simp only [List.length_nil]; omega)]; rfl
  | cons b r ih =>
    intro k a ms o
    cases ms with
    | nil => rw [List.getD_nil, mergeByte_none, ite_self]; rfl
    | cons m ms =>
      have first : (if m = 0 then k else { k with rs := k.rs.insert a (mergeByte (k.rsByte a) b m) } : Core).rsByte o =
          if o = a then mergeByte (k.rsByte a) b m else k.rsByte o := by
        by_cases h : m = 0
        · rw [if_pos h, h, mergeByte_none]; split <;> simp_all
        · rw [if_neg h, Core.rsByte_insert]
      show (Core.rsMerge (if m = 0 then k else { k with rs := k.rs.insert a (mergeByte (k.rsByte a) b m) }) (a + 1) r ms).rsByte o = _
      rw [ih, first, List.length_cons]
      rcases Nat.lt_trichotomy o a with lt | rfl | gt
      · rw [if_neg (by omega), if_neg (by omega), if_neg (by omega)]
      · rw [if_neg (by omega), if_pos rfl, if_pos (by omega), Nat.sub_self]; rfl
      · have next : o - a = o - (a + 1) + 1 := by omega
        rw [next, List.getD_cons_succ, List.getD_cons_succ, if_neg (show ¬ o = a by omega)]
        exact if_congr (by omega) rfl rfl

end Sys2Proof.Machine
end

section
/-! PROOFS. O6: where a scalar or a vector result goes (spec/03 R60 to R63, spec/23 R371). -/

namespace Sys2Proof.Machine

/-! ### A result of the word at issue -/

/-- A result of the word at issue in flight, from inside the core. -/
def State.flightOf (s : State) (ps : List Put) (lt : BitVec 4) (cap : Bytes) (fl : Flags) (lat : Nat) : Flight :=
  { ctx := s.core.cur, puts := ps, lt := lt, cap := cap, flags := fl, landAt := s.core.cyc + lat - 1,
    dueBy := min (s.core.cyc + lat - 1) (s.core.cyc + 7), arrived := true, req := none, sec := s.here.secNo, listed := false, ext := false,
    late := none, counted := true }

/-- With interlocks a result is there at once (03 R68). -/
theorem State.land_now {s : State} (h : s.core.interlocked = true) (ps : List Put) (lt : BitVec 4) (cap : Bytes) (fl : Flags) (lat : Nat) :
    s.land { puts := ps, lt := lt, cap := cap, flags := fl, lat := lat } =
      s.modCore (fun k => k.applyFlight (s.flightOf ps lt cap fl lat)) := by
  unfold State.land
  simp only [h, Bool.not_false, Bool.and_self, if_true]
  rfl

/-- In sliced running it goes into flight (03 R62). -/
theorem State.land_later {s : State} (h : s.core.interlocked = false) (ps : List Put) (lt : BitVec 4) (cap : Bytes)
    (fl : Flags) (lat : Nat) :
    s.land { puts := ps, lt := lt, cap := cap, flags := fl, lat := lat } =
      s.modCore (fun k => { k with flights := k.flights ++ [s.flightOf ps lt cap fl lat] }) := by
  unfold State.land
  simp only [h, Bool.false_and, Bool.false_eq_true, if_false]
  rfl

/-- A context that the flags and the latch of a result have reached (03 R61; 06 R129). -/
def Context.landed (x : Context) (f : Flight) : Context :=
  { x with fflags := x.fflags ||| f.flags, latch := if f.lt = 0 then x.latch else x.latch.set f.lt.toNat (some f.cap) f.lt.isLt }

theorem Core.applyFlight_ctx (k : Core) (f : Flight) : (k.applyFlight f).ctx f.ctx = ((k.applyPuts f.puts).ctx f.ctx).landed f :=
  Core.ctx_modCtx_same _ _ (fun x => x.landed f)

/-- Registers change by the writes of a result alone. -/
theorem Core.applyFlight_regs (k : Core) (f : Flight) : SameRegs (k.applyPuts f.puts) (k.applyFlight f) :=
  SameRegs.modCtx _ _ (f := fun x => x.landed f) (fun _ => rfl)

/-! ### A scalar result -/

/-- A scalar in a latch that a result captures, as a scalar source; another latch stays (03 R61). -/
theorem Context.latchWord_landed (x : Context) {f : Flight} {v : Word} (cap : f.cap = leBytes 8 v.toNat) {l : BitVec 4} (h : l ≠ 0) :
    (x.landed f).latchWord l = if l = f.lt then v else x.latchWord l := by
  unfold Context.latchWord Context.landed
  dsimp only
  by_cases e : l = f.lt
  · subst e
    simp only [if_neg h, if_true, Vector.getElem_set_self, Option.getD_some, cap]
    exact w64_leBytes v
  · have ne : f.lt.toNat ≠ l.toNat := fun eq => e (BitVec.eq_of_toNat_eq eq.symm)
    rw [if_neg e]
    split
    · rfl
    · rw [Vector.getElem_set_ne _ _ ne]

/-- The registers that a scalar result has written: D of its own context, unless it is suppressed; x0 takes no write. -/
theorem Core.get_applyPuts_dst (k : Core) (c : Ctx) (d : Dst) (v : Word) (e : Ctx) (n : BitVec 5) :
    ((k.applyPuts (dstPuts c d v)).ctx e).get n = if e = c ∧ n = d.reg ∧ n ≠ 0 ∧ d.wbs = false then v else (k.ctx e).get n := by
  unfold dstPuts
  cases wbs : d.wbs
  · show ((k.modCtx c (fun x => x.put d.reg v)).ctx e).get n = _
    rw [Core.ctx_modCtx]
    by_cases h : e = c
    · subst h
      rw [if_pos rfl, Context.get_put]
      refine if_congr ⟨fun h => ⟨rfl, h.1, h.1 ▸ h.2, rfl⟩, fun h => ⟨h.2.1, h.2.1 ▸ h.2.2.1⟩⟩ rfl rfl
    · rw [if_neg h, if_neg (fun x => h x.1)]
  · rw [if_pos rfl, if_neg (fun x => Bool.noConfusion x.2.2.2)]
    rfl

/-- Beside its registers the writes of a scalar result leave a context as it is. -/
theorem Core.applyPuts_dst_frame (k : Core) (c : Ctx) (d : Dst) (v : Word) (e : Ctx) :
    ((k.applyPuts (dstPuts c d v)).ctx e).fflags = (k.ctx e).fflags ∧ ((k.applyPuts (dstPuts c d v)).ctx e).latch = (k.ctx e).latch := by
  unfold dstPuts
  cases d.wbs
  · show ((k.modCtx c (fun x => x.put d.reg v)).ctx e).fflags = _ ∧ ((k.modCtx c (fun x => x.put d.reg v)).ctx e).latch = _
    rw [Core.ctx_modCtx]
    split
    · next h => subst h; exact ⟨Context.put_fflags .., Context.put_latch ..⟩
    · exact ⟨rfl, rfl⟩
  · exact ⟨rfl, rfl⟩

/-- A scalar result with interlocks (03 R61, R68; 06 R129). -/
theorem landReg_now {s : State} (h : s.core.interlocked = true) (d : Dst) (v : Word) (lat : Nat) (fl : BitVec 5) :
    let t := s.landReg d v lat fl
    (∀ c n, (t.core.ctx c).get n = if c = s.core.cur ∧ n = d.reg ∧ n ≠ 0 ∧ d.wbs = false then v else (s.core.ctx c).get n) ∧
      (t.core.ctx s.core.cur).fflags = s.here.fflags ||| fl ∧
      (∀ l : BitVec 4, l ≠ 0 → (t.core.ctx s.core.cur).latchWord l = if l = d.lt then v else s.here.latchWord l) ∧
      t.core.flights = s.core.flights := by
  intro t
  have eq : t = s.modCore (fun k => k.applyFlight (s.flightOf (dstPuts s.core.cur d v) d.lt (leBytes 8 v.toNat) fl lat)) :=
    State.land_now h ..
  have here := s.core.applyFlight_ctx (s.flightOf (dstPuts s.core.cur d v) d.lt (leBytes 8 v.toNat) fl lat)
  obtain ⟨flags, latch⟩ := s.core.applyPuts_dst_frame s.core.cur d v s.core.cur
  rw [eq]
  refine ⟨fun c n => ?_, ?_, fun l hl => ?_, (Core.applyFlight_untouched ..).flights⟩
  · exact (Core.applyFlight_regs _ _ c n).trans (Core.get_applyPuts_dst ..)
  · exact (congrArg Context.fflags here).trans (congrArg (· ||| fl) flags)
  · have other : ((s.core.applyPuts (dstPuts s.core.cur d v)).ctx s.core.cur).latchWord l = s.here.latchWord l := by
      unfold Context.latchWord
      simp only [latch]
      rfl
    exact (congrArg (·.latchWord l) here).trans ((Context.latchWord_landed _ rfl hl).trans (if_congr Iff.rfl rfl other))

/-- A scalar result in sliced running (03 R62). -/
theorem landReg_later {s : State} (h : s.core.interlocked = false) (d : Dst) (v : Word) (lat : Nat) (fl : BitVec 5) :
    let t := s.landReg d v lat fl
    (∀ c, t.core.ctx c = s.core.ctx c) ∧
      ∃ f : Flight, t.core.flights = s.core.flights ++ [f] ∧ f.ctx = s.core.cur ∧ f.landAt = s.core.cyc + lat - 1 ∧
        f.puts = (if d.wbs then [] else [.reg s.core.cur d.reg v]) ∧ f.lt = d.lt ∧ f.flags = fl ∧ f.arrived = true := by
  intro t
  have eq : t =
      s.modCore (fun k => { k with flights := k.flights ++ [s.flightOf (dstPuts s.core.cur d v) d.lt (leBytes 8 v.toNat) fl lat] }) :=
    State.land_later h ..
  rw [eq]
  exact ⟨fun c => by cases c <;> rfl, _, rfl, rfl, rfl, rfl, rfl, rfl, rfl⟩

/-! ### A vector result -/

/-- The flags of all lanes (06 R129). -/
def laneFlags (rs : List (Option Nat × Flags)) : Flags := (rs.map (·.2)).foldl (· ||| ·) 0

theorem Core.rsMerge_contexts (bs : Bytes) : ∀ (k : Core) (a : Nat) (ms : Bytes), ∀ c, (k.rsMerge a bs ms).ctx c = k.ctx c := by
  induction bs with
  | nil => intro k a ms c; rfl
  | cons b r ih =>
    intro k a ms c
    cases ms with
    | nil => rfl
    | cons m ms =>
      refine (ih _ (a + 1) ms c).trans ?_
      split
      · rfl
      · cases c <;> rfl

/-- The bytes that a vector result has written with interlocks, and the registers that it leaves. -/
theorem landLanes_now {s : State} (h : s.core.interlocked = true) {d : VDst} (wbs : d.wbs = false) (f : Fmt)
    (rs : List (Option Nat × BitVec 5)) (lat : Nat) :
    let t := s.landLanes d f rs lat
    let bs := layLanes f (rs.map (·.1))
    let ms := layMask f (rs.map (·.1))
    (∀ o, t.core.rsByte o = (s.core.rsMerge (s.elBase d.el) bs ms).rsByte o) ∧
      (∀ c n, (t.core.ctx c).get n = (s.core.ctx c).get n) ∧ t.mem = s.mem := by
  intro t bs ms
  have eq : t = s.modCore (fun k => k.applyFlight (s.flightOf [.bytes (s.elBase d.el) bs ms] d.lt bs (laneFlags rs) lat)) := by
    refine (State.land_now h (if d.wbs then [] else [.bytes (s.elBase d.el) bs ms]) ..).trans ?_
    rw [wbs]
    rfl
  rw [eq]
  refine ⟨fun o => ?_, fun c n => ?_, rfl⟩
  · rw [State.modCore_core]
    unfold Core.applyFlight Core.rsByte
    rw [Core.modCtx_rs, Core.modCtx_rsGen]
    rfl
  · refine (Core.applyFlight_regs _ _ c n).trans ?_
    rw [← Core.rsMerge_contexts bs s.core (s.elBase d.el) ms c]
    cases c <;> rfl

/-- A vector result with interlocks: the bytes of its enabled lanes are written, all others stay (03 R60). -/
theorem landLanes_bytes {s : State} (h : s.core.interlocked = true) {d : VDst} (wbs : d.wbs = false) {f : Fmt} (wide : 8 ≤ f.bits)
    {rs : List (Option Nat × BitVec 5)} (all : rs.length = lanes f) (lat : Nat) :
    let t := s.landLanes d f rs lat
    (∀ j r fl i, rs[j]? = some (some r, fl) → i < laneBytes f →
      t.core.rsByte (s.elBase d.el + j * laneBytes f + i) = BitVec.ofNat 8 (r / 2 ^ (8 * i))) ∧
    (∀ j fl i, rs[j]? = some (none, fl) → i < laneBytes f →
      t.core.rsByte (s.elBase d.el + j * laneBytes f + i) = s.core.rsByte (s.elBase d.el + j * laneBytes f + i)) ∧
    (∀ o, o < s.elBase d.el ∨ s.elBase d.el + 256 ≤ o → t.core.rsByte o = s.core.rsByte o) ∧
    (∀ c n, (t.core.ctx c).get n = (s.core.ctx c).get n) ∧ t.mem = s.mem := by
  intro t
  obtain ⟨bytes, regs, mem⟩ := landLanes_now h wbs f rs lat
  have size : (layLanes f (rs.map (·.1))).length = 256 := by rw [layLanes_length, List.length_map, all, lanes_fill wide]
  have lane : ∀ {j i : Nat} {r : Option Nat} {fl : BitVec 5}, rs[j]? = some (r, fl) → i < laneBytes f →
      t.core.rsByte (s.elBase d.el + j * laneBytes f + i) = mergeByte (s.core.rsByte (s.elBase d.el + j * laneBytes f + i))
        (BitVec.ofNat 8 (r.getD 0 / 2 ^ (8 * i))) (if r.isSome then 0xFF else 0) := by
    intro j i r fl at' hi
    have item : (rs.map (·.1))[j]? = some r := by rw [List.getElem?_map, at']; rfl
    have before : j < lanes f := all ▸ (List.getElem?_eq_some_iff.mp at').1
    have inside : j * laneBytes f + i < 256 := by
      have := Nat.mul_le_mul_right (laneBytes f) (Nat.succ_le_of_lt before)
      rw [lanes_fill wide, Nat.succ_mul] at this
      omega
    rw [bytes, Core.rsByte_rsMerge, size, if_pos (by omega), Nat.add_assoc,
      Nat.add_sub_cancel_left, layLanes_getD item hi, layMask_getD item hi]
  refine ⟨fun j r fl i at' hi => ?_, fun j fl i at' hi => ?_, fun o ho => ?_, regs, mem⟩
  · rw [lane at' hi]; exact mergeByte_all ..
  · rw [lane at' hi]; exact mergeByte_none ..
  · rw [bytes, Core.rsByte_rsMerge, size, if_neg (by omega)]

/-- A vector result in sliced running goes into flight (03 R62). -/
theorem landLanes_later {s : State} (h : s.core.interlocked = false) (d : VDst) (f : Fmt) (rs : List (Option Nat × BitVec 5)) (lat : Nat) :
    let t := s.landLanes d f rs lat
    (∀ c, t.core.ctx c = s.core.ctx c) ∧ t.core.rs = s.core.rs ∧
    ∃ g : Flight, t.core.flights = s.core.flights ++ [g] ∧ g.ctx = s.core.cur ∧ g.landAt = s.core.cyc + lat - 1 ∧
      g.puts = (if d.wbs then [] else [.bytes (s.elBase d.el) (layLanes f (rs.map (·.1))) (layMask f (rs.map (·.1)))]) ∧
      g.lt = d.lt ∧ g.cap = layLanes f (rs.map (·.1)) := by
  intro t
  have eq : t = s.modCore (fun k => { k with flights := k.flights ++ [s.flightOf
      (if d.wbs then [] else [.bytes (s.elBase d.el) (layLanes f (rs.map (·.1))) (layMask f (rs.map (·.1)))]) d.lt
      (layLanes f (rs.map (·.1))) (laneFlags rs) lat] }) := State.land_later h ..
  rw [eq]
  exact ⟨fun c => by cases c <;> rfl, rfl, _, rfl, rfl, rfl, rfl, rfl, rfl⟩

/-- Settles O6: a scalar result with interlocks and without, then a vector result. -/
theorem resultsLand : Obligations.ResultsLand := by
  unfold Obligations.ResultsLand
  refine ⟨fun s d v lat fl => ?_, fun s d f rs lat h wbs wide all => landLanes_bytes h wbs wide all lat,
    fun s d f rs lat h => landLanes_later h d f rs lat⟩
  obtain ⟨mem, mod, others, -⟩ := landReg_frame s d v lat fl
  exact ⟨fun h => landReg_now h d v lat fl, fun h => landReg_later h d v lat fl, mem, mod, others⟩

end Sys2Proof.Machine
end

section
/-! PROOFS. Register writes and counters as the table lists them (spec/03 R56, spec/04 R96, spec/12 R218, spec/17 R259 to R261). -/

namespace Sys2Proof.Machine

/-! ### PERF_RED_READ (17 R260) -/

/-- The one result in flight lands as its data come, where it is meant and interlocks are on (03 R64). -/
theorem Core.arrive_one {k : Core} {f : Flight} {p : Flight → Bool} (g : Flight → Flight) (one : k.flights = [f]) (meant : p f = true)
    (waits : f.arrived = false) (notLate : f.late = none) (interlocks : k.interlocked = true) :
    (k.arrive p g).flights = [] ∧
      SameRegs (({ k with flights := [] } : Core).applyFlight { g f with arrived := true }) (k.arrive p g) := by
  have goes : k.landsAtOnce p f = true := by simp [Core.landsAtOnce, meant, waits, notLate, interlocks]
  have landing : k.landingNow p g = [{ g f with arrived := true }] := by
    rw [Core.landingNow, one, List.filter_cons_of_pos goes]
    exact bySlice_one _
  have stay : k.arrivedFlights p g = [] := by
    have gone : yielding [f] (k.landsAtOnce p) = [] := by simp [yielding, goes]
    rw [Core.arrivedFlights, one, gone]
    rfl
  have regs := k.arrive_regs p g
  rw [landing, stay] at regs
  exact ⟨(k.arrive_untouched p g).flights.trans stay, regs⟩

/-- The journals have taken the reduction (02 R40; 17 R267). -/
def State.reductionNoted (s : State) : State :=
  (s.modTask (fun t => { t with recBuf := t.recBuf.map (fillReduction s.m.reqs s.core.num s.reduction) })).modCore (fun k =>
    { k with journal := k.journal.map (fillJournal s.reduction) })

/-- The reduction arrives in the register that asked for it. -/
theorem perfRedRead_arrives {s : State} {f : Flight} {d : BitVec 5} (hw : s.wlog = []) (one : s.core.flights = [f])
    (waits : f.arrived = false) (tree : f.req = none) (inside : f.ext = false) (notLate : f.late = none)
    (puts : f.puts = [.reg f.ctx d 0]) (hd : d ≠ 0) (interlocks : s.core.interlocked = true) :
    ∃ t, exec .perfRedRead s = .next t ∧ (t.core.ctx f.ctx).get d = s.reduction ∧ t.core.flights = [] ∧ t.mem = s.mem := by
  have asked : s.core.awaitsTree = true := by simp [Core.awaitsTree, one, waits, tree, inside]
  have takes : Takes .perfRedRead s
      (s.reductionNoted.modCore (fun k => k.arrive (fun f => f.req.isNone && !f.ext) (withValues [s.reduction]))) := by
    show execPerfRedRead s = _
    unfold execPerfRedRead
    rw [runEvent_eq hw, asked, if_neg (by decide)]
    rfl
  obtain ⟨flights, regs⟩ := Core.arrive_one (k := s.reductionNoted.core) (p := fun f => f.req.isNone && !f.ext)
    (withValues [s.reduction]) one (by simp [tree, inside]) waits notLate interlocks
  have value : (withValues [s.reduction] f).puts = [.reg f.ctx d s.reduction] := by
    unfold withValues
    rw [puts]
    rfl
  refine ⟨_, takes, ?_, flights, settled_mem_of_quiet hw⟩
  exact (regs f.ctx d).trans (Core.applyFlight_get (f := { withValues [s.reduction] f with arrived := true }) _ value hd)

/-! ### Register writes (03 R56; 04 R96; 12 R218; 17 R259) -/

/-- EVENT is as the low bits of the value say, whatever the reserved bits hold. -/
theorem perfSel_event (v : Word) : fld (v &&& 0x303FFFF).toNat 0 16 = v.toNat % 65536 := by
  unfold fld
  rw [Nat.pow_zero, Nat.div_one, BitVec.toNat_and, Nat.and_mod_two_pow]
  exact Nat.and_two_pow_sub_one_of_lt_two_pow (Nat.mod_lt _ (by decide))

theorem Perf.setSel_reserved {v : Word} (h : perfSelOk v = false) (p : Perf) : p.setSel v = p := by
  unfold Perf.setSel
  rw [h, if_neg Bool.false_ne_true]

/-- A write of `perf.sel` that is no reserved one: a changed EVENT clears the count (17 R259). -/
theorem Perf.setSel_ok {v : Word} (h : perfSelOk v = true) (p : Perf) : (p.setSel v).sel = v &&& 0x303FFFF ∧
    (v.toNat % 65536 ≠ p.sel.toNat % 65536 → (p.setSel v).val = 0) ∧
    (v.toNat % 65536 = p.sel.toNat % 65536 → (p.setSel v).val = p.val) := by
  have was : fld p.sel.toNat 0 16 = p.sel.toNat % 65536 := congrArg (· % 65536) (Nat.div_one _)
  unfold Perf.setSel
  rw [h, if_pos rfl]
  dsimp only
  rw [perfSel_event, was]
  split
  · next same => exact ⟨rfl, fun ne => absurd same ne, fun _ => rfl⟩
  · next ne => exact ⟨rfl, fun _ => rfl, fun same => absurd same ne⟩

theorem perfSelWrite_writes {s : State} (hw : s.wlog = []) (v : Word) : ∃ t, exec (.perfSelWrite v) s = .next t ∧ t.mem = s.mem ∧
    (perfSelOk v = false → t.core.perf = s.core.perf) ∧
    (perfSelOk v = true → t.core.perf.sel = v &&& 0x303FFFF ∧
      (v.toNat % 65536 ≠ s.core.perf.sel.toNat % 65536 → t.core.perf.val = 0) ∧
      (v.toNat % 65536 = s.core.perf.sel.toNat % 65536 → t.core.perf.val = s.core.perf.val)) :=
  ⟨_, takes_event (body := fun s => s.modCore (fun k => k.sysWrite k.cur 0x200 v)) rfl hw rfl, settled_mem_of_quiet hw,
    fun h => Perf.setSel_reserved h _, fun h => Perf.setSel_ok h _⟩

/-- The low bits of a register. -/
theorem extractLsb'_low (v : Word) (n : Nat) : v.extractLsb' 0 n = v.setWidth n := by
  apply BitVec.eq_of_toNat_eq
  rw [BitVec.extractLsb'_toNat, Nat.shiftRight_zero, BitVec.toNat_setWidth]

theorem fflagsWrite_writes {s : State} (hw : s.wlog = []) (fl : BitVec 5) : ∃ t, exec (.fflagsWrite fl) s = .next t ∧
    (∀ e, (t.core.ctx e).fflags = fl ∧ (t.core.ctx e).x = (s.core.ctx e).x) ∧ t.mem = s.mem := by
  have low : (fl.setWidth 64).extractLsb' 0 5 = fl := by
    rw [extractLsb'_low, BitVec.setWidth_setWidth_of_le _ (by decide), BitVec.setWidth_eq]
  refine ⟨_, takes_event (body := fun s => s.modCore (fun k => k.sysWrite k.cur 0x012 (fl.setWidth 64))) rfl hw rfl,
    fun e => ?_, settled_mem_of_quiet hw⟩
  cases e <;> exact ⟨low, rfl⟩

theorem roundSeedWrite_writes {s : State} (hw : s.wlog = []) (v : Word) : ∃ t, exec (.roundSeedWrite v) s = .next t ∧
    t.core.seedNow = v ∧ (∀ e, t.core.ctx e = s.core.ctx e) ∧ t.mem = s.mem := by
  have seed : (s.core.sysWrite s.core.cur 0x040 v).seedNow = v := by
    cases h : s.core.task with
    | none => simp [Core.sysWrite, Core.seedNow, h]
    | some k => simp [Core.sysWrite, Core.seedNow, h]
  exact ⟨_, takes_event (body := fun s => s.modCore (fun k => k.sysWrite k.cur 0x040 v)) rfl hw rfl, seed,
    fun e => by cases e <;> rfl, settled_mem_of_quiet hw⟩

theorem dutyRegisterWrite_writes {s : State} (hw : s.wlog = []) (v : Word) : ∃ t, exec (.dutyRegisterWrite v) s = .next t ∧
    t.m.duty = v.setWidth 6 ∧ t.core = s.core ∧ t.mem = s.mem :=
  ⟨_, takes_event (body := fun s => s.modM (fun m => { m with duty := v.extractLsb' 0 6 })) rfl hw rfl,
    extractLsb'_low v 6, rfl, settled_mem_of_quiet hw⟩

/-! ### COUNTER_SAMPLE and TRACE_GAP_RECORD (17 R261, R264) -/

/-- Without a period nothing that is counted makes a sample due (17 R261). -/
theorem Perf.count_sample {p : Perf} (h : p.per = 0) (ev n : Nat) (c : Ctx) : (p.count ev n c).sample = p.sample := by
  unfold Perf.count
  simp only [h, if_true, List.replicate_zero, List.append_nil]
  split <;> rfl

/-- The core of a sample: it has taken the sample and counts the frozen cycle. -/
def Core.sampled (k : Core) (c : Ctx) (rest : List SampleDue) : Core :=
  (({ k with perf := { k.perf with sample := rest } } : Core).countFor c 2 1).countStrings 1

theorem Core.countStrings_only (k : Core) (n : Nat) : ∃ pf, k.countStrings n = { k with perf := pf } ∧
    (k.perf.per = 0 → pf.sample = k.perf.sample) := by
  unfold Core.countStrings
  split
  · exact ⟨_, rfl, fun h => Perf.count_sample h ..⟩
  · exact ⟨_, rfl, fun _ => rfl⟩

/-- A sample changes the counter alone; without a period the samples left are those behind it. -/
theorem Core.sampled_only (k : Core) (c : Ctx) (rest : List SampleDue) : ∃ pf, k.sampled c rest = { k with perf := pf } ∧
    (k.perf.per = 0 → pf.sample = rest) := by
  obtain ⟨pf, eq, keeps⟩ := (({ k with perf := { k.perf with sample := rest } } : Core).countFor c 2 1).countStrings_only 1
  refine ⟨pf, eq, fun h => ?_⟩
  have per : (({ k.perf with sample := rest } : Perf).count 2 1 c).per = 0 := (Perf.count_per ..).trans h
  exact (keeps per).trans (Perf.count_sample (p := { k.perf with sample := rest }) h ..)

theorem counterSample_samples {s : State} {x : SampleDue} {xs : List SampleDue} (hw : s.wlog = []) (due : s.core.perf.sample = x :: xs)
    (untraced : s.core.traces = false) : ∃ t, exec .counterSample s = .next t ∧ (s.core.perf.per = 0 → t.core.perf.sample = xs) ∧
      t.core.cyc = s.core.cyc ∧ t.m.wall = s.m.wall + s.core.period ∧ (∀ e, t.core.ctx e = s.core.ctx e) ∧ t.mem = s.mem := by
  obtain ⟨pf, only, left⟩ := s.core.sampled_only x.ctx xs
  have takes : Takes .counterSample s ((s.modCore (fun k => k.sampled x.ctx xs)).tickWall 1) := by
    have quiet : (s.modCore (fun k => k.sampled x.ctx xs)).core.traces = false := by
      rw [State.modCore_core, only]
      exact untraced
    show execCounterSample s = _
    unfold execCounterSample
    rw [runEvent_eq hw]
    simp only [due]
    exact congrArg (fun t => Host.Outcome.next (settled s (t.tickWall 1))) (State.traceAt_off quiet ..)
  obtain ⟨core, quiet, wall⟩ := (s.modCore (fun k => k.sampled x.ctx xs)).tickWall_frame 1
  refine ⟨_, takes, ?_⟩
  rw [settled_core, core, State.modCore_core, only, settled_m, wall, Nat.one_mul, State.modCore_core, only]
  exact ⟨left, rfl, rfl, fun e => by cases e <;> rfl, settled_mem_of_quiet (quiet.trans hw)⟩

/-- A gap record that is due is put, and counts the drop no more (17 R264). -/
theorem State.putGap_due {s : State} (due : s.gapDue = true) (at' : BitVec 8 × Word) : ∃ (body : Bytes), s.putGap at' =
    (s.putTrace at' 4 0 body).modCore (fun k => { k with trace := { k.trace with dropped := 0, firstDrop := 0 } }) := by
  unfold State.putGap
  dsimp only
  rw [due, if_neg (by decide)]
  exact ⟨_, rfl⟩

theorem traceGapRecord_puts {s : State} (hw : s.wlog = []) (on : s.core.traces = true) (dropped : s.core.trace.dropped ≠ 0)
    (mapped : s.traceMapped = true) : ∃ t, exec .traceGapRecord s = .next t ∧ t.core.trace.dropped = 0 ∧
      t.core.trace.seq = s.core.trace.seq + 1 := by
  have due : s.gapDue = true := by
    unfold State.gapDue
    rw [bne_iff_ne.mpr dropped, Bool.true_or]
  have takes : Takes .traceGapRecord s (s.putGap (s.sliceCode s.core.cur, s.here.pc)) := by
    show execTraceGapRecord s = _
    unfold execTraceGapRecord
    rw [runEvent_eq hw, if_pos (by rw [on, due, mapped]; rfl)]
  refine ⟨_, takes, ?_⟩
  obtain ⟨body, eq⟩ := State.putGap_due due (s.sliceCode s.core.cur, s.here.pc)
  rw [settled_core, eq]
  exact ⟨rfl, rfl⟩

end Sys2Proof.Machine
end

section
/-! PROOFS. What the device's own writes look at: translations, memory and what is written already (spec/07 R134 to R137). -/

namespace Sys2Proof.Machine

/-- Two states in which translations and physical reads answer the same. -/
structure SameView (s t : State) : Prop where
  mem : t.mem = s.mem
  wlog : t.wlog = s.wlog
  m : t.m = s.m
  tlb : t.core.tlb = s.core.tlb

theorem SameView.symm {s t : State} (h : SameView s t) : SameView t s := ⟨h.mem.symm, h.wlog.symm, h.m.symm, h.tlb.symm⟩

theorem SameView.physRun_eq {s t : State} (h : SameView s t) (pa n : Nat) : t.physRun pa n = s.physRun pa n := by
  induction n generalizing pa with
  | zero => rfl
  | succ n ih =>
    have byte : t.phys pa = s.phys pa := by
      unfold State.phys
      rw [h.mem, h.wlog]
    exact congrArg₂ List.cons byte (ih _)

theorem SameView.walkGo_eq {s t : State} (h : SameView s t) (root : Word) (va : Nat) (l : List (Nat × Nat × Nat)) :
    ∀ lvl base, walkGo t root va lvl base l = walkGo s root va lvl base l := by
  induction l with
  | nil => intro lvl base; rfl
  | cons x r ih =>
    intro lvl base
    obtain ⟨shift, width, next⟩ := x
    unfold walkGo
    simp only [h.physRun_eq, h.m, ih]

/-- A translation that one of them finds the other finds too, and both go on alike. -/
theorem SameView.translate_ok {s t s' : State} (h : SameView s t) {root : Word} {va : Nat} {e : TlbEntry}
    (ok : translate s root va = .ok (e, s')) : ∃ t', translate t root va = .ok (e, t') ∧ SameView s' t' := by
  unfold translate walk at *
  rw [h.tlb, h.walkGo_eq]
  split at ok
  · cases ok; exact ⟨_, rfl, h⟩
  · split at ok
    · cases ok; exact ⟨_, rfl, h.mem, h.wlog, h.m, congrArg (_ :: ·) h.tlb⟩
    · cases ok

/-- The checks that the device makes for an access of its own: none but the translations. -/
abbrev Chk.bare : Chk := { wr := false, poison := false, tag := false, race := false }

theorem SameView.translateAll_ok {root ptr : Word} {lane : Nat} : ∀ {l : List (Nat × Nat)} {s t s' : State} {ps : List Piece},
    SameView s t → translateAll s root ptr false lane l = .ok (ps, s') →
    ∃ t', translateAll t root ptr false lane l = .ok (ps, t') ∧ SameView s' t' := by
  intro l
  induction l with
  | nil => intro s t s' ps h ok; cases ok; exact ⟨_, rfl, h⟩
  | cons x r ih =>
    intro s t s' ps h ok
    obtain ⟨va, n⟩ := x
    unfold translateAll at ok ⊢
    split at ok
    · cases ok
    · next e s1 first =>
      obtain ⟨t1, first', h1⟩ := h.translate_ok first
      simp only [Bool.false_and, Bool.false_eq_true, if_false] at ok
      split at ok
      · cases ok
      · next qs s2 rest =>
        cases ok
        obtain ⟨t2, rest', h2⟩ := ih h1 rest
        exact ⟨t2, by simp only [first', rest', Bool.false_and, Bool.false_eq_true, if_false], h2⟩

theorem checkPieces_bare (s : State) (ptr : Word) (key : Option (Nat × Nat)) (lane : Nat) (ps : List Piece) :
    checkPieces s ptr .bare none key lane ps = .ok () := rfl

theorem SameView.checkParts_ok {root ptr : Word} {lane : Nat} : ∀ {l : List (List (Nat × Nat))} {s t s' : State} {ps : List Piece},
    SameView s t → checkParts s root ptr .bare none none lane l = .ok (ps, s') →
    ∃ t', checkParts t root ptr .bare none none lane l = .ok (ps, t') ∧ SameView s' t' := by
  intro l
  induction l with
  | nil => intro s t s' ps h ok; cases ok; exact ⟨_, rfl, h⟩
  | cons x r ih =>
    intro s t s' ps h ok
    unfold checkParts at ok ⊢
    simp only [checkPieces_bare] at ok ⊢
    split at ok
    · cases ok
    · next qs s1 first =>
      obtain ⟨t1, first', h1⟩ := h.translateAll_ok first
      split at ok
      · cases ok
      · next rs s2 rest =>
        cases ok
        obtain ⟨t2, rest', h2⟩ := ih h1 rest
        exact ⟨t2, by rw [first']; simp only [rest'], h2⟩

/-- The pieces of a range that the device accesses; none without a translation. -/
def State.barePieces (s : State) (root : Word) (va n : Nat) : Option (List Piece) :=
  match checkVirtual s root 0 va n .bare none none 0 with
  | .ok (ps, _) => some ps
  | .error _ => none

theorem State.barePieces_eq_some {s : State} {root : Word} {va n : Nat} {ps : List Piece} :
    s.barePieces root va n = some ps ↔ ∃ s', checkVirtual s root 0 va n .bare none none 0 = .ok (ps, s') := by
  unfold State.barePieces
  constructor
  · intro h
    split at h
    · next eq => cases h; exact ⟨_, eq⟩
    · cases h
  · rintro ⟨s', eq⟩
    rw [eq]

/-- A range that the device accesses lies in the same pieces in both. -/
theorem SameView.barePieces_eq {s t : State} (h : SameView s t) (root : Word) (va n : Nat) :
    t.barePieces root va n = s.barePieces root va n := by
  have go : ∀ {s t : State}, SameView s t → ∀ ps, s.barePieces root va n = some ps → t.barePieces root va n = some ps := by
    intro s t h ps ok
    obtain ⟨s', ok⟩ := State.barePieces_eq_some.mp ok
    obtain ⟨t', ok', -⟩ := h.checkParts_ok ok
    exact State.barePieces_eq_some.mpr ⟨t', ok'⟩
  exact Option.ext fun ps => ⟨go h.symm ps, go h ps⟩

/-! ### What is written -/

theorem devWrite_some {s : State} {root : Word} {va : Nat} {bs : Bytes} {ps : List Piece} (h : s.barePieces root va bs.length = some ps) :
    devWrite s root va bs = if ps.any (fun p => s.m.showsBoot p.entry.frame) then s
      else (writePieces s none false none none ps bs).modM (fun m => ps.foldl (fun m p => dropSnaps m p.pa p.n) m) := by
  obtain ⟨s', ok⟩ := State.barePieces_eq_some.mp h
  unfold devWrite
  rw [ok]

theorem devWrite_none {s : State} {root : Word} {va : Nat} {bs : Bytes} (h : s.barePieces root va bs.length = none) :
    devWrite s root va bs = s := by
  unfold devWrite
  split
  · next ok => rw [State.barePieces_eq_some.mpr ⟨_, ok⟩] at h; cases h
  · rfl

theorem State.physWriteRun_wlog (bs : Bytes) : ∀ {s t : State} (_ : t.wlog = s.wlog) (pa : Nat),
    (t.physWriteRun pa bs).wlog = (s.physWriteRun pa bs).wlog := by
  induction bs with
  | nil => intro s t h pa; exact h
  | cons b r ih => intro s t h pa; exact ih (congrArg ((pa, b) :: ·) h) (pa + 1)

/-- The device's own write of pieces goes to the write log, whatever the state is besides. -/
theorem writePieces_wlog (ps : List Piece) : ∀ {s t : State} (_ : t.wlog = s.wlog) (bs : Bytes),
    (writePieces t none false none none ps bs).wlog = (writePieces s none false none none ps bs).wlog := by
  induction ps with
  | nil => intro s t h bs; exact h
  | cons p r ih =>
    intro s t h bs
    unfold writePieces
    simp only [Option.isSome_none, Bool.or_self, Bool.false_eq_true, if_false]
    refine ih ?_ (bs.drop p.n)
    exact State.physWriteRun_wlog (bs.take p.n) h p.pa

/-- What the device writes is the same in both. -/
theorem SameView.devWrite_wlog {s t : State} (h : SameView s t) (root : Word) (va : Nat) (bs : Bytes) :
    (devWrite t root va bs).wlog = (devWrite s root va bs).wlog := by
  have same := h.barePieces_eq root va bs.length
  cases pieces : s.barePieces root va bs.length with
  | none => rw [devWrite_none pieces, devWrite_none (same.trans pieces)]; exact h.wlog
  | some ps =>
    rw [devWrite_some pieces, devWrite_some (same.trans pieces), h.m]
    split
    · exact h.wlog
    · exact writePieces_wlog ps h.wlog bs

end Sys2Proof.Machine
end

section
/-! PROOFS. O49: the events of counters, trace and dumps (spec/17 R259 to R265). -/

namespace Sys2Proof.Machine

/-! ### CORE_DUMP (17 R265) -/

/-- The dump that CORE_DUMP goes on with: one of its own begins after each three contexts. -/
def State.openDump (s : State) (rest : List Ctx) : Dump := if rest.length % 3 == 2 then s.newDump else s.core.dumps.headD s.newDump

/-- The dumps behind it. -/
def State.olderDumps (s : State) (rest : List Ctx) : List Dump := if rest.length % 3 == 2 then s.core.dumps else s.core.dumps.drop 1

/-- The records of further fatal faults whose dumps have not begun. -/
def State.fatalLeft (s : State) (rest : List Ctx) : List Bytes :=
  if rest.length % 3 == 2 && s.core.dumps.any (fun d => d.task == (s.core.task.map (·.num)).getD 0) then s.core.fatal.drop 1
  else s.core.fatal

/-- A context as a dump holds it, with its landing list. -/
def State.dumpItem (s : State) (c : Ctx) : Ctx × Context × List Flight :=
  (c, s.core.ctx c, ((s.core.ctx c).trap.map (·.list)).getD [] ++ s.core.flights.filter (fun f => f.ctx == c && f.listed))

def Dump.hold (d : Dump) (item : Ctx × Context × List Flight) : Dump := { d with ctxs := d.ctxs ++ [item] }

def Dump.cut (d : Dump) (records : List Bytes) : Dump := { d with extra := d.extra ++ records, trunc := true }

/-- The state in which a dump d has come to stand, before it is written. -/
def State.dumped (s : State) (st : Word) (left rest : List Ctx) (d : Dump) : State :=
  s.modCore (fun k => { k with phase := .ending st left, dumps := d :: s.olderDumps rest, cutDump := [], fatal := s.fatalLeft rest })

section
variable {s : State} {st : Word} {c : Ctx} {rest : List Ctx} (hw : s.wlog = []) (ending : s.core.phase = .ending st (c :: rest))
include hw ending

/-- The next context of an ending task joins the dump under way. -/
theorem takes_coreDump (whole : s.core.cutDump = []) :
    Takes .coreDump s (s.dumped st rest rest ((s.openDump rest).hold (s.dumpItem c))).putDumps.settleEnd := by
  show execCoreDump s = _
  unfold execCoreDump
  rw [runEvent_eq hw]
  simp only [ending, whole, List.isEmpty_nil, if_true]
  rfl

/-- A further fatal fault in the context ends the dump under way. -/
theorem takes_coreDump_cut (cut : s.core.cutDump ≠ []) : Takes .coreDump s
    (s.dumped st (rest.drop (rest.length % 3)) rest ((s.openDump rest).cut s.core.cutDump)).putDumps.settleEnd := by
  have some : s.core.cutDump.isEmpty = false := List.isEmpty_eq_false_iff.mpr cut
  show execCoreDump s = _
  unfold execCoreDump
  rw [runEvent_eq hw]
  simp only [ending, some, Bool.false_eq_true, if_false]
  rfl

end

theorem Wrote.dumps {s t : State} (h : Wrote s t) : t.core.dumps = s.core.dumps ∧ t.core.phase = s.core.phase := by
  obtain ⟨⟨l, c, x, al, -, -, -, eq⟩, -⟩ := h
  rw [eq]
  exact ⟨rfl, rfl⟩

theorem State.putDumps_wrote (s : State) : Wrote s s.putDumps := by
  unfold State.putDumps
  split
  · exact .refl s
  · exact devWrite_wrote ..

@[simp] theorem State.modTask_dumps (s : State) (f : Task → Task) : (s.modTask f).core.dumps = s.core.dumps := rfl

theorem State.flushRecords_dumps (s : State) (ord : Nat) : (s.flushRecords ord).core.dumps = s.core.dumps := by
  unfold State.flushRecords
  split
  · rfl
  · rw [State.modTask_dumps]
    split
    · rfl
    · exact ((devWrite_wrote ..).trans (devWrite_wrote ..)).dumps.1

/-- The end of a task leaves its dumps. -/
theorem State.endTask_dumps (s : State) (st : Word) : (s.endTask st).core.dumps = s.core.dumps := by
  unfold State.endTask
  split
  · rfl
  · exact s.flushRecords_dumps _

theorem State.settleEnd_dumps (s : State) : s.settleEnd.core.dumps = s.core.dumps := by
  unfold State.settleEnd
  split
  · split
    · rfl
    · exact s.endTask_dumps _
  · rfl

/-- A task whose dumps are not all written has not ended. -/
theorem State.settleEnd_dumping {s : State} {st : Word} {dump : List Ctx} (ending : s.core.phase = .ending st dump) (more : dump ≠ []) :
    s.settleEnd = s := by
  have some : dump.isEmpty = false := List.isEmpty_eq_false_iff.mpr more
  unfold State.settleEnd
  simp only [ending, some, Bool.not_false, Bool.or_true, if_true]

@[simp] theorem State.dumped_task (s : State) (st : Word) (left rest : List Ctx) (d : Dump) :
    (s.dumped st left rest d).core.task = s.core.task := rfl

/-- To the device's write the state of a dump looks as the state before it. -/
theorem State.dumped_view (s : State) (st : Word) (left rest : List Ctx) (d : Dump) : SameView s (s.dumped st left rest d) :=
  ⟨rfl, rfl, rfl, rfl⟩

theorem State.putDumps_none {s : State} (h : s.core.task = none) : s.putDumps = s := by unfold State.putDumps; rw [h]

theorem State.putDumps_some {s : State} {k : Task} (h : s.core.task = some k) : s.putDumps = devWrite s k.root (dumpArea k.saveArea).toNat
    ((s.core.dumps.filter (fun d => d.task == k.num)).reverse.flatMap Dump.bytes) := by unfold State.putDumps; rw [h]

theorem coreDump_writes {s : State} {st : Word} {c : Ctx} {rest : List Ctx} (hw : s.wlog = [])
    (ending : s.core.phase = .ending st (c :: rest)) (more : rest ≠ []) (whole : s.core.cutDump = []) :
    ∃ t, exec .coreDump s = .next t ∧ t.core.phase = .ending st rest ∧
      (∃ m ms, t.core.dumps = m :: ms ∧ ∃ l, (c, s.core.ctx c, l) ∈ m.ctxs) ∧ (s.core.task = none → t.mem = s.mem) ∧
      (∀ k, s.core.task = some k → t.mem = s.mem.commit (devWrite { s with wlog := [] } k.root (dumpArea k.saveArea).toNat
        ((t.core.dumps.filter (fun m => m.task == k.num)).reverse.flatMap Dump.bytes)).wlog) := by
  have takes := takes_coreDump hw ending whole
  have view := s.dumped_view st rest rest ((s.openDump rest).hold (s.dumpItem c))
  obtain ⟨kept, still⟩ := (s.dumped st rest rest ((s.openDump rest).hold (s.dumpItem c))).putDumps_wrote.dumps
  rw [State.settleEnd_dumping still more] at takes
  refine ⟨_, takes, still, ⟨_, s.olderDumps rest, kept, (s.dumpItem c).2.2, ?_⟩, fun none => ?_, fun k some => ?_⟩
  · exact List.mem_append_right _ (List.mem_singleton_self _)
  · rw [settled_mem, State.putDumps_none ((State.dumped_task ..).trans none), view.wlog, hw]
    rfl
  · rw [settled_mem, settled_core, kept, State.putDumps_some ((State.dumped_task ..).trans some), view.devWrite_wlog, State.clear_wlog hw]

theorem coreDump_cut {s : State} {st : Word} {c : Ctx} {rest : List Ctx} (hw : s.wlog = [])
    (ending : s.core.phase = .ending st (c :: rest)) (cut : s.core.cutDump ≠ []) :
    ∃ t m ms, exec .coreDump s = .next t ∧ t.core.dumps = m :: ms ∧ m.trunc = true ∧
      (∀ b ∈ s.core.cutDump, b ∈ m.extra) :=
  ⟨_, _, s.olderDumps rest, takes_coreDump_cut hw ending cut,
    (State.settleEnd_dumps _).trans (State.putDumps_wrote _).dumps.1, rfl, fun _ hb => List.mem_append_right _ hb⟩

/-- Settles O49: one lemma for each event, two for CORE_DUMP. -/
theorem observingEvents : Obligations.ObservingEvents := by
  unfold Obligations.ObservingEvents
  intro s f d v fl c st rest hw
  exact ⟨perfRedRead_arrives hw, perfSelWrite_writes hw v, fflagsWrite_writes hw fl, roundSeedWrite_writes hw v,
    dutyRegisterWrite_writes hw v, fun _ _ => counterSample_samples hw, traceGapRecord_puts hw, coreDump_writes hw, coreDump_cut hw⟩

end Sys2Proof.Machine
end

section
/-! PROOFS. O36: the third rollback in a row where the failing engine's entry belongs to a closed step
(spec/15 R241, R251; spec/02 R408). -/

namespace Sys2Proof.Machine

/-- The core of a third rollback in a row: it is counted, and goes out of service (15 R251). -/
def Core.thirdRollback (k : Core) : Core := { k.count 9 1 with rollbacks := k.rollbacks + 1, inService := false }

/-- The third rollback in a row ends the task. -/
theorem takes_pipelineErrorRollback_third {s : State} {k : Task} (hw : s.wlog = [])
    (task : s.core.task = some k) (run : s.core.phase = .run)
    (two : 2 ≤ s.core.rollbacks) (u : BitVec 8) :
    Takes (.pipelineErrorRollback u) s ((s.modCore Core.thirdRollback).failTask (s.pendUnit u 0x31) 0x31) := by
  show execPipelineErrorRollback u s = _
  unfold execPipelineErrorRollback
  rw [runEvent_eq hw]
  simp only [task, run]
  have third : 3 ≤ s.core.rollbacks + 1 := by omega
  exact congrArg (fun t => Host.Outcome.next (settled s t)) (if_pos third)

/-- Of a failing engine whose entry stands before the checkpoint the record names the checkpoint (02 R408). -/
theorem State.pendUnit_closed {s : State} {u code : BitVec 8} {ch : ChainId} {e : Entry} (failing : s.core.failing u = some (ch, e))
    (closed : s.core.closedEntry ch e.num = true) : (s.pendUnit u code).lpc = s.core.ckpt.lpc := by
  unfold State.pendUnit
  rw [failing]
  unfold State.pendEntry
  dsimp only
  rw [closed, if_pos rfl]

/-- Then the status of the task names the checkpoint, too. -/
theorem pipelineErrorRollback_closed {s : State} {k : Task} (hw : s.wlog = []) (task : s.core.task = some k) (run : s.core.phase = .run)
    (two : 2 ≤ s.core.rollbacks) {u : BitVec 8} {ch : ChainId} {e : Entry} (failing : s.core.failing u = some (ch, e))
    (closed : s.core.closedEntry ch e.num = true) : ∃ t, exec (.pipelineErrorRollback u) s = .next t ∧
      t.core.phase = .ending (statusOf 0x31 s.core.ckpt.lpc.toNat) [.L, .C, .S] := by
  have ends := State.failTask_ending (s := s.modCore Core.thirdRollback) (p := s.pendUnit u 0x31) (code := 0x31)
    (by rw [State.modCore_core]; show s.core.task.isSome = true; rw [task]; rfl) (by decide) (by decide)
  rw [State.pendUnit_closed failing closed] at ends
  exact ⟨_, takes_pipelineErrorRollback_third hw task run two u, ends.1⟩

/-- An entry of the copy engine under way, appended by the word at logical PC 0. -/
def closedCopy : Entry :=
  { kind := .copy, num := 1, body := [], ctx := .L, ranges := [], region := 0, step := 0, ord := 0, lpc := 0, spc := 0, occ := 0,
    begun := true, done := [], first := none, ring := none, src := 0, failed := none, cyc := 0, exempt := false, seq := 0, regs := [],
    parts := [], merged := false, owes := [] }

/-- A task in slices with that entry under way and a checkpoint behind it, at logical PC 24; its core has rolled back twice. -/
def twiceRolledBack : State := State.reset.modCore (fun k =>
  { k with task := some placedTask, rollbacks := 2, ckpt := { k.ckpt with lpc := 24, tline := [1, 0, 0, 0] },
           tci := { k.tci with append := 1, entries := [closedCopy] } })

/-- Refutes O36: the copy engine fails for the third time in a row with an entry that was appended before the checkpoint. The status names
the checkpoint's logical PC, 24, where the statement has the entry's own, 0. -/
theorem not_stopEvents : ¬ Obligations.StopEvents := by
  unfold Obligations.StopEvents
  intro h
  let p := twiceRolledBack.pendOf .fault fltIllegal
  obtain ⟨-, -, -, -, -, -, -, -, -, third, -⟩ := h twiceRolledBack .C 0 p p placedTask 4 [] rfl rfl
  obtain ⟨t, eq, -, -, named⟩ := third rfl (by decide)
  obtain ⟨t', eq', ckpt⟩ := pipelineErrorRollback_closed (s := twiceRolledBack) (u := 4) (ch := .tci) (e := closedCopy) rfl rfl rfl
    (by decide) rfl rfl
  obtain rfl : t = t' := by rw [eq] at eq'; injection eq'
  have status : statusOf 0x31 (24 : Word).toNat = statusOf 0x31 (0 : Word).toNat := by
    have := ckpt.symm.trans (named .tci closedCopy rfl)
    injection this
  exact absurd status (by decide)

end Sys2Proof.Machine
end

section
/-! PROOFS. O55: a hub core in host-assisted mode whose fetch misses a translation (spec/04 R89; spec/17 R258; log 94). -/

namespace Sys2Proof.Machine

/-! ### Runs of memory -/

/-- With no write of the step under way a run of HBM is a run of memory. -/
theorem State.physRun_getRun {s : State} (hw : s.wlog = []) (n : Nat) : ∀ pa, s.physRun pa n = s.mem.getRun pa n := by
  induction n with
  | zero => intro pa; rfl
  | succ n ih =>
    intro pa
    have byte : s.phys pa = s.mem.get pa := by unfold State.phys; rw [hw]; rfl
    show s.phys pa :: s.physRun (pa + 1) n = _
    rw [byte, ih]; rfl

/-- Two stores that read alike on a range hold the same run there. -/
theorem Cells.getRun_congr {c d : Cells} (n : Nat) : ∀ {a : Nat}, (∀ x, a ≤ x → x < a + n → c.get x = d.get x) →
    c.getRun a n = d.getRun a n := by
  induction n with
  | zero => intro a _; rfl
  | succ n ih =>
    intro a same
    show c.get a :: c.getRun (a + 1) n = d.get a :: d.getRun (a + 1) n
    rw [same a (by omega) (by omega), ih (fun x lo hi => same x (by omega) (by omega))]

/-- A run reads back where it was written. -/
theorem Cells.getRun_setRun_same (bs : Bytes) : ∀ {c : Cells} (_ : Memory.wf c = true) (a : Nat),
    (c.setRun a bs).getRun a bs.length = bs := by
  induction bs with
  | nil => intro c _ a; rfl
  | cons b r ih =>
    intro c wf a
    have wf' := Cells.wf_set wf a b
    have first : ((c.set a b).setRun (a + 1) r).get a = b := by
      rw [Cells.get_setRun r wf', if_neg (by omega), Cells.get_set wf, if_pos rfl]
    show ((c.set a b).setRun (a + 1) r).get a :: ((c.set a b).setRun (a + 1) r).getRun (a + 1) r.length = b :: r
    rw [first, ih wf']

/-- A run beside the one written reads as before. -/
theorem Cells.getRun_setRun_apart {c : Cells} (wf : Memory.wf c = true) {bs : Bytes} {a o n : Nat}
    (apart : o + n ≤ a ∨ a + bs.length ≤ o) : (c.setRun a bs).getRun o n = c.getRun o n :=
  Cells.getRun_congr n (fun x _ _ => by rw [Cells.get_setRun bs wf, if_neg (by omega)])

/-! ### What is served before a word -/

/-- A translation in the cache is found there. -/
theorem translate_cached {s : State} {root : Word} {va : Nat} {e : TlbEntry}
    (hit : s.core.tlb.find? (fun e => e.root == root && e.vpage == va / 4096) = some e) : translate s root va = .ok (e, s) := by
  unfold translate; rw [hit]

/-- A missing translation has come into the cache, and is counted (07 R137; 17 R259 event 6). -/
def State.filled (s : State) (e : TlbEntry) : State := s.modCore (fun k => { (k.count 6 1) with tlb := e :: k.tlb })

@[simp] theorem State.filled_tlb (s : State) (e : TlbEntry) : (s.filled e).core.tlb = e :: s.core.tlb := rfl
@[simp] theorem State.filled_codeRoot (s : State) (e : TlbEntry) : (s.filled e).codeRoot = s.codeRoot := rfl

/-- A translation that the cache does not hold is filled in by the walk. -/
theorem translate_walked {s : State} {root : Word} {va : Nat} {e : TlbEntry}
    (missing : s.core.tlb.find? (fun e => e.root == root && e.vpage == va / 4096) = none) (walked : walk s root va = .ok e) :
    translate s root va = .ok (e, s.filled e) := by
  unfold translate; rw [missing, walked]; rfl

/-- A fetch within one page that an empty cache does not hold, where its root leads to it, misses that page. -/
theorem State.fetchMisses_walked {s : State} {e : TlbEntry} (empty : s.core.tlb = []) (serves : s.servesFirst = true)
    (walked : walk s s.codeRoot s.fetchAddr = .ok e) (root : e.root = s.codeRoot) (vpage : e.vpage = (s.fetchAddr + 11) / 4096) :
    s.fetchMisses = [e.vpage] := by
  have fills := translate_walked (by rw [empty]; rfl) walked
  have again : translate (s.filled e) (s.filled e).codeRoot (s.fetchAddr + 11) = .ok (e, s.filled e) :=
    translate_cached (List.find?_cons_of_pos (by simp [root, vpage]))
  have fetched : s.walkFetch = s.filled e := by
    unfold State.walkFetch
    dsimp only
    rw [fills]
    dsimp only
    rw [again]
  unfold State.fetchMisses
  rw [if_pos serves, fetched]
  unfold State.walkedTo
  rw [State.filled_tlb, empty]
  rfl

/-- In its first slot C's word comes to issue, where C may issue. -/
theorem slotTurn_c1 {s : State} (ready : s.core.canIssue .C = true) :
    slotTurn s .c1 = issue s .C afterC1 (if s.core.merged then .engine else .s) := by
  unfold slotTurn issueFrom issueFrom.fromC1
  rw [if_pos ready, Option.getD_some]

/-- Where no in-place trap takes the word the missed page is walked at once. -/
theorem issueAt_walks {s stop : State} {after : Instr → Bytes → Slot} {p : Nat} (past : s.past = false)
    (misses : s.fetchMisses = [p]) (untrapped : s.missTraps = false) :
    issueAt s stop after = .row (.translationMissWalk (w64 (4096 * p))) s := by
  unfold issueAt
  rw [past, misses]
  show s.serve [p] = _
  unfold State.serve
  rw [untrapped]
  rfl

/-- A walk leaves the agenda. -/
theorem translationMissWalk_agenda {s : State} (hw : s.wlog = []) (va : BitVec 64) :
    ∃ t, exec (.translationMissWalk va) s = .next t ∧ t.agenda = s.agenda := by
  show ∃ t, execTranslationMissWalk va s = .next t ∧ _
  unfold execTranslationMissWalk
  rw [runEvent_eq hw]
  refine ⟨_, rfl, ?_⟩
  show State.agenda (match translate s s.root (fld va.toNat 0 56) with | .ok (_, t) => _ | .error _ => s) = _
  split
  next t walked =>
    obtain ⟨l, p, only⟩ := translate_only walked
    have kept : t.agenda = s.agenda := by rw [only]
    split
    · exact kept
    · exact (State.traceAt_logged ..).agenda.trans kept
  · rfl

/-- An in-place trap of a context that cannot trap does nothing (04 R89). -/
theorem takes_inPlaceTrap_barred {s : State} (hw : s.wlog = []) {c : Ctx} (barred : s.core.trappable c = false) :
    Takes (.inPlaceTrap c) s s := by
  refine takes_event (body := fun s => if s.m.duty.getLsbD 0 && s.core.trappable c then s.modCore (fun k => k.trapInPlace c 0x01) else s)
    rfl hw ?_
  simp [barred]

/-! ### Such a hub core -/

/-- Where the hub core's table stands. -/
def hubTable : Nat := (Config.hubRoot 768).toNat

/-- A place for its second level, beside its first entry. -/
def nextTable : Nat := if hubTable < 4096 then 8192 else 0

/-- A table that maps the first GiB to itself. -/
def hubPages : Cells := (Cells.setRun [] hubTable (leBytes 8 (nextTable + 1))).setRun nextTable (leBytes 8 3)

/-- Hub core 768 is about to issue its first word, with a trace buffer, in host-assisted mode, and with nothing cached. -/
def hubMissing : State :=
  { State.reset with
    core := { Core.reset 768 with slot := .c1, trace := { (Core.reset 768).trace with ctl := 1, len := 64 } }
    m := { Module.reset with duty := 1 }
    mem := hubPages }

/-- The second level stands apart from the first entry. -/
theorem nextTable_cases : nextTable = 8192 ∧ hubTable < 4096 ∨ nextTable = 0 ∧ 4096 ≤ hubTable := by
  unfold nextTable
  split
  · next low => exact .inl ⟨rfl, low⟩
  · next high => exact .inr ⟨rfl, by omega⟩

/-- The first entry points to the second level. -/
theorem hubMissing_level0 : leNat (hubMissing.physRun hubTable 8) = nextTable + 1 := by
  have wf : Memory.wf (Cells.setRun [] hubTable (leBytes 8 (nextTable + 1))) = true := Cells.wf_setRun rfl _ _
  have len : (leBytes 8 3).length = 8 := rfl
  have fits : (nextTable + 1) % 256 ^ 8 = nextTable + 1 := by have := nextTable_cases; omega
  rw [State.physRun_getRun rfl]
  show leNat (hubPages.getRun hubTable 8) = _
  unfold hubPages
  rw [Cells.getRun_setRun_apart wf (by rw [len]; have := nextTable_cases; omega)]
  have same := Cells.getRun_setRun_same (leBytes 8 (nextTable + 1)) (c := []) rfl hubTable
  rw [leBytes_length] at same
  rw [same, leNat_leBytes, fits]

/-- The second level's first entry is a leaf for the first GiB. -/
theorem hubMissing_level1 : leNat (hubMissing.physRun nextTable 8) = 3 := by
  rw [State.physRun_getRun rfl]
  show leNat (hubPages.getRun nextTable (leBytes 8 3).length) = 3
  unfold hubPages
  rw [Cells.getRun_setRun_same _ (Cells.wf_setRun rfl _ _)]
  rfl

/-- The page of address 0. -/
def firstPage : TlbEntry :=
  { root := Config.hubRoot 768, vpage := 0, frame := 0, w := false, tg := false, rc := false, cow := false, poison := false, leaf := 30,
    noFrame := false, start := 0 }

/-- The walk goes on at the second level. -/
theorem walkGo_level0 (rest : List (Nat × Nat × Nat)) (more : rest.isEmpty = false) :
    walkGo hubMissing (Config.hubRoot 768) 0 0 hubTable ((39, 17, 4096) :: rest) =
      walkGo hubMissing (Config.hubRoot 768) 0 1 nextTable rest := by
  have entry : leNat (hubMissing.physRun (hubTable + 8 * fld 0 39 17) 8) = nextTable + 1 := hubMissing_level0
  rw [walkGo, entry]
  rcases nextTable_cases with ⟨eq, -⟩ | ⟨eq, -⟩
  · have room : populated 8192 4096 = true := by decide
    rw [eq]
    simp [bitOf, fld, more, room]
  · have room : populated 0 4096 = true := by decide
    rw [eq]
    simp [bitOf, fld, more, room]

/-- The leaf ends the walk. -/
theorem walkGo_level1 (rest : List (Nat × Nat × Nat)) :
    walkGo hubMissing (Config.hubRoot 768) 0 1 nextTable ((30, 9, 4096) :: rest) = .ok firstPage := by
  have entry : leNat (hubMissing.physRun (nextTable + 8 * fld 0 30 9) 8) = 3 := hubMissing_level1
  rw [walkGo, entry]
  rfl

theorem hubMissing_walk : walk hubMissing (Config.hubRoot 768) 0 = .ok firstPage :=
  (walkGo_level0 _ rfl).trans (walkGo_level1 _)

/-- The fetch misses the page of address 0. -/
theorem hubMissing_misses : (hubMissing.onCtx .C).fetchMisses = [0] :=
  State.fetchMisses_walked (e := firstPage) rfl rfl hubMissing_walk rfl rfl

/-- Without a drop and without records no gap record is due (17 R264). -/
theorem State.gapDue_none {s : State} (dropped : s.core.trace.dropped = 0) (pages : s.core.trace.pages = []) : s.gapDue = false := by
  unfold State.gapDue
  rw [dropped, pages]
  simp

/-- Nothing comes before the word. -/
theorem hubMissing_urgent : urgent hubMissing = none := by
  have gap := State.gapDue_none (s := hubMissing) rfl rfl
  have sample : sampleRow hubMissing = none := by
    unfold sampleRow
    rw [gap, Bool.and_false, Bool.false_and]
    rfl
  unfold urgent
  dsimp only
  rw [sample]
  rfl

/-- The turn is the walk, with nothing behind it. -/
theorem hubMissing_turn : turn hubMissing = .row (.translationMissWalk (w64 (4096 * 0))) (hubMissing.onCtx .C) := by
  rw [turn_slot rfl rfl hubMissing_urgent rfl]
  show slotTurn hubMissing .c1 = _
  rw [slotTurn_c1 rfl]
  exact issueAt_walks rfl hubMissing_misses rfl

/-- Refutes O55: a hub core in host-assisted mode that misses the page of its word. No in-place trap takes a hub core: with a trace buffer
the missed page is walked at once, and nothing is left on the agenda, where the statement has a trap with the walk to come. -/
theorem not_stepRunsTheDecodedWord : ¬ Obligations.StepRunsTheDecodedWord := by
  unfold Obligations.StepRunsTheDecodedWord
  intro h
  obtain ⟨-, -, slots⟩ := h hubMissing .fadeTick [] [] [] .short false 0
  obtain ⟨-, -, -, -, -, -, trapsFirst⟩ := slots rfl rfl hubMissing_urgent rfl
  have claimed := trapsFirst rfl rfl rfl (by rw [hubMissing_misses]; exact List.cons_ne_nil _ _) rfl
  obtain ⟨t, walks, emptied⟩ := translationMissWalk_agenda (s := hubMissing.onCtx .C) rfl (w64 (4096 * 0))
  have steps : step hubMissing = .next t := by unfold step; rw [hubMissing_turn]; exact walks
  rw [steps, hubMissing_misses, takes_inPlaceTrap_barred rfl rfl] at claimed
  injection claimed with eq
  rw [eq] at emptied
  exact absurd emptied (List.cons_ne_nil _ _)

end Sys2Proof.Machine
end

section
/-! PROOFS. O58: decoding undoes encoding, for the words and the events (spec/04 R70 to R79). -/

namespace Sys2Proof

open Laws

/-- Each word by its lemma; an event has no word. -/
theorem decodeWord_encode (i : Instr) : Encodes.Statement i := by
  cases i with
  | add f => exact Encodes.add f | addImmediate f => exact Encodes.addImmediate f | sub f => exact Encodes.sub f
  | subImmediate f => exact Encodes.subImmediate f | mul f => exact Encodes.mul f | mulImmediate f => exact Encodes.mulImmediate f
  | mulh sgn f => exact Encodes.mulh sgn f | mulhImmediate sgn f => exact Encodes.mulhImmediate sgn f
  | div sgn f => exact Encodes.div sgn f | divImmediate sgn f => exact Encodes.divImmediate sgn f | rem sgn f => exact Encodes.rem sgn f
  | remImmediate sgn f => exact Encodes.remImmediate sgn f | and f => exact Encodes.and f
  | andImmediate f => exact Encodes.andImmediate f | andn f => exact Encodes.andn f | andnImmediate f => exact Encodes.andnImmediate f
  | or f => exact Encodes.or f | orImmediate f => exact Encodes.orImmediate f | xor f => exact Encodes.xor f
  | xorImmediate f => exact Encodes.xorImmediate f | shl f => exact Encodes.shl f | shlImmediate f => exact Encodes.shlImmediate f
  | shr arith f => exact Encodes.shr arith f | shrImmediate arith f => exact Encodes.shrImmediate arith f | rot f => exact Encodes.rot f
  | rotImmediate f => exact Encodes.rotImmediate f | clz f => exact Encodes.clz f | popc f => exact Encodes.popc f
  | bext f => exact Encodes.bext f | bextImmediate f => exact Encodes.bextImmediate f | bins f => exact Encodes.bins f
  | binsImmediate f => exact Encodes.binsImmediate f | cmp c f => exact Encodes.cmp c f
  | cmpImmediate c f => exact Encodes.cmpImmediate c f | sel f => exact Encodes.sel f | min sgn f => exact Encodes.min sgn f
  | minImmediate sgn f => exact Encodes.minImmediate sgn f | max sgn f => exact Encodes.max sgn f
  | maxImmediate sgn f => exact Encodes.maxImmediate sgn f | ldi f => exact Encodes.ldi f | addpc f => exact Encodes.addpc f
  | fadd f => exact Encodes.fadd f | fmul f => exact Encodes.fmul f | ffma c f => exact Encodes.ffma c f
  | fcmp c f => exact Encodes.fcmp c f | fcvt f => exact Encodes.fcvt f | ld f => exact Encodes.ld f
  | lda scope f => exact Encodes.lda scope f | st f => exact Encodes.st f | stl scope f => exact Encodes.stl scope f
  | atom op f => exact Encodes.atom op f | cas c f => exact Encodes.cas c f | fence g order scope => exact Encodes.fence g order scope
  | monitor f off => exact Encodes.monitor f off | mwait g d b => exact Encodes.mwait g d b | bsync op f => exact Encodes.bsync op f
  | send f => exact Encodes.send f | waitc ch f => exact Encodes.waitc ch f | tlrd ch ap f => exact Encodes.tlrd ch ap f
  | ringi f => exact Encodes.ringi f | awaitf n f => exact Encodes.awaitf n f | rels g n => exact Encodes.rels g n
  | mput g d a b => exact Encodes.mput g d a b | mtake f => exact Encodes.mtake f | mstat f => exact Encodes.mstat f
  | mctl f => exact Encodes.mctl f | tagset f space off n => exact Encodes.tagset f space off n
  | tagget f space off => exact Encodes.tagget f space off | ptrtag f => exact Encodes.ptrtag f
  | cflush f space off inv => exact Encodes.cflush f space off inv | jmp f => exact Encodes.jmp f | jmpr f => exact Encodes.jmpr f
  | call f => exact Encodes.call f | ret f => exact Encodes.ret f | exit g => exact Encodes.exit g | abort f => exact Encodes.abort f
  | nop f => exact Encodes.nop f | tstep d wbs b mask => exact Encodes.tstep d wbs b mask | trap f => exact Encodes.trap f
  | svc f => exact Encodes.svc f | eret g skip => exact Encodes.eret g skip | bkpt f => exact Encodes.bkpt f
  | sread f num => exact Encodes.sread f num | swrite f num => exact Encodes.swrite f num | tlbi f n => exact Encodes.tlbi f n
  | vabs f => exact Encodes.vabs f | vadd f => exact Encodes.vadd f | vand f => exact Encodes.vand f
  | vbcast g d a mask fmt => exact Encodes.vbcast g d a mask fmt | vcmp c f => exact Encodes.vcmp c f
  | vcvt part fmt2 f => exact Encodes.vcvt part fmt2 f | vexp2 f => exact Encodes.vexp2 f | vfma f => exact Encodes.vfma f
  | vgath g d a b mask fmt => exact Encodes.vgath g d a b mask fmt | vld g d a off mask fmt => exact Encodes.vld g d a off mask fmt
  | vlog2 f => exact Encodes.vlog2 f | vmax sgn f => exact Encodes.vmax sgn f | vmin sgn f => exact Encodes.vmin sgn f
  | vmov f => exact Encodes.vmov f | vmul f => exact Encodes.vmul f | vneg f => exact Encodes.vneg f | vor f => exact Encodes.vor f
  | vperm f => exact Encodes.vperm f | vrcp f => exact Encodes.vrcp f
  | vred op sgn g d a mask fmt rnd => exact Encodes.vred op sgn g d a mask fmt rnd | vrsq f => exact Encodes.vrsq f
  | vscale f => exact Encodes.vscale f | vscat g a b c mask fmt => exact Encodes.vscat g a b c mask fmt | vsel f => exact Encodes.vsel f
  | vshl f => exact Encodes.vshl f | vshr arith f => exact Encodes.vshr arith f
  | vst g a b off mask fmt => exact Encodes.vst g a b off mask fmt | vsub f => exact Encodes.vsub f | vxor f => exact Encodes.vxor f
  | view g v a kind fmt => exact Encodes.view g v a kind fmt | ttrn g d wbs a fmt => exact Encodes.ttrn g d wbs a fmt
  | copy f => exact Encodes.copy f | wbld f len => exact Encodes.wbld f len | mma f => exact Encodes.mma f
  | aclr g a n => exact Encodes.aclr g a n | adrain g d a fmt rnd => exact Encodes.adrain g d a fmt rnd
  | salloc g d wbs units bk z => exact Encodes.salloc g d wbs units bk z | sfree f => exact Encodes.sfree f
  | wind f => exact Encodes.wind f | life g d wbs a => exact Encodes.life g d wbs a | smap f len => exact Encodes.smap f len
  | sunmap f => exact Encodes.sunmap f | lock f => exact Encodes.lock f | unlock f => exact Encodes.unlock f
  | emulationTrap rest => exact Encodes.emulationTrap rest
  | _ => exact Encodes.of_event rfl

/-- Settles O58, constructor by constructor. -/
theorem decodeOfEncode : Obligations.DecodeOfEncode := by
  unfold Obligations.DecodeOfEncode
  exact decodeWord_encode

end Sys2Proof
end

section
/-! PROOFS. The frame of every word: the guard of its encoding, and what bars it (spec/04 R83, R88, R95; spec/03 R59). -/

namespace Sys2Proof.Machine

/-! ### Guard and class, from the encoding -/

/-- The class of the word is one that a hub core lacks (04 R83 step 3). -/
def barredByClass (i : Instr) : Bool :=
  match encode i with
  | some w => (Raw.unpack w).cls == 4 || (Raw.unpack w).cls == 5
  | none => false

theorem barredByClass_pack {i : Instr} {r : Raw} (enc : encode i = some (Raw.pack r)) :
    barredByClass i = (r.cls == 4 || r.cls == 5) := by
  unfold barredByClass
  rw [enc]
  dsimp only
  rw [Raw.unpack_pack]

theorem guardOf_pack {i : Instr} {r : Raw} (enc : encode i = some (Raw.pack r)) : guardOf i = r.guard := by
  unfold guardOf
  rw [enc, Option.map_some, Raw.unpack_pack, Option.getD_some]

/-! ### The frame of a shape -/

theorem scalarRR_frame {i : Instr} {o : AluRR} {lat : Nat} {f : Word → Word → Word → Word} {s : State} :
    ∃ body, scalarRR i o lat f s = runWord i o.g {} body s := ⟨_, rfl⟩
theorem scalarRI_frame {i : Instr} {o : AluRI} {lat : Nat} {f : Word → Word → Word → Word} {s : State} :
    ∃ body, scalarRI i o lat f s = runWord i o.g {} body s := ⟨_, rfl⟩
theorem scalarR_frame {i : Instr} {o : OpDA} {lat : Nat} {f : Word → Word} {s : State} :
    ∃ body, scalarR i o lat f s = runWord i o.g {} body s := ⟨_, rfl⟩
theorem floatBinary_frame {i : Instr} {o : FOp} {lat : Nat} {f : Rnd → Val → Val → Exact × Flags} {s : State} :
    ∃ body, floatBinary i o lat f s = runWord i o.g {} body s := ⟨_, rfl⟩
theorem vecWord_frame {i : Instr} {g : Guard} {d : VDst} {srcs : List VSrc} {mask : BitVec 5} {f : Fmt} {lat : Nat}
    {fn : State → List Bytes → Nat → Nat × Flags} {s : State} :
    ∃ body, vecWord i g d srcs mask f lat fn s = runWord i g { hub := true } body s := ⟨_, rfl⟩
theorem vec1_frame {i : Instr} {o : VOp1} {lat : Nat} {fn : RCtx → Nat → Nat → Nat × Flags} {s : State} :
    ∃ body, vec1 i o lat fn s = runWord i o.g { hub := true } body s := vecWord_frame
theorem vec2_frame {i : Instr} {o : VOp2} {lat : Nat} {fn : RCtx → Nat → Nat → Nat → Nat × Flags} {s : State} :
    ∃ body, vec2 i o lat fn s = runWord i o.g { hub := true } body s := vecWord_frame
theorem vec3_frame {i : Instr} {o : VOp3} {lat : Nat} {fn : RCtx → Nat → Nat → Nat → Nat → Nat × Flags} {s : State} :
    ∃ body, vec3 i o lat fn s = runWord i o.g { hub := true } body s := vecWord_frame

/-! ### The frame of a word -/

/-- The bars of a word are those that 04 R83 gives it. -/
structure Bars.Of (b : Bars) (i : Instr) : Prop where
  hub : b.hub = hubBarred i
  mode : ∀ x, b.mode x = !allowed i x

/-- The outcome `out` of word i in s is that of the word's frame: under the guard of its encoding, barred as 04 R83 says. -/
def Framed (i : Instr) (s : State) (out : Out) : Prop :=
  ∃ (b : Bars) (body : Body), b.Of i ∧ out = runWord i (guardOf i) b body s

theorem Framed.of_pack {i : Instr} {r : Raw} {g : Guard} {b : Bars} {s : State} {out : Out} (enc : encode i = some (Raw.pack r))
    (runs : ∃ body, out = runWord i g b body s) (guard : r.guard = g) (hub : b.hub = hubBarred i)
    (mode : ∀ x, b.mode x = !allowed i x) : Framed i s out := by
  obtain ⟨body, rfl⟩ := runs
  exact ⟨b, body, ⟨hub, mode⟩, by rw [guardOf_pack enc, guard]⟩

/-- The same for a word whose class alone decides whether a hub core lacks it. -/
theorem Framed.of_class {i : Instr} {r : Raw} {g : Guard} {b : Bars} {s : State} {out : Out} (enc : encode i = some (Raw.pack r))
    (runs : ∃ body, out = runWord i g b body s) (guard : r.guard = g) (byClass : hubBarred i = barredByClass i)
    (hub : b.hub = (r.cls == 4 || r.cls == 5)) (mode : ∀ x, b.mode x = !allowed i x) : Framed i s out :=
  .of_pack enc runs guard (by rw [hub, byClass, barredByClass_pack enc]) mode

/-- Every word but those of class X runs in its frame: the shapes by their lemmas, the others as they stand. An event is no word. -/
theorem exec_framed {i : Instr} (word : i.check = none) (notX : ∀ rest, i ≠ .emulationTrap rest) (s : State) :
    Framed i s (exec i s) := by
  cases i with
  | add | sub | mul | mulh | div | rem | and | andn | or | xor | shl | shr | rot | bext | bins | cmp | sel | min | max =>
    dsimp only [exec]
    exact .of_class rfl scalarRR_frame rfl rfl rfl fun _ => rfl
  | addImmediate | subImmediate | mulImmediate | mulhImmediate | divImmediate | remImmediate | andImmediate | andnImmediate
  | orImmediate | xorImmediate | shlImmediate | shrImmediate | rotImmediate | bextImmediate | binsImmediate | cmpImmediate
  | minImmediate | maxImmediate =>
    dsimp only [exec]
    exact .of_class rfl scalarRI_frame rfl rfl rfl fun _ => rfl
  | clz | popc =>
    dsimp only [exec]
    exact .of_class rfl scalarR_frame rfl rfl rfl fun _ => rfl
  | fadd | fmul =>
    dsimp only [exec]
    exact .of_class rfl floatBinary_frame rfl rfl rfl fun _ => rfl
  | vabs | vexp2 | vlog2 | vmov | vneg | vrcp | vrsq =>
    dsimp only [exec]
    exact .of_class rfl vec1_frame rfl rfl rfl fun _ => rfl
  | vadd | vand | vcmp | vmax | vmin | vmul | vor | vscale | vshl | vshr | vsub | vxor =>
    dsimp only [exec]
    exact .of_class rfl vec2_frame rfl rfl rfl fun _ => rfl
  | vfma | vsel =>
    dsimp only [exec]
    exact .of_class rfl vec3_frame rfl rfl rfl fun _ => rfl
  | vbcast | vperm =>
    dsimp only [exec]
    exact .of_class rfl vecWord_frame rfl rfl rfl fun _ => rfl
  | ldi | addpc | ffma | fcmp | fcvt | fence | monitor | mput | mtake | mstat | mctl | ptrtag | jmp | jmpr | call | ret | nop | trap
  | svc | eret | bkpt | sread | swrite | vcvt | vgath | vld | vred | vscat | vst | view | ttrn | copy | wbld | mma | aclr | adrain
  | salloc | sfree | wind | life | smap | sunmap | lock | unlock =>
    dsimp only [exec]
    exact .of_class rfl ⟨_, rfl⟩ rfl rfl rfl fun _ => rfl
  | tlbi =>
    dsimp only [exec]
    exact .of_class rfl ⟨_, rfl⟩ rfl rfl rfl fun _ => (Bool.not_not _).symm
  | ld | lda | st | stl | atom | cas | mwait | bsync | send | waitc | tlrd | ringi | awaitf | rels | tagset | tagget | cflush | exit
  | abort | tstep =>
    dsimp only [exec]
    exact .of_pack rfl ⟨_, rfl⟩ rfl rfl fun _ => rfl
  | emulationTrap rest => exact absurd rfl (notX rest)
  | _ => exact nomatch word

end Sys2Proof.Machine
end

section
/-! PROOFS. O53: a word that is barred traps, one whose guard is false passes (spec/04 R83; spec/03 R59). -/

namespace Sys2Proof.Machine

/-- The word stands in AUX of the fault that a bar raises (15 R242). -/
theorem fltIllegal_withWord (i : Instr) : fltIllegal.withWord i = { code := 0x10, addr := 0, lane := 0, aux := auxWord i } := rfl

/-- Settles O53, in the frame of the word. -/
theorem guardAndBars : Obligations.GuardAndBars := by
  unfold Obligations.GuardAndBars
  intro s i between word notX bad
  obtain ⟨b, body, bars, runs⟩ := exec_framed word notX s
  unfold Takes Completes
  rw [runs, show bad = fltIllegal.withWord i from (fltIllegal_withWord i).symm]
  refine ⟨fun hub lacks => ?_, fun forbidden => ?_, fun room hub mode fresh off => ?_⟩
  · exact runWord_barred between (by rw [hub, bars.hub, lacks]; rfl)
  · exact runWord_barred between (by rw [bars.mode, forbidden, Bool.not_false, Bool.or_true])
  · exact runWord_off between word (fun h => bars.hub.trans (hub h)) (by rw [bars.mode, mode]; rfl) off fresh room

end Sys2Proof.Machine
end

section
/-! PROOFS. O27: TRAP, the words of class X, and SVC (spec/04 R84; spec/22 R361, R367). -/

namespace Sys2Proof.Machine

/-! ### The emulation trap (04 R84) -/

/-- A fault that is no address fault, and has filled no translation, counts no miss (17 R259 event 6). -/
theorem State.countMisses_none {f : Flt} (s : State) (code : (f.code == 0x11) = false) (walked : f.walked = []) :
    s.countMisses f = s := by
  have keep : s.core.tlb.filter (fun e => !(e.noFrame && f.code == 0x11 && f.aux.headD 0 == 10)) = s.core.tlb :=
    List.filter_eq_self.mpr (fun e _ => by rw [code, Bool.and_false, Bool.false_and]; rfl)
  have none : f.walked.length + (if f.missed then 1 else 0) = 0 := by unfold Flt.missed; rw [walked, code]; rfl
  unfold State.countMisses State.modCore
  simp only [keep, none, Core.count_none]
  rw [walked]
  rfl

/-- The word stands in AUX of the emulation trap (15 R242). -/
theorem fltEmulation_withWord (i : Instr) : fltEmulation.withWord i = { code := 0x19, addr := 0, lane := 0, aux := auxWord i } := rfl

/-- A word whose body is the emulation trap takes it, with the word in AUX. -/
theorem State.complete_emulation (s : State) (i : Instr) :
    s.complete i (.error (.flt fltEmulation)) = s.unbank.takeFault { code := 0x19, addr := 0, lane := 0, aux := auxWord i } := by
  show (s.unbank.countMisses fltEmulation).takeFault (fltEmulation.withWord i) = _
  rw [State.countMisses_none _ rfl rfl, fltEmulation_withWord]

/-- A word that nothing bars and whose guard holds runs its body, whether a result of it would have room or not. -/
theorem runWord_open {i : Instr} {g : Guard} {body : Body} {s : State} (between : s.wlog = []) (formed : i.check = none)
    (guard : s.here.guard g = true) : runWord i g {} body s = .next (settled s (s.complete i (body s))) := by
  unfold runWord
  rw [State.clear_wlog between]
  simp [formed, guard, finish_eq]

/-- TRAP is barred nowhere (22 R367). -/
theorem exec_trap {s : State} {f : OpImm} (h : Ready (.trap f) f.g s) :
    exec (.trap f) s = .next (settled s (s.complete (.trap f)
      (if s.core.hub then .ok (.took ((s.modCore (fun k => k.count 1 1)).hubTrap .m 0x101)) else .error (.flt fltEmulation)))) := by
  show execTrap f s = _
  unfold execTrap
  exact runWord_open h.between h.formed h.guard

theorem trap_takes_task {s : State} {f : OpImm} (h : Ready (.trap f) f.g s) (task : s.core.hub = false) :
    Takes (.trap f) s (s.unbank.takeFault { code := 0x19, addr := 0, lane := 0, aux := auxWord (.trap f) }) := by
  unfold Takes
  rw [exec_trap h, task, if_neg Bool.false_ne_true, State.complete_emulation]

theorem trap_takes_hub {s : State} {f : OpImm} (h : Ready (.trap f) f.g s) (hub : s.core.hub = true) :
    Takes (.trap f) s ((s.modCore (fun k => k.count 1 1)).hubTrap .m 0x101) := by
  unfold Takes
  rw [exec_trap h, hub, if_pos rfl]
  rfl

/-- A class X word has the guard that always holds: it traps between any two steps. -/
theorem emulationTrap_takes {s : State} (between : s.wlog = []) (rest : BitVec 93) :
    Takes (.emulationTrap rest) s
      (s.unbank.takeFault { code := 0x19, addr := 0, lane := 0, aux := auxWord (.emulationTrap rest) }) := by
  unfold Takes
  show execEmulationTrap rest s = _
  unfold execEmulationTrap
  rw [runWord_open between rfl rfl, State.complete_emulation]

/-! ### A service that returns (22 R361) -/

theorem State.syncDone_like (s : State) : Like s s.syncDone := by
  unfold State.syncDone
  split
  · exact .refl s
  · split
    · exact .refl s
    · exact ⟨rfl, rfl, rfl⟩

/-- The results of a service are no results in flight. -/
theorem State.serviceDone_like (s : State) (x1 : Word) (x2 : Option Word) : Like s (s.serviceDone x1 x2) := by
  have landed (f : Context → Context) : Like s ((s.modHere f).modCore (fun k => { k with svc := none })) := by
    unfold Like Core.interlocked
    simp
  exact (landed _).trans (State.syncDone_like _)

/-- A word whose context has drained runs its body. -/
theorem drained_of {s : State} (h : Drained s) (body : Except Stop Fin) : drained s body = body :=
  if_pos (Bool.or_eq_true_iff.mpr h)

theorem knownService_false {n : BitVec 32} (h : n.toNat ∉ [0x21, 0x30, 0x31, 0x40, 0x50]) : knownService n = false := by
  unfold knownService
  rw [Bool.eq_false_iff, ne_eq, List.contains_iff_mem]
  exact h

/-- SVC on a hub core enters mode M (22 R361). -/
theorem svc_takes {f : OpImm} {s : State} (h : Ready (.svc f) f.g s) (hub : s.core.hub = true) (outside : s.core.inHandler = false) :
    Takes (.svc f) s ((s.modCore (fun k => (k.count 1 1).systemCall s.m.wall)).hubTrap .m 0x100) := by
  unfold Takes
  show execSvc f s = _
  unfold execSvc
  rw [runWord_body h (fun _ => rfl) rfl (fun inside => absurd inside (by rw [outside]; exact Bool.false_ne_true)), if_pos hub]
  rfl

/-- SVC on a compute core passes with the results of a service that has returned, and with all ones where there is none of its number. -/
theorem svc_completes {f : OpImm} {s : State} {x1 : Word} {x2 : Option Word} (h : ReadyOnCore (.svc f) f.g s) (dry : Drained s)
    (done : s.core.svc = some (f.imm, some (x1, x2)) ∨
      (s.core.svc = none ∧ knownService f.imm = false ∧ x1 = Config.allOnes ∧ x2 = none)) :
    Completes (.svc f) s (s.serviceDone x1 x2) := by
  unfold Completes
  show execSvc f s = _
  unfold execSvc
  refine runWord_next h.toReady (fun _ => rfl) rfl (fun inside => absurd inside (by rw [h.user]; exact Bool.false_ne_true)) ?_
    ((State.serviceDone_like s x1 x2).plain h.room)
  rw [h.compute, if_neg Bool.false_ne_true, drained_of dry]
  rcases done with back | ⟨idle, unknown, rfl, rfl⟩
  · rw [back]
  · rw [idle, unknown]; rfl

/-- Settles O27, word by word. -/
theorem trapAndServiceWords : Obligations.TrapAndServiceWords := by
  unfold Obligations.TrapAndServiceWords
  intro s f rest x1 x2
  refine ⟨trap_takes_task, trap_takes_hub, fun between => emulationTrap_takes between rest, svc_takes, fun h dry back => ?_,
    fun h dry idle unknown => ?_⟩
  · exact svc_completes h dry (.inl back)
  · exact svc_completes h dry (.inr ⟨idle, knownService_false unknown, rfl, rfl⟩)

end Sys2Proof.Machine
end

section
/-! PROOFS. O60: every step keeps the invariant (spec/07 R136, spec/10 R177; log 5). -/

namespace Sys2Proof.Machine

/-- Whatever the turn chooses, the step that follows keeps the invariant: choosing writes nothing, and a row or a fault ends with its
writes performed. -/
theorem step_inv {s t : State} (hs : Inv s) (h : step s = .next t) : Inv t := by
  have chosen : Inv (turn s).state := (turn_quiet s).inv hs
  unfold step at h
  cases turned : turn s with
  | row i u =>
    rw [turned] at h chosen
    exact exec_inv chosen h
  | fault f u =>
    rw [turned] at h chosen
    exact runEvent_inv chosen h
  | idle u =>
    rw [turned] at h chosen
    cases h
    exact chosen

/-- Settles O60, by the kind of turn that the step takes. -/
theorem stepKeepsInv : Obligations.StepKeepsInv := by
  unfold Obligations.StepKeepsInv
  intro s t
  exact step_inv

end Sys2Proof.Machine
end

section
/-! PROOFS. One allocation of a core, and one line of its window, after an update (spec/07 R141, R143, R148). -/

namespace Sys2Proof.Machine

/-! ### Allocations by their id -/

/-- An update of allocations that leaves what an id finds: the id itself, freed or not, parked or not. -/
def KeepsName (f : Alloc → Alloc) : Prop := ∀ x, (f x).id = x.id ∧ (f x).freed = x.freed ∧ (f x).parked = x.parked

/-- What an update makes of the allocation of an id, where the update reaches it. -/
theorem Core.alloc_mapIf {k l : Core} {id : BitVec 8} {a : Alloc} {p : Alloc → Bool} {f : Alloc → Alloc} (found : k.alloc id = some a)
    (updated : l.allocs = mapIf p f k.allocs) (keeps : KeepsName f) (reached : p a = true) : l.alloc id = some (f a) := by
  unfold Core.alloc at found ⊢
  rw [updated, mapIf, List.find?_map]
  have same : ((fun a : Alloc => a.id == id && a.freed.isNone && a.parked.isNone) ∘ fun x => if p x then f x else x) =
      fun a => a.id == id && a.freed.isNone && a.parked.isNone := by
    funext x
    obtain ⟨hid, freed, parked⟩ := keeps x
    dsimp only [Function.comp_apply]
    split
    · rw [hid, freed, parked]
    · rfl
  rw [same, found, Option.map_some, if_pos reached]

/-- The allocation that an id names has that id, is not freed, and is not parked. -/
theorem Core.alloc_named {k : Core} {id : BitVec 8} {a : Alloc} (found : k.alloc id = some a) :
    (a.id == id) = true ∧ a.freed.isNone = true ∧ a.parked.isNone = true := by
  have named := List.find?_some found
  simpa only [Bool.and_eq_true, and_assoc] using named

theorem Core.alloc_modAlloc {k : Core} {id : BitVec 8} {a : Alloc} {f : Alloc → Alloc} (found : k.alloc id = some a)
    (keeps : KeepsName f) : (modAlloc k id f).alloc id = some (f a) := by
  obtain ⟨named, unfreed, unparked⟩ := Core.alloc_named found
  exact Core.alloc_mapIf found rfl keeps (by rw [named, unfreed, unparked]; rfl)

theorem Core.alloc_modWindow {k : Core} {id : BitVec 8} {a : Alloc} {f : Alloc → Alloc} (found : k.alloc id = some a)
    (keeps : KeepsName f) : (k.modWindow id f).alloc id = some (f a) := by
  obtain ⟨named, unfreed, -⟩ := Core.alloc_named found
  exact Core.alloc_mapIf found rfl keeps (by rw [named, unfreed]; rfl)

/-- Bytes of scratch written whole change no allocation. -/
theorem Core.alloc_healScratch (k : Core) (i : BitVec 8) (o n : Nat) (id : BitVec 8) : (k.healScratch i o n).alloc id = k.alloc id := by
  obtain ⟨_, h⟩ := healScratch_only k i o n
  rw [h]
  rfl

/-! ### The one line of a window -/

theorem Alloc.modLine_keepsName (n : Nat) (f : Alloc → Line → Option Line) : KeepsName (fun a => a.modLine n (f a)) :=
  fun _ => ⟨rfl, rfl, rfl⟩

theorem Alloc.modLine_single {a : Alloc} {l : Line} {n : Nat} (f : Line → Option Line) (lines : a.lines = [l]) (num : l.num = n) :
    (a.modLine n f).lines = (f l).toList := by
  unfold Alloc.modLine
  dsimp only
  rw [lines]
  cases h : f l <;> simp [num, h]

/-- The line with this number is the only one of the window that an id names. -/
structure OneLine (s : State) (id : BitVec 8) (n : Nat) (a : Alloc) (l : Line) : Prop where
  between : s.wlog = []
  found : s.core.alloc id = some a
  lines : a.lines = [l]
  num : l.num = n

/-- The step ends with these lines in the window that an id names. -/
def LeavesLines (out : Out) (id : BitVec 8) (ls : List Line) : Prop :=
  ∃ t b, out = .next t ∧ t.core.alloc id = some b ∧ b.lines = ls

section
variable {s : State} {id : BitVec 8} {n : Nat} {a : Alloc} {l : Line} {f : State → Alloc → Line → Option Line} {ls : List Line}
  (h : OneLine s id n a l)
include h

theorem onLine_leaves (left : (f s a l).toList = ls) : LeavesLines (onLine id n f s) id ls := by
  refine ⟨_, a.modLine n (f s a), runEvent_eq h.between, ?_, ?_⟩
  · exact Core.alloc_modAlloc h.found (Alloc.modLine_keepsName n (f s))
  · rw [Alloc.modLine_single _ h.lines h.num, left]

theorem onAnyLine_leaves (left : (f s a l).toList = ls) : LeavesLines (onAnyLine id n f s) id ls := by
  refine ⟨_, a.modLine n (f s a), runEvent_eq h.between, ?_, ?_⟩
  · exact Core.alloc_modWindow h.found (Alloc.modLine_keepsName n (f s))
  · rw [Alloc.modLine_single _ h.lines h.num, left]

end

end Sys2Proof.Machine
end

section
/-! PROOFS. O40: the events of allocations and of window lines (spec/07 R141, R143, R148; spec/20 R299). -/

namespace Sys2Proof.Machine

/-! ### Allocations -/

theorem allocationExpiry_expires {s : State} {id : BitVec 8} {a : Alloc} (hw : s.wlog = []) (found : s.core.alloc id = some a)
    (own : a.backed = false) (due : a.expiry ≤ s.core.nowAt) :
    ∃ t, exec (.allocationExpiry id) s = .next t ∧ t.core.alloc id = some { a with expired := true } ∧ t.mem = s.mem := by
  show ∃ t, execAllocationExpiry id s = .next t ∧ _
  unfold execAllocationExpiry
  refine ⟨_, runEvent_eq hw, ?_, settled_mem_of_quiet hw⟩
  refine (Core.alloc_modAlloc found fun x => ?_).trans ?_
  · split <;> exact ⟨rfl, rfl, rfl⟩
  · rw [own, decide_eq_true due]
    rfl

theorem zeroPendingClear_clears {s : State} {id : BitVec 8} {a : Alloc} {row : Nat} (hw : s.wlog = [])
    (found : s.core.alloc id = some a) (zero : a.zero = true) (inside : 256 * row < a.size) (pending : row ∉ a.cleared) :
    ∃ t, exec (.zeroPendingClear id row) s = .next t ∧ t.core.alloc id = some { a with cleared := a.cleared ++ [row] } := by
  have clears : (a.zeroPending row && decide (256 * row < a.size)) = true := by
    unfold Alloc.zeroPending
    simp [zero, inside, pending]
  show ∃ t, execZeroPendingClear id row s = .next t ∧ _
  unfold execZeroPendingClear
  refine ⟨_, runEvent_eq hw, ?_⟩
  rw [settled_core, found]
  dsimp only
  rw [if_pos clears, State.modCore_core]
  exact Core.alloc_modAlloc ((Core.alloc_healScratch ..).trans found) fun _ => ⟨rfl, rfl, rfl⟩

/-- What a byte of an allocation reads does not depend on the rows that have been cleared (07 R141). -/
theorem Alloc.byte_cleared (a : Alloc) (rows : List Nat) (o : Nat) : ({ a with cleared := rows } : Alloc).byte o = a.byte o := rfl

/-! ### Lines -/

/-- An Invalid line of the window, or one that has lapsed, is filled from its home. -/
theorem stashLineFill_fills {s s1 : State} {id : BitVec 8} {a : Alloc} {n g w : Nat} {ps : List Piece} (own : Bool) (hw : s.wlog = [])
    (found : s.core.alloc id = some a) (window : a.window = some (g, w)) (inside : 128 * n < w)
    (invalid : ∀ l ∈ a.lines, l.num = n → l.lapsed s.core.nowAt = true)
    (checked : checkVirtual s s.root 0 (g + 128 * n) 128 { wr := false, poison := false, tag := false, race := false } none none 0 =
      .ok (ps, s1)) :
    Takes (.stashLineFill id n own) s ((ps.foldl (fun s p => s.snoop own (some id) p.pa p.n) s1).modCore (fun k =>
      modAlloc (k.healFills id (128 * n) ps) id (fun a => touchLines k s.core.nowAt own a (128 * n) ps))) := by
  have fills : ¬(w ≤ 128 * n ∨ a.lines.any (fun l => l.num == n && !l.lapsed s.core.nowAt) = true) := by
    rintro (outside | valid)
    · omega
    · obtain ⟨l, mem, holds⟩ := List.any_eq_true.mp valid
      obtain ⟨num, live⟩ := Bool.and_eq_true_iff.mp holds
      rw [invalid l mem (eq_of_beq num)] at live
      cases live
  unfold Takes
  show execStashLineFill id n own s = _
  unfold execStashLineFill
  rw [runEvent_eq hw, found]
  dsimp only
  rw [window]
  dsimp only
  rw [if_neg fills, checked]

/-- A row with a line that is still to be written back is wound before it expires (07 R148). -/
theorem stashRowWind_winds {s : State} {id : BitVec 8} {n row : Nat} {a : Alloc} {l : Line} (h : OneLine s id n a l)
    (unwritten : l.st ≠ .clean) (due : l.expiry ≤ s.core.nowAt + 16) (mine : rowOf a n = row) :
    LeavesLines (exec (.stashRowWind id row) s) id [{ l with expiry := s.core.nowAt + 1600 }] := by
  have inRow : (rowOf a l.num == row) = true := by rw [h.num, mine]; exact beq_self_eq_true row
  have winds : a.lines.any (fun l => rowOf a l.num == row && l.st != .clean && decide (l.expiry ≤ s.core.nowAt + 16)) = true := by
    rw [h.lines, List.any_cons, inRow, bne_iff_ne.mpr unwritten, decide_eq_true due]
    rfl
  show LeavesLines (execStashRowWind id row s) id _
  unfold execStashRowWind
  refine ⟨_, { a with lines := [{ l with expiry := s.core.nowAt + 1600 }] }, runEvent_eq h.between, ?_, rfl⟩
  refine (Core.alloc_modWindow h.found fun x => ?_).trans ?_
  · dsimp only
    split <;> exact ⟨rfl, rfl, rfl⟩
  · rw [if_pos winds, h.lines, mapIf, List.map_cons, if_pos inRow]
    rfl

section
variable {s : State} {id : BitVec 8} {n : Nat} {a : Alloc} {l : Line} (h : OneLine s id n a l)
include h

theorem stashDirtyWriteback_begins (dirty : l.st = .dirty) (due : l.expiry ≤ s.core.nowAt + 160) :
    LeavesLines (exec (.stashDirtyWriteback id n) s) id [{ l with st := .writing }] := by
  show LeavesLines (execStashDirtyWriteback id n s) id _
  unfold execStashDirtyWriteback
  exact onAnyLine_leaves h (congrArg Option.toList (congrArg some (if_pos ⟨dirty, due⟩)))

theorem stashCleanExpiry_invalidates (clean : l.st = .clean) (due : l.expiry ≤ s.core.nowAt) :
    LeavesLines (exec (.stashCleanExpiry id n) s) id [] := by
  show LeavesLines (execStashCleanExpiry id n s) id _
  unfold execStashCleanExpiry
  exact onAnyLine_leaves h (congrArg Option.toList (if_pos ⟨clean, due⟩))

theorem stashHomeInvalidate_invalidates (clean : l.st = .clean) : LeavesLines (exec (.stashHomeInvalidate id n) s) id [] := by
  show LeavesLines (execStashHomeInvalidate id n s) id _
  unfold execStashHomeInvalidate
  exact onLine_leaves h (congrArg Option.toList (if_pos clean))

theorem stashHomeRecall_invalidates (dirty : l.st = .dirty) : LeavesLines (exec (.stashHomeRecall id n) s) id [] := by
  show LeavesLines (execStashHomeRecall id n s) id _
  unfold execStashHomeRecall
  exact onLine_leaves h (congrArg Option.toList (if_pos dirty))

/-- The acknowledgement leaves the line Clean where nothing waits to take it (20 R299). -/
theorem stashWritebackAck_cleans (writing : l.st = .writing) (kept : l.inv = false) (undropped : l.drop = false) :
    LeavesLines (exec (.stashWritebackAck id n) s) id [{ l with st := .clean }] := by
  show LeavesLines (execStashWritebackAck id n s) id _
  unfold execStashWritebackAck
  exact onAnyLine_leaves h (by rw [writing, kept, undropped]; rfl)

theorem stashWritebackAck_rewritten (rewritten : l.st = .rewritten) :
    LeavesLines (exec (.stashWritebackAck id n) s) id [{ l with st := .dirty }] := by
  show LeavesLines (execStashWritebackAck id n s) id _
  unfold execStashWritebackAck
  exact onAnyLine_leaves h (by rw [rewritten]; rfl)

end

/-- Settles O40, event by event. -/
theorem lineEvents : Obligations.LineEvents := by
  unfold Obligations.LineEvents
  intro s s1 id a n row w g own ps hw found
  refine ⟨allocationExpiry_expires hw found, fun zero inside pending => ?_, stashLineFill_fills own hw found, fun l lines num => ?_⟩
  · obtain ⟨t, runs, cleared⟩ := zeroPendingClear_clears hw found zero inside pending
    exact ⟨t, runs, cleared, a.byte_cleared _⟩
  · have h : OneLine s id n a l := ⟨hw, found, lines, num⟩
    exact ⟨stashDirtyWriteback_begins h, stashRowWind_winds h, stashCleanExpiry_invalidates h, stashHomeInvalidate_invalidates h,
      stashHomeRecall_invalidates h, stashWritebackAck_cleans h, stashWritebackAck_rewritten h⟩

end Sys2Proof.Machine
end

section
/-! PROOFS. The copy of a COW page: which frames a leaf names, what the new leaf is, and what memory holds after the copy (spec/07 R135, R136;
spec/15 R252). -/

namespace Sys2Proof.Machine

theorem fld_zero (v w : Nat) : fld v 0 w = v % 2 ^ w := by unfold fld; rw [Nat.pow_zero, Nat.div_one]

/-! ### The frames of a page (07 R136) -/

/-- The page of a leaf is of a size that a level of the table maps (07 R134). -/
theorem leafAt_shift {s : State} {va pa e sh : Nat} : ∀ {ls : List (Nat × Nat × Nat)} {base : Nat},
    leafAt s va base ls = some (pa, e, sh) → ∃ l ∈ ls, l.1 = sh := by
  intro ls
  induction ls with
  | nil => intro base h; cases h
  | cons l rest ih =>
    intro base h
    unfold leafAt at h
    dsimp only at h
    split at h
    · cases h
    · split at h
      · exact ⟨l, List.mem_cons_self, congrArg (fun x => x.2.2) (Option.some.inj h)⟩
      · obtain ⟨x, mem, shift⟩ := ih h
        exact ⟨x, List.mem_cons_of_mem _ mem, shift⟩

theorem levels_shift_le {l : Nat × Nat × Nat} (h : l ∈ levels) : l.1 ≤ 39 := by
  have all : ∀ l ∈ levels, l.1 ≤ 39 := by decide
  exact all l h

/-- A page of the table is made of whole granules. -/
theorem levels_whole {l : Nat × Nat × Nat} (h : l ∈ levels) : 4096 ∣ 2 ^ l.1 := by
  have all : ∀ l ∈ levels, 12 ≤ l.1 := by decide
  exact pow_dvd_pow 2 (all l h)

/-- The frame of granule j of a page that is not interleaved, and of one that is: granule j lies on stack (d + j) mod 32. -/
theorem leafFrame_granule (e : Nat) {sh j : Nat} (h : j < 2 ^ sh / 4096) : leafFrame e (4096 * j) sh =
    if e / 32 % 2 = 1 then
      (fld e 8 40 * 256 / 2 ^ 43 + j) % 32 * 2 ^ 31 + fld e 8 40 * 256 % 2 ^ 43 / 4096 + j / 32
    else fld e 8 40 * 256 / 4096 + j := by
  have inside : 4096 * j % 2 ^ sh = 4096 * j := Nat.mod_eq_of_lt (by omega)
  unfold leafFrame frameOf
  dsimp only
  rw [inside]
  split <;> omega

/-- Which stack a granule of an interleaved page lies on, and how far up, tells which granule it is. -/
theorem interleaved_injective {d i j : Nat} (hi : i < 2 ^ 27) (hj : j < 2 ^ 27)
    (same : (d + i) % 32 * 2 ^ 31 + i / 32 = (d + j) % 32 * 2 ^ 31 + j / 32) : i = j := by
  have stack : (d + i) % 32 = (d + j) % 32 := by
    generalize (d + i) % 32 = a at same ⊢
    generalize (d + j) % 32 = b at same ⊢
    omega
  rw [stack] at same
  omega

/-- Granules of a page lie in frames of their own, interleaved or not. -/
theorem leafFrame_injective (e : Nat) {sh i j : Nat} (size : sh ≤ 39) (hi : i < 2 ^ sh / 4096) (hj : j < 2 ^ sh / 4096)
    (same : leafFrame e (4096 * i) sh = leafFrame e (4096 * j) sh) : i = j := by
  have most : 2 ^ sh ≤ 2 ^ 39 := Nat.pow_le_pow_right (by decide) size
  rw [leafFrame_granule e hi, leafFrame_granule e hj] at same
  generalize fld e 8 40 = g at same
  split at same
  · refine interleaved_injective (d := g * 256 / 2 ^ 43) (by omega) (by omega) ?_
    rw [Nat.add_right_comm, Nat.add_right_comm _ _ (j / 32)] at same
    exact Nat.add_right_cancel same
  · exact Nat.add_left_cancel same

/-! ### The new leaf (15 R252) -/

/-- The leaf of a page after its copy to frame f: the frame, GEN flipped, COW clear, all else as in the leaf e. -/
def cowLeaf (e f : Nat) : Nat :=
  let e1 := e % 256 + fld f 8 40 * 256
  (if bitOf e1 6 then e1 - 64 else e1 + 64) - 128

/-- With COW set in the old leaf the low byte of the new one is the old without COW and with the other GEN. -/
theorem cowLeaf_eq {e : Nat} (cow : bitOf e 7 = true) (f : Nat) :
    cowLeaf e f = e % 64 + 64 * (1 - e / 64 % 2) + 256 * fld f 8 40 := by
  unfold bitOf at cow
  rw [beq_iff_eq] at cow
  unfold cowLeaf bitOf
  dsimp only
  generalize fld f 8 40 = g
  split
  next gen => rw [beq_iff_eq] at gen; omega
  next gen => rw [beq_iff_eq] at gen; omega

theorem fld_lt (v l w : Nat) : fld v l w < 2 ^ w := Nat.mod_lt _ (Nat.two_pow_pos w)

section
variable {e : Nat} (cow : bitOf e 7 = true) (f : Nat)
include cow

theorem cowLeaf_lt : cowLeaf e f < 256 ^ 8 := by
  have frame := fld_lt f 8 40
  rw [cowLeaf_eq cow]
  omega

theorem cowLeaf_cow : bitOf (cowLeaf e f) 7 = false := by
  rw [cowLeaf_eq cow]
  unfold bitOf
  rw [beq_eq_false_iff_ne]
  omega

theorem cowLeaf_gen : bitOf (cowLeaf e f) 6 = !bitOf e 6 := by
  rw [cowLeaf_eq cow]
  unfold bitOf
  rw [Bool.eq_iff_iff, Bool.not_eq_true', beq_iff_eq, beq_eq_false_iff_ne]
  omega

theorem cowLeaf_low {i : Nat} (h : i < 6) : bitOf (cowLeaf e f) i = bitOf e i := by
  rw [cowLeaf_eq cow]
  unfold bitOf
  generalize fld f 8 40 = g
  rw [Bool.eq_iff_iff, beq_iff_eq, beq_iff_eq]
  interval_cases i <;> omega

theorem cowLeaf_frame : fld (cowLeaf e f) 8 56 = fld f 8 40 := by
  have frame := fld_lt f 8 40
  rw [cowLeaf_eq cow]
  generalize fld f 8 40 = g at frame
  unfold fld
  omega

end

/-! ### What memory holds after the copy -/

theorem Cells.getRun_length (c : Cells) (n : Nat) : ∀ a, (c.getRun a n).length = n := by
  induction n with
  | zero => intro a; rfl
  | succ n ih => intro a; exact congrArg (· + 1) (ih (a + 1))

theorem Cells.getRun_getD (c : Cells) (n : Nat) : ∀ {a i : Nat}, i < n → (c.getRun a n).getD i 0 = c.get (a + i) := by
  induction n with
  | zero => intro a i h; omega
  | succ n ih =>
    intro a i h
    cases i with
    | zero => rfl
    | succ i =>
      show (c.getRun (a + 1) n).getD i 0 = _
      rw [ih (by omega), Nat.add_right_comm, Nat.add_assoc]

@[simp] theorem State.snoop_wlog (s : State) (wr : Bool) (keep : Option (BitVec 8)) (pa n : Nat) : (s.snoop wr keep pa n).wlog = s.wlog := rfl
@[simp] theorem State.moveMonitors_wlog (s : State) (old new : Nat) : (s.moveMonitors old new).wlog = s.wlog := rfl
@[simp] theorem State.dropPage_wlog (s : State) (root : Word) (page bytes : Nat) : (s.dropPage root page bytes).wlog = s.wlog := rfl

/-- Memory after the first n frames of a page have been copied. -/
def copied (s : State) (old new sh n : Nat) : Cells := s.mem.commit (copyPage s old new sh n).wlog

theorem copied_wf {s : State} (wf : Memory.wf s.mem = true) (old new sh n : Nat) : Memory.wf (copied s old new sh n) = true :=
  Cells.wf_commit wf _

section
variable {s : State} (hw : s.wlog = []) (old new sh : Nat)
include hw

/-- The next frame is written from memory as it was before the copy. -/
theorem copied_succ (n : Nat) : copied s old new sh (n + 1) =
    (copied s old new sh n).setRun (4096 * leafFrame new (4096 * n) sh) (s.mem.getRun (4096 * leafFrame old (4096 * n) sh) 4096) := by
  rw [← State.physRun_getRun hw, copied, copied, copyPage]
  rw [State.moveMonitors_wlog, State.modM_wlog, State.sawWrite_wlog, Cells.commit_physWriteRun, State.snoop_wlog]

variable (wf : Memory.wf s.mem = true)
include wf

theorem copied_succ_get (n y : Nat) : (copied s old new sh (n + 1)).get y =
    if y / 4096 = leafFrame new (4096 * n) sh then s.mem.get (4096 * leafFrame old (4096 * n) sh + y % 4096)
    else (copied s old new sh n).get y := by
  rw [copied_succ hw, Cells.get_setRun _ (copied_wf wf ..), Cells.getRun_length]
  split
  next within =>
    rw [if_pos (by omega), Cells.getRun_getD _ _ (by omega)]
    congr 1
    omega
  next outside => rw [if_neg (by omega)]

/-- Frames of the new page that are not yet written, and all that lies outside it, read as before. -/
theorem copied_other {y : Nat} : ∀ {n : Nat}, (∀ i, i < n → y / 4096 ≠ leafFrame new (4096 * i) sh) →
    (copied s old new sh n).get y = s.mem.get y := by
  intro n
  induction n with
  | zero =>
    intro _
    show (s.mem.commit s.wlog).get y = _
    rw [hw]
    rfl
  | succ n ih =>
    intro outside
    rw [copied_succ_get hw old new sh wf, if_neg (outside n (Nat.lt_succ_self n))]
    exact ih fun i hi => outside i (Nat.lt_succ_of_lt hi)

/-- A byte of a frame that has been copied is the byte of the old page. -/
theorem copied_granule (size : sh ≤ 39) {j o : Nat} (ho : o < 4096) : ∀ {n : Nat}, n ≤ 2 ^ sh / 4096 → j < n →
    (copied s old new sh n).get (4096 * leafFrame new (4096 * j) sh + o) = s.mem.get (4096 * leafFrame old (4096 * j) sh + o) := by
  have frame : (4096 * leafFrame new (4096 * j) sh + o) / 4096 = leafFrame new (4096 * j) sh := by omega
  have offset : (4096 * leafFrame new (4096 * j) sh + o) % 4096 = o := by omega
  intro n
  induction n with
  | zero => intro _ h; omega
  | succ n ih =>
    intro fits h
    rw [copied_succ_get hw old new sh wf, frame, offset]
    by_cases last : j = n
    · rw [last, if_pos rfl]
    · have apart : leafFrame new (4096 * j) sh ≠ leafFrame new (4096 * n) sh := fun e =>
        last (leafFrame_injective new size (by omega) (by omega) e)
      rw [if_neg apart]
      exact ih (by omega) (by omega)

end

end Sys2Proof.Machine
end

section
/-! PROOFS. COPY_ON_WRITE_FIRST_WRITE with a frame (spec/15 R252). -/

namespace Sys2Proof.Machine

/-! ### What a copy leaves of the core -/

/-- The trace registers and the registers of every context are the same. -/
structure Unmoved (k l : Core) : Prop where
  trace : l.trace = k.trace
  x : ∀ c, (l.ctx c).x = (k.ctx c).x

theorem Unmoved.refl (k : Core) : Unmoved k k := ⟨rfl, fun _ => rfl⟩

theorem Unmoved.trans {k l n : Core} (h : Unmoved k l) (h' : Unmoved l n) : Unmoved k n :=
  ⟨h'.trace.trans h.trace, fun c => (h'.x c).trans (h.x c)⟩

theorem State.snoop_unmoved (s : State) (wr : Bool) (keep : Option (BitVec 8)) (pa n : Nat) :
    Unmoved s.core (s.snoop wr keep pa n).core :=
  ⟨rfl, fun c => by cases c <;> rfl⟩

theorem State.sawWrite_unmoved (s : State) (pa n : Nat) (keep : Option (BitVec 8)) : Unmoved s.core (s.sawWrite pa n keep).core :=
  ⟨rfl, s.sawWrite_x pa n keep⟩

theorem State.physWriteRun_unmoved (s : State) (pa : Nat) (bs : Bytes) : Unmoved s.core (s.physWriteRun pa bs).core := by
  rw [State.physWriteRun_core]
  exact .refl _

theorem State.moveMonitors_unmoved (s : State) (old new : Nat) : Unmoved s.core (s.moveMonitors old new).core :=
  ⟨rfl, fun c => by cases c <;> rfl⟩

theorem State.dropPage_unmoved (s : State) (root : Word) (page bytes : Nat) : Unmoved s.core (s.dropPage root page bytes).core :=
  ⟨rfl, fun c => by cases c <;> rfl⟩

theorem copyPage_unmoved (s : State) (old new sh n : Nat) : Unmoved s.core (copyPage s old new sh n).core := by
  induction n with
  | zero => exact .refl _
  | succ n ih =>
    rw [copyPage]
    refine ih.trans (.trans ?_ (State.moveMonitors_unmoved ..))
    rw [State.modM_core]
    exact ((State.snoop_unmoved ..).trans (State.physWriteRun_unmoved ..)).trans (State.sawWrite_unmoved ..)

/-- No core holds a translation of a page that has been dropped. -/
theorem State.dropPage_drops (s : State) (root : Word) (page bytes : Nat) :
    ∀ x ∈ (s.dropPage root page bytes).core.tlb, ¬(x.root = root ∧ page ≤ x.vpage * 4096 ∧ x.vpage * 4096 < page + bytes) := by
  intro x mem
  rintro ⟨rooted, low, high⟩
  have kept := (List.mem_filter.mp mem).2
  simp [rooted, low, high] at kept

/-! ### The event -/

/-- The page of a leaf has been copied, and the leaf written. -/
def State.pageCopied (s : State) (pa e sh f : Nat) : State :=
  ((copyPage s e (cowLeaf e f) sh (2 ^ sh / 4096)).physWriteRun pa (leBytes 8 (cowLeaf e f))).sawWrite pa 8

theorem State.copyOnWrite_copies {s : State} {root : Word} {v pa e sh : Nat} (leaf : leafAt s v root.toNat levels = some (pa, e, sh))
    (cow : bitOf e 7 = true) (w : bitOf e 2 = true) (f : BitVec 48) :
    s.copyOnWrite root v (some f) = (s.pageCopied pa e sh f.toNat).dropPage root (v / 2 ^ sh * 2 ^ sh) (2 ^ sh) := by
  unfold State.copyOnWrite
  rw [leaf]
  dsimp only
  rw [cow, w]
  rfl

theorem State.pageCopied_unmoved (s : State) (pa e sh f : Nat) : Unmoved s.core (s.pageCopied pa e sh f).core :=
  ((copyPage_unmoved ..).trans (State.physWriteRun_unmoved ..)).trans (State.sawWrite_unmoved ..)

theorem State.traceServed_off {s : State} (h : s.core.traces = false) (code addr : Nat) : s.traceServed code addr = s :=
  State.traceAt_off h ..

theorem Core.traces_congr {k l : Core} (h : l.trace = k.trace) : l.traces = k.traces := by unfold Core.traces; rw [h]

/-- With no trace buffer the event is the copy, and that the translations of the page go. -/
theorem takes_copyOnWrite {s : State} {va : Word} {pa e sh : Nat} (hw : s.wlog = []) (off : s.core.traces = false)
    (leaf : leafAt s (va.toNat % 2 ^ 56) s.root.toNat levels = some (pa, e, sh)) (cow : bitOf e 7 = true) (w : bitOf e 2 = true)
    (f : BitVec 48) : Takes (.copyOnWriteFirstWrite va (some f)) s
      ((s.pageCopied pa e sh f.toNat).dropPage s.root (va.toNat % 2 ^ 56 / 2 ^ sh * 2 ^ sh) (2 ^ sh)) := by
  have still := (s.pageCopied_unmoved pa e sh f.toNat).trans
    (State.dropPage_unmoved _ s.root (va.toNat % 2 ^ 56 / 2 ^ sh * 2 ^ sh) (2 ^ sh))
  unfold Takes
  show execCopyOnWriteFirstWrite va (some f) s = _
  unfold execCopyOnWriteFirstWrite
  rw [runEvent_eq hw, fld_zero, State.copyOnWrite_copies leaf cow w]
  unfold State.traceCopy
  rw [Option.isSome_some, if_pos rfl, State.traceServed_off ((Core.traces_congr still.trace).trans off)]

section
variable {s : State} (hw : s.wlog = []) (wf : Memory.wf s.mem = true) {pa e sh : Nat} (cow : bitOf e 7 = true) (f : Nat)
include wf

/-- Memory after the copy: the copied page, and over it the leaf. -/
theorem State.pageCopied_get (y : Nat) : (s.mem.commit (s.pageCopied pa e sh f).wlog).get y =
    if pa ≤ y ∧ y < pa + 8 then (leBytes 8 (cowLeaf e f)).getD (y - pa) 0
    else (copied s e (cowLeaf e f) sh (2 ^ sh / 4096)).get y := by
  unfold State.pageCopied
  rw [State.sawWrite_wlog, Cells.commit_physWriteRun]
  exact Cells.get_setRun (leBytes 8 (cowLeaf e f)) (copied_wf wf ..) pa y

include cow in
/-- The leaf in memory is the new leaf. -/
theorem State.pageCopied_leaf : leNat ((s.mem.commit (s.pageCopied pa e sh f).wlog).getRun pa 8) = cowLeaf e f := by
  unfold State.pageCopied
  rw [State.sawWrite_wlog, Cells.commit_physWriteRun]
  have same := Cells.getRun_setRun_same (leBytes 8 (cowLeaf e f)) (copied_wf wf e (cowLeaf e f) sh (2 ^ sh / 4096)) pa
  rw [leBytes_length] at same
  exact (congrArg leNat same).trans ((leNat_leBytes ..).trans (Nat.mod_eq_of_lt (cowLeaf_lt cow f)))

include hw

/-- Each byte of the new page is the byte of the old one, where the leaf has not been written over it. -/
theorem State.pageCopied_page (size : sh ≤ 39) {i : Nat} (hi : i < 2 ^ sh)
    (apart : 4096 * leafFrame (cowLeaf e f) (i / 4096 * 4096) sh + i % 4096 < pa ∨
      pa + 8 ≤ 4096 * leafFrame (cowLeaf e f) (i / 4096 * 4096) sh + i % 4096) (whole : 4096 ∣ 2 ^ sh) :
    (s.mem.commit (s.pageCopied pa e sh f).wlog).get (4096 * leafFrame (cowLeaf e f) (i / 4096 * 4096) sh + i % 4096) =
      s.mem.get (4096 * leafFrame e (i / 4096 * 4096) sh + i % 4096) := by
  rw [State.pageCopied_get wf, if_neg (by omega), Nat.mul_comm (i / 4096) 4096]
  exact copied_granule hw e (cowLeaf e f) sh wf size (Nat.mod_lt _ (by decide)) (Nat.le_refl _) (by omega)

/-- Outside the new page and the leaf, memory stays. -/
theorem State.pageCopied_other {y : Nat} (apart : y < pa ∨ pa + 8 ≤ y)
    (outside : ∀ i, i < 2 ^ sh / 4096 → y / 4096 ≠ leafFrame (cowLeaf e f) (4096 * i) sh) :
    (s.mem.commit (s.pageCopied pa e sh f).wlog).get y = s.mem.get y := by
  rw [State.pageCopied_get wf, if_neg (by omega)]
  exact copied_other hw e (cowLeaf e f) sh wf outside

end

end Sys2Proof.Machine
end

section
/-! PROOFS. O39: walks, chains, copy on write, poison and the fade clock (spec/07 R134, R135, R137, R142; spec/08 R153; spec/15 R252). -/

namespace Sys2Proof.Machine

/-! ### TRANSLATION_MISS_WALK (07 R137) -/

@[simp] theorem State.filled_ctx (s : State) (e : TlbEntry) (c : Ctx) : (s.filled e).core.ctx c = s.core.ctx c := by cases c <;> rfl

theorem takes_translationMissWalk {s : State} {va : Word} {e : TlbEntry} (hw : s.wlog = []) (off : s.core.traces = false)
    (missing : s.core.tlb.find? (fun e => e.root == s.root && e.vpage == va.toNat % 2 ^ 56 / 4096) = none)
    (walked : walk s s.root (va.toNat % 2 ^ 56) = .ok e) : Takes (.translationMissWalk va) s (s.filled e) := by
  unfold Takes
  show execTranslationMissWalk va s = _
  unfold execTranslationMissWalk
  rw [runEvent_eq hw, fld_zero, translate_walked missing walked]
  dsimp only
  rw [State.traceServed_off (s := s.filled e) off, ite_self]

/-! ### CHAIN_EXTENSION (08 R153; 15 R240) -/

@[simp] theorem Core.chain_modChain_same (k : Core) (ch : ChainId) (f : Chain → Chain) : (k.modChain ch f).chain ch = f (k.chain ch) := by
  cases ch <;> rfl

@[simp] theorem Core.modChain_trace (k : Core) (ch : ChainId) (f : Chain → Chain) : (k.modChain ch f).trace = k.trace := by
  cases ch <;> rfl

/-- Which context is at issue is no part of a chain. -/
@[simp] theorem Core.chain_withCur (k : Core) (c : Ctx) (ch : ChainId) : ({ k with cur := c } : Core).chain ch = k.chain ch := by
  cases ch <;> rfl

section
variable {s t : State} (h : Wrote s t)
include h

theorem Wrote.chain (ch : ChainId) : t.core.chain ch = s.core.chain ch := by
  obtain ⟨⟨l, c, x, al, -, -, -, core⟩, -, -, -, -⟩ := h
  rw [core]
  cases ch <;> rfl

theorem Wrote.trace : t.core.trace = s.core.trace := by
  obtain ⟨⟨l, c, x, al, -, -, -, core⟩, -, -, -, -⟩ := h
  rw [core]

end

/-- The link slot of the full segment names the new one, whose own link slot names none (08 R153). -/
def State.linked (s : State) (c : Chain) (a : BitVec 48) : State :=
  devWrite (devWrite s s.root (c.seg.toNat + 128 * 31) (linkSlot a.toNat)) s.root (a.toNat + 128 * 31) (linkSlot 0)

theorem State.linked_wrote (s : State) (c : Chain) (a : BitVec 48) : Wrote s (s.linked c a) :=
  (devWrite_wrote ..).trans (devWrite_wrote ..)

/-- Another context has been at issue for a while, and the first is again. -/
theorem State.onCtx_back (s : State) (c d : Ctx) :
    (s.modCore (fun k => { k with cur := c })).modCore (fun k => { k with cur := d }) = s.modCore (fun k => { k with cur := d }) := rfl

/-- The chain goes on in slot 0 of the new segment. -/
def State.extended (s : State) (ch : ChainId) (a : BitVec 48) : State :=
  (s.linked (s.core.chain ch) a).modCore (fun k => k.modChain ch (fun c => { c with seg := w64 a.toNat, slot := 0 }))

theorem State.extended_chain (s : State) (ch : ChainId) (a : BitVec 48) :
    (s.extended ch a).core.chain ch = { s.core.chain ch with seg := w64 a.toNat, slot := 0 } := by
  unfold State.extended
  rw [State.modCore_core, Core.chain_modChain_same, (s.linked_wrote _ a).chain]

theorem State.extended_trace (s : State) (ch : ChainId) (a : BitVec 48) : (s.extended ch a).core.trace = s.core.trace :=
  (Core.modChain_trace ..).trans (s.linked_wrote _ a).trace

/-- A task in want of memory for a segment of a chain ends with code 0x23, at the word of the context that appends to it (15 R240). -/
def State.segmentFails (s : State) : State := s.failTask (s.pendOf .fault { code := 0x23, addr := 0, lane := 0, aux := aux0 }) 0x23

section
variable {s : State} {ch : ChainId} {k : Task} (hw : s.wlog = []) (task : s.core.task = some k) (full : 31 ≤ (s.core.chain ch).slot)
include task full

/-- An append to the chain waits for a segment. -/
theorem chain_waits : (s.core.task.isNone || decide ((s.core.chain ch).slot < 31)) = false := by
  rw [task, decide_eq_false (Nat.not_lt.mpr full)]
  rfl

include hw

theorem takes_chainExtension (off : s.core.traces = false) (a : BitVec 48) : Takes (.chainExtension ch (some a)) s
    ((s.extended ch a).modCore (fun k => { k with cur := s.core.cur })) := by
  unfold Takes
  show execChainExtension ch (some a) s = _
  unfold execChainExtension
  rw [runEvent_eq hw]
  dsimp only
  rw [chain_waits task full, if_neg Bool.false_ne_true, ← State.linked, ← State.extended, State.traceServed_off]
  · rw [State.onCtx_back]
  · exact (Core.traces_congr (s.extended_trace ch a)).trans off

theorem takes_chainExtension_none : Takes (.chainExtension ch none) s (s.onCtx (chainOwner s.core ch)).segmentFails := by
  unfold Takes
  show execChainExtension ch none s = _
  unfold execChainExtension
  rw [runEvent_eq hw]
  dsimp only
  rw [chain_waits task full, if_neg Bool.false_ne_true]
  rfl

end

theorem State.segmentFails_ends {s : State} {k : Task} (task : s.core.task = some k) :
    ∃ w, s.segmentFails.core.phase = .ending (statusOf 0x23 w) [.L, .C, .S] :=
  ⟨_, (State.failTask_ending (code := 0x23) (by rw [task]; rfl) (by decide) (by decide)).1⟩

/-! ### POISON_MAP_UPDATE (07 R137; 15 R252) -/

/-- The frames with poison, after the bit of one has been set or cleared. -/
def setPoison (frames : List Nat) (frame : Nat) (b : Bool) : List Nat :=
  if b then frame :: frames.filter (· != frame) else frames.filter (· != frame)

theorem setPoison_same (frames : List Nat) (frame : Nat) (b : Bool) : (setPoison frames frame b).contains frame = b := by
  cases b <;> simp [setPoison]

theorem setPoison_other (frames : List Nat) {frame g : Nat} (h : g ≠ frame) (b : Bool) :
    (setPoison frames frame b).contains g = frames.contains g := by
  cases b <;> simp [setPoison, h]

theorem poisonMapUpdate_updates {s : State} (hw : s.wlog = []) (frame : Nat) (b : Bool) :
    ∃ t, exec (.poisonMapUpdate frame b) s = .next t ∧ t.m.poison = setPoison s.m.poison frame b ∧
      t.core.tlb = s.core.tlb.filter (fun e => e.frame != frame) ∧ t.mem = s.mem := by
  show ∃ t, execPoisonMapUpdate frame b s = .next t ∧ _
  unfold execPoisonMapUpdate
  exact ⟨_, runEvent_eq hw, rfl, rfl, settled_mem_of_quiet hw⟩

/-! ### FADE_TICK (07 R142) -/

theorem fadeTick_advances {s : State} (hw : s.wlog = []) : ∃ t, exec .fadeTick s = .next t ∧ t.m.now = s.m.now + 1 ∧
    t.core = (if s.core.slot = .l then { s.core with nowAt := s.m.now + 1 } else s.core) ∧ t.mem = s.mem := by
  show ∃ t, execFadeTick s = .next t ∧ _
  unfold execFadeTick
  exact ⟨_, runEvent_eq hw, rfl, rfl, settled_mem_of_quiet hw⟩

/-! ### The obligation -/

/-- Settles O39: the walk, the chain with a segment and without, the copy (its translations, its registers, its leaf and its bytes), the
poison map and the clock, each by its lemma. -/
theorem memoryEvents : Obligations.MemoryEvents := by
  unfold Obligations.MemoryEvents
  intro s va e ch seg f k frame b pa sh hw off
  refine ⟨fun missing walked => ?_, fun task full => ⟨?_, ?_⟩, fun leaf cow w => ?_, ?_, fadeTick_advances hw⟩
  · exact ⟨_, takes_translationMissWalk hw off missing walked, s.filled_tlb e, settled_mem_of_quiet hw, s.filled_ctx e⟩
  · have chain := s.extended_chain ch seg
    refine ⟨_, takes_chainExtension hw task full off seg, ?_⟩
    rw [settled_core, State.modCore_core, Core.chain_withCur, chain]
    exact ⟨BitVec.ofNat_toNat .., rfl, rfl, rfl⟩
  · obtain ⟨w, ends⟩ := State.segmentFails_ends (s := s.onCtx (chainOwner s.core ch)) task
    exact ⟨_, w, takes_chainExtension_none hw task full, ends⟩
  · obtain ⟨l, level, rfl⟩ := leafAt_shift leaf
    refine ⟨_, takes_copyOnWrite hw off leaf cow w f, ?_, ?_, fun wf => ?_⟩
    · exact State.dropPage_drops _ s.root _ _
    · exact ((s.pageCopied_unmoved pa frame l.1 f.toNat).trans (State.dropPage_unmoved ..)).x
    · rw [settled_mem, State.dropPage_wlog, State.pageCopied_leaf wf cow f.toNat]
      exact ⟨cowLeaf_cow cow _, cowLeaf_gen cow _, fun i => cowLeaf_low cow _, cowLeaf_frame cow _,
        fun i inside apart => State.pageCopied_page hw wf _ (levels_shift_le level) inside apart (levels_whole level),
        fun y apart outside => State.pageCopied_other hw wf _ apart outside⟩
  · obtain ⟨t, runs, poison, tlb, mem⟩ := poisonMapUpdate_updates hw frame b
    refine ⟨t, runs, ?_, fun g other => ?_, fun x cached => ?_, mem⟩
    · rw [poison, setPoison_same]
    · rw [poison, setPoison_other _ other]
    · rw [tlb] at cached
      exact bne_iff_ne.mp (List.mem_filter.mp cached).2

end Sys2Proof.Machine
end

section
/-! PROOFS. Where the bytes of a checked access lie (spec/07 R131 to R134): its stretches and its rows follow one another. -/

namespace Sys2Proof.Machine

/-! ### Cutting a range -/

/-- The cuts of a range at the multiples of c hold its bytes, in their order. -/
theorem cutAt_covers {c : Nat} (pos : 0 < c) (o n : Nat) :
    (cutAt c o n).flatMap (fun x => List.range' x.1 x.2) = List.range' o n := by
  have low : c * (o / c) ≤ o := Nat.mul_div_le o c
  have first : ∀ k, k ≤ (o + n + c - 1) / c - o / c → (List.range k).flatMap (fun i =>
      List.range' (max o (c * (o / c + i))) (min (o + n) (c * (o / c + i) + c) - max o (c * (o / c + i)))) =
      List.range' o (min (o + n) (c * (o / c + k)) - o) := by
    intro k
    induction k with
    | zero =>
      intro _
      rw [Nat.add_zero, show min (o + n) (c * (o / c)) - o = 0 by omega]
      rfl
    | succ k ih =>
      intro le
      have inside : c * (o / c + k) < o + n := by
        have := (Nat.le_div_iff_mul_le pos).mp (show o / c + k + 1 ≤ (o + n + c - 1) / c by omega)
        rw [Nat.add_mul, Nat.one_mul, Nat.mul_comm] at this
        omega
      have next : c * (o / c + (k + 1)) = c * (o / c + k) + c := by rw [← Nat.add_assoc, Nat.mul_add, Nat.mul_one]
      rw [List.range_succ, List.flatMap_append, ih (by omega), List.flatMap_singleton, next]
      have start : max o (c * (o / c + k)) = o + (min (o + n) (c * (o / c + k)) - o) := by omega
      rw [start, List.range'_append_1]
      exact congrArg (List.range' o ·) (by omega)
  have whole : o + n ≤ c * (o / c + ((o + n + c - 1) / c - o / c)) := by
    have := Nat.lt_mul_div_succ (o + n + c - 1) pos
    have le : o / c ≤ (o + n + c - 1) / c := Nat.div_le_div_right (by omega)
    rw [Nat.add_sub_cancel' le]
    rw [Nat.mul_add, Nat.mul_one] at this
    omega
  unfold cutAt
  rw [List.flatMap_map]
  exact (first _ (Nat.le_refl _)).trans (congrArg (List.range' o ·) (by omega))

/-- The stretches of an access are the cuts at 4 KiB. -/
theorem stretches_eq_cutAt (va n : Nat) : stretches va n = cutAt 4096 va n := by
  unfold stretches cutAt
  rw [show va + n + 4095 = va + n + 4096 - 1 by omega]

/-! ### Physical addresses -/

/-- The physical addresses of the bytes of pieces, in the order of the access. -/
def placesOf (ps : List Piece) : List Nat := ps.flatMap (fun q => (List.range q.n).map (q.pa + ·))

theorem Target.places_eq (t : Target) : t.places = placesOf t.pieces := rfl

theorem placesOf_cons (p : Piece) (ps : List Piece) : placesOf (p :: ps) = (List.range p.n).map (p.pa + ·) ++ placesOf ps := rfl

theorem placesOf_append (ps qs : List Piece) : placesOf (ps ++ qs) = placesOf ps ++ placesOf qs := List.flatMap_append

/-- The bytes of pieces lie in their 4 KiB granules where n bytes from v on lie in theirs. -/
def Follows (ps : List Piece) (v n : Nat) : Prop := (placesOf ps).map (· % 4096) = (List.range' v n).map (· % 4096)

/-- A piece is the translation of a stretch: as long, and at its place of the granule. -/
def Piece.Of (p : Piece) (x : Nat × Nat) : Prop := p.n = x.2 ∧ p.pa % 4096 = x.1 % 4096

theorem placesOf_granules {ps : List Piece} {l : List (Nat × Nat)} (h : List.Forall₂ Piece.Of ps l) :
    (placesOf ps).map (· % 4096) = (l.flatMap (fun x => List.range' x.1 x.2)).map (· % 4096) := by
  induction h with
  | nil => rfl
  | @cons p x ps l same _ ih =>
    obtain ⟨long, place⟩ := same
    rw [placesOf_cons, List.flatMap_cons, List.map_append, List.map_append, ih, long, List.range'_eq_map_range, List.map_map,
      List.map_map]
    refine congrArg (· ++ _) (List.map_congr_left fun i _ => ?_)
    show (p.pa + i) % 4096 = (x.1 + i) % 4096
    omega

theorem Follows.length {ps : List Piece} {v n : Nat} (h : Follows ps v n) : (placesOf ps).length = n := by
  have := congrArg List.length h
  rwa [List.length_map, List.length_map, List.length_range'] at this

/-- No byte of an access of 4 KiB or less lies where another one does: they differ within the granule. -/
theorem Follows.nodup {ps : List Piece} {v n : Nat} (h : Follows ps v n) (small : n ≤ 4096) : (placesOf ps).Nodup := by
  refine List.Nodup.of_map (· % 4096) ?_
  rw [h]
  refine List.Nodup.map_on (fun x hx y hy same => ?_) List.nodup_range'
  obtain ⟨i, hi, rfl⟩ := List.mem_range'.mp hx
  obtain ⟨j, hj, rfl⟩ := List.mem_range'.mp hy
  omega

/-! ### The checks -/

section
variable {root ptr : Word} {c : Chk} {who : Option Who} {sy : Option Nat} {lane : Nat}

theorem translateAll_of {wr : Bool} : ∀ {l : List (Nat × Nat)} {s t : State} {ps : List Piece},
    translateAll s root ptr wr lane l = .ok (ps, t) → List.Forall₂ Piece.Of ps l := by
  intro l
  induction l with
  | nil => intro s t ps h; cases h; exact .nil
  | cons x r ih =>
    intro s t ps h
    obtain ⟨va, n⟩ := x
    simp only [translateAll] at h
    split at h
    · cases h
    · next e s1 _ =>
      split at h
      · cases h
      · split at h
        · split at h <;> cases h
        · split at h
          · cases h
          · next rest =>
            cases h
            exact .cons ⟨rfl, by show (4096 * e.frame + va % 4096) % 4096 = va % 4096; omega⟩ (ih rest)

theorem checkParts_of : ∀ {l : List (List (Nat × Nat))} {s t : State} {ps : List Piece},
    checkParts s root ptr c who sy lane l = .ok (ps, t) → List.Forall₂ Piece.Of ps l.flatten := by
  intro l
  induction l with
  | nil => intro s t ps h; cases h; exact .nil
  | cons x r ih =>
    intro s t ps h
    simp only [checkParts] at h
    split at h
    · cases h
    · next head =>
      split at h
      · cases h
      · split at h
        · cases h
        · next rest =>
          cases h
          rw [List.flatten_cons]
          exact List.rel_append (translateAll_of head) (ih rest)

/-- The pieces of a virtual range follow one another as its bytes do. -/
theorem checkVirtual_follows {s t : State} {va n : Nat} {ps : List Piece}
    (h : checkVirtual s root ptr va n c who sy lane = .ok (ps, t)) : Follows ps va n := by
  have pieces := checkParts_of h
  rw [parts_flatten, stretches_eq_cutAt] at pieces
  exact (placesOf_granules pieces).trans (congrArg _ (cutAt_covers (by decide) va n))

theorem checkGlobal_follows {s t : State} {n : Nat} {ps : List Piece} (h : checkGlobal s root ptr n c who sy lane = .ok (ps, t)) :
    Follows ps (fld ptr.toNat 0 56) n := by
  unfold checkGlobal at h
  split at h
  · cases h
  · split at h
    · cases h
    · exact checkVirtual_follows h

end

section
variable {sl : Ctx} {p : Word} {a : Alloc} {c : Chk} {who : Option Who} {sy : Option Nat} {lane : Nat}

/-- The pieces of one part of a scratch access through a window lie in the window. -/
theorem checkRow_follows {s t : State} {off n : Nat} {ps : List Piece} (window : a.backed = true)
    (h : checkRow s sl p a off n c who sy lane = .ok (ps, t)) : Follows ps ((a.window.map (·.1)).getD 0 + off) n := by
  unfold checkRow at h
  rw [window] at h
  split at h
  · cases h
  · split at h
    · cases h
    · split at h
      · cases h
      · split at h
        · cases h
        · dsimp only at h
          rw [if_pos rfl] at h
          split at h
          · cases h
          · next met =>
            split at h
            · cases h
            · cases h; exact checkVirtual_follows met

/-- Those of all parts follow one another as the parts do. -/
theorem checkRows_places (window : a.backed = true) : ∀ {l : List (Nat × Nat)} {s t : State} {ps : List Piece},
    checkRows s sl p a c who sy lane l = .ok (ps, t) → (placesOf ps).map (· % 4096) =
      (l.flatMap (fun x => List.range' ((a.window.map (·.1)).getD 0 + x.1) x.2)).map (· % 4096) := by
  intro l
  induction l with
  | nil => intro s t ps h; cases h; rfl
  | cons x r ih =>
    intro s t ps h
    obtain ⟨off, n⟩ := x
    simp only [checkRows] at h
    split at h
    · cases h
    · next row =>
      split at h
      · cases h
      · next rest =>
        cases h
        rw [placesOf_append, List.map_append, List.flatMap_cons, List.map_append, ih rest]
        exact congrArg (· ++ _) (checkRow_follows window row)

/-- What a checked access of n bytes reaches: bytes of an allocation that stands, or global bytes that follow one another. -/
def Target.Reaches (s : State) (n : Nat) : Target → Prop
  | .priv id _ m => m = n ∧ (s.core.alloc id).isSome = true
  | .glob ps => ∃ v, Follows ps v n
  | .stash _ _ _ ps => ∃ v, Follows ps v n

theorem checkScratch_reaches {s t : State} {n : Nat} {tg : Target} (h : checkScratch s sl p n c who sy lane = .ok (tg, t)) :
    tg.Reaches s n := by
  unfold checkScratch at h
  split at h
  · cases h
  · split at h
    · cases h
    · split at h
      · cases h
      · next a found =>
        split at h
        · cases h
        · next rows =>
          cases h
          split
          · next window =>
            refine ⟨(a.window.map (·.1)).getD 0 + ptrOff p, (checkRows_places window rows).trans ?_⟩
            have cuts := cutAt_covers (show 0 < 256 by decide) (ptrOff p) n
            have shift (x y : Nat) : List.range' ((a.window.map (·.1)).getD 0 + x) y =
                (List.range' x y).map ((a.window.map (·.1)).getD 0 + ·) := by rw [List.map_add_range']
            simp only [shift, ← List.map_flatMap, cuts]
          · have named : a.id = ptrId p := eq_of_beq (Core.alloc_named found).1
            exact ⟨rfl, by rw [named, found]; rfl⟩

theorem checkSpace_reaches {s t : State} {sp : Space} {n : Nat} {tg : Target} (h : checkSpace s sl sp p n c who sy lane = .ok (tg, t)) :
    tg.Reaches s n := by
  unfold checkSpace at h
  split at h
  · split at h
    · cases h
    · next ok => cases h; exact ⟨_, checkGlobal_follows ok⟩
  · exact checkScratch_reaches h

end

end Sys2Proof.Machine
end

section
/-! PROOFS. What the accesses of engines leave of the core, what a read leaves readable, and the bytes that a write puts
(spec/07 R132, R138, R143, R148). -/

namespace Sys2Proof.Machine

/-! ### The frame of an access -/

/-- t is s but for monitors, allocations, the translation cache, the counters and the marks of double-bit errors in scratch of the
core, and for what lies outside the core and its memory. -/
structure Accessed (s t : State) : Prop where
  core : ∃ (l c x : Context) (al : List Alloc) (tlb : List TlbEntry) (pf : Perf) (bad : List Nat), sawCtx s.core.l l ∧ sawCtx s.core.c c ∧
    sawCtx s.core.s x ∧ t.core = { s.core with l := l, c := c, s := x, allocs := al, tlb := tlb, perf := pf, badScratch := bad }
  mem : t.mem = s.mem

theorem Accessed.of_core {s t : State} {al : List Alloc} {tlb : List TlbEntry} {pf : Perf} {bad : List Nat}
    (core : t.core = { s.core with allocs := al, tlb := tlb, perf := pf, badScratch := bad }) (mem : t.mem = s.mem) : Accessed s t :=
  ⟨⟨_, _, _, al, tlb, pf, bad, .refl _, .refl _, .refl _, core⟩, mem⟩

theorem Accessed.refl (s : State) : Accessed s s := .of_core (al := s.core.allocs) rfl rfl

theorem Accessed.trans {s t u : State} (h : Accessed s t) (h' : Accessed t u) : Accessed s u := by
  obtain ⟨⟨l, c, x, _, _, _, _, hl, hc, hx, hk⟩, mem⟩ := h
  obtain ⟨⟨l', c', x', al, tlb, pf, bad, hl', hc', hx', hk'⟩, mem'⟩ := h'
  rw [hk] at hl' hc' hx'
  exact ⟨⟨l', c', x', al, tlb, pf, bad, hl.trans hl', hc.trans hc', hx.trans hx', by rw [hk', hk]⟩, mem'.trans mem⟩

theorem OnlyTlb.accessed {s t : State} (h : OnlyTlb s t) : Accessed s t := by
  obtain ⟨l, p, rfl⟩ := h
  exact .of_core (al := s.core.allocs) rfl rfl

theorem Wrote.accessed {s t : State} (h : Wrote s t) : Accessed s t := by
  obtain ⟨⟨l, c, x, al, hl, hc, hx, hk⟩, -, mem, -, -⟩ := h
  exact ⟨⟨l, c, x, al, s.core.tlb, s.core.perf, s.core.badScratch, hl, hc, hx, hk⟩, mem⟩

/-- An update of the module alone. -/
theorem Accessed.outside {s t : State} (core : t.core = s.core) (mem : t.mem = s.mem) : Accessed s t :=
  .of_core (al := s.core.allocs) core mem

section
variable {s t : State} (h : Accessed s t)
include h

theorem Accessed.get (c : Ctx) (n : BitVec 5) : (t.core.ctx c).get n = (s.core.ctx c).get n := by
  obtain ⟨⟨l, c', x, al, tlb, pf, bad, ⟨_, hl⟩, ⟨_, hc⟩, ⟨_, hx⟩, hk⟩, -⟩ := h
  rw [hk]
  cases c
  · show l.get n = _; rw [hl]; rfl
  · show c'.get n = _; rw [hc]; rfl
  · show x.get n = _; rw [hx]; rfl

theorem Accessed.chain (ch : ChainId) : t.core.chain ch = s.core.chain ch := by
  obtain ⟨⟨l, c, x, al, tlb, pf, bad, -, -, -, hk⟩, -⟩ := h
  rw [hk]
  cases ch <;> rfl

theorem Accessed.trace : t.core.trace = s.core.trace := by
  obtain ⟨⟨l, c, x, al, tlb, pf, bad, -, -, -, hk⟩, -⟩ := h
  rw [hk]

/-- Register space and the weight buffer. -/
theorem Accessed.spaces : t.core.rs = s.core.rs ∧ t.core.rsGen = s.core.rsGen ∧ t.core.wb = s.core.wb := by
  obtain ⟨⟨l, c, x, al, tlb, pf, bad, -, -, -, hk⟩, -⟩ := h
  rw [hk]
  exact ⟨rfl, rfl, rfl⟩

end

/-! ### What a read leaves readable -/

/-- A read was performed on the way from s to t: every byte reads as before, and nothing is written. -/
structure OnlyRead (s t : State) : Prop extends Accessed s t where
  wlog : t.wlog = s.wlog
  bytes : ∀ id, (t.core.alloc id).map Alloc.byte = (s.core.alloc id).map Alloc.byte

theorem OnlyRead.refl (s : State) : OnlyRead s s := ⟨.refl s, rfl, fun _ => rfl⟩

theorem OnlyRead.trans {s t u : State} (h : OnlyRead s t) (h' : OnlyRead t u) : OnlyRead s u :=
  ⟨h.toAccessed.trans h'.toAccessed, h'.wlog.trans h.wlog, fun id => (h'.bytes id).trans (h.bytes id)⟩

theorem OnlyTlb.onlyRead {s t : State} (h : OnlyTlb s t) : OnlyRead s t := by
  refine ⟨h.accessed, ?_, ?_⟩ <;> obtain ⟨l, p, rfl⟩ := h <;> intros <;> rfl

/-- An update of the module alone. -/
theorem OnlyRead.modM (s : State) (f : Module → Module) : OnlyRead s (s.modM f) := ⟨.outside rfl rfl, rfl, fun _ => rfl⟩

/-- An update of allocations that leaves what their ids find and the bytes that they hold. -/
def KeepsBytes (f : Alloc → Alloc) : Prop := KeepsName f ∧ ∀ x, (f x).byte = x.byte

theorem KeepsBytes.lines {f : Alloc → Alloc} (h : ∀ x, ∃ ls, f x = { x with lines := ls }) : KeepsBytes f := by
  refine ⟨fun x => ?_, fun x => ?_⟩ <;> obtain ⟨ls, h⟩ := h x <;> rw [h]
  · exact ⟨rfl, rfl, rfl⟩
  · rfl

/-- What an id finds after an update of all allocations. -/
theorem Core.alloc_map {k l : Core} {f : Alloc → Alloc} (keeps : KeepsName f) (updated : l.allocs = k.allocs.map f) (id : BitVec 8) :
    l.alloc id = (k.alloc id).map f := by
  unfold Core.alloc
  rw [updated, List.find?_map]
  congr 2
  funext x
  obtain ⟨hid, freed, parked⟩ := keeps x
  dsimp only [Function.comp_apply]
  rw [hid, freed, parked]

theorem KeepsName.mapIf {f : Alloc → Alloc} (h : KeepsName f) (p : Alloc → Bool) : KeepsName (fun x => if p x then f x else x) := by
  intro x
  dsimp only
  split
  · exact h x
  · exact ⟨rfl, rfl, rfl⟩

theorem KeepsBytes.mapIf {f : Alloc → Alloc} (h : KeepsBytes f) (p : Alloc → Bool) : KeepsBytes (fun x => if p x then f x else x) := by
  refine ⟨h.1.mapIf p, fun x => ?_⟩
  dsimp only
  split
  · exact h.2 x
  · rfl

theorem OnlyRead.of_allocs {s t : State} {f : Alloc → Alloc} {bad : List Nat} (keeps : KeepsBytes f)
    (core : t.core = { s.core with allocs := s.core.allocs.map f, badScratch := bad }) (mem : t.mem = s.mem) (wlog : t.wlog = s.wlog) :
    OnlyRead s t := by
  refine ⟨.of_core (tlb := s.core.tlb) (pf := s.core.perf) core mem, wlog, fun id => ?_⟩
  rw [Core.alloc_map keeps.1 (by rw [core]) id, Option.map_map]
  exact congrArg (Option.map · _) (funext keeps.2)

theorem State.snoop_onlyRead (s : State) (wr : Bool) (keep : Option (BitVec 8)) (pa n : Nat) : OnlyRead s (s.snoop wr keep pa n) := by
  refine .of_allocs (f := fun a => if keep = some a.id ∧ a.parked.isNone then a else a.takeBack wr (linesOf pa n)) (bad := s.core.badScratch)
    (.lines fun x => ?_) rfl rfl rfl
  split
  · exact ⟨x.lines, rfl⟩
  · exact ⟨_, rfl⟩

theorem State.snoopReads_onlyRead (keep : Option (BitVec 8)) (ps : List Piece) : ∀ s : State, OnlyRead s (s.snoopReads keep ps) := by
  induction ps with
  | nil => exact fun s => .refl s
  | cons p r ih => exact fun s => (State.snoop_onlyRead ..).trans (ih _)

theorem recordRead_onlyRead (s : State) (who : Option Who) (sy : Option (Nat × Nat)) (ps : List Piece) :
    OnlyRead s (recordRead s who sy ps) := by
  unfold recordRead
  split
  · exact .refl s
  · generalize ps.filter (fun p => p.entry.rc) = l
    induction l generalizing s with
    | nil => exact .refl s
    | cons p r ih => exact (OnlyRead.modM s _).trans (ih _)

theorem touchLine_lines (k : Core) (now : Nat) (wr : Bool) (a : Alloc) (x : Nat × Nat) :
    ∃ ls, touchLine k now wr a x = { a with lines := ls } := by
  unfold touchLine
  dsimp only
  split
  · exact ⟨_, rfl⟩
  · split <;> exact ⟨_, rfl⟩

theorem touchLines_lines (k : Core) (now : Nat) (wr : Bool) (off : Nat) (ps : List Piece) (a : Alloc) :
    ∃ ls, touchLines k now wr a off ps = { a with lines := ls } := by
  unfold touchLines
  generalize lineCopies off ps = l
  induction l generalizing a with
  | nil => exact ⟨a.lines, rfl⟩
  | cons x r ih =>
    obtain ⟨ls, h⟩ := touchLine_lines k now wr a x
    obtain ⟨ls', h'⟩ := ih (touchLine k now wr a x)
    exact ⟨ls', by rw [List.foldl_cons, h', h]⟩

/-- An update of the allocations of an id, after one of the marks of double-bit errors alone. -/
theorem OnlyRead.modAlloc {s : State} {g : Core → Core} (marks : ∀ k, ∃ b, g k = { k with badScratch := b }) (id : BitVec 8)
    {f : Core → Alloc → Alloc} (keeps : ∀ k, KeepsBytes (f k)) : OnlyRead s (s.modCore (fun k => modAlloc (g k) id (f k))) := by
  obtain ⟨b, h⟩ := marks s.core
  exact .of_allocs (f := fun x => if x.id == id && x.freed.isNone && x.parked.isNone then f s.core x else x) (bad := b)
    ((keeps s.core).mapIf _) (by rw [State.modCore_core, h]; rfl) rfl rfl

theorem performRead_onlyRead (s : State) (who : Option Who) (sy : Option (Nat × Nat)) (t : Target) :
    OnlyRead s (performRead s who sy t) := by
  cases t with
  | glob ps => exact (recordRead_onlyRead ..).trans (State.snoopReads_onlyRead ..)
  | priv id off n => exact .refl s
  | stash id off n ps =>
    exact ((recordRead_onlyRead ..).trans (State.snoopReads_onlyRead ..)).trans
      (.modAlloc (g := fun k => k.healFills id off ps) (fun k => healFills_only k id off ps) id
        (f := fun k a => touchLines k s.core.nowAt false a off ps) (fun k => .lines (touchLines_lines k s.core.nowAt false off ps)))

theorem performReadSpot_onlyRead (s : State) (who : Option Who) (a : Spot) : OnlyRead s (performReadSpot s who a) := by
  cases a with
  | mem t => exact performRead_onlyRead ..
  | regs o => exact .refl s

/-- Lines that a copy-in pins for a ring slot are noted beside the bytes. -/
theorem pinAhead_onlyRead (s : State) (before : Core) (id : BitVec 8) (slot : Nat × Nat) :
    OnlyRead s (s.modCore (fun k => pinAhead before k id slot)) :=
  .modAlloc (g := fun k => k) (fun k => ⟨k.badScratch, rfl⟩) id (f := fun _ a =>
      { a with ahead := a.ahead ++ (a.lines.filter (fun l => !(before.alloc id).any (fun b => b.holdsLine before.nowAt l.num))).map
                 (fun l => (l.num, slot)) })
    (fun _ => ⟨fun _ => ⟨rfl, rfl, rfl⟩, fun _ => rfl⟩)

/-! ### Bytes read -/

theorem State.physRun_eq (s : State) (n : Nat) : ∀ pa, s.physRun pa n = (List.range' pa n).map s.phys := by
  induction n with
  | zero => intro pa; rfl
  | succ n ih => intro pa; exact congrArg (s.phys pa :: ·) (ih (pa + 1))

theorem Alloc.run_eq (a : Alloc) (n : Nat) : ∀ o, a.run o n = (List.range' o n).map a.byte := by
  induction n with
  | zero => intro o; rfl
  | succ n ih => intro o; exact congrArg (a.byte o :: ·) (ih (o + 1))

theorem Core.rsRun_eq (k : Core) (n : Nat) : ∀ o, k.rsRun o n = (List.range' o n).map k.rsByte := by
  induction n with
  | zero => intro o; rfl
  | succ n ih => intro o; exact congrArg (k.rsByte o :: ·) (ih (o + 1))

/-- A target without a window reads the bytes of the allocation that its id finds. -/
theorem readTarget_priv (s : State) (id : BitVec 8) (off n : Nat) : readTarget s (.priv id off n) =
    (((s.core.alloc id).map Alloc.byte).map (fun f => (List.range' off n).map f)).getD (List.replicate n 0) := by
  unfold readTarget
  dsimp only
  cases s.core.alloc id with
  | none => rfl
  | some a => exact a.run_eq n off

theorem readPieces_length (s : State) (ps : List Piece) : (readPieces s ps).length = (placesOf ps).length := by
  induction ps with
  | nil => rfl
  | cons p r ih =>
    rw [placesOf_cons, List.length_append, ← ih]
    show (s.physRun p.pa p.n ++ readPieces s r).length = _
    rw [List.length_append, State.physRun_eq, List.length_map, List.length_map, List.length_range', List.length_range]

/-- An access reads as many bytes as it has checked. -/
theorem readTarget_length {s t : State} {n : Nat} {tg : Target} (h : tg.Reaches s n) : (readTarget t tg).length = n := by
  cases tg with
  | glob ps => obtain ⟨v, places⟩ := h; exact (readPieces_length t ps).trans places.length
  | stash id off m ps => obtain ⟨v, places⟩ := h; exact (readPieces_length t ps).trans places.length
  | priv id off m =>
    obtain ⟨rfl, -⟩ := h
    rw [readTarget_priv]
    cases t.core.alloc id <;> simp

section
variable {s t : State} (h : OnlyRead s t)
include h

theorem OnlyRead.phys (pa : Nat) : t.phys pa = s.phys pa := by unfold State.phys; rw [h.wlog, h.mem]

theorem OnlyRead.readPieces (ps : List Piece) : readPieces t ps = readPieces s ps := by
  unfold Machine.readPieces
  simp only [State.physRun_eq, funext h.phys]

/-- After a read an access reads what it read before. -/
theorem OnlyRead.readTarget (tg : Target) : readTarget t tg = readTarget s tg := by
  cases tg with
  | glob ps => exact h.readPieces ps
  | stash id off n ps => exact h.readPieces ps
  | priv id off n => rw [readTarget_priv, readTarget_priv, h.bytes]

theorem OnlyRead.readSpot (n : Nat) (a : Spot) : readSpot t n a = readSpot s n a := by
  cases a with
  | mem tg => exact h.readTarget tg
  | regs o =>
    obtain ⟨rs, gen, -⟩ := h.spaces
    show t.core.rsRun o n = s.core.rsRun o n
    have byte : t.core.rsByte = s.core.rsByte := by unfold Core.rsByte; rw [rs, gen]
    rw [Core.rsRun_eq, Core.rsRun_eq, byte]

theorem OnlyRead.alloc_isSome {id : BitVec 8} (found : (s.core.alloc id).isSome = true) : (t.core.alloc id).isSome = true := by
  rw [← Option.isSome_map (f := Alloc.byte), h.bytes, Option.isSome_map, found]

end

/-! ### Bytes written -/

/-- A store after bytes have been written at pieces, one piece after another. -/
def putPieces : Cells → List Piece → Bytes → Cells
  | c, [], _ => c
  | c, p :: r, bs => putPieces (c.setRun p.pa (bs.take p.n)) r (bs.drop p.n)

/-- Performing a write of pieces is that. -/
theorem commit_writePieces (c : Cells) (who : Option Who) (un : Bool) (keep : Option (BitVec 8)) (sy : Option (Nat × Nat))
    (ps : List Piece) : ∀ (s : State) (bs : Bytes),
    c.commit (writePieces s who un keep sy ps bs).wlog = putPieces (c.commit s.wlog) ps bs := by
  induction ps with
  | nil => intro s bs; rfl
  | cons p r ih =>
    intro s bs
    unfold writePieces
    dsimp only
    rw [ih, putPieces, ← Cells.commit_physWriteRun]
    congr 2
    split
    · split <;> split <;> rfl
    · split <;> split <;> rfl

theorem get_putPieces_other {y : Nat} : ∀ {ps : List Piece} {c : Cells} (_ : Memory.wf c = true) (bs : Bytes), y ∉ placesOf ps →
    (putPieces c ps bs).get y = c.get y := by
  intro ps
  induction ps with
  | nil => intro c _ bs _; rfl
  | cons p r ih =>
    intro c wf bs out
    rw [placesOf_cons, List.mem_append, not_or, List.mem_map] at out
    obtain ⟨here, rest⟩ := out
    rw [putPieces, ih (Cells.wf_setRun wf ..) _ rest, Cells.get_setRun _ wf, if_neg]
    rintro ⟨low, high⟩
    refine here ⟨y - p.pa, List.mem_range.mpr ?_, Nat.add_sub_cancel' low⟩
    rw [List.length_take] at high
    omega

/-- Where no two bytes of the pieces lie at one address, each reads back. -/
theorem get_putPieces_at : ∀ {ps : List Piece} {c : Cells} (_ : Memory.wf c = true) {bs : Bytes} (_ : (placesOf ps).Nodup)
    (_ : bs.length = (placesOf ps).length) {i y : Nat}, (placesOf ps)[i]? = some y → (putPieces c ps bs).get y = bs.getD i 0 := by
  intro ps
  induction ps with
  | nil => intro c _ bs _ _ i y at'; cases at'
  | cons p r ih =>
    intro c wf bs nodup long i y at'
    rw [placesOf_cons] at nodup long at'
    obtain ⟨-, rest, apart⟩ := List.nodup_append.mp nodup
    have len : ((List.range p.n).map (p.pa + ·)).length = p.n := by rw [List.length_map, List.length_range]
    rw [List.length_append, len] at long
    rw [putPieces]
    rcases Nat.lt_or_ge i p.n with lt | ge
    · rw [List.getElem?_append_left (by rw [len]; exact lt), List.getElem?_map, List.getElem?_range lt] at at'
      cases at'
      rw [get_putPieces_other (Cells.wf_setRun wf ..) _ (fun mem => apart _ (List.mem_map.mpr ⟨i, List.mem_range.mpr lt, rfl⟩) _ mem rfl),
        Cells.get_setRun _ wf, List.length_take, if_pos (by omega), Nat.add_sub_cancel_left, List.getD_eq_getElem?_getD, List.getElem?_take_of_lt lt,
        List.getD_eq_getElem?_getD]
    · rw [List.getElem?_append_right (by rw [len]; exact ge), len] at at'
      rw [ih (Cells.wf_setRun wf ..) rest (by rw [List.length_drop]; omega) at', List.getD_eq_getElem?_getD, List.getElem?_drop,
        Nat.add_sub_cancel' ge, List.getD_eq_getElem?_getD]

end Sys2Proof.Machine
end

section
/-! PROOFS. O20: what an append does, and what it leaves (spec/08 R153, R154; spec/10 R180, R194, R198). -/

namespace Sys2Proof.Machine

/-! ### A synchronising operation -/

theorem State.syncDone_core (s : State) : ∃ tk, s.syncDone.core = { s.core with task := tk } := by
  unfold State.syncDone
  split
  · exact ⟨s.core.task, rfl⟩
  · split
    · exact ⟨s.core.task, rfl⟩
    · exact ⟨_, rfl⟩

theorem State.syncDone_mem (s : State) : s.syncDone.mem = s.mem := by
  unfold State.syncDone
  split
  · rfl
  · split <;> rfl

/-! ### The append -/

/-- The slot of the entry has been written, and the append has closed its region (08 R153; 10 R180). -/
def State.slotWritten (s : State) (ch : ChainId) (n : NewEntry) : State :=
  (devWrite s s.root ((s.core.chain ch).seg.toNat + 128 * (s.core.chain ch).slot)
    (slotBytes n.kind n.body ((s.core.chain ch).append + 1))).syncDone

/-- The entry that an append of n makes; `w` is the state in which the append has closed its region. -/
def State.entryFor (s w : State) (ch : ChainId) (n : NewEntry) : Entry :=
  let c := s.core.chain ch
  let own := (w.core.task.map (·.region)).getD 0
  { kind := n.kind, num := c.append + 1, body := pad n.body 112, ctx := s.core.cur, ranges := n.ranges,
    region := if s.rerun then ((c.regions.find? (fun r => r.1 == c.append + 1)).map (·.2)).getD own else own,
    step := s.here.step, ord := s.here.ord, lpc := s.lpc, spc := s.here.pc, occ := s.here.occ s.here.ord s.lpc, begun := false,
    done := [], first := none, ring := n.ring, src := n.src, failed := none, cyc := s.core.cyc,
    exempt := s.rerun && (decide (c.append + 1 ≤ c.prior) || c.priorFin.contains (c.append + 1)), seq := s.core.appends, regs := [],
    parts := [], merged := s.core.merged, owes := s.core.owes }

/-- The chain with a new entry as its last. -/
def Chain.joined (c : Chain) (closed : Nat) (e : Entry) : Chain :=
  { c with append := e.num, slot := c.slot + 1, entries := c.entries ++ [e],
           owed := if e.kind = .marker then c.owed else c.owed ++ [(e.num, e.region)],
           regions := (e.num, e.region) :: c.regions.filter (fun r => decide (closed < r.1) && r.1 != e.num) }

/-- The core with it. -/
def Core.joined (k : Core) (ch : ChainId) (closed : Nat) (e : Entry) : Core :=
  { k.modChain ch (fun c => c.joined closed e) with appends := k.appends + 1 }

section
variable (k : Core) (ch : ChainId) (closed : Nat) (e : Entry)

theorem Core.joined_chain_same : (k.joined ch closed e).chain ch = (k.chain ch).joined closed e := by cases ch <;> rfl

theorem Core.joined_chain_other {c : ChainId} (h : c ≠ ch) : (k.joined ch closed e).chain c = k.chain c := by
  cases ch <;> cases c <;> first | rfl | exact absurd rfl h

theorem Core.joined_ctx (c : Ctx) : (k.joined ch closed e).ctx c = k.ctx c := by cases ch <;> cases c <;> rfl

theorem Core.joined_fields : (k.joined ch closed e).task = k.task ∧ (k.joined ch closed e).flights = k.flights ∧
    (k.joined ch closed e).trace = k.trace ∧ (k.joined ch closed e).cur = k.cur ∧ (k.joined ch closed e).merged = k.merged := by
  cases ch <;> exact ⟨rfl, rfl, rfl, rfl, rfl⟩

end

/-- Everything that an append does. -/
theorem appendEntry_ok {s t : State} {ch : ChainId} {n : NewEntry} (h : appendEntry s ch n = .ok t) : s.core.appendWaits ch = false ∧
    t = (s.slotWritten ch n).modCore (fun k =>
      k.joined ch (s.core.ckpt.tline.getD (chainCode ch) 0) (s.entryFor (s.slotWritten ch n) ch n)) := by
  unfold appendEntry at h
  split at h
  · cases h
  · next waits => cases h; exact ⟨Bool.eq_false_iff.mpr waits, rfl⟩

section
variable (s w : State) (ch : ChainId) (n : NewEntry)

/-- An entry that is appended for the first time has the region that its append opens. -/
theorem State.entryFor_first (first : s.rerun = false) {k : Task} (task : w.core.task = some k) : (s.entryFor w ch n).region = k.region := by
  unfold State.entryFor
  simp [first, task]

/-- One that is appended again has the region that it opened the first time (10 R198). -/
theorem State.entryFor_again (rerun : s.rerun = true) {r : Nat × Nat}
    (made : (s.core.chain ch).regions.find? (fun r => r.1 == (s.core.chain ch).append + 1) = some r) :
    (s.entryFor w ch n).region = r.2 := by
  unfold State.entryFor
  simp [rerun, made]

end

theorem Core.appendWaits_false {k : Core} {ch : ChainId} (h : k.appendWaits ch = false) :
    (k.chain ch).slot < 31 ∧ (ch = .tsx → (k.chain ch).entries.length < Config.sendStoreMax) := by
  obtain ⟨full, store⟩ := Bool.or_eq_false_iff.mp h
  refine ⟨Nat.lt_of_not_le (of_decide_eq_false full), ?_⟩
  rintro rfl
  exact Nat.lt_of_not_le (of_decide_eq_false store)

section
variable (s : State) (ch : ChainId) (n : NewEntry)

/-- Of the core the slot's write changes what a write of the device changes, and the region counter of the task. -/
theorem State.slotWritten_core : ∃ w tk, Wrote s w ∧ (s.slotWritten ch n).core = { w.core with task := tk } ∧
    (s.slotWritten ch n).mem = s.mem := by
  have wrote := devWrite_wrote s s.root ((s.core.chain ch).seg.toNat + 128 * (s.core.chain ch).slot)
    (slotBytes n.kind n.body ((s.core.chain ch).append + 1))
  obtain ⟨tk, core⟩ := State.syncDone_core (devWrite s s.root ((s.core.chain ch).seg.toNat + 128 * (s.core.chain ch).slot)
    (slotBytes n.kind n.body ((s.core.chain ch).append + 1)))
  exact ⟨_, tk, wrote, core, (State.syncDone_mem _).trans wrote.mem⟩

theorem State.slotWritten_chain (c : ChainId) : (s.slotWritten ch n).core.chain c = s.core.chain c := by
  obtain ⟨w, tk, wrote, core, -⟩ := s.slotWritten_core ch n
  rw [core, ← wrote.chain c]
  cases c <;> rfl

theorem State.slotWritten_get (c : Ctx) (m : BitVec 5) : ((s.slotWritten ch n).core.ctx c).get m = (s.core.ctx c).get m := by
  obtain ⟨w, tk, wrote, core, -⟩ := s.slotWritten_core ch n
  rw [core, ← wrote.accessed.get c m]
  cases c <;> rfl

theorem State.slotWritten_fields : (s.slotWritten ch n).core.flights = s.core.flights ∧ (s.slotWritten ch n).core.trace = s.core.trace ∧
    (s.slotWritten ch n).core.cur = s.core.cur ∧ (s.slotWritten ch n).core.merged = s.core.merged ∧ (s.slotWritten ch n).mem = s.mem := by
  obtain ⟨w, tk, ⟨⟨l, c, x, al, -, -, -, wcore⟩, -, -, -, -⟩, core, mem⟩ := s.slotWritten_core ch n
  rw [core, wcore]
  exact ⟨rfl, rfl, rfl, rfl, mem⟩

end

/-- Settles O20: the entry and the chain by `appendEntry_ok`, the rest by what the slot's write leaves. -/
theorem appendEffect : Obligations.AppendEffect := by
  unfold Obligations.AppendEffect
  intro s t ch n h
  obtain ⟨waits, rfl⟩ := appendEntry_ok h
  obtain ⟨slot, store⟩ := Core.appendWaits_false waits
  obtain ⟨flights, -, -, -, mem⟩ := s.slotWritten_fields ch n
  obtain ⟨ktask, kflights, -, -, -⟩ := Core.joined_fields (s.slotWritten ch n).core ch (s.core.ckpt.tline.getD (chainCode ch) 0)
    (s.entryFor (s.slotWritten ch n) ch n)
  rw [State.modCore_core, Core.joined_chain_same, State.slotWritten_chain]
  refine ⟨slot, store, rfl, rfl, ⟨_, rfl, rfl, rfl, rfl, rfl, rfl, fun first k task => ?_, fun rerun r made => ?_⟩, fun c other => ?_,
    fun c m => ?_, kflights.trans flights, mem⟩
  · exact State.entryFor_first s _ ch n first (ktask.symm.trans task)
  · exact State.entryFor_again s _ ch n rerun made
  · rw [Core.joined_chain_other _ _ _ _ other, State.slotWritten_chain]
  · rw [Core.joined_ctx, State.slotWritten_get]

end Sys2Proof.Machine
end

section
/-! PROOFS. O18: COPY, WBLD and SEND up to the append of their entries (spec/20 R302; spec/22 R349; spec/23 R405). -/

namespace Sys2Proof.Machine

/-! ### What the way to an append leaves -/

/-- What decides whether a word may issue again, and the trace registers, are as before. -/
structure Calm (s t : State) : Prop where
  like : Like s t
  trace : t.core.trace = s.core.trace

theorem Calm.refl (s : State) : Calm s s := ⟨.refl s, rfl⟩

theorem Calm.trans {s t u : State} (h : Calm s t) (h' : Calm t u) : Calm s u := ⟨h.like.trans h'.like, h'.trace.trans h.trace⟩

theorem Accessed.calm {s t : State} (h : Accessed s t) : Calm s t := by
  obtain ⟨⟨l, c, x, al, tlb, pf, bad, -, -, -, hk⟩, -⟩ := h
  refine ⟨⟨?_, ?_, ?_⟩, ?_⟩ <;> (try unfold Core.interlocked) <;> rw [hk]

theorem Calm.modRing (s : State) (n : Nat) (f : Ring → Ring) : Calm s (s.modCore (fun k => modRing k n f)) := ⟨⟨rfl, rfl, rfl⟩, rfl⟩

theorem appendEntry_calm {s t : State} {ch : ChainId} {n : NewEntry} (h : appendEntry s ch n = .ok t) : Calm s t := by
  obtain ⟨-, rfl⟩ := appendEntry_ok h
  obtain ⟨flights, trace, cur, merged, -⟩ := s.slotWritten_fields ch n
  obtain ⟨-, kflights, ktrace, kcur, kmerged⟩ := Core.joined_fields (s.slotWritten ch n).core ch
    (s.core.ckpt.tline.getD (chainCode ch) 0) (s.entryFor (s.slotWritten ch n) ch n)
  exact ⟨⟨kflights.trans flights, kcur.trans cur, kmerged.trans merged⟩, ktrace.trans trace⟩

/-- A plain read of a word. -/
theorem memRead_onlyRead {s t : State} {sp : Space} {p : Word} {n lane : Nat} {align : Bool} {bs : Bytes}
    (h : memRead s sp p n align none lane = .ok (bs, t)) : OnlyRead s t := by
  unfold memRead at h
  dsimp only at h
  split at h
  · cases h
  · next checked =>
    split at h
    · cases h
    · cases h; exact (checkSpace_only checked).onlyRead.trans (performRead_onlyRead ..)

theorem readTemplate_onlyRead {s t : State} {p : Word} {kept : Option Bytes} {x : Bytes} (h : readTemplate s p kept = .ok (x, t)) :
    OnlyRead s t := by
  unfold readTemplate at h
  split at h
  · cases h
  · split at h
    · cases h
    · cases read : memRead s .global p 112 false none 0 with
      | error _ => rw [read] at h; cases h
      | ok r => rw [read] at h; cases h; exact memRead_onlyRead read

theorem checkEng_onlyTlb {s t : State} {c : Ctx} {sp : EngSpace} {p : Word} {n lane : Nat} {k : Chk} {who : Option Who}
    {tg : Option Target} (h : checkEng s c sp p n k who lane = .ok (tg, t)) : OnlyTlb s t := by
  have mapped {space : Space} (h : (checkSpace s c space p n k who none lane).map (fun r => (some r.1, r.2)) = .ok (tg, t)) :
      OnlyTlb s t := by
    cases checked : checkSpace s c space p n k who none lane with
    | error _ => rw [checked] at h; cases h
    | ok r => rw [checked] at h; cases h; exact checkSpace_only checked
  unfold checkEng at h
  split at h
  · exact mapped h
  · exact mapped h
  · split at h
    · cases h
    · split at h
      · cases h
      · split at h <;> cases h
        exact .refl s

/-! ### The append of a word -/

/-- What an append goes on with: what it keeps, or what it reads now (20 R302). -/
theorem heldOr_took {t t1 : State} {body : Bytes} {src : Word} {now : Prop} {read : Reads} (took : Took t t1 body src now)
    (reads : now → read = .ok (body, src, t1)) : heldOr t read = .ok (body, src, t1) := by
  unfold heldOr
  rcases took with ⟨held, h⟩ | ⟨held, rfl⟩
  · rw [held]; exact reads h
  · rw [held]

theorem Took.calm {t t1 : State} {body : Bytes} {src : Word} {now : Prop} (took : Took t t1 body src now) (reads : now → Calm t t1) :
    Calm t t1 := by
  rcases took with ⟨-, h⟩ | ⟨-, rfl⟩
  · exact reads h
  · exact .refl _

theorem appendWord_next {ch : ChainId} {kind : EntryKind} {ranges : Bytes → Word → List Range} {read : State → Reads} {t t1 u : State}
    {body : Bytes} {src : Word} (held : heldOr t (read t) = .ok (body, src, t1))
    (appends : appendEntry t1 ch { kind := kind, body := body, src := src, ranges := ranges body src } = .ok u) :
    appendWord ch kind ranges read t = .ok (.next u) := by
  unfold appendWord
  rw [held]
  dsimp only
  rw [(appendEntry_ok appends).1, appends]
  rfl

/-- A word of a slice that feeds the chain, or of merged running, stands where the chain is fed (08 R153). -/
theorem State.wrongSlice_false {s : State} {c : Ctx} (h : s.core.merged = true ∨ s.core.cur = c) : s.wrongSlice c = false := by
  unfold State.wrongSlice
  rcases h with h | h <;> simp [h]

theorem Core.appendWaits_modRing (k : Core) (n : Nat) (f : Ring → Ring) (ch : ChainId) :
    (modRing k n f).appendWaits ch = k.appendWaits ch := by cases ch <;> rfl

/-- COPY with its template (20 R302): a plain copy, or a ring fill. -/
theorem copyBody_next {f : OpSrc3} {kept : Option Bytes} {t u : State} (h : CopyAppends f kept t u) :
    copyBody f kept t = .ok (.next u) ∧ Calm t u := by
  obtain ⟨t1, body, src, took, ok, handler, slice, kind⟩ := h
  have held : heldOr t (copyReads f kept t) = .ok (body, src, t1) := heldOr_took took fun ⟨x, read, hsrc, hbody⟩ => by
    unfold copyReads
    rw [read, hsrc, hbody]
    rfl
  have calm : Calm t t1 := took.calm fun ⟨_, read, _, _⟩ => (readTemplate_onlyRead read).calm
  have side : t.wrongSlice (if (if (nestOf body).dsp = .global then ChainId.tco else .tci) = .tco then .S else .L) = false := by
    refine State.wrongSlice_false ?_
    by_cases out : (nestOf body).dsp = .global <;> simpa [out] using slice
  unfold copyBody
  rw [held]
  dsimp only
  rw [ok, side, handler]
  rcases kind with ⟨plain, appends⟩ | ⟨fill, r, ring, room, appends⟩
  · rw [plain, (appendEntry_ok appends).1, appends]
    exact ⟨rfl, calm.trans (appendEntry_calm appends)⟩
  · have waits := (appendEntry_ok appends).1
    rw [State.modCore_core, Core.appendWaits_modRing] at waits
    rw [fill, ring, waits]
    dsimp only
    rw [room, appends]
    exact ⟨rfl, (calm.trans (.modRing ..)).trans (appendEntry_calm appends)⟩

/-- MMA with its template (21 R328). -/
theorem mmaBody_next {h : OpAB} {kept : Option Bytes} {t u : State} (appends : MmaAppends h kept t u) :
    mmaBody h kept t = .ok (.next u) ∧ Calm t u := by
  obtain ⟨t1, body, src, took, entry⟩ := appends
  refine ⟨appendWord_next (heldOr_took took fun ⟨x, read, slice, hsrc, hbody, ok⟩ => ?_) entry,
    (took.calm fun ⟨_, read, _⟩ => (readTemplate_onlyRead read).calm).trans (appendEntry_calm entry)⟩
  rw [read]
  dsimp only
  have view : fld (le x 92 2) 8 3 = le x 92 2 / 256 % 8 := rfl
  have index : BitVec.ofNat 3 (fld (le x 92 2) 8 3) = BitVec.ofNat 3 (le x 92 2 / 256) := by
    refine BitVec.eq_of_toNat_eq ?_
    rw [view, BitVec.toNat_ofNat, BitVec.toNat_ofNat, Nat.mod_mod]
  rw [index, fld_zero, ← hbody, ok, State.wrongSlice_false slice, hsrc]
  rfl

/-- SEND with its template (22 R349). -/
theorem sendBody_next {f : OpSrc3} {kept : Option Bytes} {t u : State} (appends : SendAppends f kept t u) :
    sendBody f kept t = .ok (.next u) ∧ Calm t u := by
  obtain ⟨t1, body, src, took, entry⟩ := appends
  refine ⟨appendWord_next (ranges := sendRanges) (heldOr_took took fun ⟨x, v, tg, read, hbody, hsrc, ok, slice, handler, a1, a2, a3, checked⟩ => ?_)
      (by unfold sendRanges; rw [fld_zero]; exact entry),
    (took.calm fun ⟨_, v, _, read, _, _, _, _, _, _, _, _, checked⟩ =>
      (readTemplate_onlyRead read).calm.trans (checkEng_onlyTlb checked).accessed.calm).trans (appendEntry_calm entry)⟩
  rw [read]
  dsimp only
  have straight : [src, t.reg f.d, w64 (le body 8 8)].find? (fun p => fld p.toNat 0 4 != 0) = none := by
    have flag : (w64 (le body 8 8)).toNat % 16 = 0 := by
      unfold w64
      rw [BitVec.toNat_ofNat]
      omega
    simp only [List.find?_eq_none, List.mem_cons, List.not_mem_nil, or_false, fld_zero]
    rintro p (rfl | rfl | rfl)
    · simp [a1]
    · simp [a2]
    · simp [flag]
  have space : fld (le body 38 2) 0 2 = le body 38 2 % 4 := fld_zero ..
  rw [← hbody, ← hsrc, ok, State.wrongSlice_false slice, straight]
  dsimp only
  rw [space, checked, handler]
  rfl

/-! ### The template -/

/-- A word whose template is there takes effect. -/
theorem withTemplate_has {i : Instr} {p : Word} {s : State} (body : Body) (h : HasTemplate i p s) :
    withTemplate i p body s = body s.withTemplateTaken := by
  unfold withTemplate State.withTemplateTaken
  rcases h with held | ⟨held, unwatched, merged, here⟩
  · rw [if_pos held, if_pos held]
  · rw [held, unwatched, merged, here]; rfl

/-- In sliced running the word asks for its template, and has issued. -/
theorem withTemplate_sliced {i : Instr} {p : Word} {s : State} (body : Body) (held : s.here.held = none)
    (unwatched : watched s .global p 112 false = false) (sliced : s.core.interlocked = false) :
    withTemplate i p body s = .ok (.next (s.askTemplate i p)) := by
  unfold withTemplate
  rw [held, unwatched, sliced]; rfl

/-- With interlocks the word asks for its template, and is held. -/
theorem withTemplate_merged {i : Instr} {p : Word} {s : State} (body : Body) (held : s.here.held = none)
    (unwatched : watched s .global p 112 false = false) (merged : s.core.interlocked = true) (missing : s.core.templateHere i = false) :
    withTemplate i p body s = .ok (.took (s.askTemplate i p)) := by
  unfold withTemplate
  rw [held, unwatched, merged, missing]; rfl

theorem State.withTemplateTaken_calm (s : State) : Calm s s.withTemplateTaken := by
  unfold State.withTemplateTaken
  split
  · exact .refl s
  · exact ⟨⟨rfl, rfl, rfl⟩, rfl⟩

theorem State.askTemplate_like (s : State) (i : Instr) (p : Word) : Like s (s.askTemplate i p) := ⟨rfl, rfl, rfl⟩

/-! ### A non-idempotent word -/

/-- No hold of a non-idempotent operation keeps it (02 R39; 03 R65). -/
theorem Unheld.holds {s : State} (h : Unheld s) : (s.core.task.isSome && !s.idemReady) = false ∧
    (s.core.task.isSome && !(s.core.interlocked || s.core.drained s.core.cur) && s.here.wait.isSome) = false := by
  cases task : s.core.task.isSome with
  | false => exact ⟨rfl, rfl⟩
  | true =>
    obtain ⟨ready, drained⟩ := h task
    rw [ready]
    refine ⟨rfl, ?_⟩
    rcases drained with h | h | h <;> simp [h]

theorem nonIdempotent_next {s t : State} (h : Unheld s) {body : Body} (runs : body s = .ok (.next t)) :
    nonIdempotent body s = .ok (.next (marked t)) := by
  unfold nonIdempotent
  rw [h.holds.1, h.holds.2, runs]
  rfl

theorem nonIdempotent_took {s t : State} (h : Unheld s) {body : Body} (runs : body s = .ok (.took t)) :
    nonIdempotent body s = .ok (.took t) := by
  unfold nonIdempotent
  rw [h.holds.1, h.holds.2, runs]
  rfl

theorem Like.marked (t : State) : Like t (marked t) := ⟨rfl, rfl, rfl⟩

/-! ### The frame -/

section
variable {i : Instr} {g : Guard} {b : Bars} {body : Body} {s u : State} (frame : exec i s = runWord i g b body s) (ready : Ready i g s)
  (compute : s.core.hub = false) (open' : b.mode s.mode = false) (user : s.core.inHandler = false)
include frame ready compute open' user

/-- A word of a compute core outside a handler whose body ends at the next word, with nothing new in flight. -/
theorem completes_of_body (runs : body s = .ok (.next u)) (like : Like s u) : Completes i s u :=
  completes_next frame ready (fun h => absurd h (by rw [compute]; decide)) open' (fun h => absurd h (by rw [user]; decide)) runs
    (like.plain ready.room)

/-- The same of one whose body has done everything already. -/
theorem takes_of_body (runs : body s = .ok (.took u)) : Takes i s u := by
  unfold Takes
  rw [frame, runWord_body ready (fun h => absurd h (by rw [compute]; decide)) open' (fun h => absurd h (by rw [user]; decide)), runs]
  rfl

end

/-! ### The template of a slice's word comes -/

theorem State.atLate_calm (s : State) (l : Late) : (s.atLate l).core.trace = s.core.trace := Core.setCtx_trace ..

/-- With no trace buffer its word takes effect, and the contexts go on as they stand. -/
theorem State.lateEffect_next {s u : State} {l : Late} (runs : lateBody l.bytes l.i (s.atLate l) = .ok (.next u))
    (off : u.core.traces = false) : s.lateEffect l = s.fromLate u l := by
  have untraced (t : State) (at' : BitVec 8 × Word) (lpc : Word) : t.traceWalks u at' lpc = u := by
    unfold State.traceWalks
    rw [off]
    rfl
  unfold State.lateEffect State.asLate
  dsimp only
  change lateBody l.bytes l.i ((s.modCore fun k => ({ k with cur := l.ctx } : Core).setCtx l.ctx l.at').modCore
    fun k => { k with lates := s.core.lates.erase l }) = _ at runs
  rw [runs]
  dsimp only
  rw [untraced]
  rfl

/-- The oldest template that is still to come arrives, where nothing older is awaited. -/
theorem takes_externalResultArrival_late {s u : State} {l : Late} (between : s.wlog = []) (sliced : s.core.interlocked = false)
    (off : s.core.traces = false) (noAnswer : s.m.reqs.find? (fun r => r.core == s.core.num && r.answer.isSome) = none)
    (noData : s.core.flights.find? (fun f => f.ext && !f.arrived) = none) (oldest : s.core.lates.find? (fun l => !l.arrived) = some l)
    (runs : lateBody l.bytes l.i (s.atLate l) = .ok (.next u) ∧ Calm (s.atLate l) u) :
    Takes .externalResultArrival s (s.fromLate u l) := by
  have untraced : u.core.traces = false := (Core.traces_congr (runs.2.trace.trans (s.atLate_calm l))).trans off
  have arrives : s.lateArrives = s.fromLate u l := by
    unfold State.lateArrives
    rw [oldest]
    dsimp only
    rw [sliced, if_neg Bool.false_ne_true, State.lateEffect_next runs.1 untraced]
  unfold Takes
  show execExternalResultArrival s = _
  unfold execExternalResultArrival
  rw [runEvent_eq between, noAnswer, noData, ← arrives]

/-! ### COPY -/

theorem exec_copy (f : OpSrc3) (s : State) : exec (.copy f) s =
    runWord (.copy f) f.g { hub := true } (fun s => withTemplate (.copy f) (s.src f.a) (copyBody f none) s) s := rfl

section
variable {s s2 : State} {f : OpSrc3} (compute : s.core.hub = false) (user : s.core.inHandler = false) (ready : Ready (.copy f) f.g s)
include compute user ready

theorem copy_asks (held : s.here.held = none) (unwatched : watched s .global (s.src f.a) 112 false = false)
    (sliced : s.core.interlocked = false) : Completes (.copy f) s (s.askTemplate (.copy f) (s.src f.a)) :=
  completes_of_body (exec_copy f s) ready compute rfl user (withTemplate_sliced _ held unwatched sliced) (s.askTemplate_like ..)

theorem copy_held (held : s.here.held = none) (unwatched : watched s .global (s.src f.a) 112 false = false)
    (merged : s.core.interlocked = true) (missing : s.core.templateHere (.copy f) = false) :
    Takes (.copy f) s (s.askTemplate (.copy f) (s.src f.a)) :=
  takes_of_body (exec_copy f s) ready compute rfl user (withTemplate_merged _ held unwatched merged missing)

theorem copy_appends (template : HasTemplate (.copy f) (s.src f.a) s) (appends : CopyAppends f none s.withTemplateTaken s2) :
    Completes (.copy f) s s2 := by
  obtain ⟨runs, calm⟩ := copyBody_next appends
  exact completes_of_body (exec_copy f s) ready compute rfl user ((withTemplate_has _ template).trans runs) (s.withTemplateTaken_calm.trans calm).like

end

/-! ### SEND -/

section
variable {s s2 : State} {f : OpSrc3} (compute : s.core.hub = false) (user : s.core.inHandler = false) (ready : Ready (.send f) f.g s)
  (unheld : Unheld s)
include compute user ready unheld

theorem send_asks (held : s.here.held = none) (unwatched : watched s .global (s.src f.a) 112 false = false)
    (sliced : s.core.interlocked = false) : Completes (.send f) s (marked (s.askTemplate (.send f) (s.src f.a))) :=
  completes_of_body rfl ready compute rfl user (nonIdempotent_next unheld (withTemplate_sliced _ held unwatched sliced))
    ((s.askTemplate_like ..).trans (.marked _))

theorem send_held (held : s.here.held = none) (unwatched : watched s .global (s.src f.a) 112 false = false)
    (merged : s.core.interlocked = true) (missing : s.core.templateHere (.send f) = false) :
    Takes (.send f) s (s.askTemplate (.send f) (s.src f.a)) :=
  takes_of_body rfl ready compute rfl user (nonIdempotent_took unheld (withTemplate_merged _ held unwatched merged missing))

theorem send_appends (template : HasTemplate (.send f) (s.src f.a) s) (appends : SendAppends f none s.withTemplateTaken s2) :
    Completes (.send f) s (marked s2) := by
  obtain ⟨runs, calm⟩ := sendBody_next appends
  exact completes_of_body rfl ready compute rfl user (nonIdempotent_next unheld ((withTemplate_has _ template).trans runs))
    ((s.withTemplateTaken_calm.trans calm).like.trans (.marked _))

end

/-! ### WBLD -/

theorem wbld_appends {s s1 s2 : State} {h : OpAB} {len : BitVec 32} {body : Bytes} {src : Word} (compute : s.core.hub = false)
    (user : s.core.inHandler = false) (ready : Ready (.wbld h len) h.g s)
    (took : Took s s1 body src (wbldOk (s.src h.a) (s.src h.b) len.toNat = true ∧ (s.core.merged = true ∨ s.core.cur = .L) ∧ s1 = s ∧
      src = 0 ∧ body = leBytes 8 (s.src h.a).toNat ++ leBytes 4 (s.src h.b).toNat ++ leBytes 4 len.toNat))
    (appends : appendEntry s1 .tci { kind := .wbld, body := body, src := src, ranges := [] } = .ok s2) :
    Completes (.wbld h len) s s2 := by
  have calm : Calm s s1 := took.calm fun ⟨_, _, same, _⟩ => same ▸ .refl s
  refine completes_of_body rfl ready compute rfl user (appendWord_next (heldOr_took took ?_) appends)
    (calm.trans (appendEntry_calm appends)).like
  rintro ⟨ok, slice, rfl, rfl, rfl⟩
  rw [ok, State.wrongSlice_false slice]
  rfl

/-- Settles O18, word by word; the arrival of a template by the word that has asked for it. -/
theorem copyAndSendComplete : Obligations.CopyAndSendComplete := by
  unfold Obligations.CopyAndSendComplete
  intro s s2 f h len body src l
  refine ⟨fun compute user => ⟨copy_asks compute user, copy_held compute user, copy_appends compute user,
    fun s1 => wbld_appends compute user, send_asks compute user, send_held compute user, send_appends compute user⟩,
    fun between sliced off noAnswer noData oldest word => ?_⟩
  refine takes_externalResultArrival_late between sliced off noAnswer noData oldest ?_
  rcases word with ⟨i, appends⟩ | ⟨i, appends⟩ | ⟨i, appends⟩ <;> rw [i]
  · exact copyBody_next appends
  · exact sendBody_next appends
  · exact mmaBody_next appends

end Sys2Proof.Machine
end

section
/-! PROOFS. Engine entries and their events: the entry that a number finds, what an engine does for its context, and how an entry
completes (spec/08 R154, R167; spec/17 R261, R263). -/

namespace Sys2Proof.Machine

/-! ### Fields of records -/

theorem leNat_lt (bs : Bytes) : leNat bs < 256 ^ bs.length := by
  induction bs with
  | nil => exact Nat.one_pos
  | cons b r ih =>
    have byte := b.isLt
    rw [List.length_cons, Nat.pow_succ]
    show b.toNat + 256 * leNat r < _
    omega

theorem slice_length (bs : Bytes) (o n : Nat) : (slice bs o n).length = n := by
  unfold slice
  rw [List.length_append, List.length_take, List.length_replicate]
  omega

theorem le_lt (bs : Bytes) (o n : Nat) : le bs o n < 256 ^ n := by
  have bound := leNat_lt (slice bs o n)
  rwa [slice_length] at bound

/-- A field of eight bytes that is not 0 is no null pointer. -/
theorem w64_le_ne_zero {bs : Bytes} {o : Nat} (h : le bs o 8 ≠ 0) : w64 (le bs o 8) ≠ 0 := by
  intro zero
  have value := congrArg BitVec.toNat zero
  unfold w64 at value
  rw [BitVec.toNat_ofNat, Nat.mod_eq_of_lt (show le bs o 8 < 2 ^ 64 from le_lt ..)] at value
  exact h value

/-! ### Writes through a checked target -/

theorem Accessed.modAlloc {s : State} {g : Core → Core} (marks : ∀ k, ∃ b, g k = { k with badScratch := b }) (id : BitVec 8)
    (f : Core → Alloc → Alloc) : Accessed s (s.modCore (fun k => modAlloc (g k) id (f k))) := by
  obtain ⟨b, h⟩ := marks s.core
  exact .of_core (tlb := s.core.tlb) (pf := s.core.perf) (by rw [State.modCore_core, h]; rfl) rfl

theorem performWrite_accessed (s : State) (who : Option Who) (un : Bool) (sy : Option (Nat × Nat)) (bs : Bytes) (t : Target) :
    Accessed s (performWrite s who un sy bs t) := by
  cases t with
  | glob ps => exact (writePieces_wrote ..).accessed
  | priv id off n => exact .modAlloc (fun k => healScratch_only k id off n) id (fun _ a => { (clearRows a off n) with data := a.data.putRun off bs })
  | stash id off n ps =>
    refine (writePieces_wrote ..).accessed.trans
      (.modAlloc (g := fun k => (k.healFills id off ps).healScratch id off bs.length) (fun k => ?_) id
        (fun k a => touchLines k s.core.nowAt true a off ps))
    obtain ⟨b, h⟩ := healFills_only k id off ps
    obtain ⟨b', h'⟩ := healScratch_only (k.healFills id off ps) id off bs.length
    exact ⟨b', by rw [h', h]⟩

/-- The writes that it adds to those of the step. -/
theorem commit_performWrite (c : Cells) (s : State) (who : Option Who) (un : Bool) (sy : Option (Nat × Nat)) (bs : Bytes) (t : Target) :
    c.commit (performWrite s who un sy bs t).wlog = putPieces (c.commit s.wlog) t.pieces bs := by
  cases t with
  | glob ps => exact commit_writePieces ..
  | priv id off n => rfl
  | stash id off n ps => exact commit_writePieces ..

/-! ### Where an engine access lies -/

/-- An engine access that passes its checks lies in register space, or where a checked access of its space reaches. -/
theorem engSpot_ok {s t : State} {sl : Ctx} {sp : EngSpace} {p : Word} {d : Int} {n lane : Nat} {wr : Bool} {who : Option Who} {a : Spot}
    (h : engSpot s sl sp p d n wr who lane = .ok (a, t)) : (t = s ∧ ∃ o, a = .regs o) ∨
      ∃ space q tg, checkSpace s sl space q n { wr := wr } who none lane = .ok (tg, t) ∧ a = .mem tg := by
  have mapped {space : Space} {q : Word}
      (h : (checkSpace s sl space q n { wr := wr } who none lane).map (fun r => (Spot.mem r.1, r.2)) = .ok (a, t)) :
      ∃ space q tg, checkSpace s sl space q n { wr := wr } who none lane = .ok (tg, t) ∧ a = .mem tg := by
    cases checked : checkSpace s sl space q n { wr := wr } who none lane with
    | error _ => rw [checked] at h; cases h
    | ok r => rw [checked] at h; cases h; exact ⟨_, _, _, checked, rfl⟩
  have regs {x : Spot} (h : regSpot p d n lane = .ok x) : ∃ o, x = .regs o := by
    unfold regSpot at h
    dsimp only at h
    split at h
    · cases h
    · split at h
      · cases h
      · split at h <;> cases h
        exact ⟨_, rfl⟩
  unfold engSpot at h
  split at h
  · split at h
    · cases h
    · next inside =>
      dsimp only at h
      split at h <;> cases h
      exact .inl ⟨rfl, regs inside⟩
  · split at h
    · cases h
    · dsimp only at h
      by_cases global : sp = .global
      · rw [if_pos global, if_pos global] at h
        split at h
        · cases h
        · split at h
          · cases h
          · exact .inr (mapped h)
      · rw [if_neg global, if_neg global] at h
        split at h
        · cases h
        · split at h
          · cases h
          · exact .inr (mapped h)

theorem engSpot_onlyTlb {s t : State} {sl : Ctx} {sp : EngSpace} {p : Word} {d : Int} {n lane : Nat} {wr : Bool} {who : Option Who} {a : Spot}
    (h : engSpot s sl sp p d n wr who lane = .ok (a, t)) : OnlyTlb s t := by
  rcases engSpot_ok h with ⟨rfl, -⟩ | ⟨_, _, _, checked, -⟩
  · exact .refl _
  · exact checkSpace_only checked

/-! ### Watchpoints of engines (17 R263) -/

/-- An access that meets no watchpoint goes on, whatever with. -/
theorem engWatch_passes {α : Type} {s : State} {w : Option Ctx} {l : List EngAccess} (h : engWatch s w l () = .ok ()) (x : α) :
    engWatch s w l x = .ok x := by
  unfold engWatch at h ⊢
  split at h
  · rfl
  · cases h

/-- Without a debugger no entry meets one. -/
theorem engWatch_unwatched {α : Type} {s : State} {w : Option Ctx} (h : w = none) (l : List EngAccess) (x : α) : engWatch s w l x = .ok x := by
  have none : l.find? (fun a => !(a.points s w).isEmpty) = none := by
    rw [List.find?_eq_none]
    intro a _
    unfold EngAccess.points engPoints
    rw [h]
    cases a.sp <;> simp
  unfold engWatch
  rw [none]

theorem Core.watching_off {k : Core} (h : k.debugger = .none) (e : Entry) : k.watching e = none := by
  unfold Core.watching
  rw [if_pos (.inl h)]

/-! ### The entry of a number -/

theorem Core.entry_num {k : Core} {ch : ChainId} {n : Nat} {e : Entry} (h : k.entry ch n = some e) : e.num = n := by
  unfold Core.entry at h
  simpa using List.find?_some h

theorem Core.entry_congr {k l : Core} {ch : ChainId} (h : l.chain ch = k.chain ch) (n : Nat) : l.entry ch n = k.entry ch n := by
  unfold Core.entry
  rw [h]

/-- An update of the entry that a number finds. -/
theorem Core.entry_modEntry {k : Core} {ch : ChainId} {n : Nat} {e : Entry} {f : Entry → Entry} (found : k.entry ch n = some e)
    (keeps : ∀ e, (f e).num = e.num) : (k.modEntry ch n f).entry ch n = some (f e) := by
  unfold Core.entry at found ⊢
  unfold Core.modEntry
  rw [Core.chain_modChain_same, find?_mapIf (fun x => by rw [keeps]), found]
  rfl

section
variable (k : Core) (ch : ChainId) (n : Nat) (f : Entry → Entry)

theorem Core.modEntry_ctx (c : Ctx) : (k.modEntry ch n f).ctx c = k.ctx c := by cases ch <;> cases c <;> rfl

theorem Core.modEntry_fields : (k.modEntry ch n f).rs = k.rs ∧ (k.modEntry ch n f).rsGen = k.rsGen ∧ (k.modEntry ch n f).trace = k.trace ∧
    (k.modEntry ch n f).allocs = k.allocs := by cases ch <;> exact ⟨rfl, rfl, rfl, rfl⟩

end

/-! ### An event of an entry -/

/-- A core runs between steps: its clock is not held, and no trace buffer is enabled. -/
structure Runs (s : State) : Prop where
  between : s.wlog = []
  phase : s.core.phase = .run
  clock : s.core.throttled = false
  untraced : s.core.traces = false

theorem Runs.working {s : State} (h : Runs s) : s.core.working = true := by
  unfold Core.working
  rw [h.clock, h.phase]
  rfl

/-- With no trace buffer an engine does what it does for an entry, and nothing more. -/
theorem State.asEntry_untraced {s u : State} {e : Entry} {f : State → State} (does : f (s.modCore (fun k => { k with cur := e.ctx })) = u)
    (off : u.core.traces = false) : s.asEntry e f = u.modCore (fun k => { k with cur := s.core.cur }) := by
  have untraced (at' : BitVec 8 × Word) (lpc : Word) : s.traceWalks u at' lpc = u := by
    unfold State.traceWalks
    rw [off]
    rfl
  unfold State.asEntry
  dsimp only
  rw [does, untraced]

theorem State.settleEnd_run {s : State} (h : s.core.phase = .run) : s.settleEnd = s := by
  unfold State.settleEnd
  rw [h]

/-! ### Completion (08 R154) -/

/-- The next entry completes where none above it has: the counter takes its number. -/
theorem Chain.finish_next {c : Chain} {n : Nat} (next : n = c.counter + 1) (first : c.finished = []) : (c.finish n).counter = n := by
  unfold Chain.finish
  subst next
  simp [first, counterGo]

/-- A completed entry has left its chain. -/
theorem Chain.finish_gone (c : Chain) (n : Nat) : (c.finish n).entries.find? (fun e => e.num == n) = none := by
  unfold Chain.finish
  simp

/-- The chain has finished an entry, and freed allocations that none names are gone. -/
def Core.finished (k : Core) (ch : ChainId) (n : Nat) : Core := (k.modChain ch (fun c => c.finish n)).reap

section
variable (k : Core) (ch : ChainId) (n : Nat)

theorem Core.finished_chain : (k.finished ch n).chain ch = (k.chain ch).finish n := by cases ch <;> rfl

theorem Core.finished_phase : (k.finished ch n).phase = k.phase := by cases ch <;> rfl

theorem Core.finished_rings : (k.finished ch n).rings = k.rings := by cases ch <;> rfl

theorem Core.finished_entry : (k.finished ch n).entry ch n = none := by
  unfold Core.entry
  rw [Core.finished_chain]
  exact Chain.finish_gone _ n

end

end Sys2Proof.Machine
end

section
/-! PROOFS. O38: the events of a SEND to an address of the module (spec/08 R169; spec/12 R205; spec/22 R349). -/

namespace Sys2Proof.Machine

/-- The release of a flag add leaves the core. -/
theorem releaseEntry_core (s : State) (e : Entry) (t : Target) (v : Word) : (releaseEntry s e t v).core = s.core := by
  have notified (x : State) (pa : Nat) (l : Option (List Known × Bool)) : (x.notified pa 8 v l).core = x.core := by
    unfold State.notified
    split
    · split
      · dsimp only
        split
        · split <;> rfl
        · rfl
      · rfl
    · rfl
  unfold releaseEntry
  split
  · exact notified ..
  · rfl

/-- A SEND to an address of the module, begun, that meets no watchpoint. -/
structure Sends (s : State) (n : Nat) (e : Entry) : Prop where
  found : s.core.entry .tsx n = some e
  begun : e.begun = true
  kind : e.kind = .send
  sound : e.failed = none
  here : e.remote = false
  unwatched : s.core.debugger = .none

/-- The payload, read in t, has been written at DST. -/
def State.payloadSent (s t : State) (e : Entry) (a : Spot) (tg : Target) : State :=
  performWrite (performReadSpot t (s.engineWho e) a) (s.engineWho e) s.unchecked none (readSpot t (le e.body 28 4) a) tg

/-- The flag, checked in t, has taken the sum, with a release. -/
def State.flagAdded (s t : State) (e : Entry) (tg : Target) : State :=
  let v := (leNat (readTarget t tg) + le e.body 16 8) % 2 ^ 64
  releaseEntry (performWrite t (s.engineWho e) s.unchecked (syncKey tg 8) (leBytes 8 v) tg) e tg (w64 v)

section
variable {s s1 s2 : State} {n : Nat} {e : Entry} {a : Spot} {tg : Target} (runs : Runs s) (sends : Sends s n e)

/-- What SEND_PAYLOAD does in the context of its entry. -/
theorem sendPayload_eq (here : e.remote = false) (unwatched : s.core.debugger = .none)
    (read : engSpot s .S (engSpace (le e.body 38 2 % 4)) e.src 0 (le e.body 28 4) false (s.engineWho e) 0 = .ok (a, s1))
    (write : checkSpace s1 .S .global (w64 (le e.body 0 8)) (le e.body 28 4) { wr := true } (s.engineWho e) none 0 = .ok (tg, s2)) :
    sendPayload s e = (s.payloadSent s2 e a tg).modCore (fun k => k.modEntry .tsx e.num (fun e => { e with done := [1] })) := by
  have space : fld (le e.body 38 2) 0 2 = le e.body 38 2 % 4 := fld_zero ..
  unfold sendPayload
  dsimp only
  rw [space, read]
  dsimp only
  rw [here, if_neg Bool.false_ne_true, write]
  dsimp only
  rw [engWatch_unwatched (Core.watching_off unwatched e)]
  rfl

include runs sends

/-- The payload is read on the sending core and written at DST (08 R169). -/
theorem sendPayload_sends (first : e.done = [])
    (read : engSpot (s.onCtx e.ctx) .S (engSpace (le e.body 38 2 % 4)) e.src 0 (le e.body 28 4) false (s.engineWho e) 0 = .ok (a, s1))
    (write : checkSpace s1 .S .global (w64 (le e.body 0 8)) (le e.body 28 4) { wr := true } (s.engineWho e) none 0 = .ok (tg, s2)) :
    ∃ u : State, Takes (.sendPayload n) s ((s.payloadSent s2 e a tg).modCore
        (fun k => { k.modEntry .tsx n (fun e => { e with done := [1] }) with cur := s.core.cur })) ∧
      exec (.sendPayload n) s = .next u ∧ u.core.entry .tsx n = some { e with done := [1] } := by
  obtain ⟨found, begun, kind, sound, here, unwatched⟩ := sends
  have num := Core.entry_num found
  have access : Accessed (s.onCtx e.ctx) (s.payloadSent s2 e a tg) :=
    (((engSpot_onlyTlb read).trans (checkSpace_only write)).accessed.trans (performReadSpot_onlyRead ..).toAccessed).trans
      (performWrite_accessed ..)
  have off : ((s.payloadSent s2 e a tg).modCore (fun k => k.modEntry .tsx e.num (fun e => { e with done := [1] }))).core.traces = false :=
    (Core.traces_congr ((Core.modEntry_fields ..).2.2.1.trans access.trace)).trans runs.untraced
  have takes : Takes (.sendPayload n) s ((s.payloadSent s2 e a tg).modCore
      (fun k => { k.modEntry .tsx n (fun e => { e with done := [1] }) with cur := s.core.cur })) := by
    unfold Takes
    show execSendPayload n s = _
    unfold execSendPayload
    rw [runEvent_eq runs.between, found]
    dsimp only
    rw [runs.working, begun, kind, first, sound, if_pos (by decide),
      State.asEntry_untraced (sendPayload_eq (s := s.onCtx e.ctx) here unwatched read write) off, num]
    rfl
  exact ⟨_, takes, takes, Core.entry_modEntry ((Core.entry_congr (access.chain .tsx) n).trans found) (fun _ => rfl)⟩

/-- After the payload the flag grows by ADDEND, with a release (08 R169). -/
theorem sendFlagAdd_adds (paid : e.done = [1]) (flag : le e.body 8 8 ≠ 0)
    (write : checkSpace (s.onCtx e.ctx) .S .global (w64 (le e.body 8 8)) 8 { wr := true, align := true } (s.engineWho e) (some 8) 0 =
      .ok (tg, s1)) : Takes (.sendFlagAdd n) s ((s.flagAdded s1 e tg).modCore
        (fun k => { k.modEntry .tsx n (fun e => { e with done := [2, 1] }) with cur := s.core.cur })) := by
  obtain ⟨found, begun, kind, sound, here, -⟩ := sends
  have trace : (s.flagAdded s1 e tg).core.trace = s.core.trace := by
    unfold State.flagAdded
    rw [releaseEntry_core]
    exact ((checkSpace_only write).accessed.trans (performWrite_accessed ..)).trace
  have off : ((s.flagAdded s1 e tg).modCore (fun k => k.modEntry .tsx n (fun e => { e with done := [2, 1] }))).core.traces = false :=
    (Core.traces_congr ((Core.modEntry_fields ..).2.2.1.trans trace)).trans runs.untraced
  have nonzero : (w64 (le e.body 8 8) != 0) = true := bne_iff_ne.mpr (w64_le_ne_zero flag)
  unfold Takes
  show execSendFlagAdd n s = _
  unfold execSendFlagAdd
  rw [runEvent_eq runs.between, found]
  dsimp only
  rw [runs.working, begun, kind, paid, sound, nonzero, if_neg (by decide), State.asEntry_untraced ?_ off]
  · rfl
  · change checkSpace (s.onCtx e.ctx) _ _ _ _ _ ((s.onCtx e.ctx).engineWho e) _ _ = _ at write
    rw [here, if_neg Bool.false_ne_true, show (s.modCore fun k => { k with cur := e.ctx }) = s.onCtx e.ctx from rfl, write]
    rfl

/-- Then it completes, and the counter advances (08 R154). -/
theorem sendCompletion_completes (done : e.done.length = (if le e.body 8 8 = 0 then 1 else 2)) (next : n = s.core.tsx.counter + 1)
    (first : s.core.tsx.finished = []) : ∃ t, exec (.sendCompletion n) s = .next t ∧ t.core.tsx.counter = n ∧ t.core.entry .tsx n = none ∧
      t.m.reports = s.m.reports ∧ t.mem = s.mem := by
  obtain ⟨found, begun, kind, sound, here, unwatched⟩ := sends
  have takes : Takes (.sendCompletion n) s ((s.modM (fun m => { m with reports := m.reports ++ [] })).modCore (fun k => k.finished .tsx n)) := by
    unfold Takes
    show execSendCompletion n s = _
    unfold execSendCompletion
    rw [runEvent_eq runs.between, found]
    dsimp only
    rw [runs.working, begun, kind, sound, done, if_neg (by simp), State.settleEnd_run (runs.phase ▸ Core.finished_phase s.core .tsx n)]
    rfl
  exact ⟨_, takes, Chain.finish_next next first, Core.finished_entry .., List.append_nil _, settled_mem_of_quiet runs.between⟩

end

/-- Settles O38, event by event. -/
theorem sendEvents : Obligations.SendEvents := by
  unfold Obligations.SendEvents
  intro s s1 s2 n e a tg between phase clock found begun kind sound here unwatched untraced
  have runs : Runs s := ⟨between, phase, clock, untraced⟩
  have sends : Sends s n e := ⟨found, begun, kind, sound, here, unwatched⟩
  exact ⟨sendPayload_sends runs sends, sendFlagAdd_adds runs sends, sendCompletion_completes runs sends⟩

end Sys2Proof.Machine
end

section
/-! PROOFS. A chunk of a copy: the bytes that it stores, and where (spec/08 R157, R158, R160). -/

namespace Sys2Proof.Machine

/-! ### Stores whose unlisted bytes are unspecified -/

/-- A run of bytes is listed where it was put, and every other address as before. -/
theorem Cells.find_putRun (bs : Bytes) : ∀ (c : Cells) (o x : Nat),
    (c.putRun o bs).find x = if o ≤ x ∧ x < o + bs.length then some (bs.getD (x - o) 0) else c.find x := by
  induction bs with
  | nil => intro c o x; rw [if_neg (by simp only [List.length_nil]; omega)]; rfl
  | cons b r ih =>
    intro c o x
    show ((c.insert o b).putRun (o + 1) r).find x = _
    rw [ih, Cells.find_insert, List.length_cons]
    rcases Nat.lt_trichotomy x o with lt | rfl | gt
    · rw [if_neg (by omega), if_neg (by omega), if_neg (by omega)]
    · rw [if_neg (by omega), if_pos rfl, if_pos (by omega), Nat.sub_self]; rfl
    · have next : x - o = x - (o + 1) + 1 := by omega
      rw [next, List.getD_cons_succ, if_neg (show ¬ x = o by omega)]
      exact if_congr (by omega) rfl rfl

theorem Core.rsByte_congr {k l : Core} (rs : l.rs = k.rs) (gen : l.rsGen = k.rsGen) : l.rsByte = k.rsByte := by
  unfold Core.rsByte
  rw [rs, gen]

/-- Register space reads back what was put there. -/
theorem Core.rsRun_rsPut (k : Core) (o : Nat) (bs : Bytes) : (k.rsPut o bs).rsRun o bs.length = bs := by
  rw [Core.rsRun_eq]
  refine List.ext_getElem (by rw [List.length_map, List.length_range']) fun i h h' => ?_
  rw [List.getElem_map, List.getElem_range', Nat.one_mul]
  unfold Core.rsByte Core.rsPut
  rw [Cells.find_putRun, if_pos (by omega), Nat.add_sub_cancel_left, List.getD_eq_getElem _ _ h']

/-! ### Where a chunk lies -/

/-- A check that is passed. -/
theorem ok_of_guarded {α : Type} {p : Prop} [Decidable p] {x : Stop} {r : Except Stop α} {a : α} (h : (if p then .error x else r) = .ok a) :
    r = .ok a := by
  split at h
  · cases h
  · exact h

/-- Bytes that a spot of n bytes stands for have been checked in s. -/
def Spot.Lies (s : State) (n : Nat) : Spot → Prop
  | .regs _ => True
  | .mem tg => tg.Reaches s n

theorem engSpot_lies {s t : State} {sl : Ctx} {sp : EngSpace} {p : Word} {d : Int} {n lane : Nat} {wr : Bool} {who : Option Who} {a : Spot}
    (h : engSpot s sl sp p d n wr who lane = .ok (a, t)) : a.Lies s n := by
  rcases engSpot_ok h with ⟨-, _, rfl⟩ | ⟨_, _, _, checked, rfl⟩
  · trivial
  · exact checkSpace_reaches checked

theorem readSpot_length {s t : State} {n : Nat} {a : Spot} (h : a.Lies s n) : (readSpot t n a).length = n := by
  cases a with
  | regs o =>
    show (t.core.rsRun o n).length = n
    rw [Core.rsRun_eq, List.length_map, List.length_range']
  | mem tg => exact readTarget_length h

/-- The destination of a chunk is checked, in the space that the nest names or in the slot of the ring. -/
theorem destSpot_ok {s t : State} {e : Entry} {n : Nest} {k : Nat} {who : Option Who} {b : Spot} {y : Word}
    (h : destSpot s e n k who = .ok (b, y, t)) : OnlyTlb s t ∧ b.Lies s n.c := by
  unfold destSpot at h
  dsimp only at h
  split at h
  · cases spot : engSpot s (if e.merged then .S else e.ctx) n.dsp n.dst (n.dPos 0 k - ptrStart n.dsp n.dst) n.c true who k with
    | error _ => rw [spot] at h; cases h
    | ok r => rw [spot] at h; cases h; exact ⟨engSpot_onlyTlb spot, engSpot_lies spot⟩
  · split at h
    · cases h
    · next q _ =>
      split at h
      · cases h
      · have h := ok_of_guarded h
        cases checked : checkSpace s (if e.merged then .S else e.ctx) .scratch q n.c { wr := true } who none k with
        | error _ => rw [checked] at h; cases h
        | ok r => rw [checked] at h; cases h; exact ⟨checkSpace_only checked, checkSpace_reaches checked⟩

/-- A chunk holds 2 KiB at most (08 R156). -/
theorem nestOf_chunk (b : Bytes) : (nestOf b).c ≤ 4096 := by
  have code : fld (le b 88 8) 0 3 < 8 := fld_lt ..
  have power : 2 ^ fld (le b 88 8) 0 3 ≤ 2 ^ 7 := Nat.pow_le_pow_right (by decide) (by omega)
  show 16 * 2 ^ fld (le b 88 8) 0 3 ≤ 4096
  omega

/-! ### The bytes of a chunk -/

theorem chunkBytes_length (s : State) (e : Entry) (n : Nest) (base k : Nat) (bs : Bytes) : (chunkBytes s e n base k bs).length = bs.length := by
  unfold chunkBytes
  split
  · rw [List.length_map, List.length_zipIdx]
  · rfl

theorem keepLater_length (e : Entry) (n : Nest) (base k : Nat) {old new : Bytes} (same : old.length = new.length) :
    (keepLater e n base k old new).length = new.length := by
  unfold keepLater
  dsimp only
  split
  · rfl
  · rw [List.length_map, List.length_zipIdx, List.length_zip, same, Nat.min_self]

/-- Where no later chunk has been written and the entry writes none of its source, they are the bytes read (08 R157). -/
theorem keepLater_first {e : Entry} {n : Nest} {base k : Nat} (first : ∀ i ∈ e.done, i < k) (old new : Bytes) :
    keepLater e n base k old new = new := by
  have none : e.done.filter (fun j => decide (k < j)) = [] := by
    rw [List.filter_eq_nil_iff]
    intro j mem
    have := first j mem
    simp only [decide_eq_true_eq]
    omega
  unfold keepLater
  rw [none]
  rfl

theorem chunkBytes_apart {s : State} {e : Entry} {n : Nest} (apart : sameSpace e n = false) (base k : Nat) (bs : Bytes) :
    chunkBytes s e n base k bs = bs := by
  unfold chunkBytes
  rw [apart]
  rfl

/-- First byte of the ring slot that an entry fills. -/
def State.slotBase (s : State) (e : Entry) : Nat :=
  match e.ring with
  | some (num, slot) => ((s.core.ring num).map (fun r => slot * r.slotsz * 256)).getD 0
  | none => 0

/-- The bytes that chunk k stores at b, read from a once both have been checked, in t. -/
def State.chunkStored (s t : State) (e : Entry) (k : Nat) (a b : Spot) : Bytes :=
  keepLater e (nestOf e.body) (s.slotBase e) k (readSpot t (nestOf e.body).c b)
    (chunkBytes t e (nestOf e.body) (s.slotBase e) k (readSpot t (nestOf e.body).c a))

theorem State.chunkStored_length {s t s1 s2 : State} {e : Entry} {k : Nat} {a b : Spot} (ha : a.Lies s1 (nestOf e.body).c)
    (hb : b.Lies s2 (nestOf e.body).c) : (s.chunkStored t e k a b).length = (nestOf e.body).c := by
  unfold State.chunkStored
  rw [keepLater_length _ _ _ _ (by rw [chunkBytes_length, readSpot_length ha, readSpot_length hb]), chunkBytes_length, readSpot_length ha]

/-! ### What it leaves of allocations -/

theorem Alloc.noteFor_undo (ord : Nat) (f : Undo → Undo) (a : Alloc) : ∃ u, a.noteFor ord f = { a with undo := u } := by
  unfold Alloc.noteFor Alloc.note
  split <;> exact ⟨_, rfl⟩

/-- A changed layout tag leaves the bytes of an allocation. -/
theorem Alloc.relayout_keepsBytes (ord : Nat) (l : BitVec 14) : KeepsBytes (Alloc.relayout ord l) := by
  have only (x : Alloc) : ∃ u la, Alloc.relayout ord l x = { x with undo := u, layout := la } := by
    unfold Alloc.relayout
    split
    · exact ⟨x.undo, x.layout, rfl⟩
    · obtain ⟨u, h⟩ := Alloc.noteFor_undo ord (fun u => { u with layout := l }) x
      rw [h]
      exact ⟨u, l, rfl⟩
  refine ⟨fun x => ?_, fun x => ?_⟩ <;> obtain ⟨u, la, h⟩ := only x <;> rw [h]
  · exact ⟨rfl, rfl, rfl⟩
  · rfl

/-- A write without a window puts its bytes into the allocation that stands. -/
theorem performWrite_priv {s : State} {id : BitVec 8} {off n : Nat} (found : (s.core.alloc id).isSome = true) (who : Option Who) (un : Bool)
    (sy : Option (Nat × Nat)) (bs : Bytes) : ∃ y, (performWrite s who un sy bs (.priv id off n)).core.alloc id = some y ∧
      ∀ i, i < bs.length → y.byte (off + i) = bs.getD i 0 := by
  obtain ⟨a, ha⟩ := Option.isSome_iff_exists.mp found
  refine ⟨_, Core.alloc_modAlloc ((Core.alloc_healScratch s.core id off n id).trans ha) (fun x => ?_), fun i hi => ?_⟩
  · unfold clearRows
    split <;> exact ⟨rfl, rfl, rfl⟩
  · unfold Alloc.byte
    dsimp only
    rw [Cells.find_putRun, if_pos (by omega), Nat.add_sub_cancel_left]

/-! ### The chunk -/

/-- An entry with one more chunk done. -/
def Entry.chunked (e : Entry) (k now : Nat) : Entry := { e with done := k :: e.done, first := some (e.first.getD now) }

/-- The core with it, a chunk counted. -/
def Core.chunked (c : Core) (ch : ChainId) (n k now : Nat) : Core := (c.modEntry ch n (fun e => e.chunked k now)).count 5 1

section
variable (c : Core) (ch : ChainId) (n k now : Nat)

theorem Core.chunked_ctx (x : Ctx) : (c.chunked ch n k now).ctx x = c.ctx x := by cases ch <;> cases x <;> rfl

theorem Core.chunked_fields : (c.chunked ch n k now).rs = c.rs ∧ (c.chunked ch n k now).rsGen = c.rsGen ∧
    (c.chunked ch n k now).trace = c.trace ∧ (c.chunked ch n k now).allocs = c.allocs := by cases ch <;> exact ⟨rfl, rfl, rfl, rfl⟩

theorem Core.chunked_chain : (c.chunked ch n k now).chain ch = (c.modEntry ch n (fun e => e.chunked k now)).chain ch := by cases ch <;> rfl

end

/-- The source of a chunk has been read in t; lines that a ring fill has brought into its window are pinned for the slot (07 R150). -/
def State.chunkRead (s t : State) (e : Entry) (a : Spot) : State :=
  match e.ring with
  | some r =>
    if (nestOf e.body).ssp = .scratch then
      (performReadSpot t (s.engineWho e) a).modCore (fun c => pinAhead t.core c (ptrId (nestOf e.body).src) r)
    else performReadSpot t (s.engineWho e) a
  | none => performReadSpot t (s.engineWho e) a

theorem State.chunkRead_onlyRead (s t : State) (e : Entry) (a : Spot) : OnlyRead t (s.chunkRead t e a) := by
  unfold State.chunkRead
  split
  · split
    · exact (performReadSpot_onlyRead ..).trans (pinAhead_onlyRead ..)
    · exact performReadSpot_onlyRead ..
  · exact performReadSpot_onlyRead ..

/-- After the write of a chunk: the first one sets the layout tag (08 R158), and a copy within one space has used a free value. -/
def State.chunkNoted (w : State) (e : Entry) : State :=
  let laid := if (nestOf e.body).dsp = .scratch ∧ e.done = [] then
      w.modCore (fun c => modAlloc c (((e.ranges.find? (·.wr)).map (·.id)).getD 0) (Alloc.relayout e.ord (nestOf e.body).layout))
    else w
  if sameSpace e (nestOf e.body) then laid.modM (fun m => { m with free := m.free + 1 }) else laid

theorem State.chunkNoted_onlyRead (w : State) (e : Entry) : OnlyRead w (w.chunkNoted e) := by
  have laid : OnlyRead w (if (nestOf e.body).dsp = .scratch ∧ e.done = [] then
      w.modCore (fun c => modAlloc c (((e.ranges.find? (·.wr)).map (·.id)).getD 0) (Alloc.relayout e.ord (nestOf e.body).layout))
    else w) := by
    split
    · exact .modAlloc (g := fun k => k) (fun k => ⟨k.badScratch, rfl⟩) _ (f := fun _ => Alloc.relayout e.ord (nestOf e.body).layout)
        (fun _ => Alloc.relayout_keepsBytes _ _)
    · exact .refl w
  unfold State.chunkNoted
  dsimp only
  split
  · exact laid.trans (.modM ..)
  · exact laid

/-- Chunk k of an entry has been read at a and written at b, both checked in t. -/
def State.chunkMoved (s t : State) (e : Entry) (k : Nat) (a b : Spot) : State :=
  (writeSpot (s.chunkRead t e a) (s.engineWho e) (s.chunkStored t e k a b) b).chunkNoted e

/-- A chunk whose checks pass, on the context of its entry. -/
theorem copyChunk_eq {s s1 s2 : State} (ch : ChainId) {e : Entry} {k : Nat} {a b : Spot} {y : Word}
    (read : engSpot s (if e.merged then .S else e.ctx) (nestOf e.body).ssp (nestOf e.body).src ((nestOf e.body).sAt k) (nestOf e.body).c
      false (s.engineWho e) k = .ok (a, s1))
    (write : destSpot s1 e (nestOf e.body) k (s.engineWho e) = .ok (b, y, s2))
    (passes : engWatch s (s.core.watching e) [⟨(nestOf e.body).ssp, engAt s.core (nestOf e.body).ssp (nestOf e.body).src
      ((nestOf e.body).sAt k), (nestOf e.body).c, false⟩, ⟨(nestOf e.body).dsp, y, (nestOf e.body).c, true⟩] () = .ok ()) :
    copyChunk s ch e k = (s.chunkMoved s2 e k a b).modCore (fun c => c.chunked ch e.num k s.core.nowAt) := by
  unfold copyChunk
  dsimp only
  rw [read]
  dsimp only
  rw [write]
  dsimp only
  rw [engWatch_passes passes]
  unfold State.chunkMoved State.chunkStored
  rw [← (s.chunkRead_onlyRead s2 e a).readSpot _ b]
  rfl

end Sys2Proof.Machine
end

section
/-! PROOFS. COPY_CHUNK: what a chunk stores, and what it leaves (spec/08 R157, R160). -/

namespace Sys2Proof.Machine

/-! ### What a chunk leaves of the core -/

/-- The chains, the registers of every context and the trace registers are the same. -/
structure Steady (s t : State) : Prop where
  chain : ∀ ch, t.core.chain ch = s.core.chain ch
  get : ∀ c n, (t.core.ctx c).get n = (s.core.ctx c).get n
  trace : t.core.trace = s.core.trace

theorem Steady.trans {s t u : State} (h : Steady s t) (h' : Steady t u) : Steady s u :=
  ⟨fun ch => (h'.chain ch).trans (h.chain ch), fun c n => (h'.get c n).trans (h.get c n), h'.trace.trans h.trace⟩

theorem Accessed.steady {s t : State} (h : Accessed s t) : Steady s t := ⟨h.chain, h.get, h.trace⟩

theorem OnlyRead.steady {s t : State} (h : OnlyRead s t) : Steady s t := h.toAccessed.steady

theorem Core.ctx_withCur (k : Core) (d c : Ctx) : ({ k with cur := d } : Core).ctx c = k.ctx c := by
  cases c <;> rfl

theorem State.onCtx_steady (s : State) (c : Ctx) : Steady s (s.onCtx c) :=
  ⟨fun ch => Core.chain_withCur s.core c ch, fun x n => congrArg (Context.get · n) (Core.ctx_withCur s.core c x), rfl⟩

theorem writeSpot_steady (s : State) (who : Option Who) (bs : Bytes) (b : Spot) : Steady s (writeSpot s who bs b) := by
  cases b with
  | mem tg => exact (performWrite_accessed ..).steady
  | regs o => exact ⟨fun ch => by cases ch <;> rfl, fun c _ => by cases c <;> rfl, rfl⟩

section
variable (s t : State) (e : Entry) (k : Nat)

theorem State.chunkMoved_steady (a b : Spot) : Steady t (s.chunkMoved t e k a b) :=
  ((s.chunkRead_onlyRead t e a).steady.trans (writeSpot_steady ..)).trans (State.chunkNoted_onlyRead ..).steady

/-- Register space holds the bytes stored there, and no byte of memory is written. -/
theorem State.chunkMoved_regs (a : Spot) (o : Nat) :
    (s.chunkMoved t e k a (.regs o)).core.rsRun o (s.chunkStored t e k a (.regs o)).length = s.chunkStored t e k a (.regs o) ∧
      (s.chunkMoved t e k a (.regs o)).wlog = t.wlog := by
  have noted := (writeSpot (s.chunkRead t e a) (s.engineWho e) (s.chunkStored t e k a (.regs o)) (.regs o)).chunkNoted_onlyRead e
  obtain ⟨rs, gen, -⟩ := noted.spaces
  refine ⟨?_, noted.wlog.trans (s.chunkRead_onlyRead t e a).wlog⟩
  unfold State.chunkMoved
  rw [Core.rsRun_eq, Core.rsByte_congr rs gen, ← Core.rsRun_eq]
  exact Core.rsRun_rsPut ..

/-- A chunk of global or scratch memory leaves register space. -/
theorem State.chunkMoved_mem_rs (a : Spot) (tg : Target) : (s.chunkMoved t e k a (.mem tg)).core.rs = t.core.rs :=
  (((s.chunkRead_onlyRead t e a).toAccessed.trans (performWrite_accessed ..)).trans (State.chunkNoted_onlyRead ..).toAccessed).spaces.1

variable {t}

/-- The bytes of global memory that it writes. -/
theorem State.chunkMoved_commit (quiet : t.wlog = []) (c : Cells) (a : Spot) (tg : Target) :
    c.commit (s.chunkMoved t e k a (.mem tg)).wlog = putPieces c tg.pieces (s.chunkStored t e k a (.mem tg)) := by
  have empty : (s.chunkRead t e a).wlog = [] := (s.chunkRead_onlyRead t e a).wlog.trans quiet
  unfold State.chunkMoved
  rw [(State.chunkNoted_onlyRead _ e).wlog]
  refine (commit_performWrite ..).trans ?_
  rw [empty]
  rfl

/-- An allocation without a window holds the bytes stored there. -/
theorem State.chunkMoved_priv {id : BitVec 8} (found : (t.core.alloc id).isSome = true) (a : Spot) (off n : Nat) :
    ∃ y, (s.chunkMoved t e k a (.mem (.priv id off n))).core.alloc id = some y ∧
      ∀ i, i < (s.chunkStored t e k a (.mem (.priv id off n))).length →
        y.byte (off + i) = (s.chunkStored t e k a (.mem (.priv id off n))).getD i 0 := by
  obtain ⟨x, hx, stored⟩ := performWrite_priv ((s.chunkRead_onlyRead t e a).alloc_isSome found) (s.engineWho e)
    (s.chunkRead t e a).unchecked none (s.chunkStored t e k a (.mem (.priv id off n))) (off := off) (n := n)
  have bytes := ((writeSpot (s.chunkRead t e a) (s.engineWho e) (s.chunkStored t e k a (.mem (.priv id off n)))
    (.mem (.priv id off n))).chunkNoted_onlyRead e).bytes id
  rw [show (writeSpot (s.chunkRead t e a) (s.engineWho e) (s.chunkStored t e k a (.mem (.priv id off n)))
    (.mem (.priv id off n))).core.alloc id = some x from hx] at bytes
  obtain ⟨y, hy, same⟩ := Option.map_eq_some_iff.mp bytes
  exact ⟨y, hy, fun i hi => (congrFun same _).trans (stored i hi)⟩

end

/-- Where no byte of a checked access lies at the place of another one, and it has as many as it reaches, each reads back. -/
theorem Target.Reaches.get_putPieces {s : State} {n : Nat} {tg : Target} (h : tg.Reaches s n) (small : n ≤ 4096) {c : Cells}
    (wf : Memory.wf c = true) {bs : Bytes} (long : bs.length = n) {i y : Nat} (at' : tg.places[i]? = some y) :
    (putPieces c tg.pieces bs).get y = bs.getD i 0 := by
  have follows {ps : List Piece} {v : Nat} (h : Follows ps v n) (at' : (placesOf ps)[i]? = some y) : (putPieces c ps bs).get y = bs.getD i 0 :=
    get_putPieces_at wf (h.nodup small) (long.trans h.length.symm) at'
  cases tg with
  | glob ps => obtain ⟨v, h⟩ := h; exact follows h at'
  | stash id off m ps => obtain ⟨v, h⟩ := h; exact follows h at'
  | priv id off m => cases at'

/-! ### The event -/

section
variable {s s1 s2 : State} {ch : ChainId} {n k : Nat} {e : Entry} {a b : Spot} {y : Word} (runs : Runs s)
  (found : s.core.entry ch n = some e) (begun : e.begun = true) (kind : e.kind = .copy) (fresh : k ∉ e.done)
  (inside : k < prodList (nestOf e.body).count)
  (read : engSpot (s.onCtx e.ctx) (if e.merged then .S else e.ctx) (nestOf e.body).ssp (nestOf e.body).src ((nestOf e.body).sAt k)
    (nestOf e.body).c false (s.engineWho e) k = .ok (a, s1))
  (write : destSpot s1 e (nestOf e.body) k (s.engineWho e) = .ok (b, y, s2))
  (passes : engWatch (s.onCtx e.ctx) (s.core.watching e) [⟨(nestOf e.body).ssp, engAt s.core (nestOf e.body).ssp (nestOf e.body).src
    ((nestOf e.body).sAt k), (nestOf e.body).c, false⟩, ⟨(nestOf e.body).dsp, y, (nestOf e.body).c, true⟩] () = .ok ())
include runs found begun kind fresh inside read write passes

theorem takes_copyChunk : Takes (.copyChunk ch n k) s ((((s.onCtx e.ctx).chunkMoved s2 e k a b).modCore
    (fun c => c.chunked ch n k s.core.nowAt)).modCore (fun c => { c with cur := s.core.cur })) := by
  have steady : Steady (s.onCtx e.ctx) ((s.onCtx e.ctx).chunkMoved s2 e k a b) :=
    ((engSpot_onlyTlb read).trans (destSpot_ok write).1).onlyRead.steady.trans (State.chunkMoved_steady ..)
  have off : (((s.onCtx e.ctx).chunkMoved s2 e k a b).modCore (fun c => c.chunked ch e.num k s.core.nowAt)).core.traces = false :=
    (Core.traces_congr ((Core.chunked_fields ..).2.2.1.trans steady.trace)).trans runs.untraced
  have missing : e.done.contains k = false := by
    rw [Bool.eq_false_iff, ne_eq, List.contains_iff_mem]
    exact fresh
  unfold Takes
  show execCopyChunk ch n k s = _
  unfold execCopyChunk
  rw [runEvent_eq runs.between, found]
  dsimp only
  rw [runs.working, begun, kind, missing, decide_eq_true inside, if_pos (by decide),
    State.asEntry_untraced (copyChunk_eq (s := s.onCtx e.ctx) ch read write passes) off, Core.entry_num found]

/-- What a chunk of a copy leaves: its entry goes on, registers stay, and its bytes stand at its destination and nowhere else. -/
theorem copyChunk_stores (wf : Memory.wf s.mem = true) :
    let bs := (s.onCtx e.ctx).chunkStored s2 e k a b
    ∃ t e', exec (.copyChunk ch n k) s = .next t ∧ t.core.entry ch n = some e' ∧ e'.done = k :: e.done ∧
      e'.first = some (e.first.getD s.core.nowAt) ∧ (∀ c m, (t.core.ctx c).get m = (s.core.ctx c).get m) ∧
      (∀ o, b = .regs o → t.core.rsRun o bs.length = bs ∧ t.mem = s.mem) ∧
      (∀ tg, b = .mem tg → t.core.rs = s.core.rs ∧
        (∀ y, y ∉ tg.places → t.mem.get y = s.mem.get y) ∧
        (∀ (i : Nat) y, tg.places[i]? = some y → t.mem.get y = bs.getD i 0) ∧
        (∀ id off m, tg = .priv id off m → ∃ y, t.core.alloc id = some y ∧ ∀ i, i < bs.length → y.byte (off + i) = bs.getD i 0)) ∧
      ((∀ i ∈ e.done, i < k) → sameSpace e (nestOf e.body) = false → bs = readSpot s2 (nestOf e.body).c a) := by
  intro bs
  have takes := takes_copyChunk runs found begun kind fresh inside read write passes
  obtain ⟨checked, lies⟩ := destSpot_ok write
  have tlb : OnlyTlb (s.onCtx e.ctx) s2 := (engSpot_onlyTlb read).trans checked
  have steady : Steady s ((s.onCtx e.ctx).chunkMoved s2 e k a b) :=
    ((s.onCtx_steady e.ctx).trans tlb.onlyRead.steady).trans (State.chunkMoved_steady ..)
  have quiet : s2.wlog = [] := tlb.onlyRead.wlog.trans runs.between
  have long : bs.length = (nestOf e.body).c := State.chunkStored_length (engSpot_lies read) lies
  obtain ⟨rs, gen, -, allocs⟩ := Core.chunked_fields ((s.onCtx e.ctx).chunkMoved s2 e k a b).core ch n k s.core.nowAt
  refine ⟨_, e.chunked k s.core.nowAt, takes, ?_, rfl, rfl, fun c m => ?_, ?_, ?_, fun first apart => ?_⟩
  · have same := (Core.entry_congr (steady.chain ch) n).trans found
    refine (Core.entry_congr ?_ n).trans (Core.entry_modEntry (f := fun e => e.chunked k s.core.nowAt) same (fun _ => rfl))
    exact (Core.chain_withCur ..).trans (Core.chunked_chain ..)
  · refine (congrArg (Context.get · m) ?_).trans (steady.get c m)
    exact (Core.ctx_withCur ..).trans (Core.chunked_ctx ..)
  · rintro o rfl
    obtain ⟨stored, still⟩ := State.chunkMoved_regs (s.onCtx e.ctx) s2 e k a o
    refine ⟨Eq.trans ?_ stored, settled_mem_of_quiet (still.trans quiet)⟩
    rw [Core.rsRun_eq, Core.rsRun_eq]
    exact congrArg (List.map · _) (Core.rsByte_congr rs gen)
  · rintro tg rfl
    have mem (x : Nat) : (s.mem.commit ((s.onCtx e.ctx).chunkMoved s2 e k a (.mem tg)).wlog).get x = (putPieces s.mem tg.pieces bs).get x :=
      congrArg (Cells.get · x) (State.chunkMoved_commit _ e k quiet s.mem a tg)
    refine ⟨(rs.trans (State.chunkMoved_mem_rs ..)).trans tlb.onlyRead.spaces.1, fun x out => ?_, fun i x at' => ?_, ?_⟩
    · exact (mem x).trans (get_putPieces_other wf bs out)
    · exact (mem x).trans (Target.Reaches.get_putPieces lies (nestOf_chunk e.body) wf long at')
    · rintro id off m rfl
      obtain ⟨x, hx, stored⟩ := State.chunkMoved_priv (s.onCtx e.ctx) e k (checked.onlyRead.alloc_isSome lies.2) a off m
      refine ⟨x, Eq.trans ?_ hx, stored⟩
      unfold Core.alloc
      exact congrArg _ allocs
  · exact (keepLater_first first _ _).trans (chunkBytes_apart apart _ _ _)

end

end Sys2Proof.Machine
end

section
/-! PROOFS. O37: the events of the engines, and how their entries begin and complete (spec/08 R154, R160, R161, R164, R166; spec/20
R282, R285). -/

namespace Sys2Proof.Machine

/-- An event of the core alone writes no memory. -/
theorem Runs.mem {s : State} (h : Runs s) (f : Core → Core) : (settled s (s.modCore f)).mem = s.mem := settled_mem_of_quiet h.between

/-! ### Begin -/

/-- An entry that may begin has begun. -/
theorem engineEntryBegin_begins {s : State} {ch : ChainId} {n : Nat} {e : Entry} (runs : Runs s) (found : s.core.entry ch n = some e)
    (may : mayBegin s.core ch e = true) :
    ∃ t, exec (.engineEntryBegin ch n) s = .next t ∧ t.core.entry ch n = some { e with begun := true } ∧ t.mem = s.mem := by
  have takes : Takes (.engineEntryBegin ch n) s (s.modCore (fun k => k.modEntry ch n (fun e => { e with begun := true }))) := by
    unfold Takes
    show execEngineEntryBegin ch n s = _
    unfold execEngineEntryBegin
    rw [runEvent_eq runs.between, found]
    dsimp only
    rw [if_pos may]
  exact ⟨_, takes, Core.entry_modEntry found (fun _ => rfl), runs.mem _⟩

/-! ### A chunk of a WBLD (08 R161) -/

/-- Chunk k of a WBLD, checked in t, stands in the weight buffer. -/
def State.wbldStored (s t : State) (e : Entry) (k : Nat) (tg : Target) : State :=
  (performRead t (s.engineWho e) none tg).modCore (fun c =>
    { c.modEntry .tci e.num (fun e => { e with done := k :: e.done }) with
      wb := c.wb.putRun (le e.body 8 4 + 256 * k) (readTarget t tg)
      badWeights := healed c.badWeights (le e.body 8 4 + 256 * k) (readTarget t tg).length })

section
variable (s t : State) (e : Entry) (k : Nat) (tg : Target)

theorem State.wbldStored_wlog : (s.wbldStored t e k tg).wlog = t.wlog := (performRead_onlyRead t (s.engineWho e) none tg).wlog

theorem State.wbldStored_trace : (s.wbldStored t e k tg).core.trace = t.core.trace := (performRead_onlyRead t (s.engineWho e) none tg).trace

theorem State.wbldStored_wb :
    (s.wbldStored t e k tg).core.wb = t.core.wb.putRun (le e.body 8 4 + 256 * k) (readTarget t tg) :=
  congrArg (Cells.putRun · _ _) (performRead_onlyRead t (s.engineWho e) none tg).spaces.2.2

theorem State.wbldStored_entry (found : t.core.entry .tci e.num = some e) :
    (s.wbldStored t e k tg).core.entry .tci e.num = some { e with done := k :: e.done } :=
  Core.entry_modEntry (f := fun e => { e with done := k :: e.done })
    ((Core.entry_congr ((performRead_onlyRead t (s.engineWho e) none tg).chain .tci) e.num).trans found) (fun _ => rfl)

end

section
variable {s s1 : State} {n k : Nat} {e : Entry} {tg : Target}

theorem wbldChunk_eq (unwatched : s.core.debugger = .none)
    (read : checkSpace s e.ctx .global (w64 (le e.body 0 8) + w64 (256 * k)) (min 256 (le e.body 12 4 - 256 * k)) { wr := false }
      (s.engineWho e) none k = .ok (tg, s1)) : wbldChunk s e k = s.wbldStored s1 e k tg := by
  unfold wbldChunk
  dsimp only
  rw [read]
  dsimp only
  rw [engWatch_unwatched (Core.watching_off unwatched e)]
  rfl

/-- A chunk of a WBLD puts the bytes that it reads into the weight buffer. -/
theorem wbldChunk_stores (runs : Runs s) (found : s.core.entry .tci n = some e) (begun : e.begun = true) (kind : e.kind = .wbld)
    (fresh : k ∉ e.done) (inside : k < wbldChunks e)
    (read : checkSpace (s.onCtx e.ctx) e.ctx .global (w64 (le e.body 0 8) + w64 (256 * k)) (min 256 (le e.body 12 4 - 256 * k))
      { wr := false } (s.engineWho e) none k = .ok (tg, s1)) (unwatched : s.core.debugger = .none) :
    ∃ t e', exec (.wbldChunk n k) s = .next t ∧ t.core.entry .tci n = some e' ∧ e'.done = k :: e.done ∧
      t.core.wb = s1.core.wb.putRun (le e.body 8 4 + 256 * k) (readTarget s1 tg) ∧ t.mem = s.mem := by
  have tlb : OnlyTlb (s.onCtx e.ctx) s1 := checkSpace_only read
  have off : ((s.onCtx e.ctx).wbldStored s1 e k tg).core.traces = false :=
    (Core.traces_congr ((State.wbldStored_trace ..).trans tlb.accessed.trace)).trans runs.untraced
  have missing : e.done.contains k = false := by
    rw [Bool.eq_false_iff, ne_eq, List.contains_iff_mem]
    exact fresh
  have takes : Takes (.wbldChunk n k) s (((s.onCtx e.ctx).wbldStored s1 e k tg).modCore (fun c => { c with cur := s.core.cur })) := by
    unfold Takes
    show execWbldChunk n k s = _
    unfold execWbldChunk
    rw [runEvent_eq runs.between, found]
    dsimp only
    rw [runs.working, begun, kind, missing, decide_eq_true inside, if_pos (by decide),
      State.asEntry_untraced (wbldChunk_eq (s := s.onCtx e.ctx) unwatched read) off]
  have quiet : ((s.onCtx e.ctx).wbldStored s1 e k tg).wlog = [] := (State.wbldStored_wlog ..).trans (tlb.onlyRead.wlog.trans runs.between)
  have stored : ((s.onCtx e.ctx).wbldStored s1 e k tg).core.entry .tci n = some { e with done := k :: e.done } := by
    obtain rfl := Core.entry_num found
    exact State.wbldStored_entry _ _ _ _ _ ((Core.entry_congr (tlb.accessed.chain .tci) e.num).trans found)
  exact ⟨_, { e with done := k :: e.done }, takes, stored, rfl, State.wbldStored_wb .., settled_mem_of_quiet quiet⟩

end

/-! ### What the matrix engine leaves of the core -/

/-- k and l differ in the bytes and the marks of register space alone. -/
def OnlyRegs (k l : Core) : Prop := ∃ rs bad, l = { k with rs := rs, badRegs := bad }

theorem OnlyRegs.refl (k : Core) : OnlyRegs k k := ⟨k.rs, k.badRegs, rfl⟩

theorem OnlyRegs.trans {k l m : Core} (h : OnlyRegs k l) (h' : OnlyRegs l m) : OnlyRegs k m := by
  obtain ⟨_, _, rfl⟩ := h
  obtain ⟨rs, bad, rfl⟩ := h'
  exact ⟨rs, bad, rfl⟩

theorem OnlyRegs.foldl {α : Type} {f : Core → α → Core} (step : ∀ k x, OnlyRegs k (f k x)) (l : List α) :
    ∀ k, OnlyRegs k (l.foldl f k) := by
  induction l with
  | nil => exact OnlyRegs.refl
  | cons x r ih => exact fun k => (step k x).trans (ih _)

theorem Core.rsPut_onlyRegs (k : Core) (o : Nat) (bs : Bytes) : OnlyRegs k (k.rsPut o bs) := ⟨_, _, rfl⟩

theorem Core.putAccs_onlyRegs (k : Core) (l : List (Nat × Nat)) : OnlyRegs k (k.putAccs l) :=
  OnlyRegs.trans ⟨k.rs, _, rfl⟩ (.foldl (fun _ _ => Core.rsPut_onlyRegs ..) l _)

theorem drainRows_onlyRegs (e : Entry) (k : Core) : OnlyRegs k (drainRows e k) :=
  .foldl (fun _ _ => Core.rsPut_onlyRegs ..) _ k

section
variable {k l : Core} (h : OnlyRegs k l)
include h

theorem OnlyRegs.chain (ch : ChainId) : l.chain ch = k.chain ch := by
  obtain ⟨_, _, rfl⟩ := h
  cases ch <;> rfl

theorem OnlyRegs.ctx (c : Ctx) : l.ctx c = k.ctx c := by
  obtain ⟨_, _, rfl⟩ := h
  cases c <;> rfl

theorem OnlyRegs.trace : l.trace = k.trace := by
  obtain ⟨_, _, rfl⟩ := h
  rfl

end

/-! ### A pass of an MMA (08 R164, R165) -/

theorem performReads_onlyRead (e : Entry) (ts : List Target) :
    ∀ s : State, OnlyRead s (ts.foldl (fun s t => performRead s (s.engineWho e) none t) s) := by
  induction ts with
  | nil => exact OnlyRead.refl
  | cons t r ih => exact fun s => (performRead_onlyRead ..).trans (ih _)

theorem ok_of_map {α β : Type} {r : Except Stop α} {f : α → β} {b : β} (h : r.map f = .ok b) : ∃ a, r = .ok a ∧ f a = b := by
  cases r with
  | error _ => cases h
  | ok a => cases h; exact ⟨a, rfl, rfl⟩

theorem checkRuns_onlyTlb {e : Entry} {p : Word} {lane : Nat} : ∀ {l : List (Nat × Nat)} {s t : State} {x : List (Target × EngAccess)},
    checkRuns s e p lane l = .ok (x, t) → OnlyTlb s t := by
  intro l
  induction l with
  | nil => intro s t x h; cases h; exact .refl s
  | cons r l ih =>
    intro s t x h
    unfold checkRuns at h
    split at h
    · cases h
    split at h
    · cases h
    next checked =>
    obtain ⟨y, rest, h⟩ := ok_of_map h
    cases h
    exact (checkSpace_only checked).trans (ih rest)

/-- A row is fetched by reads. The function is unfolded, not its application, whose check would work out the arithmetic of the pointer. -/
theorem fetchRow_onlyRead {s t : State} {e : Entry} {tb : Table} {bits i : Nat} {a : Word} {row : ARow}
    (h : fetchRow s e tb bits a i = .ok (row, t)) : OnlyRead s t := by
  have value : fetchRow = fetchRow := rfl
  conv at value => rhs; delta fetchRow
  rw [value] at h
  generalize rowPtr = pointer at h
  generalize scratchAdd = add at h
  beta_reduce at h
  split at h
  · cases h
  split at h
  · cases h
  next s1 runs =>
  split at h
  · cases h
  next ts _ =>
  have data := (checkRuns_onlyTlb runs).onlyRead.trans (performReads_onlyRead e ts s1)
  dsimp only at h
  split at h
  · cases h
    exact data
  split at h
  · cases h
  split at h
  · cases h
  next scales =>
  split at h
  · cases h
  cases h
  exact (data.trans (checkSpace_only scales).onlyRead).trans (performRead_onlyRead ..)

/-- Rows after a row that has been fetched. -/
def rowsAfter (x : Except Stop (ARow × State)) (rest : State → Except Stop (List ARow × State)) : Except Stop (List ARow × State) :=
  match x with
  | .error x => .error x
  | .ok (row, s1) => (rest s1).map (fun x => (row :: x.1, x.2))

theorem fetchRows_cons (s : State) (e : Entry) (t : Table) (bits : Nat) (a : Word) (i : Nat) (r : List Nat) :
    fetchRows s e t bits a (i :: r) = rowsAfter (fetchRow s e t bits a i) (fun s1 => fetchRows s1 e t bits a r) := by
  have value : fetchRows = fetchRows := rfl
  conv at value => rhs; delta fetchRows
  have step : fetchRows._f = fetchRows._f := rfl
  conv at step => rhs; delta fetchRows._f
  obtain ⟨fetch, same⟩ : ∃ fetch, fetch = fetchRow := ⟨_, rfl⟩
  rw [value, step, ← same]
  rfl

theorem fetchRows_onlyRead {e : Entry} {tb : Table} {bits : Nat} {a : Word} : ∀ {l : List Nat} {s t : State} {rows : List ARow},
    fetchRows s e tb bits a l = .ok (rows, t) → OnlyRead s t := by
  intro l
  induction l with
  | nil => intro s t rows h; cases h; exact .refl s
  | cons i l ih =>
    intro s t rows h
    rw [fetchRows_cons] at h
    cases fetched : fetchRow s e tb bits a i with
    | error _ => rw [fetched] at h; cases h
    | ok x =>
      rw [fetched] at h
      obtain ⟨y, rest, h⟩ := ok_of_map h
      cases h
      exact (fetchRow_onlyRead fetched).trans (ih rest)

/-- The checks of a pass fetch the rows of A, and leave the rest. -/
theorem passCheck_onlyRead {s t : State} {e : Entry} {tb : Table} {p : Nat} {x : PassIn} (h : passCheck s e tb p = .ok (x, t)) :
    OnlyRead s t := by
  unfold passCheck at h
  split at h
  · dsimp only at h
    have h := ok_of_guarded (ok_of_guarded h)
    split at h
    · cases h
    split at h
    · cases h
    next rows =>
    split at h
    · cases h
    split at h
    · cases h
    split at h
    · cases h
    cases h
    exact fetchRows_onlyRead rows
  · cases h

/-- The core once pass p of an MMA has been done: accumulators written, and the entry with the others under way. -/
def Core.passed (k : Core) (n p : Nat) (regs : List (Nat × Int)) (parts : List (Nat × KPart)) : Core :=
  (k.modEntry .tmx n (fun e => { e with done := p :: e.done, regs := regs, parts := parts })).count 4 1

/-- A pass whose checks pass writes at most accumulators, and its entry goes on. -/
theorem mmaPass_passes {s s1 : State} {e : Entry} {p : Nat} {x : PassIn} (checks : passCheck s e (tableOf e.body) p = .ok (x, s1))
    (sound : checkAcc s1 x (tableOf e.body) (!((List.range p).filter
      (fun q => (tableOf e.body).elem q == (tableOf e.body).elem p)).isEmpty) = .ok ()) :
    ∃ k regs parts, OnlyRegs s1.core k ∧ mmaPass s e p = { s1 with core := k.passed e.num p regs parts } := by
  unfold mmaPass
  dsimp only
  rw [checks]
  dsimp only
  rw [sound]
  refine ⟨_, _, _, ?_, rfl⟩
  split
  · exact Core.putAccs_onlyRegs ..
  · exact .refl _

theorem mmaPass_advances {s s1 : State} {n : Nat} {e : Entry} {x : PassIn} (runs : Runs s) (found : s.core.entry .tmx n = some e)
    (begun : e.begun = true) (kind : e.kind = .mma) (more : e.done.length < prodList (tableOf e.body).count)
    (checks : passCheck (s.onCtx e.ctx) e (tableOf e.body) e.done.length = .ok (x, s1))
    (sound : checkAcc s1 x (tableOf e.body) (!((List.range e.done.length).filter
      (fun q => (tableOf e.body).elem q == (tableOf e.body).elem e.done.length)).isEmpty) = .ok ()) :
    ∃ t e', exec (.mmaPass n) s = .next t ∧ t.core.entry .tmx n = some e' ∧ e'.done = e.done.length :: e.done ∧ t.mem = s.mem := by
  obtain rfl := Core.entry_num found
  have only := passCheck_onlyRead checks
  obtain ⟨k, regs, parts, regsOnly, pass⟩ := mmaPass_passes checks sound
  have off : ({ s1 with core := k.passed e.num e.done.length regs parts } : State).core.traces = false :=
    (Core.traces_congr (((Core.modEntry_fields ..).2.2.1.trans regsOnly.trace).trans only.trace)).trans runs.untraced
  have takes : Takes (.mmaPass e.num) s
      { s1 with core := { k.passed e.num e.done.length regs parts with cur := s.core.cur } } := by
    unfold Takes
    show execMmaPass e.num s = _
    unfold execMmaPass
    rw [runEvent_eq runs.between, found]
    dsimp only
    rw [runs.working, begun, kind, decide_eq_true more, if_pos (by decide), State.asEntry_untraced (f := fun s => mmaPass s e e.done.length) pass off]
    rfl
  have same := (Core.entry_congr ((regsOnly.chain .tmx).trans (only.chain .tmx)) e.num).trans found
  exact ⟨_, _, takes, Core.entry_modEntry same (fun _ => rfl), rfl, settled_mem_of_quiet (only.wlog.trans runs.between)⟩

/-! ### ACLR and ADRAIN (20 R282, R285) -/

theorem Cells.find_filter (p : Nat → Bool) (b : Nat) :
    ∀ c : Cells, Cells.find (List.filter (fun x => p x.1) c) b = if p b then c.find b else none := by
  intro c
  induction c with
  | nil => exact (ite_self _).symm
  | cons x r ih =>
    obtain ⟨a, v⟩ := x
    have cons (c : Cells) : Cells.find ((a, v) :: c) b = if a = b then some v else c.find b := rfl
    by_cases keep : p a = true
    · rw [List.filter_cons_of_pos (p := fun x : Host.Cell => p x.1) (a := (a, v)) keep, cons, cons, ih]
      by_cases here : a = b
      · subst here
        rw [if_pos rfl, if_pos rfl, if_pos keep]
      · rw [if_neg here, if_neg here]
    · rw [List.filter_cons_of_neg (p := fun x : Host.Cell => p x.1) (a := (a, v)) keep, cons, ih]
      by_cases here : a = b
      · subst here
        rw [if_neg keep, if_neg keep]
      · rw [if_neg here]

/-- Where no generation shows, a cleared byte reads 0, and every other one as before. -/
theorem Core.rsByte_rsClear {k : Core} (shown : k.rsGen = none) (lo n b : Nat) :
    (k.rsClear lo n).rsByte b = if b < lo ∨ lo + n ≤ b then k.rsByte b else 0 := by
  have rs : (k.rsClear lo n).rs = List.filter (fun x => decide (x.1 < lo) || decide (lo + n ≤ x.1)) k.rs := by
    unfold Core.rsClear
    rw [shown]
    rfl
  unfold Core.rsByte
  rw [rs, Cells.find_filter (fun a => decide (a < lo) || decide (lo + n ≤ a)), show (k.rsClear lo n).rsGen = none from shown, shown]
  simp only [Bool.or_eq_true, decide_eq_true_eq]
  by_cases out : b < lo ∨ lo + n ≤ b
  · rw [if_pos out, if_pos out]
  · rw [if_neg out, if_neg out]

theorem aclrExecute_clears {s : State} {n : Nat} {e : Entry} (runs : Runs s) (found : s.core.entry .tmx n = some e) (begun : e.begun = true)
    (kind : e.kind = .aclr) (first : e.done = []) (shown : s.core.rsGen = none) :
    ∃ t, exec (.aclrExecute n) s = .next t ∧
      (∀ b, le e.body 0 4 % 2 ^ 19 ≤ b → b < le e.body 0 4 % 2 ^ 19 + 65536 * le e.body 4 2 → t.core.rsByte b = 0) ∧
      (∀ b, b < le e.body 0 4 % 2 ^ 19 ∨ le e.body 0 4 % 2 ^ 19 + 65536 * le e.body 4 2 ≤ b → t.core.rsByte b = s.core.rsByte b) ∧
      t.mem = s.mem := by
  have takes : Takes (.aclrExecute n) s (s.modCore (fun k => (k.modEntry .tmx n (fun e => { e with done := [0] })).rsClear
      (le e.body 0 4 % 2 ^ 19) (65536 * le e.body 4 2))) := by
    unfold Takes
    show execAclrExecute n s = _
    unfold execAclrExecute
    rw [runEvent_eq runs.between, found]
    dsimp only
    rw [runs.working, begun, kind, first, if_pos (by decide), fld_zero]
  have cleared (b : Nat) := Core.rsByte_rsClear (k := s.core.modEntry .tmx n (fun e => { e with done := [0] })) shown
    (le e.body 0 4 % 2 ^ 19) (65536 * le e.body 4 2) b
  refine ⟨_, takes, fun b low high => (cleared b).trans (if_neg (by omega)), fun b out => (cleared b).trans (if_pos out),
    runs.mem _⟩

theorem adrainExecute_drains {s : State} {n : Nat} {e : Entry} (runs : Runs s) (found : s.core.entry .tmx n = some e) (begun : e.begun = true)
    (kind : e.kind = .adrain) (first : e.done = []) (sound : badRow s.core.badRegs (le e.body 0 4 % 2 ^ 19) 65536 = none) :
    Takes (.adrainExecute n) s (s.modCore (fun k => drainRows e (k.modEntry .tmx n (fun e => { e with done := [0] })))) ∧
      ∃ t e', exec (.adrainExecute n) s = .next t ∧ t.core.entry .tmx n = some e' ∧ e'.done = [0] ∧
        (∀ c m, (t.core.ctx c).get m = (s.core.ctx c).get m) ∧ t.mem = s.mem := by
  have takes : Takes (.adrainExecute n) s (s.modCore (fun k => drainRows e (k.modEntry .tmx n (fun e => { e with done := [0] })))) := by
    unfold Takes
    show execAdrainExecute n s = _
    unfold execAdrainExecute
    rw [runEvent_eq runs.between, found]
    dsimp only
    rw [runs.working, begun, kind, first, if_neg (by decide)]
    generalize badRow = bad at sound ⊢
    rw [fld_zero, sound]
  have only := drainRows_onlyRegs e (s.core.modEntry .tmx n (fun e => { e with done := [0] }))
  refine ⟨takes, _, { e with done := [0] }, takes, ?_, rfl, fun c m => ?_, runs.mem _⟩
  · exact (Core.entry_congr (only.chain .tmx) n).trans (Core.entry_modEntry found (fun _ => rfl))
  · exact congrArg (Context.get · m) ((only.ctx c).trans (Core.modEntry_ctx ..))

/-! ### Completion (08 R154, R160) -/

/-- What the completion of an entry does to the core, before its chain advances. -/
def Core.completed (k : Core) (e : Entry) : Core :=
  match e.kind with
  | .copy => k.copyDone e k.nowAt
  | .mma => k.mmaDone e
  | _ => k

theorem takes_engineEntryCompletion {s : State} {ch : ChainId} {n : Nat} {e : Entry} (runs : Runs s) (found : s.core.entry ch n = some e)
    (begun : e.begun = true) (kind : (e.kind != .send) = true) (worked : entryWork e ≤ e.done.length)
    (phase : (s.core.completed e).phase = .run) :
    Takes (.engineEntryCompletion ch n) s (s.modCore (fun k => (k.completed e).finished ch n)) := by
  have run : (s.modCore (fun k => (k.completed e).finished ch n)).core.phase = .run := (Core.finished_phase ..).trans phase
  unfold Takes
  show execEngineEntryCompletion ch n s = _
  unfold execEngineEntryCompletion
  rw [runEvent_eq runs.between, found]
  dsimp only
  rw [runs.working, begun, kind, decide_eq_true worked, if_pos (by decide)]
  exact congrArg (fun t => Host.Outcome.next (settled s t)) (State.settleEnd_run run)

/-- An ACLR whose predecessors have completed takes the counter to its NUMBER. -/
theorem engineEntryCompletion_aclr {s : State} {ch : ChainId} {n : Nat} {e : Entry} (runs : Runs s) (found : s.core.entry ch n = some e)
    (begun : e.begun = true) (kind : e.kind = .aclr) (done : e.done.length = 1) (next : n = (s.core.chain ch).counter + 1)
    (first : (s.core.chain ch).finished = []) :
    ∃ t, exec (.engineEntryCompletion ch n) s = .next t ∧ (t.core.chain ch).counter = n ∧ t.core.entry ch n = none ∧ t.mem = s.mem := by
  have same : s.core.completed e = s.core := by unfold Core.completed; rw [kind]
  have worked : entryWork e ≤ e.done.length := by unfold entryWork; rw [kind, done]
  have takes := takes_engineEntryCompletion runs found begun (by rw [kind]; rfl) worked ((congrArg Core.phase same).trans runs.phase)
  rw [show (s.modCore fun k => (k.completed e).finished ch n) = s.modCore (fun k => k.finished ch n) from
    congrArg (fun k : Core => { s with core := k.finished ch n }) same] at takes
  refine ⟨_, takes, ?_, Core.finished_entry .., runs.mem _⟩
  exact (congrArg Chain.counter (Core.finished_chain s.core ch n)).trans (Chain.finish_next next first)

/-- The one fill that a ring waits for has completed. -/
theorem Core.copyDone_fills {k : Core} {e : Entry} {now : Nat} {j : Nat × Nat} {r : Ring} (ring : e.ring = some j) (rings : k.rings = [r])
    (pend : r.pend.map (·.num) = [e.num]) :
    ∃ y, (k.copyDone e now).rings = [y] ∧ y.filled = r.filled + 1 ∧ y.pend = [] ∧ y.rels = r.rels := by
  obtain ⟨p, one, num⟩ := List.map_eq_singleton_iff.mp pend
  unfold Core.copyDone
  rw [ring, rings]
  simp only [mapIf, List.map_cons, List.map_nil, one, List.any_cons, num, beq_self_eq_true, Bool.true_or, if_true]
  exact ⟨_, rfl, rfl, rfl, rfl⟩

/-- A fill of a ring fills its slot, where it is the one that the ring waits for. -/
theorem engineEntryCompletion_fill {s : State} {ch : ChainId} {n : Nat} {e : Entry} {j : Nat × Nat} {r : Ring} (runs : Runs s)
    (found : s.core.entry ch n = some e) (begun : e.begun = true) (kind : e.kind = .copy)
    (done : prodList (nestOf e.body).count ≤ e.done.length) (ring : e.ring = some j) (rings : s.core.rings = [r])
    (pend : r.pend.map (·.num) = [n]) :
    ∃ t y, exec (.engineEntryCompletion ch n) s = .next t ∧ t.core.rings = [y] ∧ y.filled = r.filled + 1 ∧ y.pend = [] ∧
      y.rels = r.rels ∧ t.mem = s.mem := by
  obtain rfl := Core.entry_num found
  have same : s.core.completed e = s.core.copyDone e s.core.nowAt := by unfold Core.completed; rw [kind]
  have worked : entryWork e ≤ e.done.length := by unfold entryWork; rw [kind]; exact done
  have phase : (s.core.completed e).phase = .run := by
    rw [same, Core.copyDone, ring]
    exact runs.phase
  have takes := takes_engineEntryCompletion runs found begun (by rw [kind]; rfl) worked phase
  obtain ⟨y, filled, grown, empty, rels⟩ := Core.copyDone_fills (now := s.core.nowAt) ring rings pend
  have all : ((s.core.completed e).finished ch e.num).rings = [y] := by rw [Core.finished_rings, same, filled]
  exact ⟨_, y, takes, all, grown, empty, rels, runs.mem _⟩

/-- Settles O37, event by event. -/
theorem engineEvents : Obligations.EngineEvents := by
  unfold Obligations.EngineEvents
  intro s s1 s2 ch n k e a b y tg x r j between phase clock untraced q
  have runs : Runs s := ⟨between, phase, clock, untraced⟩
  refine ⟨engineEntryBegin_begins runs, ?_, wbldChunk_stores runs, mmaPass_advances runs, aclrExecute_clears runs,
    adrainExecute_drains runs, engineEntryCompletion_aclr runs, engineEntryCompletion_fill runs⟩
  intro found begun kind fresh inside read write passes wf
  exact copyChunk_stores runs found begun kind fresh inside read write passes wf

end Sys2Proof.Machine
end

section
/-! PROOFS. What a word may leave in flight, and what the step journal takes of it (spec/02 R40, spec/03 R63, R65). -/

namespace Sys2Proof.Machine

/-! ### What leaves the results in flight as they are -/

theorem State.modSight_like (s : State) (f : Sight → Sight) : Like s (s.modSight f) := by
  unfold State.modSight
  split
  · exact modTask_like s _
  · exact ⟨rfl, rfl, rfl⟩

theorem State.modHere_like (s : State) (f : Context → Context) : Like s (s.modHere f) := by
  unfold Like Core.interlocked
  simp

theorem noted_like (s : State) (v : List Word) (t : State) : Like t (noted s v t) := by
  unfold noted
  split
  · exact .refl t
  · exact ⟨rfl, rfl, rfl⟩

theorem Claims.like {s t : State} (h : Claims s t) : Like s t := ⟨h.opens.flights, h.opens.cur, h.opens.merged⟩

/-! ### A word that nothing bars -/

section
variable {i : Instr} {g : Guard} {body : Body} {s u : State} (frame : exec i s = runWord i g {} body s) (ready : Ready i g s)
  (runs : body s = .ok (.next u))
include frame ready runs

/-- Such a word passes on every core, in a handler too, if what it leaves in flight has room. -/
theorem completes_open (room : s.core.interlocked = true ∨ u.core.inFlight s.core.cur ≤ Config.inFlightMax) : Completes i s u :=
  completes_next frame ready (fun _ => rfl) rfl (fun _ => rfl) runs room

theorem completes_open_like (like : Like s u) : Completes i s u := completes_open frame ready runs (like.plain ready.room)

end

/-! ### The step journal (02 R40) -/

/-- The results of a word whose journal takes them are those it computes, and stand in the journal of the state it leaves. -/
theorem journalled_journals {s t : State} {vals : State → Except Stop (List Word × State)} {v : List Word} (h : Journals s)
    (runs : vals s = .ok (v, t)) : journalled s vals = .ok (v, noted s v t) := by
  unfold journalled noted
  cases task : s.core.task with
  | none => exact runs
  | some k =>
    obtain ⟨hit, room⟩ := h.resolve_left (by rw [task]; exact Option.some_ne_none k)
    have takes : (decide (Config.journalMax ≤ s.core.journal.length) && s.core.window.length != 0) = false := by
      rcases room with short | closed
      · rw [decide_eq_false (Nat.not_le.mpr short), Bool.false_and]
      · rw [closed]
        exact Bool.and_false _
    rw [hit, takes, runs]
    rfl

end Sys2Proof.Machine
end

section
/-! PROOFS. O11: FENCE, MONITOR and MWAIT (spec/10 R181, R198; spec/15 R250; spec/21 R313, R329, R335). -/

namespace Sys2Proof.Machine

/-! ### FENCE (21 R313) -/

/-- The acquire half of a fence, and then its release half. -/
def State.fencedBy (s : State) (o : Order) (sc : Scope) : State :=
  let acq := if o = .acquire ∨ o = .acqRel then s.modSight (fenceAcquire s.agent s.core.die sc s.core.side) else s
  if o = .release ∨ o = .acqRel then acq.modSight (fun k => k.putFence (s.fenceHere sc) s.core.ckpt.ord) else acq

theorem exec_fence (g : Guard) (o : Order) (sc : Scope) (s : State) : exec (.fence g o sc) s =
    runWord (.fence g o sc) g {} (fun s =>
      .ok (.next (if s.core.again then s.modSight (fun k => k.refence s.here.ord s.lpc) else (s.fencedBy o sc).syncDone))) s := by
  cases o <;> rfl

theorem State.fencedBy_like (s : State) (o : Order) (sc : Scope) : Like s (s.fencedBy o sc) := by
  have acquires : Like s (if o = .acquire ∨ o = .acqRel then s.modSight (fenceAcquire s.agent s.core.die sc s.core.side) else s) := by
    split
    · exact s.modSight_like _
    · exact .refl s
  unfold State.fencedBy
  dsimp only
  split
  · exact acquires.trans (State.modSight_like _ _)
  · exact acquires

theorem fence_completes {s : State} {g : Guard} {o : Order} {sc : Scope} (ready : Ready (.fence g o sc) g s) :
    Completes (.fence g o sc) s
      (if s.core.again then s.modSight (fun k => k.refence s.here.ord s.lpc) else (s.fencedBy o sc).syncDone) := by
  refine completes_open_like (exec_fence g o sc s) ready rfl ?_
  split
  · exact s.modSight_like _
  · exact (s.fencedBy_like o sc).trans (State.syncDone_like _)

/-! ### MONITOR (21 R329) -/

theorem monitor_arms {s s1 : State} {f : OpA} {off : BitVec 12} {q : Piece} {ps : List Piece} {p : Word}
    (ready : Ready (.monitor f off) f.g s) (addr : mAddr s .global (s.src f.a) off = .ok p)
    (checks : checkGlobal s s.root p 1 { wr := false, poison := false, race := false } none none 0 = .ok (q :: ps, s1)) :
    Completes (.monitor f off) s (s1.modHere (fun k => { k with monitor := some ⟨q.pa / 128, false⟩ })) := by
  have frame : exec (.monitor f off) s = execMonitor f off s := rfl
  unfold execMonitor at frame
  refine completes_open_like frame ready ?_ ((checkGlobal_only checks).1.like.trans (s1.modHere_like _))
  rw [addr]
  dsimp only
  rw [checks]
  rfl

/-! ### MWAIT (21 R335) -/

/-- No line is armed, a write of the line has come, or the timeout has passed since the block began. -/
theorem wakeCode_of_woken {s : State} {b : Src} {v : Word}
    (h : s.here.monitor = none ∧ v = 2 ∨ (∃ m, s.here.monitor = some m ∧ m.event = true) ∧ v = 0 ∨
      (∃ m i since, s.here.monitor = some m ∧ m.event = false ∧ s.here.wait = some (i, since) ∧ s.here.draining = false ∧
        s.src b ≠ 0 ∧ (s.src b).toNat ≤ s.m.now - since) ∧ v = 1) : wakeCode s b = some v := by
  unfold wakeCode
  rcases h with ⟨unarmed, rfl⟩ | ⟨⟨m, armed, event⟩, rfl⟩ | ⟨⟨m, i, since, armed, event, wait, began, timed, passed⟩, rfl⟩
  · rw [unarmed]
  · rw [armed]
    exact if_pos event
  · rw [armed, wait]
    dsimp only
    rw [if_neg (ne_true_of_eq_false event), if_pos ⟨began, timed, passed⟩]

/-- An MWAIT that has not blocked, of a line that nothing has written, has no wake code yet. -/
theorem wakeCode_of_armed {s : State} {b : Src} (armed : ∃ m, s.here.monitor = some m ∧ m.event = false) (fresh : s.here.wait = none) :
    wakeCode s b = none := by
  obtain ⟨m, armed, event⟩ := armed
  unfold wakeCode
  rw [armed, fresh]
  exact if_neg (ne_true_of_eq_false event)

/-- MWAIT returns v at once: 2 where it is the first of a resumed task, else its wake code, and without one 0 in replay. -/
def WaitsNoMore (s : State) (b : Src) (v : Word) : Prop :=
  (s.core.inReplay || s.cutHere || (wakeCode s b).isSome) = true ∧ (if s.cutHere then 2 else (wakeCode s b).getD 0) = v

theorem WaitsNoMore.of_cut {s : State} (b : Src) (cut : s.cutHere = true) : WaitsNoMore s b 2 := by
  unfold WaitsNoMore
  rw [cut]
  simp

theorem WaitsNoMore.of_code {s : State} {b : Src} {v : Word} (uncut : s.cutHere = false) (code : wakeCode s b = some v) :
    WaitsNoMore s b v := by
  unfold WaitsNoMore
  rw [uncut, code]
  simp

theorem WaitsNoMore.of_replay {s : State} {b : Src} (uncut : s.cutHere = false) (code : wakeCode s b = none)
    (replay : s.core.inReplay = true) : WaitsNoMore s b 0 := by
  unfold WaitsNoMore
  rw [uncut, code, replay]
  simp

theorem mwait_completes {s : State} {g : Guard} {d : Dst} {b : Src} {v : Word} (ready : ReadyOnCore (.mwait g d b) g s) (dry : Drained s)
    (journals : Journals s) (woken : WaitsNoMore s b v) :
    Completes (.mwait g d b) s ((((noted s [v] s).modHere (fun k => { k with monitor := none })).modCore (fun k =>
      { k with cutWait := k.cutWait && !s.cutHere })).landReg d v 4) := by
  obtain ⟨goesOn, rfl⟩ := woken
  have like : Like s (((noted s [if s.cutHere then 2 else (wakeCode s b).getD 0] s).modHere (fun k => { k with monitor := none })).modCore
      (fun k => { k with cutWait := k.cutWait && !s.cutHere })) :=
    ((noted_like s _ s).trans (State.modHere_like _ _)).trans ⟨rfl, rfl, rfl⟩
  have frame : exec (.mwait g d b) s = execMwait g d b s := rfl
  unfold execMwait at frame
  refine completes_next frame ready.toReady (fun hub => absurd hub (by rw [ready.compute]; exact Bool.false_ne_true)) rfl
    (fun inside => absurd inside (by rw [ready.user]; exact Bool.false_ne_true)) ?_ (like.after ready.room _ (resultsOf_dst ..))
  rw [drained_of dry, if_pos goesOn, journalled_journals journals rfl]
  rfl

/-- Settles O11, word by word; for MWAIT, by what makes it return. -/
theorem fenceAndMonitorComplete : Obligations.FenceAndMonitorComplete := by
  unfold Obligations.FenceAndMonitorComplete
  intro s s1 g o sc f off q ps d b v p
  refine ⟨fence_completes, monitor_arms, fun ready dry journals returns => mwait_completes ready dry journals ?_⟩
  rcases returns with ⟨cut, rfl⟩ | ⟨uncut, unarmed | event | timeout | ⟨armed, fresh, replay, rfl⟩⟩
  · exact .of_cut b cut
  · exact .of_code uncut (wakeCode_of_woken (.inl unarmed))
  · exact .of_code uncut (wakeCode_of_woken (.inr (.inl event)))
  · exact .of_code uncut (wakeCode_of_woken (.inr (.inr timeout)))
  · exact .of_replay uncut (wakeCode_of_armed armed fresh) replay

end Sys2Proof.Machine
end

section
/-! PROOFS. O33: MPUT, MTAKE, MSTAT and MCTL (spec/10 R181; spec/13 R234, R235; spec/21 R325, R326, R330 to R332). -/

namespace Sys2Proof.Machine

/-! ### The results that are awaited (03 R63) -/

theorem Room.roomFor_one {s : State} (room : Room s) : RoomFor 1 s := room

/-- A pool word of n results has n in flight at most; without a destination it has one still. -/
theorem resultsOf_poolPuts (c : Ctx) (d : Dst) {n : Nat} (one : 1 ≤ n) : resultsOf (if d.wbs then [] else poolPuts c d n) ≤ n := by
  split
  · exact one
  · refine max_le one ((List.length_filter_le _ _).trans ?_)
    unfold poolPuts
    rw [List.length_map, List.length_range]

theorem State.await_inFlight (s : State) (d : Dst) (puts : List Put) (lat : Nat) (req : Option Nat) (c : Ctx) :
    (s.await d puts lat req).core.inFlight c ≤ s.core.inFlight c + resultsOf (if d.wbs then [] else puts) := by
  simp only [State.await, State.modCore_core, Core.inFlight, List.filter_append, List.map_append, List.sum_append,
    Nat.add_le_add_iff_left, List.filter_cons, List.filter_nil]
  split
  · exact Nat.le_refl _
  · exact Nat.zero_le _

section
variable {s : State} {p : Pool} {handle : Word} {ask : Ask} {d : Dst} {done : Option Answer} {applied : Bool} {caused : List Nat} {n : Nat}
  (one : 1 ≤ n)
include one

theorem State.askPool_inFlight (c e : Ctx) :
    (s.askPool p handle ask (poolPuts c d n) d done applied caused).core.inFlight e ≤ s.core.inFlight e + n := by
  unfold State.askPool
  exact (State.await_inFlight ..).trans (Nat.add_le_add_left (resultsOf_poolPuts c d one) _)

/-- The n results that a request awaits fit, whatever the word does before and after it that leaves those in flight as they are. -/
theorem State.askPool_room {s0 u : State} (room : RoomFor n s0) (before : Like s0 s)
    (after : Like (s.askPool p handle ask (poolPuts s0.core.cur d n) d done applied caused) u) :
    s0.core.interlocked = true ∨ u.core.inFlight s0.core.cur ≤ Config.inFlightMax := by
  refine room.imp_right (fun fits => ?_)
  have awaited := State.askPool_inFlight (s := s) (p := p) (handle := handle) (ask := ask) (d := d) (done := done) (applied := applied)
    (caused := caused) one s0.core.cur s0.core.cur
  unfold Core.inFlight at awaited fits ⊢
  rw [before.1] at awaited
  rw [after.1]
  exact awaited.trans fits

end

/-! ### The frame of MPUT, MTAKE and MCTL -/

theorem outward_user {bars : State → Bool} {checks body : Body} {s : State} (user : s.core.inHandler = false) :
    outward bars checks body s = body s := by
  unfold outward
  rw [user]
  rfl

theorem recordEntry_like {s t : State} {d0 : Option Word} {d1 : Word} (h : recordEntry s d0 d1 = .ok t) : Like s t :=
  (recordAs_claims h).like

theorem holdRecords_like {s t : State} {n : Nat} (h : holdRecords s n = .ok t) : Like s t := by
  unfold holdRecords at h
  split at h
  · cases h
  next s1 first =>
  split at h
  · cases h
    exact recordEntry_like first
  · exact (recordEntry_like first).trans (recordEntry_like h)

/-- A word of one result or two keeps one entry of record mode (17 R267). -/
theorem holdRecords_of_recordEntry {s t : State} {n : Nat} (h : recordEntry s none 0 = .ok t) (few : n ≤ 2) : holdRecords s n = .ok t := by
  unfold holdRecords
  rw [h]
  exact if_pos few

theorem Ask.pairs_like (a : Ask) (s : State) : Like s (a.pairs s) := by
  cases a with
  | put k v => exact s.modSight_like _
  | take | stat | ctl => exact .refl s

/-- Without a replay journal to take from, MPUT and MTAKE ask the pool that the handle names. -/
theorem poolBody_asks {s t : State} {h : Word} {ask : Ask} {n : Nat} {d : Dst} {p : Pool} (live : recorded s = .none)
    (records : holdRecords s n = .ok t) (pool : poolOf s h = some p) :
    poolBody h ask n d s = .ok (.next ((ask.pairs (t.askPool p h ask (poolPuts s.core.cur d n) d none false)).syncDone)) := by
  unfold poolBody replayedResults
  rw [live]
  dsimp only
  rw [pool]
  dsimp only
  rw [records]

/-- A word whose body is MPUT's or MTAKE's has asked the pool once, and the TSTEP that follows it is still to come. -/
theorem completes_poolBody {i : Instr} {g : Guard} {s t : State} {a : Src} {ask : Ask} {n : Nat} {d : Dst} {p : Pool}
    (frame : exec i s = runWord i g {} (outward (fun _ => true) (handleCheck a) (nonIdempotent (poolBody (s.src a) ask n d))) s)
    (ready : Ready i g s) (one : 1 ≤ n) (room : RoomFor n s) (user : s.core.inHandler = false) (unheld : Unheld s)
    (live : recorded s = .none) (records : holdRecords s n = .ok t) (pool : poolOf s (s.src a) = some p) :
    Completes i s (marked ((ask.pairs (t.askPool p (s.src a) ask (poolPuts s.core.cur d n) d none false)).syncDone)) := by
  refine completes_open frame ready ?_ (State.askPool_room one room (holdRecords_like records)
    (((Ask.pairs_like ask _).trans (State.syncDone_like _)).trans (.marked _)))
  rw [outward_user user]
  exact nonIdempotent_next unheld (poolBody_asks live records pool)

/-! ### The words -/

theorem mput_completes {s s1 : State} {g : Guard} {d : Dst} {a : Src} {b : BitVec 5} {p : Pool} (ready : Ready (.mput g d a b) g s)
    (user : s.core.inHandler = false) (unheld : Unheld s) (live : recorded s = .none) (record : recordEntry s none 0 = .ok s1)
    (pool : poolOf s (s.src a) = some p) :
    Completes (.mput g d a b) s (marked ((s1.askPool p (s.src a) (.put (s.reg b) (s.reg (b + 1)))
      (poolPuts s.core.cur d 1) d none false).takeFences.syncDone)) :=
  completes_poolBody (ask := .put (s.reg b) (s.reg (b + 1))) rfl ready (le_refl 1) ready.room.roomFor_one user unheld live
    (holdRecords_of_recordEntry record (by decide)) pool

theorem mtake_completes {s s1 : State} {f : OpDA} {p : Pool} (ready : Ready (.mtake f) f.g s) (room : RoomFor 3 s)
    (user : s.core.inHandler = false) (unheld : Unheld s) (live : recorded s = .none) (records : holdRecords s 3 = .ok s1)
    (pool : poolOf s (s.src f.a) = some p) :
    Completes (.mtake f) s (marked ((s1.askPool p (s.src f.a) (.take true) (poolPuts s.core.cur f.d 3) f.d none false).syncDone)) :=
  completes_poolBody (ask := .take true) rfl ready (by decide) room user unheld live records pool

theorem mstat_completes {s : State} {f : OpDA} {p : Pool} (ready : Ready (.mstat f) f.g s) (room : RoomFor 2 s)
    (pool : poolOf s (s.src f.a) = some p) :
    Completes (.mstat f) s (s.askPool p (s.src f.a) .stat (poolPuts s.core.cur f.d 2) f.d
      (some (.done (p.stat s.m.now (localShard s.core.num p.dies)) none)) false) := by
  have frame : exec (.mstat f) s = execMstat f s := rfl
  unfold execMstat at frame
  refine completes_open frame ready ?_ (State.askPool_room (by decide) room (.refl s) (.refl _))
  rw [pool]

/-- What MCTL asks of pool p: its control word is applied, or its status is there at once. -/
def State.askCtl (s : State) (p : Pool) (h : AluRR) : State :=
  if p.ctlStatus (s.src h.b).toNat = 0 then
    (s.modM (fun m => m.modPool p.num (fun p => p.applyCtl (s.src h.b).toNat))).askPool p (s.src h.a) (.ctl (s.src h.b))
      (poolPuts s.core.cur h.d 1) h.d none true ((p.falling (s.src h.b).toNat).map (·.die))
  else
    s.askPool p (s.src h.a) (.ctl (s.src h.b)) (poolPuts s.core.cur h.d 1) h.d
      (some (.done [w64 (p.ctlStatus (s.src h.b).toNat)] none)) false

theorem mctl_completes {s : State} {h : AluRR} {p : Pool} (ready : Ready (.mctl h) h.g s) (user : s.core.inHandler = false)
    (pool : poolOf s (s.src h.a) = some p) : Completes (.mctl h) s (s.askCtl p h) := by
  have frame : exec (.mctl h) s = execMctl h s := rfl
  unfold execMctl at frame
  refine completes_open frame ready ?runs ?room
  case runs =>
    rw [outward_user user]
    dsimp only
    rw [pool]
    exact (apply_ite (fun t => Except.ok (Fin.next t)) _ _ _).symm
  case room =>
    unfold State.askCtl
    split
    · exact State.askPool_room (le_refl 1) ready.room.roomFor_one (modM_like s _) (.refl _)
    · exact State.askPool_room (le_refl 1) ready.room.roomFor_one (.refl s) (.refl _)

/-- Settles O33, word by word; MCTL with a control word that is applied, and with one that is not. -/
theorem poolWordsComplete : Obligations.PoolWordsComplete := by
  unfold Obligations.PoolWordsComplete
  intro s s1 g d a b f h p
  refine ⟨mput_completes, mtake_completes, mstat_completes, fun ready user pool applied => ?_, fun ready user pool refused => ?_⟩
  · exact (if_pos applied : s.askCtl p h = _) ▸ mctl_completes ready user pool
  · exact (if_neg refused : s.askCtl p h = _) ▸ mctl_completes ready user pool

end Sys2Proof.Machine
end

section
/-! PROOFS. One queue of the module after an update (spec/12 R204). -/

namespace Sys2Proof.Machine

/-- An update of elements that fail a test leaves the first one that passes it. -/
theorem find?_mapIf_other {α : Type} {p r : α → Bool} {f : α → α} (keeps : ∀ x, p (f x) = p x)
    (apart : ∀ x, p x = true → r x = false) (l : List α) : (mapIf r f l).find? p = l.find? p := by
  have test : p ∘ (fun x => if r x then f x else x) = p := by
    funext x
    show p (if r x then f x else x) = p x
    split
    · exact keeps x
    · rfl
  unfold mapIf
  rw [List.find?_map, test]
  cases found : l.find? p with
  | none => rfl
  | some x => rw [Option.map_some, apart x (List.find?_some found), if_neg Bool.false_ne_true]

theorem Module.queue_num {m : Module} {q : Nat} {x : Queue} (h : m.queue q = some x) : x.num = q :=
  beq_iff_eq.mp (List.find?_some (p := fun x : Queue => x.num == q) h)

theorem Module.queue_modQueue {m : Module} {q : Nat} {x : Queue} {f : Queue → Queue} (found : m.queue q = some x)
    (keeps : ∀ y, (f y).num = y.num) : (m.modQueue q f).queue q = some (f x) := by
  have one : (m.modQueue q f).queue q = (m.queue q).map f := find?_mapIf (fun y => by rw [keeps]) m.queues
  rw [one, found, Option.map_some]

theorem Module.queue_modQueue_other {m : Module} {q r : Nat} {f : Queue → Queue} (other : q ≠ r) (keeps : ∀ y, (f y).num = y.num) :
    (m.modQueue r f).queue q = m.queue q := by
  refine find?_mapIf_other (p := fun y : Queue => y.num == q) (fun y => by rw [keeps]) (fun y named => ?_) m.queues
  rw [beq_iff_eq.mp named]
  exact beq_false_of_ne other

end Sys2Proof.Machine
end

section
/-! PROOFS. O41: the events of the queue slots (spec/12 R205, R206). -/

namespace Sys2Proof.Machine

/-! ### What the events do to a queue -/

@[simp] theorem Queue.notify_num (x : Queue) (v now wall : Nat) : (x.notify v now wall).num = x.num := by
  unfold Queue.notify
  split
  · rfl
  · split <;> rfl

@[simp] theorem Queue.evict_num (x : Queue) (now : Nat) : (x.evict now).num = x.num := by
  unfold Queue.evict
  split <;> rfl

@[simp] theorem Queue.evict_slot (x : Queue) (now : Nat) : (x.evict now).slot = none := by
  unfold Queue.evict
  split <;> rfl

/-- The queue is granted a slot at a tick (12 R206). -/
def Queue.granted (now : Nat) (x : Queue) : Queue := { x with slot := some now, waiting := none }

section
variable {x : Queue} {v : Nat} (live : x.st ≠ .error) (more : x.widx < v) (now wall : Nat)
include live more

/-- A write of a greater value within the ring makes the queue active (12 R205). -/
theorem Queue.notify_takes (fits : v - x.ridx ≤ 2 ^ x.size) :
    (x.notify v now wall).widx = v ∧ (x.notify v now wall).st = .active ∧ (x.notify v now wall).ridx = x.ridx := by
  unfold Queue.notify
  rw [if_neg (not_or.mpr ⟨live, Nat.not_le.mpr more⟩), if_pos fits]
  exact ⟨rfl, rfl, rfl⟩

/-- A write of more packets than the ring holds is the queue's error (12 R205). -/
theorem Queue.notify_overruns (past : 2 ^ x.size < v - x.ridx) :
    (x.notify v now wall).st = .error ∧ (x.notify v now wall).widx = x.widx := by
  unfold Queue.notify
  rw [if_neg (not_or.mpr ⟨live, Nat.not_le.mpr more⟩), if_neg (Nat.not_le.mpr past)]
  exact ⟨rfl, rfl⟩

end

/-! ### The events -/

section
variable {s : State} {q : Nat} (hw : s.wlog = [])
include hw

/-- A notify write of 8 bytes at the register of a queue reaches that queue (12 R205). -/
theorem takes_notifyWrite (v : Word) (ready : s.m.stage = 8) (inPage : q < 4096) :
    Takes (.notifyWrite (8 * q) 8 v) s (s.modM (fun m => m.modQueue q (fun x => x.notify v.toNat m.now m.wall))) := by
  have at' : 8 * q / 8 = q := Nat.mul_div_cancel_left q (by decide)
  change execNotifyWrite (8 * q) 8 v s = _
  unfold execNotifyWrite
  rw [runEvent_eq hw, at', if_pos ⟨ready, rfl, Nat.mul_mod_right 8 q, inPage⟩]

theorem takes_queueSlotGrant {x : Queue} (free : s.m.slotted.length < 64) (head : s.m.waitHead = some x) (num : x.num = q) :
    Takes (.queueSlotGrant q) s (s.modM (fun m => m.modQueue q (Queue.granted m.now))) := by
  change execQueueSlotGrant q s = _
  unfold execQueueSlotGrant
  rw [runEvent_eq hw, if_pos ⟨free, by rw [head, Option.map_some, num]⟩]
  rfl

theorem takes_queueIdleEviction {x : Queue} (found : s.m.queue q = some x) (slot : x.slot.isSome = true)
    (idle : ∀ p ∈ s.m.packets, p.q ≠ q) (old : x.notified + 1000 ≤ s.m.now) :
    Takes (.queueIdleEviction q) s (s.modM (fun m => m.modQueue q (fun x => x.evict m.now))) := by
  have noneInFlight : s.m.packets.all (fun p => p.q != q) = true := List.all_eq_true.mpr (fun p hp => bne_iff_ne.mpr (idle p hp))
  change execQueueIdleEviction q s = _
  unfold execQueueIdleEviction
  rw [runEvent_eq hw]
  simp only [found, slot, noneInFlight, Bool.and_self, Bool.true_and]
  rw [if_pos (decide_eq_true old)]

theorem takes_queuePriorityEviction {x w : Queue} (head : s.m.waitHead = some w) (low : s.m.lowest = some x) (num : x.num = q)
    (full : 64 ≤ s.m.slotted.length) (outranked : x.prio < w.effective s.m.now) :
    Takes (.queuePriorityEviction q) s
      (s.modM (fun m => (m.modQueue q (fun x => x.evict m.now)).modQueue w.num (Queue.granted m.now))) := by
  change execQueuePriorityEviction q s = _
  unfold execQueuePriorityEviction
  rw [runEvent_eq hw]
  simp only [head, low]
  rw [if_pos ⟨num, full, outranked⟩]
  rfl

theorem takes_queueStarvationTakeover {x w : Queue} (found : s.m.queue q = some w) (oldest : s.m.longest = some x)
    (on : s.m.mapperOn = true) (starves : w.starves s.m.now = true) (full : 64 ≤ s.m.slotted.length) :
    Takes (.queueStarvationTakeover q) s
      (s.modM (fun m => (m.modQueue x.num (fun x => x.evict m.now)).modQueue q (Queue.granted m.now))) := by
  change execQueueStarvationTakeover q s = _
  unfold execQueueStarvationTakeover
  rw [runEvent_eq hw]
  simp only [found, oldest, on, starves, Bool.and_self, Bool.true_and]
  rw [if_pos (decide_eq_true full)]
  rfl

end

/-- Of two queues, the one gives up its slot and the other takes one. -/
theorem Module.queue_handOver {m : Module} {a b : Nat} {x y : Queue} (apart : b ≠ a) (off : m.queue a = some x)
    (into : m.queue b = some y) :
    let m' := (m.modQueue a (fun x => x.evict m.now)).modQueue b (Queue.granted m.now)
    m'.queue a = some (x.evict m.now) ∧ m'.queue b = some (y.granted m.now) := by
  have evicts (z : Queue) : (z.evict m.now).num = z.num := z.evict_num m.now
  have grants (z : Queue) : (z.granted m.now).num = z.num := rfl
  constructor
  · rw [Module.queue_modQueue_other apart.symm grants]
    exact Module.queue_modQueue off evicts
  · refine Module.queue_modQueue ?_ grants
    rw [Module.queue_modQueue_other apart evicts]
    exact into

/-- Settles O41, event by event, on the queue that each changes. -/
theorem queueEvents : Obligations.QueueEvents := by
  unfold Obligations.QueueEvents
  intro s q x y v hw found
  have num : x.num = q := Module.queue_num found
  have notified := Module.queue_modQueue found (f := fun x => x.notify v.toNat s.m.now s.m.wall) fun z => z.notify_num ..
  refine ⟨fun ready inPage live more fits => ?_, fun ready inPage live more past => ?_, fun free head => ?_, fun slot idle old => ?_,
    fun foundY apart head low full outranked => ?_, fun foundY apart oldest on waits long full => ?_⟩
  · obtain ⟨widx, st, ridx⟩ := Queue.notify_takes live more s.m.now s.m.wall fits
    exact ⟨_, _, takes_notifyWrite hw v ready inPage, notified, widx, st, ridx, settled_mem_of_quiet hw⟩
  · obtain ⟨st, widx⟩ := Queue.notify_overruns live more s.m.now s.m.wall past
    exact ⟨_, _, takes_notifyWrite hw v ready inPage, notified, st, widx⟩
  · exact ⟨_, _, takes_queueSlotGrant hw free head num, Module.queue_modQueue found fun _ => rfl, rfl, rfl⟩
  · exact ⟨_, _, takes_queueIdleEviction hw found slot idle old, Module.queue_modQueue found fun z => z.evict_num _, x.evict_slot _⟩
  · obtain ⟨evicted, granted⟩ := Module.queue_handOver apart found foundY
    exact ⟨_, _, _, takes_queuePriorityEviction hw head low num full outranked, evicted, x.evict_slot _, granted, rfl⟩
  · have starves : x.starves s.m.now = true := Bool.and_eq_true_iff.mpr ⟨waits, decide_eq_true long⟩
    obtain ⟨evicted, granted⟩ := Module.queue_handOver apart.symm foundY found
    exact ⟨_, _, _, takes_queueStarvationTakeover hw found oldest on starves full, granted, rfl, evicted, y.evict_slot _⟩

end Sys2Proof.Machine
end

section
/-! PROOFS. What the device reads and writes does not depend on what queues know, nor on what is still to be done (spec/07 R134 to R137,
spec/12 R205). -/

namespace Sys2Proof.Machine

/-- s with other queues and another agenda. -/
def State.withQueues (s : State) (qs : List Queue) (acts : List Act) : State := { s with m := { s.m with queues := qs }, agenda := acts }

section
variable (qs : List Queue) (acts : List Act)

theorem State.withQueues_physRun (s : State) (pa n : Nat) : (s.withQueues qs acts).physRun pa n = s.physRun pa n := by
  induction n generalizing pa with
  | zero => rfl
  | succ n ih => exact congrArg (s.phys pa :: ·) (ih (pa + 1))

theorem walk_withQueues (s : State) (root : Word) (va : Nat) : walk (s.withQueues qs acts) root va = walk s root va := rfl

/-- An answer with the state that stands after it. -/
def onwards {ε α : Type} (f : State → State) (r : Except ε (α × State)) : Except ε (α × State) := r.map (fun a => (a.1, f a.2))

theorem translate_withQueues (s : State) (root : Word) (va : Nat) :
    translate (s.withQueues qs acts) root va = onwards (·.withQueues qs acts) (translate s root va) := by
  have cache : (s.withQueues qs acts).core.tlb = s.core.tlb := rfl
  unfold translate
  rw [walk_withQueues, cache]
  cases s.core.tlb.find? (fun e => e.root == root && e.vpage == va / 4096) with
  | some e => rfl
  | none => cases walk s root va <;> rfl

theorem translateAll_withQueues (root ptr : Word) (lane : Nat) : ∀ (l : List (Nat × Nat)) (s : State),
    translateAll (s.withQueues qs acts) root ptr false lane l = onwards (·.withQueues qs acts) (translateAll s root ptr false lane l)
  | [], _ => rfl
  | (va, n) :: r, s => by
    unfold translateAll
    rw [translate_withQueues]
    cases translate s root va with
    | error x => rfl
    | ok a =>
      obtain ⟨e, s1⟩ := a
      simp only [onwards, Except.map, Bool.false_and, Bool.false_eq_true, if_false]
      rw [translateAll_withQueues root ptr lane r s1]
      cases translateAll s1 root ptr false lane r <;> rfl

theorem checkParts_withQueues (root ptr : Word) (lane : Nat) : ∀ (l : List (List (Nat × Nat))) (s : State),
    checkParts (s.withQueues qs acts) root ptr .bare none none lane l =
      onwards (·.withQueues qs acts) (checkParts s root ptr .bare none none lane l)
  | [], _ => rfl
  | p :: r, s => by
    unfold checkParts
    simp only [checkPieces_bare]
    rw [translateAll_withQueues]
    cases translateAll s root ptr false lane p with
    | error x => rfl
    | ok a =>
      obtain ⟨ps, s1⟩ := a
      simp only [onwards, Except.map]
      rw [checkParts_withQueues root ptr lane r s1]
      cases checkParts s1 root ptr .bare none none lane r <;> rfl

theorem checkVirtual_withQueues (s : State) (root : Word) (va n : Nat) :
    checkVirtual (s.withQueues qs acts) root 0 va n .bare none none 0 =
      onwards (·.withQueues qs acts) (checkVirtual s root 0 va n .bare none none 0) :=
  checkParts_withQueues qs acts root 0 0 _ s

theorem State.barePieces_withQueues (s : State) (root : Word) (va n : Nat) :
    (s.withQueues qs acts).barePieces root va n = s.barePieces root va n := by
  unfold State.barePieces
  rw [checkVirtual_withQueues]
  cases checkVirtual s root 0 va n .bare none none 0 <;> rfl

theorem readPieces_withQueues (s : State) (ps : List Piece) : readPieces (s.withQueues qs acts) ps = readPieces s ps := by
  unfold readPieces
  simp only [State.withQueues_physRun]

theorem devRead_barePieces (s : State) (root : Word) (va n : Nat) :
    devRead s root va n = (s.barePieces root va n).map (readPieces s) := by
  unfold devRead State.barePieces
  cases checkVirtual s root 0 va n .bare none none 0 <;> rfl

theorem devRead_withQueues (s : State) (root : Word) (va n : Nat) : devRead (s.withQueues qs acts) root va n = devRead s root va n := by
  rw [devRead_barePieces, devRead_barePieces, State.barePieces_withQueues]
  exact congrArg (Option.map · _) (funext (readPieces_withQueues qs acts s))

theorem devWrite_withQueues_wlog (s : State) (root : Word) (va : Nat) (bs : Bytes) :
    (devWrite (s.withQueues qs acts) root va bs).wlog = (devWrite s root va bs).wlog := by
  have same := State.barePieces_withQueues qs acts s root va bs.length
  cases pieces : s.barePieces root va bs.length with
  | none =>
    rw [devWrite_none pieces, devWrite_none (same.trans pieces)]
    rfl
  | some ps =>
    rw [devWrite_some pieces, devWrite_some (same.trans pieces)]
    show (if ps.any (fun p => s.m.showsBoot p.entry.frame) then _ else _ : State).wlog = _
    split
    · rfl
    · exact writePieces_wlog (s := s) (t := s.withQueues qs acts) ps rfl bs

end

end Sys2Proof.Machine
end

section
/-! PROOFS. O42: the events of packets (spec/12 R207, R208; spec/17 R266). -/

namespace Sys2Proof.Machine

/-! ### A packet is taken (12 R207) -/

section
variable {s : State} {q : Nat} {x : Queue} {b : Bytes}

theorem nextPacket_queue (next : nextPacket s q = some (x, b)) : s.m.queue q = some x := by
  unfold nextPacket at next
  split at next
  · cases next
  · next found =>
    split at next
    · cases next
    · obtain ⟨_, -, e⟩ := Option.map_eq_some_iff.mp next
      cases e
      exact found

/-- The packet at the read index, of the kind that the event reads and with room for its nodes, is read by it. -/
theorem takes_onPacket {i : Instr} {code : Nat} {f : State → Queue → Bytes → State} (event : exec i s = onPacket code f q s)
    (hw : s.wlog = []) (next : nextPacket s q = some (x, b)) (ok : packetOk b = true)
    (room : s.m.tracked + packetNodes b ≤ Config.trackerMax) (kind : le b 0 1 = code) : Takes i s (f s x b) := by
  refine takes_event event hw ?_
  simp only [next, ok, kind, beq_self_eq_true, Bool.true_and]
  exact if_pos (decide_eq_true room)

theorem State.takePacket_queue (found : s.m.queue x.num = some x) (kind : PKind) (descs : List Word) :
    ∃ z, (s.takePacket x b kind descs).m.queue x.num = some z ∧ z.ridx = x.ridx + 1 :=
  ⟨_, Module.queue_modQueue (m := s.m) found fun _ => rfl, rfl⟩

/-- What an event leaves that takes the packet at the read index: it stands in flight with its nodes (12 R207). -/
theorem takesPacket {i : Instr} {u : State} {z : Queue} {kind : PKind} {descs : List Word} (hw : s.wlog = []) (num : x.num = q)
    (takes : Takes i s u) (queue : u.m.queue q = some z) (ridx : z.ridx = x.ridx + 1)
    (packets : u.m.packets = (s.takePacket x b kind descs).m.packets) (nodes : u.m.nodes = (s.takePacket x b kind descs).m.nodes)
    (quiet : u.wlog = s.wlog) :
    ∃ t z o, exec i s = .next t ∧ t.m.queue q = some z ∧ z.ridx = x.ridx + 1 ∧ t.m.packets = s.m.packets ++ [o] ∧ o.q = q ∧
      o.idx = x.ridx ∧ o.kind = kind ∧ o.sig = w64 (le b 8 8) ∧ o.addend = w64 (le b 16 8) ∧ o.nodes.length = descs.length ∧
      t.m.nodes.length = s.m.nodes.length + descs.length ∧ t.mem = s.mem := by
  refine ⟨_, z, _, takes, queue, ridx, packets, num, rfl, rfl, rfl, rfl, ?_, ?_, settled_mem_of_quiet (quiet.trans hw)⟩
  · simp only [List.length_map, List.length_zipIdx]
  · rw [settled_m, nodes]
    simp only [State.takePacket, State.modM_m, List.length_append, List.length_map, List.length_zipIdx]

/-- A WAIT holds its queue (12 R207). -/
def Queue.holding (a v : Word) (x : Queue) : Queue := { x with held := some (a, v) }

/-- A WAIT is taken, and holds its queue for its word and value. -/
def State.takeWait (s : State) (x : Queue) (b : Bytes) : State :=
  (s.takePacket x b .wait []).modM (fun m => m.modQueue x.num (Queue.holding (w64 (le b 24 8)) (w64 (le b 32 8))))

theorem State.takeWait_queue (found : s.m.queue x.num = some x) :
    ∃ z, (s.takeWait x b).m.queue x.num = some z ∧ z.ridx = x.ridx + 1 ∧ z.held = some (w64 (le b 24 8), w64 (le b 32 8)) := by
  obtain ⟨z, queue, ridx⟩ := State.takePacket_queue (b := b) found .wait []
  exact ⟨_, Module.queue_modQueue queue fun _ => rfl, ridx, rfl⟩

/-- A packet with a reserved value puts its queue into the error state, and is not taken (12 R207). -/
theorem packetError_stops (hw : s.wlog = []) (next : nextPacket s q = some (x, b)) (bad : packetOk b = false) :
    ∃ t z, exec (.packetError q) s = .next t ∧ t.m.queue q = some z ∧ z.st = .error ∧ z.ridx = x.ridx := by
  change ∃ t z, execPacketError q s = .next t ∧ _
  unfold execPacketError
  rw [runEvent_eq hw]
  simp only [next, bad, Bool.not_false, if_true]
  exact ⟨_, _, rfl, Module.queue_modQueue (nextPacket_queue next) fun _ => rfl, rfl, rfl⟩

/-- A queue whose WAIT has met its condition goes on, with what the acquire of the word has brought it (12 R207). -/
def Queue.goesOn (learnt : Sight) (x : Queue) : Queue := { x with held := none, sight := learnt }

def Packet.meet (p : Packet) : Packet := { p with met := true }

def State.waitMet (s : State) (q : Nat) (learnt : Sight) : State :=
  s.modM (fun m => { (m.modQueue q (Queue.goesOn learnt)) with packets := mapIf (fun p => p.q == q) Packet.meet m.packets })

theorem State.waitMet_met (s : State) (q : Nat) (learnt : Sight) : ∀ o ∈ (s.waitMet q learnt).m.packets, o.q = q → o.met = true := by
  intro o ho mine
  obtain ⟨p, -, rfl⟩ := List.mem_map.mp ho
  by_cases own : (p.q == q) = true
  · rw [if_pos own]
    rfl
  · rw [if_neg own] at mine
    exact absurd (beq_iff_eq.mpr mine) own

/-- WAIT_CONDITION_MET with the reads and the acquires of its state as arguments, so that nothing that follows evaluates a translation. -/
def State.waitStep (s : State) (q : Nat) (reads : Word → Nat → Nat → Option Bytes) (snaps : Word → Word → List Snap) : State :=
  match s.m.queue q with
  | some x =>
    match x.held with
    | some (a, v) =>
      match reads x.root a.toNat 8 with
      | some b =>
        if v.toNat ≤ leNat b then
          let learnt := (snaps x.root a).foldl (fun k sn => s.m.hand k sn.entries sn.evicted) x.sight
          let meet (p : Packet) : Packet := { p with met := true }
          s.modM (fun m => { (m.modQueue q (fun x => { x with held := none, sight := learnt })) with
            packets := mapIf (fun p => p.q == q) meet m.packets })
        else s
      | none => s
    | none => s
  | none => s

theorem exec_waitConditionMet (s : State) (q : Nat) :
    exec (.waitConditionMet q) s = runEvent (fun s => s.waitStep q (devRead s) (waitSnaps s)) s := rfl

/-- The word that a WAIT holds for has its value (12 R207). -/
theorem State.waitStep_reached {a v : Word} {reads : Word → Nat → Nat → Option Bytes} {snaps : Word → Word → List Snap}
    (found : s.m.queue q = some x) (held : x.held = some (a, v)) (read : reads x.root a.toNat 8 = some b) (reached : v.toNat ≤ leNat b) :
    s.waitStep q reads snaps = s.waitMet q ((snaps x.root a).foldl (fun k sn => s.m.hand k sn.entries sn.evicted) x.sight) := by
  unfold State.waitStep
  simp only [found, held, read]
  exact if_pos reached

theorem waitConditionMet_releases {a v : Word} (hw : s.wlog = []) (found : s.m.queue q = some x) (held : x.held = some (a, v))
    (read : devRead s x.root a.toNat 8 = some b) (reached : v.toNat ≤ leNat b) :
    ∃ t z, exec (.waitConditionMet q) s = .next t ∧ t.m.queue q = some z ∧ z.held = none ∧
      (∀ o ∈ t.m.packets, o.q = q → o.met = true) ∧ t.mem = s.mem :=
  ⟨_, _, takes_event (exec_waitConditionMet s q) hw (State.waitStep_reached found held read reached),
    Module.queue_modQueue (m := s.m) (f := Queue.goesOn _) found fun _ => rfl, rfl, State.waitMet_met s q _, settled_mem_of_quiet hw⟩

end

/-! ### The launch record (17 R266) -/

/-- The five parts of a launch record. -/
def partCounts (l : List Nat) : List Nat := (List.range 5).map (fun k => l.count k)

theorem sum_partCounts {l : List Nat} (parts : ∀ n ∈ l, n < 5) : (partCounts l).sum = l.length := by
  have total := Multiset.sum_count_eq_card (s := Finset.range 5) (m := (l : Multiset Nat)) fun n hn => Finset.mem_range.mpr (parts n hn)
  simp only [Finset.sum_range_succ, Finset.sum_range_zero, Multiset.coe_count, Multiset.coe_card] at total
  simp only [partCounts, List.range_succ, List.range_zero, List.nil_append, List.cons_append, List.map_cons, List.map_nil,
    List.sum_cons, List.sum_nil]
  omega

theorem launchPart_lt (w : BitVec 2) (runs told : Bool) : launchPart w runs told < 5 := by
  unfold launchPart
  split
  · decide
  · split
    · decide
    · split
      · decide
      · split <;> decide

/-- Sums of 64-bit words of numbers. -/
theorem foldl_map_w64 (l : List Nat) : ∀ n : Nat, (l.map w64).foldl (· + ·) (w64 n) = w64 (n + l.sum) := by
  induction l with
  | nil => intro n; rfl
  | cons a r ih =>
    intro n
    have add : w64 n + w64 a = w64 (n + a) := (BitVec.ofNat_add n a).symm
    rw [List.map_cons, List.foldl_cons, add, ih, List.sum_cons, Nat.add_assoc]

/-- The wall time of a launch record, and that its parts add up to it (17 R266). -/
theorem launchTimes_adds (p : Packet) (nodes : List Node) (wall : Nat) :
    let l := launchTimes p nodes wall
    l.length = 6 ∧ l.headD 0 = w64 ((wall - p.since) / 10) ∧ (l.drop 1).foldl (· + ·) 0 = l.headD 0 := by
  refine ⟨rfl, rfl, ?_⟩
  unfold launchTimes
  extract_lets ns part
  show ((partCounts ((List.range ns).map part)).map w64).foldl (· + ·) (w64 0) = w64 ns
  rw [foldl_map_w64, sum_partCounts, List.length_map, List.length_range, Nat.zero_add]
  intro n hn
  obtain ⟨k, -, rfl⟩ := List.mem_map.mp hn
  exact launchPart_lt ..

/-! ### The completion of a packet (12 R208) -/

/-- The launch record of a packet that completes at a wall time (17 R266). -/
def launchRec (q : Nat) (p : Packet) (nodes : List Node) (wall : Nat) : LaunchRec :=
  { q := q, idx := p.idx, times := launchTimes p nodes wall }

/-- Nothing of a packet is left but its launch record (12 R208); s is as its completion began. -/
def State.packetGone (s : State) (q : Nat) (p : Packet) (t : State) : State :=
  t.modM (fun m =>
    { (m.modQueue q (Queue.barred m p)) with
      packets := m.packets.filter (fun o => !(o.q == q && o.idx == p.idx)),
      nodes := m.nodes.filter (fun n => !p.nodes.contains n.id),
      launches := m.launches ++ [launchRec q p (s.m.packetNodes p) m.wall] })

theorem State.packetGone_wlog (s : State) (q : Nat) (p : Packet) (t : State) : (s.packetGone q p t).wlog = t.wlog := rfl

/-- The status that a completed packet reports: of its nodes, the first that is not 0 (12 R208). -/
def Module.packetStatus (m : Module) (p : Packet) : Word := (((m.packetNodes p).map (·.status)).find? (· != 0)).getD 0

/-- The completion signal with its status dword, and then with the sum that it held before. -/
def State.signalled (s : State) (x : Queue) (p : Packet) (b : Bytes) : State :=
  signalRelease (signalWrite (signalWrite s x p (p.sig.toNat + 8) (s.m.packetStatus p)) x p p.sig.toNat (w64 (leNat b + p.addend.toNat))) x p

/-- What completion signals leave of the module: packets, launch records and the wall clock. -/
def SignalsOnly (s t : State) : Prop := t.m.packets = s.m.packets ∧ t.m.launches = s.m.launches ∧ t.m.wall = s.m.wall

theorem SignalsOnly.trans {s t u : State} (h : SignalsOnly s t) (h' : SignalsOnly t u) : SignalsOnly s u :=
  ⟨h'.1.trans h.1, h'.2.1.trans h.2.1, h'.2.2.trans h.2.2⟩

theorem SignalsOnly.devWrite (s : State) (root : Word) (va : Nat) (bs : Bytes) : SignalsOnly s (devWrite s root va bs) := by
  obtain ⟨_, _, mod⟩ := (devWrite_wrote s root va bs).mod
  rw [SignalsOnly, mod]
  exact ⟨rfl, rfl, rfl⟩

theorem SignalsOnly.withQueues {s t : State} (h : SignalsOnly s t) (qs : List Queue) (acts : List Act) :
    SignalsOnly s (t.withQueues qs acts) := h

theorem State.withQueues_wlog (s : State) (qs : List Queue) (acts : List Act) : (s.withQueues qs acts).wlog = s.wlog := rfl

theorem State.withQueues_self (s : State) : s = s.withQueues s.m.queues s.agenda := rfl

theorem State.notified_eq (s : State) (pa n : Nat) (v : Word) (learn : Option (List Known × Bool)) :
    ∃ qs acts, s.notified pa n v learn = s.withQueues qs acts := by
  unfold State.notified
  split
  · split
    · cases learn with
      | none => exact ⟨_, _, rfl⟩
      | some k =>
        dsimp only
        split
        · exact ⟨_, _, rfl⟩
        · exact ⟨_, _, rfl⟩
    · exact ⟨_, _, s.withQueues_self⟩
  · exact ⟨_, _, s.withQueues_self⟩

/-- A dword of a completion signal is a write of the device; one that reaches a notify register is another row as well (12 R205). -/
theorem signalWrite_eq (s : State) (x : Queue) (p : Packet) (addr : Nat) (v : Word) :
    ∃ qs acts, signalWrite s x p addr v = (devWrite s x.root addr (leBytes 8 v.toNat)).withQueues qs acts := by
  rw [signalWrite]
  split
  · exact State.notified_eq ..
  · exact ⟨_, _, State.withQueues_self _⟩

theorem SignalsOnly.signalWrite (s : State) (x : Queue) (p : Packet) (addr : Nat) (v : Word) :
    SignalsOnly s (signalWrite s x p addr v) := by
  obtain ⟨qs, acts, eq⟩ := signalWrite_eq s x p addr v
  rw [eq]
  exact .withQueues (.devWrite ..) qs acts

theorem SignalsOnly.putSnap (s : State) (sn : Snap) : SignalsOnly s (s.modM (fun m => m.putSnap sn)) := by
  unfold SignalsOnly State.modM Module.putSnap
  dsimp only
  split
  · exact ⟨rfl, rfl, rfl⟩
  · split <;> exact ⟨rfl, rfl, rfl⟩

theorem signalRelease_frame (s : State) (x : Queue) (p : Packet) :
    SignalsOnly s (signalRelease s x p) ∧ (signalRelease s x p).wlog = s.wlog := by
  rw [signalRelease]
  split
  · exact ⟨.putSnap .., State.modM_wlog ..⟩
  · exact ⟨⟨rfl, rfl, rfl⟩, rfl⟩

/-- The last dword of a signal, and its release. -/
theorem signalRelease_signalWrite (w : State) (x : Queue) (p : Packet) (addr : Nat) (v : Word) :
    SignalsOnly w (signalRelease (signalWrite w x p addr v) x p) ∧
      (signalRelease (signalWrite w x p addr v) x p).wlog = (devWrite w x.root addr (leBytes 8 v.toNat)).wlog := by
  obtain ⟨released, quiet⟩ := signalRelease_frame (signalWrite w x p addr v) x p
  obtain ⟨qs, acts, eq⟩ := signalWrite_eq w x p addr v
  exact ⟨.trans (.signalWrite ..) released, by rw [quiet, eq, State.withQueues_wlog]⟩

/-- The signal is a status dword 8 bytes behind it and then the sum; both are the device's own writes (12 R208). -/
theorem State.signalled_frame (s : State) (x : Queue) (p : Packet) (b : Bytes) :
    let told := devWrite s x.root (p.sig.toNat + 8) (leBytes 8 (s.m.packetStatus p).toNat)
    SignalsOnly s (s.signalled x p b) ∧
      (s.signalled x p b).wlog = (devWrite told x.root p.sig.toNat (leBytes 8 ((leNat b + p.addend.toNat) % 2 ^ 64))).wlog := by
  intro told
  obtain ⟨qs, acts, eq⟩ := signalWrite_eq s x p (p.sig.toNat + 8) (s.m.packetStatus p)
  obtain ⟨signals, log⟩ := signalRelease_signalWrite (signalWrite s x p (p.sig.toNat + 8) (s.m.packetStatus p)) x p p.sig.toNat
    (w64 (leNat b + p.addend.toNat))
  refine ⟨.trans (.signalWrite ..) signals, log.trans ?_⟩
  rw [eq]
  exact devWrite_withQueues_wlog qs acts told x.root p.sig.toNat _

/-- A completed packet is not in flight any more; its launch record stands last. -/
theorem State.packetGone_gone (s : State) (q : Nat) (p : Packet) {t : State} (signals : SignalsOnly s t) :
    (∀ o ∈ (s.packetGone q p t).m.packets, ¬(o.q = q ∧ o.idx = p.idx)) ∧
      (s.packetGone q p t).m.launches = s.m.launches ++ [launchRec q p (s.m.packetNodes p) s.m.wall] := by
  obtain ⟨-, launches, wall⟩ := signals
  refine ⟨fun o ho ⟨own, idx⟩ => ?_, ?_⟩
  · have other := (List.mem_filter.mp ho).2
    rw [own, idx, beq_self_eq_true, beq_self_eq_true] at other
    exact absurd other (by decide)
  · show t.m.launches ++ [_] = _
    rw [launches, wall]

section
variable {s : State} {q : Nat} {x : Queue} {p : Packet} (hw : s.wlog = [])
  (found : s.m.packets.find? (fun o => o.q == q && o.idx == p.idx) = some p) (owner : s.m.queue q = some x)
  (done : s.m.packetDone p = true)
include hw found owner done

theorem takes_packetCompletion_quiet (unsignalled : p.sig = 0) :
    Takes (.packetCompletion q p.idx) s (s.packetGone q p s) := by
  change execPacketCompletion q p.idx s = _
  unfold execPacketCompletion
  rw [runEvent_eq hw]
  simp only [found, owner, done, unsignalled, Bool.not_true, Bool.false_eq_true, if_false, if_true]
  rfl

theorem takes_packetCompletion_signalled {b : Bytes} (signals : p.sig ≠ 0)
    (holds : devRead (devWrite s x.root (p.sig.toNat + 8) (leBytes 8 (s.m.packetStatus p).toNat)) x.root p.sig.toNat 8 = some b) :
    Takes (.packetCompletion q p.idx) s (s.packetGone q p (s.signalled x p b)) := by
  have reads : devRead (signalWrite s x p (p.sig.toNat + 8) (s.m.packetStatus p)) x.root p.sig.toNat 8 = some b := by
    obtain ⟨qs, acts, eq⟩ := signalWrite_eq s x p (p.sig.toNat + 8) (s.m.packetStatus p)
    rw [eq, devRead_withQueues, holds]
  change execPacketCompletion q p.idx s = _
  unfold execPacketCompletion
  rw [runEvent_eq hw]
  unfold Module.packetStatus at reads
  simp only [found, owner, done, signals, Bool.not_true, Bool.false_eq_true, if_false, reads]
  rfl

/-- A completed packet without a signal writes nothing (12 R208). -/
theorem packetCompletion_quiet (unsignalled : p.sig = 0) :
    ∃ t, exec (.packetCompletion q p.idx) s = .next t ∧ (∀ o ∈ t.m.packets, ¬(o.q = q ∧ o.idx = p.idx)) ∧
      t.m.launches.length = s.m.launches.length + 1 ∧ t.mem = s.mem := by
  obtain ⟨gone, launches⟩ := State.packetGone_gone s q p (t := s) ⟨rfl, rfl, rfl⟩
  refine ⟨_, takes_packetCompletion_quiet hw found owner done unsignalled, gone, ?_, settled_mem_of_quiet hw⟩
  rw [settled_m, launches, List.length_append, List.length_singleton]

/-- One with a signal writes its status and then the sum (12 R208). -/
theorem packetCompletion_signals {b : Bytes} (signals : p.sig ≠ 0)
    (holds : devRead (devWrite s x.root (p.sig.toNat + 8) (leBytes 8 (s.m.packetStatus p).toNat)) x.root p.sig.toNat 8 = some b) :
    let told := devWrite s x.root (p.sig.toNat + 8) (leBytes 8 (s.m.packetStatus p).toNat)
    ∃ t l, exec (.packetCompletion q p.idx) s = .next t ∧ (∀ o ∈ t.m.packets, ¬(o.q = q ∧ o.idx = p.idx)) ∧
      t.mem = s.mem.commit (devWrite told x.root p.sig.toNat (leBytes 8 ((leNat b + p.addend.toNat) % 2 ^ 64))).wlog ∧
      t.m.launches = s.m.launches ++ [l] ∧ l.q = q ∧ l.idx = p.idx ∧ l.times.length = 6 ∧
      l.times.headD 0 = w64 ((s.m.wall - p.since) / 10) ∧ (l.times.drop 1).foldl (· + ·) 0 = l.times.headD 0 := by
  intro told
  obtain ⟨only, log⟩ := State.signalled_frame s x p b
  obtain ⟨gone, launches⟩ := State.packetGone_gone s q p only
  obtain ⟨six, wall, adds⟩ := launchTimes_adds p (s.m.packetNodes p) s.m.wall
  refine ⟨_, launchRec q p (s.m.packetNodes p) s.m.wall, takes_packetCompletion_signalled hw found owner done signals holds, ?_, ?_, ?_,
    rfl, rfl, six, wall, adds⟩
  · rwa [settled_m]
  · rw [settled_mem, State.packetGone_wlog, log]
  · rw [settled_m, launches]

end

/-- Settles O42: each kind of packet as it is taken, a packet in error, a WAIT that is met, and a completion without and with a signal. -/
theorem packetEvents : Obligations.PacketEvents := by
  unfold Obligations.PacketEvents
  intro s q x b p a v hw found taken
  refine ⟨fun next ok room => ?taken, fun next bad => packetError_stops hw next bad,
    fun held read reached => waitConditionMet_releases hw found held read reached,
    fun inFlight done quiet => packetCompletion_quiet hw inFlight found done quiet,
    fun inFlight done signals holds => packetCompletion_signals hw inFlight found done signals holds⟩
  case taken =>
    obtain rfl : x.num = q := Module.queue_num found
    have reads {i : Instr} {code : Nat} {kind : PKind} (descs : Bytes → List Word)
        (event : exec i s = onPacket code (fun s x b => s.takePacket x b kind (descs b)) x.num s) (is : le b 0 1 = code) :
        taken i kind (descs b).length := by
      obtain ⟨z, queue, ridx⟩ := State.takePacket_queue (b := b) found kind (descs b)
      exact takesPacket hw rfl (takes_onPacket event hw next ok room is) queue ridx rfl rfl rfl
    refine ⟨reads (fun b => [w64 (le b 24 8)]) rfl, fun is => ?graph, fun is => ?wait, reads (fun _ => []) rfl, reads (fun _ => []) rfl⟩
    case graph =>
      have nodes := reads (i := .graph x.num) (kind := .graph)
        (fun b => (List.range (le b 32 4)).map (fun i => w64 (le b 24 8 + 320 * i))) rfl is
      rwa [List.length_map, List.length_range] at nodes
    case wait =>
      have takes := takes_onPacket (i := .wait x.num) (f := State.takeWait) rfl hw next ok room is
      obtain ⟨z, queue, ridx, held⟩ := State.takeWait_queue (b := b) found
      exact ⟨takesPacket hw rfl takes queue ridx rfl rfl rfl, _, z, takes, queue, held⟩

end Sys2Proof.Machine
end

section
/-! PROOFS. A task put on another core (spec/12 R212): what writes of the device leave of the cores out of focus, and the core that
it stands on. -/

namespace Sys2Proof.Machine

/-! ### The cores out of focus -/

/-- The keys and numbers of the cores out of focus. -/
def State.seats (s : State) : List (Nat × Nat) := s.others.map (fun p => (p.1, p.2.num))

theorem State.seats_map {s t : State} {g : Core → Core} (others : t.others = s.others.map (fun p => (p.1, g p.2)))
    (keeps : ∀ k, (g k).num = k.num) : t.seats = s.seats := by
  rw [State.seats, others, List.map_map]
  exact List.map_congr_left fun p _ => congrArg (Prod.mk p.1) (keeps p.2)

theorem State.sawWrite_seats (s : State) (pa n : Nat) (keep : Option (BitVec 8)) : (s.sawWrite pa n keep).seats = s.seats := by
  let hit : Core → Core := fun k => k.modAll (fun c => (linesOf pa n).foldl Context.sawWrite c)
  let u : State := { s with others := s.others.map (fun p => (p.1, hit p.2)) }
  have saw : u.seats = s.seats := State.seats_map (g := hit) rfl fun _ => rfl
  have took : (s.sawWrite pa n keep).seats = u.seats :=
    State.seats_map (g := Core.takeBack true (linesOf pa n) none) rfl fun _ => rfl
  exact took.trans saw

theorem State.physWriteRun_others (s : State) (pa : Nat) (bs : Bytes) : (s.physWriteRun pa bs).others = s.others := by
  obtain ⟨_, eq⟩ := physWriteRun_eq bs s pa
  rw [eq]

/-- The device's own writes leave every core on its seat. -/
theorem devWrite_seats (s : State) (root : Word) (va : Nat) (bs : Bytes) : (devWrite s root va bs).seats = s.seats := by
  have pieces (ps : List Piece) : ∀ (s : State) (bs : Bytes), (writePieces s none false none none ps bs).seats = s.seats := by
    induction ps with
    | nil => intro s bs; rfl
    | cons p r ih =>
      intro s bs
      rw [writePieces, ih]
      calc ((s.physWriteRun p.pa (bs.take p.n)).sawWrite p.pa p.n none).seats
          = (s.physWriteRun p.pa (bs.take p.n)).seats := State.sawWrite_seats ..
        _ = s.seats := by rw [State.seats, State.physWriteRun_others, State.seats]
  obtain ⟨ps, eq | eq⟩ := devWrite_only s root va bs
  · rw [eq]
  · rw [eq]
    exact pieces ps s bs

theorem linkSegments_frame (root : Word) (segs : List Word) : ∀ s : State,
    Wrote s (linkSegments s root segs) ∧ (linkSegments s root segs).seats = s.seats := by
  induction segs with
  | nil => intro s; exact ⟨.refl s, rfl⟩
  | cons a r ih =>
    intro s
    obtain ⟨wrote, seats⟩ := ih (devWrite s root (a.toNat + 128 * 31) (linkSlot 0))
    exact ⟨(devWrite_wrote ..).trans wrote, seats.trans (devWrite_seats ..)⟩

/-! ### Work on a core out of focus -/

theorem State.focus_num {s : State} {c : Nat} (h : (s.coreAt c).num = c) : (s.focus c).core.num = c := by
  unfold State.coreAt at h
  unfold State.focus
  split
  · next own => exact own
  · next other =>
    rw [if_neg other] at h
    cases seat : s.others.find? (fun p => p.1 == c) with
    | none => rfl
    | some p => simpa only [seat, Option.map_some, Option.getD_some] using h

/-- Work on another core that keeps every core on its seat is done on that core. -/
theorem State.coreAt_onCore {s : State} {c : Nat} {f : State → State} (other : s.core.num ≠ c) (num : (f (s.focus c)).core.num = c)
    (seats : (f (s.focus c)).seats = (s.focus c).seats) :
    (s.onCore c f).coreAt c = (f (s.focus c)).core ∧ (s.onCore c f).m = (f (s.focus c)).m := by
  unfold State.onCore
  generalize f (s.focus c) = u at num seats ⊢
  have away : u.core.num ≠ s.core.num := fun e => other (e.symm.trans num)
  have find (t : State) : t.seats.find? (fun p => p.1 == s.core.num) =
      (t.others.find? (fun p => p.1 == s.core.num)).map (fun p => (p.1, p.2.num)) := List.find?_map
  have mine := find u
  rw [seats, find, State.find?_focus other, Option.map_some] at mine
  obtain ⟨p, seat, named⟩ := Option.map_eq_some_iff.mp mine.symm
  have back : (u.focus s.core.num).core.num = s.core.num := by
    unfold State.focus
    rw [if_neg away]
    simpa only [seat, Option.map_some, Option.getD_some] using congrArg Prod.snd named
  refine ⟨?_, State.focus_m ..⟩
  have there := State.find?_focus away
  rw [num] at there
  rw [State.coreAt, if_neg (by rw [back]; exact other), there]
  rfl

/-! ### The launch of a task (03 R53; 12 R212) -/

theorem State.reach_eq (s : State) : ∃ f, s.reach = s.modCore (fun k => k.modAll f) := by
  unfold State.reach
  split
  · exact ⟨_, rfl⟩
  · exact ⟨id, rfl⟩

/-- A task that is launched stands on the core in focus, in user mode; of the module only its free values, snapshots and race tags move. -/
theorem State.launchTask_frame (s : State) (t : Task) (segs : List Word) :
    (s.launchTask t segs).core.task = some t ∧ (s.launchTask t segs).core.mode = .u ∧ (s.launchTask t segs).core.num = s.core.num ∧
      (s.launchTask t segs).seats = s.seats ∧
      ∃ sn ra free, (s.launchTask t segs).m = { s.m with snaps := sn, races := ra, free := free } := by
  obtain ⟨wrote, seats⟩ := linkSegments_frame t.root segs s
  rw [State.launchTask, (State.reach_eq _).choose_spec]
  generalize linkSegments s t.root segs = w at wrote seats
  obtain ⟨num, -⟩ := wrote.logged.core_fields
  obtain ⟨sn, ra, mod⟩ := wrote.mod
  refine ⟨rfl, rfl, num, seats, sn, ra, w.m.free + 1, ?_⟩
  show { w.m with free := w.m.free + 1 } = _
  rw [mod]

end Sys2Proof.Machine
end

section
/-! PROOFS. O43: the events of graph nodes and tenants (spec/12 R211 to R215). -/

namespace Sys2Proof.Machine

/-! ### One node of the module after an update -/

theorem Module.node_id {m : Module} {n : Nat} {x : Node} (h : m.node n = some x) : x.id = n :=
  beq_iff_eq.mp (List.find?_some (p := fun x : Node => x.id == n) h)

theorem Module.node_modNode {m : Module} {n : Nat} {x : Node} {f : Node → Node} (found : m.node n = some x)
    (keeps : ∀ y, (f y).id = y.id) : (modNode m n f).node n = some (f x) := by
  have one : (modNode m n f).node n = (m.node n).map f := find?_mapIf (fun y => by rw [keeps]) m.nodes
  rw [one, found, Option.map_some]

theorem Module.node_map {m m' : Module} {n : Nat} {x : Node} {f : Node → Node} (found : m.node n = some x)
    (nodes : m'.nodes = m.nodes.map f) (keeps : ∀ y, (f y).id = y.id) : m'.node n = some (f x) := by
  have test : (fun y : Node => y.id == n) ∘ f = fun y => y.id == n := funext fun y => congrArg (· == n) (keeps y)
  rw [Module.node, nodes, List.find?_map, test]
  exact congrArg (Option.map f) found

/-- The status of a node with a wrong record or replay mode (15 R409). -/
theorem schedStatus_badModes : schedStatus 0xFFFFFFF3 = 0xFFFFFFF300000042 := by decide

/-! ### A node enters the pool (12 R211) -/

/-- A node enters the pool at a tick. -/
def Node.readied (now : Nat) (x : Node) : Node := { x with st := .ready, entered := now }

section
variable {s : State} {n : Nat} {x : Node} (hw : s.wlog = []) (found : s.m.node n = some x)
include hw found

theorem nodeReady_enters (pending : x.st = .pending) (accepted : s.m.rejected x.idesc x.root = false)
    (free : ∀ i ∈ s.m.nodes, x.dependsOn i = false)
    (noBarrier : ∀ p ∈ s.m.packets, ¬(p.q = x.q ∧ p.idx < x.pkt ∧ p.kind = .barrier)) :
    ∃ t, exec (.nodeReady n) s = .next t ∧ t.m.node n = some { x with st := .ready, entered := s.m.now } ∧ t.mem = s.mem := by
  have unbarred : s.m.packets.any (fun p => p.q == x.q && decide (p.idx < x.pkt) && p.kind == .barrier) = false := by
    refine List.any_eq_false.mpr fun p hp bars => noBarrier p hp ?_
    simpa only [Bool.and_eq_true, beq_iff_eq, decide_eq_true_eq, and_assoc] using bars
  have independent : s.m.nodes.all (fun i => !x.dependsOn i) = true :=
    List.all_eq_true.mpr fun i hi => by rw [free i hi, Bool.not_false]
  have takes : Takes (.nodeReady n) s (s.modM (fun m => modNode m n (Node.readied m.now))) := by
    change execNodeReady n s = _
    rw [execNodeReady, runEvent_eq hw]
    simp only [found, unbarred, accepted, independent, pending, Bool.not_false, and_self, if_true]
    rfl
  exact ⟨_, takes, Module.node_modNode found fun _ => rfl, settled_mem_of_quiet hw⟩

/-! ### A node is dispatched (12 R212) -/

/-- A node of a wrong record or replay mode fails at once (17 R268). -/
theorem nodeDispatch_fails (c : Nat) (ready : x.st = .ready) (bad : badModes s x = true) :
    ∃ t y, exec (.nodeDispatch n [c]) s = .next t ∧ t.m.node n = some y ∧ y.st = .done ∧ y.status = 0xFFFFFFF300000042 := by
  change ∃ t y, execNodeDispatch n [c] s = .next t ∧ _
  rw [execNodeDispatch, runEvent_eq hw]
  simp only [found]
  rw [if_pos ⟨ready, bad⟩]
  exact ⟨_, _, rfl, Module.node_modNode found fun _ => rfl, rfl, schedStatus_badModes⟩

end

/-- A member that starts on a core. -/
def Node.joined (member : Member) (x : Node) : Node := { x with st := .running, members := x.members ++ [member] }

/-- The module as a member joins a node: task numbers count up, and free values are drawn (DESIGN CHOICE, logs 4 and 63). -/
def Module.joined (id : Nat) (member : Member) (m : Module) : Module :=
  { (modNode m id (Node.joined member)) with nextTask := m.nextTask + 1, free := m.free + 8 }

theorem Module.joined_frame {m : Module} {n : Nat} {x : Node} (found : m.node n = some x) (member : Member) :
    (m.joined n member).node n = some (x.joined member) ∧ (m.joined n member).nextTask = m.nextTask + 1 :=
  ⟨Module.node_modNode (m := m) (f := Node.joined member) found fun _ => rfl, rfl⟩

/-- A task without record mode starts: its node takes a member, and it is launched on the core. -/
theorem State.startMember_eq (s : State) (x : Node) (idx c : Nat) (plain : x.kflags.getLsbD 3 = false) :
    ∃ (t : Task) (member : Member) (segs : List Word), t.node = x.id ∧ t.num = s.m.nextTask ∧
      s.startMember x idx c = (s.modM (Module.joined x.id member)).onCore c (fun y => y.launchTask t segs) := by
  rw [State.startMember]
  simp only [plain, Bool.false_eq_true, if_false]
  exact ⟨_, _, _, rfl, rfl, rfl⟩

/-- The member that starts stands in its node and its task on the core, in user mode; the next task has the next number. -/
theorem State.startMember_frame {s : State} {n : Nat} {x : Node} {c : Nat} (found : s.m.node n = some x) (idx : Nat)
    (plain : x.kflags.getLsbD 3 = false) (other : c ≠ s.core.num) (seat : (s.coreAt c).num = c) :
    ∃ k member, (s.startMember x idx c).m.node n = some (x.joined member) ∧ ((s.startMember x idx c).coreAt c).task = some k ∧
      k.node = x.id ∧ k.num = s.m.nextTask ∧ ((s.startMember x idx c).coreAt c).mode = .u ∧
      (s.startMember x idx c).m.nextTask = s.m.nextTask + 1 := by
  obtain ⟨t, member, segs, node, num, eq⟩ := State.startMember_eq s x idx c plain
  rw [eq, Module.node_id found]
  obtain ⟨joined, next⟩ := Module.joined_frame found member
  generalize hw : s.modM (Module.joined n member) = w
  have mod : w.m = s.m.joined n member := by rw [← hw]; rfl
  have core : w.core = s.core := by rw [← hw]; rfl
  have focused : (w.focus c).core.num = c := State.focus_num (by rw [← hw]; exact seat)
  obtain ⟨task, mode, kept, seats, sn, ra, free, launched⟩ := State.launchTask_frame (w.focus c) t segs
  obtain ⟨at', after⟩ := State.coreAt_onCore (s := w) (f := fun y => y.launchTask t segs) (by rw [core]; exact other.symm)
    (kept.trans focused) seats
  refine ⟨t, member, ?_, ?_, Module.node_id found ▸ node, num, ?_, ?_⟩
  · rw [after, launched, State.focus_m, mod]
    exact joined
  · rw [at', task]
  · rw [at', mode]
  · rw [after, launched, State.focus_m, mod]
    exact next

/-- What a dispatch notes of its node: when it began, and the tasks that replay mode asks for. -/
def Node.noted (wall : Nat) (tasks : Option Nat) (y : Node) : Node :=
  { y with began := some (y.began.getD wall), journals := y.journals.or tasks }

/-- A node has been dispatched on cores: what is noted of it, and the hold, which ends with its node or loses these cores (12 R212). -/
def Module.dispatched (n : Nat) (cores : List Nat) (tasks : Option Nat) (m : Module) : Module :=
  let m := modNode m n (Node.noted m.wall tasks)
  if m.hold.map (·.1) = some n then { m with hold := none } else m.takeHeld cores

theorem Module.dispatched_frame {m : Module} {n : Nat} {x : Node} (found : m.node n = some x) (cores : List Nat) (tasks : Option Nat) :
    (m.dispatched n cores tasks).node n = some (x.noted m.wall tasks) ∧ (m.dispatched n cores tasks).nextTask = m.nextTask := by
  have noted : (modNode m n (Node.noted m.wall tasks)).node n = some (x.noted m.wall tasks) := Module.node_modNode found fun _ => rfl
  unfold Module.dispatched
  dsimp only
  split <;> exact ⟨noted, rfl⟩

theorem State.coreAt_settled_modM (s t : State) (f : Module → Module) (c : Nat) : (settled s (t.modM f)).coreAt c = t.coreAt c := rfl

section
variable {s : State} {n : Nat} {x : Node} (hw : s.wlog = []) (found : s.m.node n = some x)
include hw found

theorem takes_nodeDispatch {c : Nat} (good : badModes s x = false) (can : canDispatch s x [c] = true) :
    Takes (.nodeDispatch n [c]) s ((s.startMember x x.members.length c).modM (Module.dispatched n [c] (replayTasks s x))) := by
  change execNodeDispatch n [c] s = _
  rw [execNodeDispatch, runEvent_eq hw]
  simp only [found]
  rw [if_neg (fun ⟨_, bad⟩ => Bool.false_ne_true (good.symm.trans bad)), if_pos can, List.zipIdx_singleton,
    List.foldl_cons, List.foldl_nil]
  rfl

/-- A node dispatched on one free core starts a task on it (12 R212). -/
theorem nodeDispatch_starts {c : Nat} (good : badModes s x = false) (plain : x.kflags.getLsbD 3 = false)
    (can : canDispatch s x [c] = true) (other : c ≠ s.core.num) (seat : (s.coreAt c).num = c) :
    ∃ t y k, exec (.nodeDispatch n [c]) s = .next t ∧ t.m.node n = some y ∧ y.st = .running ∧
      y.members.length = x.members.length + 1 ∧ (t.coreAt c).task = some k ∧ k.node = x.id ∧ k.num = s.m.nextTask ∧
      (t.coreAt c).mode = .u ∧ t.m.nextTask = s.m.nextTask + 1 := by
  obtain ⟨k, member, joined, task, node, num, mode, next⟩ := State.startMember_frame found x.members.length plain other seat
  obtain ⟨noted, same⟩ := Module.dispatched_frame joined [c] (replayTasks s x)
  refine ⟨_, _, k, takes_nodeDispatch hw found good can, noted, rfl, ?_, ?_, node, num, ?_, ?_⟩
  · exact List.length_append
  · rw [State.coreAt_settled_modM, task]
  · rw [State.coreAt_settled_modM, mode]
  · rw [settled_m, State.modM_m, same, next]

end

/-! ### The head of the pool (12 R212) -/

/-- A node as the ranks follow the clock: the one at the head keeps the tick it came there. -/
def Node.ranked (head : Option Nat) (now : Nat) (n : Node) : Node :=
  if head = some n.id then { n with headSince := some (n.headSince.getD now) } else { n with headSince := none }

theorem Node.ranked_id (head : Option Nat) (now : Nat) (n : Node) : (n.ranked head now).id = n.id := by
  unfold Node.ranked
  split <;> rfl

/-- A hold stands only for the node at the head (DEDUCED, log 74). -/
theorem Module.held_head {m : Module} {h : Nat × List Nat} (held : m.held = some h) : m.head.map (·.id) = some h.1 :=
  beq_iff_eq.mp (Option.filter_eq_some_iff.mp held).2

section
variable {s : State} {n : Nat} {x : Node}

theorem readyPoolAging_notes (hw : s.wlog = []) (found : s.m.node n = some x) (head : s.m.head = some x) :
    ∃ t y, exec .readyPoolAging s = .next t ∧ t.m.node n = some y ∧ y.headSince = some (x.headSince.getD s.m.now) ∧
      (∀ h, t.m.hold = some h → h.1 = x.id) := by
  have heads : s.m.head.map (·.id) = some x.id := by rw [head, Option.map_some]
  have takes : Takes .readyPoolAging s (s.modM (fun m =>
      { m with hold := m.held, nodes := m.nodes.map (Node.ranked (m.head.map (·.id)) m.now) })) := by
    change execReadyPoolAging s = _
    rw [execReadyPoolAging, runEvent_eq hw]
    rfl
  refine ⟨_, _, takes, Module.node_map found rfl (Node.ranked_id _ _), ?_, fun h held => ?_⟩
  · rw [Node.ranked, if_pos heads]
  · exact (Option.some.inj (heads.symm.trans (Module.held_head held))).symm

theorem canDispatch_free {cs : List Nat} (can : canDispatch s x cs = true) : ∀ c ∈ cs, c ∈ freeCores s x := by
  unfold canDispatch at can
  simp only [Bool.and_eq_true] at can
  obtain ⟨⟨⟨⟨-, free⟩, -⟩, -⟩, -⟩ := can
  exact fun c hc => List.mem_of_elem_eq_true (List.all_eq_true.mp free c hc)

theorem spares_of_mem_freeCores {c : Nat} (free : c ∈ freeCores s x) : s.m.spares x.id c = true := by
  obtain ⟨-, free⟩ := List.mem_filter.mp free
  obtain ⟨-, spares⟩ := Bool.and_eq_true_iff.mp free
  exact spares

/-- While a hold stands, no other node takes a core that it keeps (12 R212). -/
theorem canDispatch_spares {cs : List Nat} {h : Nat × List Nat} (can : canDispatch s x cs = true) (held : s.m.held = some h)
    (other : h.1 ≠ x.id) : ∀ c ∈ cs, c ∈ h.2 := by
  intro c hc
  have spares := spares_of_mem_freeCores (canDispatch_free can c hc)
  rw [Module.spares, held, Option.all_some, Bool.or_eq_true] at spares
  exact List.mem_of_elem_eq_true (spares.resolve_left fun own => other (beq_iff_eq.mp own))

/-- After 1 ms at the head, the cores that become free from now on are held for it (12 R212). -/
theorem headNodeHold_holds (hw : s.wlog = []) (head : s.m.head = some x) (unheld : s.m.held = none) (big : x.fits s = false) {h : Nat}
    (since : x.headSince = some h) (long : h + 10000 ≤ s.m.now) :
    ∃ t cs, exec .headNodeHold s = .next t ∧ t.m.hold = some (x.id, cs) ∧ (∀ c ∈ cs, (s.coreAt c).task = none) := by
  have late : ((x.headSince.map (fun t => decide (t + Config.ticks1ms ≤ s.m.now))).getD false && !x.fits s) = true := by
    rw [since, big]
    exact Bool.and_eq_true_iff.mpr ⟨decide_eq_true long, rfl⟩
  change ∃ t cs, execHeadNodeHold s = .next t ∧ _
  rw [execHeadNodeHold, runEvent_eq hw]
  simp only [head, unheld]
  rw [if_pos late]
  exact ⟨_, _, rfl, rfl, fun c hc => Option.isNone_iff_eq_none.mp (List.mem_filter.mp hc).2⟩

/-! ### A node completes (12 R214) -/

theorem nodeCompletion_completes (hw : s.wlog = []) (found : s.m.node n = some x) (running : x.st = .running)
    (whole : x.gang = true ∨ x.more = false) (ended : ∀ m ∈ x.members, m.ended.isSome = true) (exhausted : x.exhausted = true) :
    ∃ t, exec (.nodeCompletion n) s = .next t ∧ t.m.node n = some { x with st := .done, ended := some s.m.wall } ∧ t.mem = s.mem := by
  have all : x.members.all (fun m => m.ended.isSome) = true := List.all_eq_true.mpr ended
  change ∃ t, execNodeCompletion n s = .next t ∧ _
  rw [execNodeCompletion, runEvent_eq hw]
  simp only [found]
  rw [if_pos ⟨running, all, whole.imp id fun spent => ⟨exhausted, by rw [spent, Bool.not_false]⟩⟩]
  have status : (if x.status = 0 ∧ x.gang ∧ !x.exhausted then schedStatus 0xFFFFFFF2 else x.status) = x.status :=
    if_neg fun ⟨_, _, unfinished⟩ => absurd unfinished (by rw [exhausted]; decide)
  rw [status]
  exact ⟨_, rfl, Module.node_modNode found fun _ => rfl, settled_mem_of_quiet hw⟩

/-! ### The tenants that run (12 R215) -/

/-- The tenants of an instant run, and every core meets it (12 R215). -/
def State.atInstant (s : State) (start : Nat) : State :=
  let s1 := s.modM (fun m =>
    { m with running := (m.sched.entries.filter (fun e => e.2 == start)).map (·.1), instant := some (m.now, m.instantOff start) })
  let meet (k : Core) : Core := k.atInstant s.m.running s1.m
  { s1 with core := meet s1.core, others := s1.others.map (fun p => (p.1, meet p.2)) }

theorem tenantInstant_runs {start : Nat} (hw : s.wlog = []) (entry : ∃ e ∈ s.m.sched.entries, e.2 = start)
    (due : s.m.instantDue start = true) :
    ∃ t, exec (.tenantInstant start) s = .next t ∧ t.m.instant = some (s.m.now, s.m.instantOff start) ∧
      (∀ z, z ∈ t.m.running ↔ (z, start) ∈ s.m.sched.entries) ∧ t.mem = s.mem := by
  obtain ⟨e, listed, starts⟩ := entry
  have nonempty : (s.m.sched.entries.filter (fun e => e.2 == start)).isEmpty = false :=
    List.isEmpty_eq_false_iff.mpr (List.ne_nil_of_mem (List.mem_filter.mpr ⟨listed, beq_iff_eq.mpr starts⟩))
  have takes : Takes (.tenantInstant start) s (s.atInstant start) := by
    change execTenantInstant start s = _
    rw [execTenantInstant, runEvent_eq hw]
    simp only [nonempty, due, Bool.not_true, Bool.or_self, Bool.false_eq_true, if_false]
    rfl
  refine ⟨_, takes, rfl, fun z => ?_, settled_mem_of_quiet hw⟩
  show z ∈ (s.m.sched.entries.filter (fun e => e.2 == start)).map (·.1) ↔ _
  simp only [List.mem_map, List.mem_filter, beq_iff_eq, Prod.exists, exists_and_right, exists_eq_right]

end

/-- Settles O43, event by event. -/
theorem nodeEvents : Obligations.NodeEvents := by
  unfold Obligations.NodeEvents
  intro s n x c start hw found
  exact ⟨nodeReady_enters hw found, fun _ good plain can other seat => nodeDispatch_starts hw found good plain can other seat,
    nodeDispatch_fails hw found c, readyPoolAging_notes hw found, fun _ _ can held other => canDispatch_spares can held other,
    fun head unheld big _ since long => headNodeHold_holds hw head unheld big since long, nodeCompletion_completes hw found,
    tenantInstant_runs hw⟩

end Sys2Proof.Machine
end

section
/-! PROOFS. O44: the copy that a save makes takes back what a window holds of its data area (spec/07 R138, R148; spec/15 R247). -/

namespace Sys2Proof.Machine

/-- A live private allocation of 4 KiB, at the base of scratch. -/
def savedAlloc : Alloc :=
  { id := 1, base := 0, size := 4096, backed := false, tag := 3, expiry := 1600, expired := false, layout := 0, data := [], gen := 0,
    zero := true, cleared := [], window := none, lines := [], ahead := [], made := 0, freed := none, undo := [], sweep := 0, parked := none }

/-- A Clean line of the window on virtual page 1, as frame 2 holds it. -/
def heldLine : Line := { num := 0, st := .clean, expiry := 1600, inv := false, pa := 0x40 }

/-- A window on that page with the line, parked by task 9. -/
def parkedWindow : Alloc :=
  { savedAlloc with id := 2, base := 4096, backed := true, window := some (0x1000, 4096), lines := [heldLine], parked := some 9 }

/-- A save under way. -/
def underWay : StopReq := { since := 0, prio := 0, incoming := none, instant := false, saving := true, midStep := false }

/-- A task under policy 0 whose save has come to its one allocation; the page that the data area begins with, virtual page 1, stands in
frame 2. -/
def savingTask : State := State.reset.modCore (fun k =>
  { k with task := some placedTask, merged := true, stop := some underWay, allocs := [savedAlloc, parkedWindow],
           tlb := [placedPage 0 0 1, placedPage 0 1 2] })

/-- What the statement asks for besides, of a restore: no saved task is looked at here. -/
def unaskedSave : Saved :=
  { task := placedTask, core := 0, boundary := none, ckpt := Ckpt.launch, dir := [], midStep := false, hz := [], redo := [], chains := [] }

def unaskedEntry : DirEntry :=
  { id := 1, ring := none, tag := 0, state := 0, layout := 0, rem := 0, size := 0, window := none, data := 0 }

/-- The lines of the allocations of the core in focus after an event. -/
def linesAfter (i : Instr) (s : State) : Option (List (List Line)) :=
  match exec i s with
  | .next t => some (t.core.allocs.map (·.lines))
  | _ => none

theorem linesAfter_of_next {i : Instr} {s t : State} (h : exec i s = .next t) : linesAfter i s = some (t.core.allocs.map (·.lines)) := by
  rw [linesAfter, h]

theorem savingTask_next : savingTask.core.nextSave = some savedAlloc := by decide +kernel

theorem savingTask_reads :
    (devRead savingTask placedTask.root (placedTask.saveArea + w64 (4096 + savedAlloc.base)).toNat 4096).isSome = true := by decide +kernel

/-- The copy is a write to the page that the window holds a line of: the home takes that line back. -/
theorem savingTask_linesAfter : linesAfter (.allocationSave 0) savingTask = some [[], []] := by decide +kernel

/-- Refutes O44: a save copies its allocation to a data area of which a window that another task has parked on the core holds a Clean line.
The copy takes that line back, as R138 has it, where the statement leaves every allocation but the one saved as it was. -/
theorem not_saveEvents : ¬ Obligations.SaveEvents := by
  unfold Obligations.SaveEvents
  intro h
  obtain ⟨-, -, -, -, takesNext, -⟩ := h savingTask placedTask underWay 0 none unaskedSave savedAlloc unaskedEntry 0 rfl
  obtain ⟨-, -, copies, -⟩ := takesNext rfl rfl rfl rfl savingTask_next (fun w tick => nomatch tick)
  obtain ⟨t, eq, ⟨-, -, -, allocs⟩, -⟩ := copies rfl rfl (by decide +kernel) savingTask_reads
  have after := (linesAfter_of_next eq).symm.trans savingTask_linesAfter
  rw [allocs] at after
  exact absurd after (by decide +kernel)

end Sys2Proof.Machine
end

section
/-! PROOFS. One pool of the module, one shard of a pool and one request in flight after an update (spec/13 R219, R223, R226). -/

namespace Sys2Proof.Machine

/-- `find?_mapIf` for an update that keeps the test where it holds, such as one that puts another element in place. -/
theorem find?_mapIf_of_pos {α : Type} {p : α → Bool} {f : α → α} (keeps : ∀ x, p x = true → p (f x) = true) (l : List α) :
    (mapIf p f l).find? p = (l.find? p).map f := by
  have test : p ∘ (fun x => if p x then f x else x) = p := by
    funext x
    show p (if p x then f x else x) = p x
    split
    · next pos => rw [keeps x pos, pos]
    · rfl
  unfold mapIf
  rw [List.find?_map, test]
  cases found : l.find? p with
  | none => rfl
  | some x => rw [Option.map_some, if_pos (List.find?_some found), Option.map_some]

theorem exists_mem_upsert {α : Type} (key : α → Nat) (x : α) (l : List α) : x ∈ upsert key x l :=
  List.mem_of_find?_eq_some (find?_upsert key x l)

/-! ### A pool and a request of the module -/

theorem Module.pool_num {m : Module} {n : Nat} {p : Pool} (h : m.pool n = some p) : p.num = n :=
  beq_iff_eq.mp (List.find?_some (p := fun x : Pool => x.num == n) h)

theorem Module.req_num {m : Module} {n : Nat} {r : Req} (h : m.req n = some r) : r.num = n :=
  beq_iff_eq.mp (List.find?_some (p := fun x : Req => x.num == n) h)

theorem Module.pool_modPool {m : Module} {n : Nat} {p : Pool} {f : Pool → Pool} (found : m.pool n = some p)
    (keeps : ∀ y, y.num = n → (f y).num = n) : (m.modPool n f).pool n = some (f p) := by
  have one : (m.modPool n f).pool n = (m.pool n).map f :=
    find?_mapIf_of_pos (p := fun y : Pool => y.num == n) (fun y named => beq_iff_eq.mpr (keeps y (beq_iff_eq.mp named))) m.pools
  rw [one, found, Option.map_some]

theorem Module.pool_setPool {m : Module} {n : Nat} {p z : Pool} (found : m.pool n = some p) (same : z.num = p.num) :
    (m.modPool n (fun _ => z)).pool n = some z :=
  Module.pool_modPool found fun _ _ => same.trans (Module.pool_num found)

theorem Module.req_modReq {m : Module} {n : Nat} {r : Req} {f : Req → Req} (found : m.req n = some r)
    (keeps : ∀ y, (f y).num = y.num) : (m.modReq n f).req n = some (f r) := by
  have one : (m.modReq n f).req n = (m.req n).map f := find?_mapIf (fun y => by rw [keeps]) m.reqs
  rw [one, found, Option.map_some]

theorem Module.req_answer {m : Module} {n : Nat} {r : Req} (found : m.req n = some r) (a : Answer) :
    (m.answer n a).req n = some { r with answer := some a } :=
  Module.req_modReq found fun _ => rfl

/-! ### A shard of a pool -/

theorem Pool.shard_die {p : Pool} {d : Nat} {x : Shard} (h : p.shard d = some x) : x.die = d :=
  beq_iff_eq.mp (List.find?_some (p := fun x : Shard => x.die == d) h)

theorem Pool.mem_of_shard {p : Pool} {d : Nat} {x : Shard} (h : p.shard d = some x) : x ∈ p.shards := List.mem_of_find?_eq_some h

theorem Pool.shard_map {p z : Pool} {d : Nat} {x : Shard} {f : Shard → Shard} (found : p.shard d = some x)
    (shards : z.shards = p.shards.map f) (keeps : ∀ y, (f y).die = y.die) : z.shard d = some (f x) := by
  have test : (fun y : Shard => y.die == d) ∘ f = fun y => y.die == d := funext fun y => congrArg (· == d) (keeps y)
  rw [Pool.shard, shards, List.find?_map, test]
  exact congrArg (Option.map f) found

section
variable {p : Pool} {d e : Nat} {x : Shard} {f : Shard → Shard}

theorem Pool.shard_modShard_eq_map (keeps : ∀ y, (f y).die = y.die) : (p.modShard d f).shard d = (p.shard d).map f :=
  find?_mapIf (fun y => by rw [keeps]) p.shards

theorem Pool.shard_modShard (found : p.shard d = some x) (keeps : ∀ y, (f y).die = y.die) : (p.modShard d f).shard d = some (f x) := by
  rw [Pool.shard_modShard_eq_map keeps, found, Option.map_some]

theorem Pool.exists_of_shard_modShard (found : (p.modShard d f).shard d = some x) (keeps : ∀ y, (f y).die = y.die) : ∃ y, f y = x := by
  rw [Pool.shard_modShard_eq_map keeps] at found
  obtain ⟨y, -, eq⟩ := Option.map_eq_some_iff.mp found
  exact ⟨y, eq⟩

theorem Pool.shard_modShard_other (found : p.shard d = some x) (other : d ≠ e) (keeps : ∀ y, (f y).die = y.die) :
    (p.modShard e f).shard d = some x := by
  have same : (p.modShard e f).shard d = p.shard d := by
    refine find?_mapIf_other (p := fun y : Shard => y.die == d) (fun y => by rw [keeps]) (fun y named => ?_) p.shards
    rw [beq_iff_eq.mp named]
    exact beq_false_of_ne other
  rw [same, found]

/-- A shard whose fence falls has a notice out, which names the move that caused it; all else of the shard stays (13 R226). -/
theorem Pool.shard_lower (found : p.shard d = some x) (f : Fence) (move : Option (Nat × Elem)) :
    ∃ nt, (p.lower d f move).shard d = some { x with notice := some nt } ∧ nt.move = move ∧ (x.notice = none → nt.fence = f) := by
  refine ⟨_, Pool.shard_modShard found fun _ => rfl, rfl, fun quiet => ?_⟩
  simp only [quiet]

theorem Pool.shard_lower_other (found : p.shard d = some x) (other : d ≠ e) (f : Fence) (move : Option (Nat × Elem)) :
    (p.lower e f move).shard d = some x :=
  Pool.shard_modShard_other found other fun _ => rfl

end

/-! ### The puts that wait at a shard (13 R226) -/

theorem Shard.waits_unqueue (x : Shard) (n : Nat) : (x.unqueue n).waits n = false := by
  refine List.any_eq_false.mpr fun q hq => ?_
  obtain ⟨-, other⟩ := List.mem_filter.mp hq
  simpa using other

theorem Shard.waits_of_find?_free {x : Shard} {n : Nat} (h : x.queued.find? (fun w => !w.2) = some (n, false)) : x.waits n = true :=
  List.any_eq_true.mpr ⟨_, List.mem_of_find?_eq_some h, beq_self_eq_true n⟩

theorem Shard.enqueue_new {x : Shard} {n : Nat} (new : x.waits n = false) (out : Bool) :
    (x.enqueue n out).queued = x.queued ++ [(n, out)] := by
  simp only [Shard.enqueue, new, Bool.false_eq_true, if_false]

/-- A put that waits already keeps its place, and waits for the notice that is out now. -/
theorem Shard.mem_enqueue_again {x : Shard} {n : Nat} (again : x.waits n = true) (out : Bool) : (n, out) ∈ (x.enqueue n out).queued := by
  obtain ⟨q, hq, named⟩ := List.any_eq_true.mp again
  simp only [Shard.enqueue, again, if_true]
  refine List.mem_map.mpr ⟨q, hq, ?_⟩
  rw [if_pos named]
  exact congrArg (·, out) (beq_iff_eq.mp named)

end Sys2Proof.Machine
end

section
/-! PROOFS. O46: the events of pool puts, takes and polls (spec/13 R223, R226 to R228, R231). -/

namespace Sys2Proof.Machine

/-! ### A put at its shard (13 R226) -/

/-- The element that a put inserts: its origin, its number and its tick are those of the insertion (13 R222). -/
def State.putElem (s : State) (sh : Shard) (r : Req) (key payload : Word) : Elem :=
  { key := key, payload := payload, origin := sh.die, seq := sh.seq, tick := s.m.now, snap := r.snap }

/-- An element of this key, inserted now, would come before the published fence, which R226 asks of a put that waits. -/
def Shard.lowered (x : Shard) (p : Pool) (key : Word) (now : Nat) : Bool := precedes (p.stamp key now, x.die, x.seq) (p.published x)

/-- What a put of this number would have to wait for: a notice that is out, or puts that wait already. -/
def Shard.blocks (x : Shard) (n : Nat) : Bool := x.notice.isSome || (!x.queued.isEmpty && !x.waits n)

theorem Shard.blocks_new {x : Shard} {n : Nat} (new : x.waits n = false) (busy : x.notice ≠ none ∨ x.queued ≠ []) : x.blocks n = true := by
  unfold Shard.blocks
  rw [new, Bool.not_false, Bool.and_true, Bool.or_eq_true]
  exact busy.imp Option.isSome_iff_ne_none.mpr fun h => by rw [List.isEmpty_eq_false_iff.mpr h, Bool.not_false]

theorem Shard.blocks_idle {x : Shard} (n : Nat) (quiet : x.notice = none) (empty : x.queued = []) : x.blocks n = false := by
  unfold Shard.blocks
  rw [quiet, empty]
  rfl

theorem Shard.blocks_again {x : Shard} {n : Nat} (again : x.waits n = true) : x.blocks n = x.notice.isSome := by
  rw [Shard.blocks, again, Bool.not_true, Bool.and_false, Bool.or_false]

/-- The insertion takes the shard's next sequence number, and the put waits no longer, whether or not the fence falls. -/
theorem insertPut_inserts {s : State} {p : Pool} {sh : Shard} (r : Req) (key pay : Word) (found : s.m.pool p.num = some p)
    (shard : p.shard sh.die = some sh) :
    ∃ z x, (insertPut s p sh r key pay).m.pool p.num = some z ∧ z.shard sh.die = some x ∧ x.seq = sh.seq + 1 ∧
      x.waits r.num = false ∧ x.elems = p.place (s.putElem sh r key pay) sh.elems := by
  have placed := Pool.shard_modShard shard (f := fun x => { x.unqueue r.num with
    elems := p.place (s.putElem sh r key pay) sh.elems, seq := x.seq + 1 }) fun _ => rfl
  unfold insertPut
  dsimp only
  split
  case isTrue =>
    obtain ⟨nt, lowered, -⟩ := Pool.shard_lower placed (p.fenceWith sh (s.putElem sh r key pay)) none
    exact ⟨_, _, Module.pool_setPool found rfl, lowered, rfl, Shard.waits_unqueue sh r.num, rfl⟩
  case isFalse =>
    exact ⟨_, _, Module.pool_setPool found rfl, Pool.shard_modShard placed fun _ => rfl, rfl, Shard.waits_unqueue sh r.num, rfl⟩

section
variable {s : State} {p : Pool} {sh : Shard} {r : Req} (key pay : Word) (shard : p.shard r.shard = some sh)
include shard

theorem putAt_full (full : p.shards.length * p.caps ≤ p.count) : putAt s p r key pay =
    s.modM (fun m => (m.modPool p.num (fun p => p.modShard sh.die (fun x => x.unqueue r.num))).answer r.num (.done [1] none)) := by
  unfold putAt
  rw [shard]
  exact if_pos full

variable (notFull : p.count < p.shards.length * p.caps) (room : sh.elems.length < p.caps)
include notFull room

theorem putAt_roomy : putAt s p r key pay =
    if sh.blocks r.num && sh.lowered p key s.m.now then
      s.modM (fun m => m.modPool p.num (fun p => p.modShard sh.die (fun x => x.enqueue r.num sh.notice.isSome)))
    else insertPut s p sh r key pay := by
  unfold putAt
  rw [shard]
  dsimp only
  rw [if_neg (Nat.not_le.mpr notFull), if_neg (Nat.not_le.mpr room)]
  rfl

variable (found : s.m.pool p.num = some p)
include found

/-- A put that waits is at its shard, in arrival order; nothing is inserted. -/
theorem putAt_waits (blocks : sh.blocks r.num = true) (lower : sh.lowered p key s.m.now = true) :
    ∃ z, (putAt s p r key pay).m.pool p.num = some z ∧ z.shard r.shard = some (sh.enqueue r.num sh.notice.isSome) ∧
      (putAt s p r key pay).m.reqs = s.m.reqs := by
  rw [putAt_roomy key pay shard notFull room, blocks, lower, Bool.and_self, if_pos rfl, Pool.shard_die shard]
  exact ⟨_, Module.pool_modPool found fun _ named => named, Pool.shard_modShard shard fun _ => rfl, rfl⟩

theorem putAt_inserts (goes : (sh.blocks r.num && sh.lowered p key s.m.now) = false) :
    ∃ z x, (putAt s p r key pay).m.pool p.num = some z ∧ z.shard r.shard = some x ∧ x.seq = sh.seq + 1 ∧
      x.waits r.num = false ∧ x.elems = p.place (s.putElem sh r key pay) sh.elems := by
  rw [putAt_roomy key pay shard notFull room, goes, if_neg Bool.false_ne_true, ← Pool.shard_die shard]
  exact insertPut_inserts r key pay found (Pool.shard_die shard ▸ shard)

end

/-! ### POOL_PUT_INSERTION and QUEUED_PUT_INSERTION -/

section
variable {s : State} {n : Nat} {r : Req} {p : Pool} {sh : Shard} {key pay : Word} (hw : s.wlog = []) (asked : s.m.req n = some r)
  (unanswered : r.answer = none) (found : s.m.pool r.pool = some p) (shard : p.shard r.shard = some sh)
  (put : r.ask = .put key pay) (fresh : r.inserted = false) (new : ∀ x ∈ p.shards, x.waits n = false)
include hw asked unanswered found put fresh new

theorem takes_poolPutInsertion : Takes (.poolPutInsertion n) s (putAt s p r key pay) := by
  have nowhere : p.shards.any (fun x => x.waits n) = false := List.any_eq_false.mpr fun x hx => by rw [new x hx]; exact Bool.false_ne_true
  change execPoolPutInsertion n s = _
  rw [execPoolPutInsertion, runEvent_eq hw]
  simp only [asked, unanswered, found, put, fresh, nowhere, Bool.or_self, Bool.false_eq_true, if_false]

include shard

theorem poolPutInsertion_full (full : p.shards.length * p.caps ≤ p.count) :
    ∃ t z, exec (.poolPutInsertion n) s = .next t ∧ t.m.req n = some z ∧ z.answer = some (.done [1] none) := by
  have takes := takes_poolPutInsertion hw asked unanswered found put fresh new
  rw [putAt_full key pay shard full, Module.req_num asked] at takes
  exact ⟨_, _, takes, Module.req_answer asked _, rfl⟩

variable (notFull : p.count < p.shards.length * p.caps) (room : sh.elems.length < p.caps)
include notFull room

/-- A put that would lower the fence waits behind a notice that is out, and behind the puts that wait there (13 R226). -/
theorem poolPutInsertion_waits (busy : sh.notice ≠ none ∨ sh.queued ≠ []) (lower : sh.lowered p key s.m.now = true) :
    ∃ t z x, exec (.poolPutInsertion n) s = .next t ∧ t.m.pool r.pool = some z ∧ z.shard r.shard = some x ∧
      x.queued = sh.queued ++ [(n, sh.notice.isSome)] ∧ x.elems = sh.elems ∧ t.m.req n = some r := by
  obtain rfl := Module.req_num asked
  have absent := new sh (Pool.mem_of_shard shard)
  have named := Module.pool_num found
  obtain ⟨z, pool, waits, reqs⟩ := putAt_waits key pay shard notFull room (named.symm ▸ found) (Shard.blocks_new absent busy) lower
  refine ⟨_, z, _, takes_poolPutInsertion hw asked unanswered found put fresh new, named ▸ pool, waits, Shard.enqueue_new absent _, rfl, ?_⟩
  rw [settled_m, Module.req, reqs]
  exact asked

theorem poolPutInsertion_inserts (quiet : sh.notice = none) (empty : sh.queued = []) :
    ∃ t z x e, exec (.poolPutInsertion n) s = .next t ∧ t.m.pool r.pool = some z ∧ z.shard r.shard = some x ∧
      x.seq = sh.seq + 1 ∧ x.elems = p.place e sh.elems ∧ e.key = key ∧ e.payload = pay ∧ e.origin = sh.die ∧ e.seq = sh.seq := by
  have named := Module.pool_num found
  have goes : (sh.blocks r.num && sh.lowered p key s.m.now) = false := by
    rw [Shard.blocks_idle r.num quiet empty, Bool.false_and]
  obtain ⟨z, x, pool, inserted, seq, -, elems⟩ := putAt_inserts key pay shard notFull room (named.symm ▸ found) goes
  exact ⟨_, z, x, _, takes_poolPutInsertion hw asked unanswered found put fresh new, named ▸ pool, inserted, seq, elems, rfl, rfl, rfl, rfl⟩

end

section
variable {s : State} {n d : Nat} {q : Req} {p : Pool} {sh : Shard} {key pay : Word} (hw : s.wlog = [])
  (found : s.m.pool n = some p) (shard : p.shard d = some sh) (free : sh.queued.find? (fun w => !w.2) = some (q.num, false))
  (asked : s.m.req q.num = some q) (put : q.ask = .put key pay)
include hw found shard free asked put

theorem takes_queuedPutInsertion : Takes (.queuedPutInsertion n d) s (putAt s p q key pay) := by
  change execQueuedPutInsertion n d s = _
  rw [execQueuedPutInsertion, runEvent_eq hw]
  simp only [found, shard, free, asked, put]

/-- A put that has waited goes in, unless it would need a notice while one is out: then it waits for that one (13 R226). -/
theorem queuedPutInsertion_goes (here : q.shard = d) (notFull : p.count < p.shards.length * p.caps) (room : sh.elems.length < p.caps) :
    ∃ t z x, exec (.queuedPutInsertion n d) s = .next t ∧ t.m.pool n = some z ∧ z.shard d = some x ∧
      (sh.notice = none ∨ sh.lowered p key s.m.now = false →
        x.seq = sh.seq + 1 ∧ x.waits q.num = false ∧ ∃ e, x.elems = p.place e sh.elems ∧ e.key = key ∧ e.payload = pay) ∧
      (sh.notice ≠ none → sh.lowered p key s.m.now = true →
        x.elems = sh.elems ∧ x.notice = sh.notice ∧ (q.num, true) ∈ x.queued) := by
  subst here
  obtain rfl := Module.pool_num found
  have takes := takes_queuedPutInsertion hw found shard free asked put
  have again := Shard.waits_of_find?_free free
  have blocks := Shard.blocks_again again
  cases out : sh.notice.isSome && sh.lowered p key s.m.now with
  | false =>
    obtain ⟨z, x, pool, inserted, seq, waits, elems⟩ := putAt_inserts key pay shard notFull room found (blocks ▸ out)
    refine ⟨_, z, x, takes, pool, inserted, fun _ => ⟨seq, waits, _, elems, rfl, rfl⟩, fun notice lower => ?_⟩
    rw [Option.isSome_iff_ne_none.mpr notice, lower] at out
    exact absurd out (by decide)
  | true =>
    obtain ⟨notice, lower⟩ := Bool.and_eq_true_iff.mp out
    obtain ⟨z, pool, waits, -⟩ := putAt_waits key pay shard notFull room found (blocks.trans notice) lower
    refine ⟨_, z, _, takes, pool, waits, fun goes => ?_, fun _ _ => ⟨rfl, rfl, notice ▸ Shard.mem_enqueue_again again _⟩⟩
    rcases goes with quiet | above
    · exact absurd quiet (Option.isSome_iff_ne_none.mp notice)
    · exact absurd (above.symm.trans lower) Bool.false_ne_true

end

/-! ### Takes (13 R227, R228) -/

/-- The answer of a take that returns an element. -/
def Elem.answer (e : Elem) : Answer := .done [0, e.key, e.payload] (some e.snap)

/-- An element that is given leaves the pool, and answers the take. -/
theorem giveFirst_gives {s : State} {r : Req} {p : Pool} (asked : s.m.req r.num = some r) (found : s.m.pool p.num = some p) (d : Nat)
    (e : Elem) : (∃ z, (giveFirst s p d r e).m.req r.num = some z ∧ z.answer = some e.answer) ∧
      (giveFirst s p d r e).m.pool p.num = some (p.remove e) :=
  ⟨⟨_, Module.req_modReq (m := s.m.modPool p.num (fun p => p.remove e)) asked fun _ => rfl, rfl⟩,
    Module.pool_modPool found fun _ named => named⟩

theorem Pool.shard_remove {p : Pool} {d : Nat} {x : Shard} (found : p.shard d = some x) (e : Elem) :
    ∃ y, (p.remove e).shard d = some y ∧ y.elems = x.elems.filter (fun y => !e.same y) :=
  ⟨_, Pool.shard_map found rfl fun _ => rfl, rfl⟩

section
variable {s : State} {n : Nat} {r : Req} {p : Pool} {sh : Shard} {acq : Bool} {e : Elem} (hw : s.wlog = []) (asked : s.m.req n = some r)
  (unanswered : r.answer = none) (found : s.m.pool r.pool = some p)
include hw asked unanswered found

section
variable (take : r.ask = .take acq)
include take

section
variable (shard : p.shard r.shard = some sh) (loose : r.sync = false) (unpolled : r.poll = none)
  (first : (p.held sh).head? = some e) (fits : ∀ d ∈ p.dies, ∀ f, p.knows sh d = some f → before f (p.rank e) = false)
include shard loose unpolled first fits

theorem takes_poolTakeArrival : Takes (.poolTakeArrival n) s (giveFirst s p sh.die r e) := by
  have unfollowed : (p.dies.all fun d => match p.knows sh d with
      | some f => !before f (p.rank e)
      | none => true) = true := by
    refine List.all_eq_true.mpr fun d hd => ?_
    split
    · next f known => rw [fits d hd f known, Bool.not_false]
    · rfl
  change execPoolTakeArrival n s = _
  rw [execPoolTakeArrival, runEvent_eq hw]
  simp only [asked, take, unanswered, found, loose, unpolled, Option.isSome_none, Bool.or_self, shard, first]
  exact congrArg (fun u => Host.Outcome.next (settled s u)) (if_pos unfollowed)

/-- A take whose first element no known fence comes before removes it (13 R227). -/
theorem poolTakeArrival_gives :
    ∃ t z y x, exec (.poolTakeArrival n) s = .next t ∧ t.m.req n = some z ∧ z.answer = some (.done [0, e.key, e.payload] (some e.snap)) ∧
      t.m.pool r.pool = some y ∧ y.shard r.shard = some x ∧ x.elems = sh.elems.filter (fun y => !e.same y) := by
  obtain rfl := Module.req_num asked
  have named := Module.pool_num found
  obtain ⟨⟨z, req, answer⟩, pool⟩ := giveFirst_gives asked (named.symm ▸ found) sh.die e
  obtain ⟨x, left, elems⟩ := Pool.shard_remove shard e
  exact ⟨_, z, _, x, takes_poolTakeArrival hw asked unanswered found take shard loose unpolled first fits, req, answer,
    named ▸ pool, left, elems⟩

end

variable (sync : r.sync = true)
include sync

theorem synchronousTake_empty (empty : p.syncShard = none) :
    ∃ t z, exec (.synchronousTake n) s = .next t ∧ t.m.req n = some z ∧ z.answer = some (.done [1, 0, 0] none) := by
  have takes : Takes (.synchronousTake n) s (s.modM (fun m => m.answer n (.done [1, 0, 0] none))) := by
    change execSynchronousTake n s = _
    rw [execSynchronousTake, runEvent_eq hw]
    simp only [asked, take, unanswered, found, sync, empty, Bool.not_true, Bool.false_eq_true, if_false]
  exact ⟨_, _, takes, Module.req_answer asked _, rfl⟩

theorem synchronousTake_gives {d : Nat} (least : p.syncShard = some (d, e)) :
    ∃ t z, exec (.synchronousTake n) s = .next t ∧ t.m.req n = some z ∧
      z.answer = some (.done [0, e.key, e.payload] (some e.snap)) := by
  have takes : Takes (.synchronousTake n) s (giveFirst s p d r e) := by
    change execSynchronousTake n s = _
    rw [execSynchronousTake, runEvent_eq hw]
    simp only [asked, take, unanswered, found, sync, least, Bool.not_true, Bool.false_eq_true, if_false]
  obtain rfl := Module.req_num asked
  obtain ⟨⟨z, req, answer⟩, -⟩ := giveFirst_gives asked ((Module.pool_num found).symm ▸ found) d e
  exact ⟨_, z, takes, req, answer⟩

end

/-- A second round that finds nothing, with the count of the round before, answers EMPTY (13 R231). -/
theorem pollRound_empty (polled : r.poll = some (some ((p.shards.map (·.completed)).foldl (· + ·) 0)))
    (nothing : ∀ x ∈ p.shards, p.held x = [] ∧ x.queued = []) :
    ∃ t z, exec (.pollRound n) s = .next t ∧ t.m.req n = some z ∧ z.answer = some (.done [1, 0, 0] none) := by
  have quiet : p.shards.find? (fun x => !(p.held x).isEmpty || !x.queued.isEmpty) = none := by
    refine List.find?_eq_none.mpr fun x hx => ?_
    obtain ⟨held, queued⟩ := nothing x hx
    rw [held, queued]
    decide
  have takes : Takes (.pollRound n) s (s.modM (fun m => m.answer n (.done [1, 0, 0] none))) := by
    change execPollRound n s = _
    rw [execPollRound, runEvent_eq hw]
    simp only [asked, unanswered, polled, found, quiet, if_true]
  exact ⟨_, _, takes, Module.req_answer asked _, rfl⟩

end

/-- Settles O46, event by event: puts by what `putAt` does at their shard, takes by what `giveFirst` gives. -/
theorem putAndTakeEvents : Obligations.PutAndTakeEvents := by
  unfold Obligations.PutAndTakeEvents
  intro s n r q p sh key pay acq e hw asked unanswered found named shard die
  exact ⟨poolPutInsertion_full hw asked unanswered found shard, poolPutInsertion_waits hw asked unanswered found shard,
    poolPutInsertion_inserts hw asked unanswered found shard, queuedPutInsertion_goes hw found shard,
    poolTakeArrival_gives hw asked unanswered found (shard := shard), synchronousTake_empty hw asked unanswered found,
    fun take sync => synchronousTake_gives hw asked unanswered found take sync, pollRound_empty hw asked unanswered found⟩

end Sys2Proof.Machine
end

section
/-! PROOFS. O47: the events of pool fences, summaries, rolling moves and control words (spec/13 R225, R226, R230, R234). -/

namespace Sys2Proof.Machine

/-! ### Lowering notices (13 R225, R226) -/

/-- A shard that a notice reaches applies it, and acknowledges it to the shard that sent it. -/
def Pool.noticeAt (src dst : Nat) (nt : Notice) (p : Pool) : Pool :=
  (p.modShard dst (fun x => x.learn src (lowerFence (p.knows x src) nt.fence))).modShard src
    (fun x => { x with notice := some { nt with pending := nt.pending.filter (· != dst) } })

/-- The notice is one acknowledgement nearer its end; all else of the shard that sent it stays. -/
theorem Pool.shard_noticeAt {p : Pool} {src dst : Nat} {x : Shard} (found : p.shard src = some x) (other : src ≠ dst) (nt : Notice) :
    (p.noticeAt src dst nt).shard src = some { x with notice := some { nt with pending := nt.pending.filter (· != dst) } } :=
  Pool.shard_modShard (Pool.shard_modShard_other found other fun _ => rfl) fun _ => rfl

/-- A shard whose notice is acknowledged: the puts that it made wait complete, and those behind it wait no longer. -/
def Shard.acked (puts : Nat) (x : Shard) : Shard :=
  { x with notice := none, completed := x.completed + puts, queued := x.queued.map (fun q => (q.1, false)) }

/-- A request has the notice of this shard to wait for no longer. -/
def Req.acked (d : Nat) (r : Req) : Req := { r with caused := r.caused.filter (· != d) }

theorem Req.not_mem_caused_of_acked {n d : Nat} {l : List Req} {w : Req} (h : w ∈ mapIf (fun r => r.pool == n) (Req.acked d) l)
    (pool : w.pool = n) : d ∉ w.caused := by
  obtain ⟨r, -, rfl⟩ := List.mem_map.mp h
  by_cases here : (r.pool == n) = true
  · rw [if_pos here]
    intro caused
    obtain ⟨-, other⟩ := List.mem_filter.mp caused
    simp at other
  · rw [if_neg here] at pool
    exact absurd (beq_iff_eq.mpr pool) here

/-- The element of a move that is over stands at its source no longer (13 R230). -/
theorem Pool.finishMove_gone {p : Pool} {d : Nat} {e : Elem} {x : Shard} (h : (p.finishMove (some (d, e))).shard d = some x) :
    ∀ y ∈ x.elems, e.same y = false := by
  intro y hy
  obtain ⟨w, rfl⟩ := Pool.exists_of_shard_modShard h fun _ => rfl
  obtain ⟨-, other⟩ := List.mem_filter.mp hy
  exact (Bool.not_eq_true' _).mp other

theorem Pool.finishMove_num (p : Pool) (mv : Option (Nat × Elem)) : (p.finishMove mv).num = p.num := by
  cases mv <;> rfl

/-- A put that is inserted, and waits for the notice of this shard. -/
def Req.awaitsNotice (n d : Nat) (r : Req) : Bool :=
  r.pool == n && r.shard == d && r.inserted && r.answer.isNone && (match r.ask with
    | .put _ _ => true
    | _ => false)

/-- The notice of a shard is over: its puts complete, and the element of its move leaves its source. -/
def Module.noticeOver (n d : Nat) (mv : Option (Nat × Elem)) (m : Module) : Module :=
  { m.modPool n (fun p => (p.modShard d (Shard.acked (m.reqs.filter (Req.awaitsNotice n d)).length)).finishMove mv) with
    reqs := mapIf (fun r => r.pool == n) (Req.acked d)
      (mapIf (Req.awaitsNotice n d) (fun r => { r with answer := some (.done [0] none) }) m.reqs) }

theorem Module.pool_noticeOver {m : Module} {n : Nat} {p : Pool} (found : m.pool n = some p) (d : Nat) (mv : Option (Nat × Elem)) :
    ∃ puts, (m.noticeOver n d mv).pool n = some ((p.modShard d (Shard.acked puts)).finishMove mv) :=
  ⟨_, Module.pool_modPool found fun _ named => (Pool.finishMove_num _ mv).trans named⟩

section
variable {s : State} {n src dst : Nat} {p : Pool} {sh : Shard} {nt : Notice} (hw : s.wlog = []) (found : s.m.pool n = some p)
  (shard : p.shard src = some sh)
include hw found shard

theorem takes_loweringNoticeArrival (notice : sh.notice = some nt) (pending : dst ∈ nt.pending) :
    Takes (.loweringNoticeArrival n src dst) s (s.modM (fun m => m.modPool n (Pool.noticeAt src dst nt))) := by
  change execLoweringNoticeArrival n src dst s = _
  rw [execLoweringNoticeArrival, runEvent_eq hw]
  simp only [found, Option.bind_some, shard, notice, List.contains_iff_mem.mpr pending, if_true]
  rfl

theorem loweringNoticeArrival_acknowledges (notice : sh.notice = some nt) (pending : dst ∈ nt.pending) (other : dst ≠ src) :
    ∃ t z x, exec (.loweringNoticeArrival n src dst) s = .next t ∧ t.m.pool n = some z ∧ z.shard src = some x ∧
      x.notice = some { nt with pending := nt.pending.filter (· != dst) } ∧ t.mem = s.mem :=
  ⟨_, _, _, takes_loweringNoticeArrival hw found shard notice pending, Module.pool_modPool found fun _ named => named,
    Pool.shard_noticeAt shard other.symm nt, rfl, settled_mem_of_quiet hw⟩

theorem takes_loweringNoticeAcknowledged (notice : sh.notice = some nt) (all : nt.pending = []) :
    Takes (.loweringNoticeAcknowledged n src) s (s.modM (Module.noticeOver n src nt.move)) := by
  change execLoweringNoticeAcknowledged n src s = _
  rw [execLoweringNoticeAcknowledged, runEvent_eq hw]
  simp only [found, Option.bind_some, shard, notice, all, List.isEmpty_nil, Bool.not_true, Bool.false_eq_true, if_false]
  rfl

/-- A notice that no move caused is over: the shard's elements stay, and no control word has it to wait for. -/
theorem loweringNoticeAcknowledged_frees (notice : sh.notice = some { nt with pending := [], move := none }) :
    ∃ t z x, exec (.loweringNoticeAcknowledged n src) s = .next t ∧ t.m.pool n = some z ∧ z.shard src = some x ∧
      x.notice = none ∧ x.elems = sh.elems ∧ x.queued = sh.queued.map (fun w => (w.1, false)) ∧
      (∀ w ∈ t.m.reqs, w.pool = n → src ∉ w.caused) ∧ t.mem = s.mem := by
  obtain ⟨puts, pool⟩ := Module.pool_noticeOver found src none
  exact ⟨_, _, _, takes_loweringNoticeAcknowledged hw found shard notice rfl, pool,
    Pool.shard_modShard shard (f := Shard.acked puts) fun _ => rfl, rfl, rfl, rfl,
    fun _ listed here => Req.not_mem_caused_of_acked listed here, settled_mem_of_quiet hw⟩

/-- The notice that a move caused is over: its element leaves its source (13 R230). -/
theorem loweringNoticeAcknowledged_moves {d : Nat} {e : Elem} (notice : sh.notice = some { nt with pending := [], move := some (d, e) }) :
    ∃ t z, exec (.loweringNoticeAcknowledged n src) s = .next t ∧ t.m.pool n = some z ∧
      (∀ x, z.shard d = some x → ∀ y ∈ x.elems, e.same y = false) := by
  obtain ⟨puts, pool⟩ := Module.pool_noticeOver found src (some (d, e))
  exact ⟨_, _, takes_loweringNoticeAcknowledged hw found shard notice rfl, pool, fun _ => Pool.finishMove_gone⟩

end

/-! ### Summaries (13 R230) -/

/-- The summary that a shard sends. -/
def Pool.summaryOf (p : Pool) (d : Nat) (sh : Shard) : Summary :=
  { src := d, count := (p.held sh).length, first := (p.held sh).head?.map (fun e => p.stamp e.key e.tick), fence := p.published sh }

/-- A shard takes a summary of another: its fence raises what is known, and never lowers it. -/
def Pool.takesSummary (p : Pool) (sm : Summary) (x : Shard) : Shard :=
  if x.die = sm.src then x
  else
    { x.learn sm.src (if Fence.below sm.fence (p.knows x sm.src) then p.knows x sm.src else sm.fence) with
      summaries := upsert Summary.src sm x.summaries }

theorem Pool.takesSummary_die (p : Pool) (sm : Summary) (x : Shard) : (p.takesSummary sm x).die = x.die := by
  unfold Pool.takesSummary
  split <;> rfl

theorem Pool.takesSummary_own {p : Pool} {sm : Summary} {x : Shard} (own : x.die = sm.src) : p.takesSummary sm x = x := if_pos own

theorem Pool.mem_takesSummary {p : Pool} {sm : Summary} {x : Shard} (other : x.die ≠ sm.src) :
    sm ∈ (p.takesSummary sm x).summaries := by
  rw [Pool.takesSummary, if_neg other]
  exact exists_mem_upsert Summary.src sm x.summaries

section
variable {s : State} {n src : Nat} {p : Pool} {sh : Shard} (hw : s.wlog = []) (found : s.m.pool n = some p)
  (shard : p.shard src = some sh)
include hw found shard

theorem takes_poolSummary : Takes (.poolSummary n src) s (s.modM (fun m => m.modPool n (fun z =>
    { z with shards := z.shards.map (p.takesSummary (p.summaryOf src sh)) }))) := by
  change execPoolSummary n src s = _
  rw [execPoolSummary, runEvent_eq hw]
  simp only [found, shard]
  rfl

/-- Every other shard has the summary; the one that sent it stays as it is. -/
theorem poolSummary_reaches : ∃ t z, exec (.poolSummary n src) s = .next t ∧ t.m.pool n = some z ∧ z.shard src = some sh ∧
    (∀ x ∈ z.shards, x.die ≠ src → ∃ m ∈ x.summaries, m.src = src ∧ m.count = (p.held sh).length) ∧ t.mem = s.mem := by
  have own : p.takesSummary (p.summaryOf src sh) sh = sh := Pool.takesSummary_own (Pool.shard_die shard)
  refine ⟨_, _, takes_poolSummary hw found shard, Module.pool_modPool found fun _ named => named, ?_, fun x hx other => ?_,
    settled_mem_of_quiet hw⟩
  · exact (Pool.shard_map shard rfl (Pool.takesSummary_die p _)).trans (congrArg some own)
  · obtain ⟨y, -, rfl⟩ := List.mem_map.mp hx
    rw [Pool.takesSummary_die] at other
    exact ⟨_, Pool.mem_takesSummary other, rfl, rfl⟩

end

/-! ### Rolling moves (13 R230) -/

/-- A shard gains an element, in pool order. -/
def Shard.gains (p : Pool) (e : Elem) (x : Shard) : Shard := { x with elems := p.place e x.elems }

section
variable {s : State} {n src dst : Nat} {p : Pool} {sh : Shard} (hw : s.wlog = []) (found : s.m.pool n = some p)
  (shard : p.shard src = some sh)
include hw found shard

/-- A move from a shard to itself is none. -/
theorem rollingMove_self : exec (.rollingMove n src src) s = .next s := by
  refine takes_self hw ?_
  change execRollingMove n src src s = _
  rw [execRollingMove, runEvent_eq hw]
  simp only [found, shard, true_or, if_true]
  split <;> rfl

variable {b : Shard} {e : Elem} (one : p.movable sh = [e]) (apart : src ≠ dst) (target : p.shard dst = some b)
  (least : p.leastFence (p.published sh) = true) (greatest : p.greatestFence (p.published b) = true) (room : b.elems.length < p.caps)
include one apart target least greatest room

/-- The one element that may move is inserted at the destination; the notice follows, or the element leaves its source at once. -/
theorem takes_rollingMove (free : (Fence.below (p.fenceWith b e) (p.published b) && b.notice.isSome) = false) :
    Takes (.rollingMove n src dst) s (s.draw.2.modM (fun m => m.modPool n (fun _ =>
      if Fence.below (p.fenceWith b e) (p.published b) then
        (p.modShard dst (Shard.gains p e)).lower dst (p.fenceWith b e) (some (src, e))
      else (p.modShard dst (Shard.gains p e)).finishMove (some (src, e))))) := by
  change execRollingMove n src dst s = _
  rw [execRollingMove, runEvent_eq hw]
  have first (w : Word) : [e][w.toNat % [e].length]? = some e := by rw [List.length_singleton, Nat.mod_one]; rfl
  have goes : ¬(src = dst ∨ (!p.leastFence (p.published sh)) = true ∨ (!p.greatestFence (p.published b)) = true ∨
      (Fence.below (p.fenceWith b e) (p.published b) && b.notice.isSome) = true ∨ p.caps ≤ b.elems.length) := by
    rw [least, greatest, free]
    simp [apart, room]
  simp only [found, shard, target, one, first]
  rw [if_neg goes]
  rfl

/-- Where the fence of the destination falls, its notice follows, and the element is still at its source. -/
theorem rollingMove_lowers (falls : Fence.below (p.fenceWith b e) (p.published b) = true) (quiet : b.notice = none) :
    ∃ t z x, exec (.rollingMove n src dst) s = .next t ∧ t.m.pool n = some z ∧ z.shard dst = some x ∧ x.elems = p.place e b.elems ∧
      (∃ m, x.notice = some m ∧ m.fence = p.fenceWith b e ∧ m.move = some (src, e)) ∧ z.shard src = some sh := by
  have takes := takes_rollingMove hw found shard one apart target least greatest room (by rw [quiet, Option.isSome_none, Bool.and_false])
  simp only [falls, if_true] at takes
  have placed := Pool.shard_modShard target (f := Shard.gains p e) fun _ => rfl
  have source := Pool.shard_modShard_other shard apart (f := Shard.gains p e) fun _ => rfl
  obtain ⟨nt, lowered, move, fence⟩ := Pool.shard_lower placed (p.fenceWith b e) (some (src, e))
  exact ⟨_, _, _, takes, Module.pool_setPool found rfl, lowered, rfl, ⟨nt, rfl, fence quiet, move⟩,
    Pool.shard_lower_other source apart _ _⟩

/-- Where it does not fall, the element leaves its source at once. -/
theorem rollingMove_moves (stays : Fence.below (p.fenceWith b e) (p.published b) = false) :
    ∃ t z x y, exec (.rollingMove n src dst) s = .next t ∧ t.m.pool n = some z ∧ z.shard dst = some x ∧
      x.elems = p.place e b.elems ∧ x.notice = b.notice ∧ z.shard src = some y ∧ y.elems = sh.elems.filter (fun w => !e.same w) := by
  have takes := takes_rollingMove hw found shard one apart target least greatest room (by rw [stays, Bool.false_and])
  simp only [stays, Bool.false_eq_true, if_false] at takes
  have placed := Pool.shard_modShard target (f := Shard.gains p e) fun _ => rfl
  have source := Pool.shard_modShard_other shard apart (f := Shard.gains p e) fun _ => rfl
  exact ⟨_, _, _, _, takes, Module.pool_setPool found rfl, Pool.shard_modShard_other placed apart.symm fun _ => rfl, rfl, rfl,
    Pool.shard_modShard source fun _ => rfl, rfl⟩

end

/-! ### Control words (13 R234) -/

/-- A control word completes once every shard that is left has had its notice acknowledged. -/
theorem mctlCompletion_answers {s : State} {r : Req} {p : Pool} {w : Word} (hw : s.wlog = []) (asked : s.m.req r.num = some r)
    (found : s.m.pool r.pool = some p) (ctl : r.ask = .ctl w) (unanswered : r.answer = none) (applied : r.inserted = true)
    (acked : ∀ x ∈ p.shards, x.die ∉ r.caused) :
    ∃ t z, exec (.mctlCompletion r.num) s = .next t ∧ t.m.req r.num = some z ∧ z.answer = some (.done [0] none) ∧ t.mem = s.mem := by
  have left : p.shards.all (fun x => !r.caused.contains x.die) = true :=
    List.all_eq_true.mpr fun x hx => by simpa using acked x hx
  have takes : Takes (.mctlCompletion r.num) s (s.modM (fun m => m.answer r.num (.done [0] none))) := by
    change execMctlCompletion r.num s = _
    rw [execMctlCompletion, runEvent_eq hw]
    simp only [asked, ctl, unanswered, found, applied, left, Bool.and_self, if_true]
  exact ⟨_, _, takes, Module.req_answer asked _, rfl, settled_mem_of_quiet hw⟩

/-- Settles O47, event by event: the pool after each is the one that the lemmas above name, and its shards are found in it. -/
theorem fenceEvents : Obligations.FenceEvents := by
  unfold Obligations.FenceEvents
  intro s n src dst p sh nt r w hw found shard
  refine ⟨loweringNoticeArrival_acknowledges hw found shard, loweringNoticeAcknowledged_frees hw found shard,
    fun d e => loweringNoticeAcknowledged_moves hw found shard, poolSummary_reaches hw found shard, ?_, fun b e one apart there least greatest
      room => ⟨?_, ?_⟩, ?_⟩
  · rintro rfl
    exact rollingMove_self hw found shard
  · exact rollingMove_lowers hw found shard one apart there least greatest room
  · exact rollingMove_moves hw found shard one apart there least greatest room
  · rintro asked ctl unanswered rfl applied acked
    exact mctlCompletion_answers hw asked found ctl unanswered applied acked

end Sys2Proof.Machine
end

section
/-! PROOFS. O45: an eviction that cannot write ends its task on the core that the saved task left (spec/15 R249). -/

namespace Sys2Proof.Machine

/-- An allocation that task 0 has parked. -/
def parkedAlloc : Alloc := { savedAlloc with parked := some 0 }

/-- Task 0, saved as it left core 1. -/
def leftCore1 : Saved := { unaskedSave with core := 1 }

/-- The allocation stands on core 0, and no page of the task has a translation. -/
def parkedApart : State :=
  (State.reset.modCore (fun k => { k with allocs := [parkedAlloc] })).modM (fun m => { m with saved := [leftCore1] })

/-- The tasks to which the allocations of the core in focus belong that are parked after an event. -/
def parkedAfter (i : Instr) (s : State) : Option (List (Option (BitVec 32))) :=
  match exec i s with
  | .next t => some (t.core.allocs.map (·.parked))
  | _ => none

theorem parkedAfter_of_next {i : Instr} {s t : State} (h : exec i s = .next t) :
    parkedAfter i s = some (t.core.allocs.map (·.parked)) := by
  rw [parkedAfter, h]

theorem parkedApart_parkedAt : parkedAt parkedApart 1 = [(parkedAlloc, leftCore1)] := by decide +kernel

theorem parkedApart_unwritable :
    devRead parkedApart leftCore1.task.root leftCore1.task.saveArea.toNat 512 = none := by decide +kernel

/-- The task ends on core 1, where nothing of it is parked: core 0 keeps the allocation. -/
theorem parkedApart_parkedAfter : parkedAfter (.parkedEviction 0 ⟨1, 0⟩) parkedApart = some [some 0] := by decide +kernel

/-- Refutes O45: a parked allocation is left in place on the core that its task left (R249), but the statement, over all states, does not
ask that the saved task left the core in focus. Here the task left core 1 and its allocation stands on core 0. The eviction cannot write
the save area and ends the task; what it has parked is dropped on core 1, and the allocation on core 0 stays, where the statement has none
of the task's stay. -/
theorem not_parkingAndDieEvents : ¬ Obligations.ParkingAndDieEvents := by
  unfold Obligations.ParkingAndDieEvents
  intro h
  obtain ⟨-, -, fails, -⟩ := h parkedApart 1 parkedAlloc leftCore1 0 rfl
  obtain ⟨t, eq, -, -, gone⟩ := fails parkedApart_parkedAt parkedApart_unwritable
  have after : t.core.allocs.map (·.parked) = [some 0] :=
    Option.some.inj ((parkedAfter_of_next eq).symm.trans parkedApart_parkedAfter)
  obtain ⟨b, held, parked⟩ : ∃ b ∈ t.core.allocs, b.parked = some 0 :=
    List.mem_map.mp (after ▸ List.mem_singleton.mpr rfl)
  exact gone b held parked

end Sys2Proof.Machine
end

section
/-! PROOFS. Class S words: the shapes complete, and what each value function computes (spec/20 R279 to R301, spec/21, spec/22). -/

namespace Sys2Proof.Machine

/-! ### The shapes complete -/

section
variable {i : Instr} {lat : Nat} {s : State} {v : Word} (f : Word → Word → Word → Word)

/-- A word of two sources lands the value of its function. -/
theorem scalarRR_completes {o : AluRR} (he : exec i s = scalarRR i o lat f s) (h : Ready i o.g s)
    (hv : f (s.reg o.d.reg) (s.src o.a) (s.src o.b) = v) : Completes i s (s.landReg o.d v lat) := by
  subst hv
  exact completes_landReg he h (fun _ => rfl) rfl (fun _ => rfl) rfl

/-- So does the immediate form. -/
theorem scalarRI_completes {o : AluRI} (he : exec i s = scalarRI i o lat f s) (h : Ready i o.g s)
    (hv : f (s.reg o.d.reg) (s.src o.a) (o.imm.signExtend 64) = v) : Completes i s (s.landReg o.d v lat) := by
  subst hv
  exact completes_landReg he h (fun _ => rfl) rfl (fun _ => rfl) rfl

end

/-- So does a word of one source. -/
theorem scalarR_completes {i : Instr} {o : OpDA} {lat : Nat} {f : Word → Word} {s : State} (he : exec i s = scalarR i o lat f s)
    (h : Ready i o.g s) : Completes i s (s.landReg o.d (f (s.src o.a)) lat) :=
  completes_landReg he h (fun _ => rfl) rfl (fun _ => rfl) rfl

/-! ### Values -/

/-- 64 bits of an integer. -/
theorem w64_wrap (i : Int) : w64 (wrap i 64) = BitVec.ofInt 64 i := by
  apply BitVec.eq_of_toNat_eq
  rw [w64, wrap, BitVec.toNat_ofNat, BitVec.toNat_ofInt, Nat.mod_eq_of_lt (by omega)]
  rfl

theorem mulhValue_eq (sg : Bool) (a y : Word) :
    mulhValue sg a y = BitVec.ofInt 64 ((if sg then a.toInt * y.toInt else (a.toNat * y.toNat : Nat)) / 2 ^ 64) := by
  cases sg with
  | true => exact w64_wrap _
  | false =>
    show w64 _ = BitVec.ofInt 64 _
    exact (BitVec.ofInt_natCast 64 _).symm

theorem divValue_eq (sg : Bool) (a y : Word) :
    divValue sg a y = if y = 0 then -1 else if sg then BitVec.ofInt 64 (a.toInt.tdiv y.toInt) else a / y := by
  unfold divValue
  rw [w64_wrap, BitVec.udiv_def]
  rfl

theorem remValue_eq (sg : Bool) (a y : Word) :
    remValue sg a y = if y = 0 then a else if sg then BitVec.ofInt 64 (a.toInt.tmod y.toInt) else a % y := by
  unfold remValue
  rw [w64_wrap, BitVec.umod_def]
  rfl

theorem shiftCount_eq (y : Word) : shiftCount y = y.toNat % 64 := fld_zero y.toNat 6

theorem shlValue_eq (a y : Word) : shlValue a y = a <<< (y.toNat % 64) := by rw [shlValue, shiftCount_eq]

theorem shrValue_eq (ar : Bool) (a y : Word) :
    shrValue ar a y = if ar then a.sshiftRight (y.toNat % 64) else a >>> (y.toNat % 64) := by rw [shrValue, shiftCount_eq]

theorem rotValue_eq (a y : Word) : rotValue a y = a.rotateRight (y.toNat % 64) := by rw [rotValue, shiftCount_eq]

theorem minValue_eq (sg : Bool) (a y : Word) : minValue sg a y =
    if sg then (if y.toInt < a.toInt then y else a) else (if y.toNat < a.toNat then y else a) := by
  cases sg <;> simp [minValue, BitVec.slt, BitVec.ult]

theorem maxValue_eq (sg : Bool) (a y : Word) : maxValue sg a y =
    if sg then (if a.toInt < y.toInt then y else a) else (if a.toNat < y.toNat then y else a) := by
  cases sg <;> simp [maxValue, BitVec.slt, BitVec.ult]

/-- The tag of PTRTAG stands over the low 60 bits of the pointer (22 R340). -/
theorem ptrtagValue_eq (a y : Word) :
    w64 (fld a.toNat 0 60 + 2 ^ 60 * fld y.toNat 0 4) = y.extractLsb' 0 4 ++ a.extractLsb' 0 60 := by
  apply BitVec.eq_of_toNat_eq
  rw [fld_zero, fld_zero, w64, BitVec.toNat_ofNat, BitVec.toNat_append, BitVec.extractLsb'_toNat, BitVec.extractLsb'_toNat,
    Nat.shiftRight_zero, Nat.shiftRight_zero, Nat.mul_comm,
    ← Nat.shiftLeft_add_eq_or_of_lt (Nat.mod_lt _ (Nat.two_pow_pos 60)), Nat.shiftLeft_eq]
  omega

theorem ptrtag_completes {s : State} {f : AluRR} (h : Ready (.ptrtag f) f.g s) :
    Completes (.ptrtag f) s (s.landReg f.d ((s.src f.b).extractLsb' 0 4 ++ (s.src f.a).extractLsb' 0 60) 4) := by
  rw [← ptrtagValue_eq]
  have frame : exec (.ptrtag f) s = execPtrtag f s := rfl
  unfold execPtrtag at frame
  exact completes_landReg frame h (fun _ => rfl) rfl (fun _ => rfl) rfl

/-- Settles O1: the shape completes with the value of each word. -/
theorem integerWordsComplete : Obligations.IntegerWordsComplete := by
  unfold Obligations.IntegerWordsComplete
  intro s f sg c a y
  exact ⟨fun h => scalarRR_completes (fun _ a y => a + y) rfl h rfl,
    fun h => scalarRR_completes (fun _ a y => a - y) rfl h rfl,
    fun h => scalarRR_completes (fun _ a y => a * y) rfl h rfl,
    fun h => scalarRR_completes (fun _ => mulhValue sg) rfl h (mulhValue_eq sg a y),
    fun h => scalarRR_completes (fun _ => divValue sg) rfl h (divValue_eq sg a y),
    fun h => scalarRR_completes (fun _ => remValue sg) rfl h (remValue_eq sg a y),
    fun h => scalarRR_completes (fun _ a y => a &&& y) rfl h rfl,
    fun h => scalarRR_completes (fun _ a y => a &&& ~~~y) rfl h rfl,
    fun h => scalarRR_completes (fun _ a y => a ||| y) rfl h rfl,
    fun h => scalarRR_completes (fun _ a y => a ^^^ y) rfl h rfl,
    fun h => scalarRR_completes (fun _ => shlValue) rfl h (shlValue_eq a y),
    fun h => scalarRR_completes (fun _ => shrValue sg) rfl h (shrValue_eq sg a y),
    fun h => scalarRR_completes (fun _ => rotValue) rfl h (rotValue_eq a y),
    fun h => scalarRR_completes (fun _ => bextValue) rfl h rfl,
    fun h => scalarRR_completes binsValue rfl h rfl,
    fun h => scalarRR_completes (fun _ => cmpValue c) rfl h rfl,
    fun h => scalarRR_completes selValue rfl h rfl,
    fun h => scalarRR_completes (fun _ => minValue sg) rfl h (minValue_eq sg a y),
    fun h => scalarRR_completes (fun _ => maxValue sg) rfl h (maxValue_eq sg a y),
    ptrtag_completes⟩

/-- Settles O2, in the same way with the immediate as second operand. -/
theorem immediateWordsComplete : Obligations.ImmediateWordsComplete := by
  unfold Obligations.ImmediateWordsComplete
  intro s f sg c a y
  exact ⟨fun h => scalarRI_completes (fun _ a y => a + y) rfl h rfl,
    fun h => scalarRI_completes (fun _ a y => a - y) rfl h rfl,
    fun h => scalarRI_completes (fun _ a y => a * y) rfl h rfl,
    fun h => scalarRI_completes (fun _ => mulhValue sg) rfl h (mulhValue_eq sg a y),
    fun h => scalarRI_completes (fun _ => divValue sg) rfl h (divValue_eq sg a y),
    fun h => scalarRI_completes (fun _ => remValue sg) rfl h (remValue_eq sg a y),
    fun h => scalarRI_completes (fun _ a y => a &&& y) rfl h rfl,
    fun h => scalarRI_completes (fun _ a y => a &&& ~~~y) rfl h rfl,
    fun h => scalarRI_completes (fun _ a y => a ||| y) rfl h rfl,
    fun h => scalarRI_completes (fun _ a y => a ^^^ y) rfl h rfl,
    fun h => scalarRI_completes (fun _ => shlValue) rfl h (shlValue_eq a y),
    fun h => scalarRI_completes (fun _ => shrValue sg) rfl h (shrValue_eq sg a y),
    fun h => scalarRI_completes (fun _ => rotValue) rfl h (rotValue_eq a y),
    fun h => scalarRI_completes (fun _ => bextValue) rfl h rfl,
    fun h => scalarRI_completes binsValue rfl h rfl,
    fun h => scalarRI_completes (fun _ => cmpValue c) rfl h rfl,
    fun h => scalarRI_completes (fun _ => minValue sg) rfl h (minValue_eq sg a y),
    fun h => scalarRI_completes (fun _ => maxValue sg) rfl h (maxValue_eq sg a y)⟩

end Sys2Proof.Machine
end

section
/-! PROOFS. BEXT, BINS, CLZ, POPC and CMP: their values bit by bit; LDI and ADDPC (spec/20 R284, R292, R293, R300, R301; spec/21 R321; spec/22 R339). -/

namespace Sys2Proof.Machine

/-! ### Bit fields -/

theorem getLsbD_w64 (n : Nat) {i : Nat} (h : i < 64) : (w64 n).getLsbD i = n.testBit i := by
  rw [w64, BitVec.getLsbD_ofNat, decide_eq_true h, Bool.true_and]

theorem fieldLow_eq (y : Word) : fieldLow y = y.toNat % 64 := fld_zero y.toNat 6

theorem fieldWidth_eq (y : Word) : fieldWidth y = if y.toNat / 256 % 64 = 0 then 64 else y.toNat / 256 % 64 := rfl

/-- BEXT takes the field of x[A], zero-extended (20 R292). -/
theorem bextValue_bit (a y : Word) {i : Nat} (h : i < 64) :
    (bextValue a y).getLsbD i = (decide (i < fieldWidth y) && a.getLsbD (fieldLow y + i)) := by
  rw [bextValue, getLsbD_w64 _ h, Nat.testBit_mod_two_pow, Nat.testBit_div_two_pow, BitVec.testBit_toNat, Nat.add_comm i]

/-- The mask of a field holds its bits. -/
theorem fieldMask_bit (y : Word) {i : Nat} (h : i < 64) :
    (fieldMask y).getLsbD i = decide (fieldLow y ≤ i ∧ i < fieldLow y + fieldWidth y) := by
  rw [fieldMask, getLsbD_w64 _ h, Nat.testBit_mul_two_pow, Nat.testBit_two_pow_sub_one, Bool.decide_and]
  by_cases low : fieldLow y ≤ i
  · congr 1
    exact decide_eq_decide.mpr (by omega)
  · simp [low]

/-- BINS puts the low bits of x[A] over the field of x[D] (20 R293). -/
theorem binsValue_bit (d a y : Word) {i : Nat} (h : i < 64) : (binsValue d a y).getLsbD i =
    if fieldLow y ≤ i ∧ i < fieldLow y + fieldWidth y then a.getLsbD (i - fieldLow y) else d.getLsbD i := by
  rw [binsValue, BitVec.getLsbD_or, BitVec.getLsbD_and, BitVec.getLsbD_and, BitVec.getLsbD_not, BitVec.getLsbD_shiftLeft,
    fieldMask_bit y h]
  by_cases inside : fieldLow y ≤ i ∧ i < fieldLow y + fieldWidth y
  · simp [inside, h, Nat.not_lt.mpr inside.1]
  · simp [inside, h]

/-! ### Counts -/

/-- CLZ of a number that is not 0, from the place of its highest bit (20 R300). -/
theorem clzValue_toNat {a : Word} (h : a ≠ 0) : (clzValue a).toNat = 63 - Nat.log2 a.toNat := by
  rw [clzValue, if_neg h, w64, BitVec.toNat_ofNat, Nat.mod_eq_of_lt (by omega)]

theorem toNat_ne_zero {a : Word} (h : a ≠ 0) : a.toNat ≠ 0 := fun e => h (BitVec.eq_of_toNat_eq e)

theorem log2_lt_64 {a : Word} (h : a ≠ 0) : Nat.log2 a.toNat < 64 := (Nat.log2_lt (toNat_ne_zero h)).mpr a.isLt

theorem clzValue_bounds (a : Word) : (clzValue a).toNat ≤ 64 ∧ a.toNat < 2 ^ (64 - (clzValue a).toNat) ∧
    (a ≠ 0 → 2 ^ (63 - (clzValue a).toNat) ≤ a.toNat ∧ (clzValue a).toNat < 64) := by
  by_cases h : a = 0
  · subst h
    exact ⟨by decide, by decide, fun ne => absurd rfl ne⟩
  · have lt := log2_lt_64 h
    rw [clzValue_toNat h, show 64 - (63 - Nat.log2 a.toNat) = Nat.log2 a.toNat + 1 by omega,
      show 63 - (63 - Nat.log2 a.toNat) = Nat.log2 a.toNat by omega]
    exact ⟨by omega, Nat.lt_log2_self, fun _ => ⟨Nat.log2_self_le (toNat_ne_zero h), by omega⟩⟩

/-- POPC counts the set bits (22 R339). -/
theorem popcValue_toNat (a : Word) : (popcValue a).toNat = ((List.range 64).filter (fun i => a.getLsbD i)).length := by
  have le : ((List.range 64).filter (fun i => a.getLsbD i)).length ≤ 64 := by
    simpa using List.length_filter_le (fun i => a.getLsbD i) (List.range 64)
  rw [popcValue, w64, BitVec.toNat_ofNat, Nat.mod_eq_of_lt (by omega)]

/-! ### Conditions (20 R301) -/

theorem condHolds_iff (a y : Word) :
    (condHolds .eq a y = true ↔ a = y) ∧ (condHolds .ne a y = true ↔ a ≠ y) ∧
    (condHolds .lt a y = true ↔ a.toInt < y.toInt) ∧ (condHolds .ge a y = true ↔ y.toInt ≤ a.toInt) ∧
    (condHolds .ltu a y = true ↔ a.toNat < y.toNat) ∧ (condHolds .geu a y = true ↔ y.toNat ≤ a.toNat) := by
  simp [condHolds, BitVec.slt, BitVec.ult]

end Sys2Proof.Machine

/-! The outcome `Fin` of a word's body is not in scope here. -/
namespace Sys2Proof

theorem popcValue_card (a : Word) :
    (Machine.popcValue a).toNat = (Finset.univ.filter (fun i : Fin 64 => a.getLsbD i = true)).card := by
  rw [Machine.popcValue_toNat, ← List.map_coe_finRange_eq_range, List.filter_map, List.length_map]
  simp [Finset.card, Fin.univ_def, Function.comp_def]

end Sys2Proof

namespace Sys2Proof.Machine

/-! ### The words -/

/-- LDI lands its immediate (21 R321). -/
theorem ldi_completes {s : State} {m : OpDImm} (h : Ready (.ldi m) m.g s) :
    Completes (.ldi m) s (s.landReg m.d (m.imm.signExtend 64) 1) := by
  have frame : exec (.ldi m) s = execLdi m s := rfl
  unfold execLdi at frame
  exact completes_landReg frame h (fun _ => rfl) rfl (fun _ => rfl) rfl

/-- ADDPC adds to the base that R284 gives it. -/
theorem addpc_completes {s : State} {p : OpPc} (h : Ready (.addpc p) p.g s) {base : Word} (hb : s.addpcBase = base) :
    Completes (.addpc p) s (s.landReg p.d (base + (p.imm.signExtend 64 <<< 12)) 1) := by
  subst hb
  have frame : exec (.addpc p) s = execAddpc p s := rfl
  unfold execAddpc at frame
  exact completes_landReg frame h (fun _ => rfl) rfl (fun _ => rfl) rfl

theorem State.addpcBase_flat {s : State} (h : s.place = .flat) : s.addpcBase = s.here.pc := by
  rw [State.addpcBase, h]

theorem State.addpcBase_task {s : State} {t : Task} (h : s.place ≠ .flat) (task : s.core.task = some t) :
    s.addpcBase = t.img.pimg + s.lpc := by
  unfold State.addpcBase
  rw [task]
  cases hp : s.place with
  | flat => exact absurd hp h
  | plain => rfl
  | slice => rfl

/-- Settles O3. -/
theorem oneSourceWordsComplete : Obligations.OneSourceWordsComplete := by
  unfold Obligations.OneSourceWordsComplete
  intro s f m p
  exact ⟨scalarR_completes rfl, scalarR_completes rfl, ldi_completes,
    fun h => ⟨fun t image task => addpc_completes h (State.addpcBase_task image task),
      fun flat => addpc_completes h (State.addpcBase_flat flat)⟩⟩

/-- Settles O4: the words by their shapes, the values bit by bit, the examples by the encoder. -/
theorem bitWordValues : Obligations.BitWordValues := by
  unfold Obligations.BitWordValues
  refine ⟨fun s f m => ⟨fun h => scalarRR_completes (fun _ => bextValue) rfl h rfl,
    fun h => scalarRI_completes (fun _ => bextValue) rfl h rfl, fun h => scalarRR_completes binsValue rfl h rfl,
    fun h => scalarRI_completes binsValue rfl h rfl⟩, fun d a y => ?_, ?_⟩
  · rw [← fieldLow_eq, ← fieldWidth_eq]
    exact ⟨fun i => bextValue_bit a y, fun i => binsValue_bit d a y, clzValue_bounds a, popcValue_card a, condHolds_iff a y⟩
  · exact ⟨rfl, by decide, rfl, by decide⟩

end Sys2Proof.Machine
end

section
/-! PROOFS. Class F words, and the frame of every word of class S and F (spec/20 R279; spec/21 R309 to R315; spec/03 R62, R63). -/

namespace Sys2Proof.Machine

/-! ### Class F words complete -/

theorem floatBinary_completes {i : Instr} {o : FOp} {lat : Nat} {s : State} (f : Rnd → Val → Val → Exact × Flags)
    (he : exec i s = floatBinary i o lat f s) (h : Ready i o.g s) : Completes i s (s.landCode o.d o.fmt
      (roundWith o.fmt (s.rctx o.rnd) 0 (f (s.rctx o.rnd).mode (argVal o.fmt (s.src o.a)) (argVal o.fmt (s.src o.b)))) lat) :=
  completes_landReg he h (fun _ => rfl) rfl (fun _ => rfl) rfl

theorem ffma_completes {s : State} {c : BitVec 5} {f : FOp} (h : Ready (.ffma c f) f.g s) :
    Completes (.ffma c f) s (s.landCode f.d f.fmt (roundWith f.fmt (s.rctx f.rnd) 0
      (fmaEx (s.rctx f.rnd).mode (argVal f.fmt (s.src f.a)) (argVal f.fmt (s.src f.b)) (argVal f.fmt (s.reg c)))) 5) := by
  have frame : exec (.ffma c f) s = execFfma c f s := rfl
  unfold execFfma at frame
  exact completes_landReg frame h (fun _ => rfl) rfl (fun _ => rfl) rfl

theorem fcmp_completes {s : State} {p : FCond} {f : FOp} (h : Ready (.fcmp p f) f.g s) :
    Completes (.fcmp p f) s
      (s.landReg f.d (if (fcompare f.fmt p (floatArg f.fmt (s.src f.a)) (floatArg f.fmt (s.src f.b))).1 then 1 else 0) 4
        (fcompare f.fmt p (floatArg f.fmt (s.src f.a)) (floatArg f.fmt (s.src f.b))).2) := by
  have frame : exec (.fcmp p f) s = execFcmp p f s := rfl
  unfold execFcmp at frame
  exact completes_landReg frame h (fun _ => rfl) rfl (fun _ => rfl) rfl

theorem fcvt_completes {s : State} {v : FCvtOp} (h : Ready (.fcvt v) v.g s) :
    Completes (.fcvt v) s (s.landCode v.d v.fmt2 (convert v.fmt v.fmt2 (s.rctx v.rnd) 0 (floatArg v.fmt (s.src v.a))) 3) := by
  have frame : exec (.fcvt v) s = execFcvt v s := rfl
  unfold execFcvt at frame
  exact completes_landReg frame h (fun _ => rfl) rfl (fun _ => rfl) rfl

/-- Settles O5, word by word. -/
theorem floatWordsComplete : Obligations.FloatWordsComplete := by
  unfold Obligations.FloatWordsComplete
  intro s f v c p a b rc
  exact ⟨floatBinary_completes addEx rfl, floatBinary_completes (fun _ => mulEx) rfl, ffma_completes, fcmp_completes, fcvt_completes⟩

/-! ### What a scalar word runs -/

/-- The outcome `out` of word i in s is that of its frame, in which its body lands one scalar result in d, with flags only if the word is
of class F. -/
def LandsScalar (i : Instr) (d : Dst) (s : State) (out : Out) : Prop :=
  ∃ (g : Guard) (body : Body) (v : Word) (lat : Nat) (fl : Flags), out = runWord i g {} body s ∧
    body s = .ok (.next (s.landReg d v lat fl)) ∧ (isFloat i = false → fl = 0)

section
variable {i : Instr} {lat : Nat} {s : State}

theorem scalarRR_lands {o : AluRR} {f : Word → Word → Word → Word} : LandsScalar i o.d s (scalarRR i o lat f s) :=
  ⟨_, _, _, _, _, rfl, rfl, fun _ => rfl⟩
theorem scalarRI_lands {o : AluRI} {f : Word → Word → Word → Word} : LandsScalar i o.d s (scalarRI i o lat f s) :=
  ⟨_, _, _, _, _, rfl, rfl, fun _ => rfl⟩
theorem scalarR_lands {o : OpDA} {f : Word → Word} : LandsScalar i o.d s (scalarR i o lat f s) :=
  ⟨_, _, _, _, _, rfl, rfl, fun _ => rfl⟩
theorem floatBinary_lands {o : FOp} {f : Rnd → Val → Val → Exact × Flags} (float : isFloat i = true) :
    LandsScalar i o.d s (floatBinary i o lat f s) :=
  ⟨_, _, _, _, _, rfl, rfl, fun scalar => absurd float (by rw [scalar]; decide)⟩

end

/-- Every word of class S or F lands one scalar result in its destination. -/
theorem scalarDst_lands {i : Instr} {d : Dst} (h : scalarDst i = some d) (s : State) : LandsScalar i d s (exec i s) := by
  cases i with
  | add | sub | mul | mulh | div | rem | and | andn | or | xor | shl | shr | rot | bext | bins | cmp | sel | min | max =>
    cases h
    dsimp only [exec]
    exact scalarRR_lands
  | addImmediate | subImmediate | mulImmediate | mulhImmediate | divImmediate | remImmediate | andImmediate | andnImmediate
  | orImmediate | xorImmediate | shlImmediate | shrImmediate | rotImmediate | bextImmediate | binsImmediate | cmpImmediate
  | minImmediate | maxImmediate =>
    cases h
    dsimp only [exec]
    exact scalarRI_lands
  | clz | popc =>
    cases h
    dsimp only [exec]
    exact scalarR_lands
  | ldi | addpc =>
    cases h
    dsimp only [exec]
    exact ⟨_, _, _, _, _, rfl, rfl, fun _ => rfl⟩
  | fadd | fmul =>
    cases h
    dsimp only [exec]
    exact floatBinary_lands rfl
  | ffma | fcmp | fcvt =>
    cases h
    dsimp only [exec]
    exact ⟨_, _, _, _, _, rfl, rfl, nofun⟩
  | _ => exact nomatch h

/-! ### Its three ends -/

/-- Everything but counters, clocks and the course of the contexts is in t as in u. -/
structure Rests (u t : State) : Prop where
  mem : t.mem = u.mem
  m : t.m = u.m
  others : t.others = u.others
  core : SameCore u.core t.core
  ctx : ∀ c, (t.core.ctx c).x = (u.core.ctx c).x ∧ (t.core.ctx c).latch = (u.core.ctx c).latch ∧
    (t.core.ctx c).view = (u.core.ctx c).view ∧ (t.core.ctx c).fflags = (u.core.ctx c).fflags ∧
    (t.core.ctx c).round = (u.core.ctx c).round ∧ (t.core.ctx c).wp = (u.core.ctx c).wp ∧
    (t.core.ctx c).step = (u.core.ctx c).step ∧ (t.core.ctx c).pins = (u.core.ctx c).pins ∧
    (t.core.ctx c).monitor = (u.core.ctx c).monitor

/-- A word that passes leaves all that its effect has left. -/
theorem passed_rests {s u : State} (mem : u.mem = s.mem) (quiet : u.wlog = []) : Rests u (passed s u) := by
  obtain ⟨reachLog, reachM, reachOthers, -, -, -⟩ := reach_only ((u.issued s.here.ord s.lpc).modHere (fun k =>
    let k1 := { k with pc := k.pc + 12 }
    if (u.issued s.here.ord s.lpc).place = .slice ∧ k1.pc.toNat = k.secEnd then k1.endSection else k1))
  exact
    { mem := (settled_mem_of_quiet (reachLog.trans quiet)).trans mem.symm
      m := reachM
      others := reachOthers
      core := (SameCore.issued u _ _).trans (SameCore.advance _)
      ctx := passed_ctx s u }

/-- A word that is held leaves all but the accesses to banks. -/
theorem unbank_rests {s : State} (hw : s.wlog = []) : Rests s (settled s s.unbank) where
  mem := settled_mem_of_quiet hw
  m := rfl
  others := rfl
  core := ⟨rfl, rfl, rfl, rfl, rfl, rfl, rfl, rfl, rfl, fun ch => by cases ch <;> rfl, rfl, rfl, rfl, rfl, rfl, rfl, rfl, rfl, rfl, rfl⟩
  ctx c := by cases c <;> exact ⟨rfl, rfl, rfl, rfl, rfl, rfl, rfl, rfl, rfl⟩

/-- A scalar word passes with its result or with none, or is held. -/
theorem LandsScalar.ends {i : Instr} {d : Dst} {s t : State} (h : LandsScalar i d s (exec i s)) (formed : i.check = none) (hw : s.wlog = [])
    (run : exec i s = .next t) :
    Rests s t ∨ ∃ v lat fl, (isFloat i = false → fl = 0) ∧ Rests (s.landReg d v lat fl) t := by
  obtain ⟨g, body, v, lat, fl, he, hb, quiet⟩ := h
  obtain ⟨mem, -, -, wlog, -⟩ := landReg_frame s d v lat fl
  rw [he, runWord, State.clear_wlog hw, finish_eq] at run
  injection run with run
  simp only [formed, hb, Bool.and_false, Option.isSome_none, Bool.or_self, Bool.false_eq_true, if_false] at run
  split at run
  · simp only [State.complete] at run
    split at run
    · subst run
      exact .inl (unbank_rests hw)
    · subst run
      exact .inl (passed_rests rfl hw)
  · simp only [State.complete] at run
    split at run
    · subst run
      exact .inl (unbank_rests hw)
    · subst run
      exact .inr ⟨v, lat, fl, quiet, passed_rests mem (wlog.trans hw)⟩

/-! ### The frame (20 R279; 21 R309) -/

/-- What a scalar word may change from s to t: x[D], the latch LT and the flags of its context, or one result in flight. -/
structure ScalarFrame (d : Dst) (float : Bool) (s t : State) : Prop where
  mem : t.mem = s.mem
  m : t.m = s.m
  others : t.others = s.others
  regs : ∀ c n, (c ≠ s.core.cur ∨ n ≠ d.reg ∨ n = 0 ∨ d.wbs = true ∨ s.core.interlocked = false) →
    (t.core.ctx c).get n = (s.core.ctx c).get n
  latches : ∀ c (l : BitVec 4), (c ≠ s.core.cur ∨ l ≠ d.lt ∨ l = 0 ∨ s.core.interlocked = false) →
    (t.core.ctx c).latchBytes l = (s.core.ctx c).latchBytes l
  ctx : ∀ c, (t.core.ctx c).view = (s.core.ctx c).view ∧ (t.core.ctx c).round = (s.core.ctx c).round ∧
    (t.core.ctx c).wp = (s.core.ctx c).wp ∧ (t.core.ctx c).step = (s.core.ctx c).step ∧
    (t.core.ctx c).pins = (s.core.ctx c).pins ∧ (t.core.ctx c).monitor = (s.core.ctx c).monitor
  flagsStay : ∀ c, (t.core.ctx c).fflags &&& (s.core.ctx c).fflags = (s.core.ctx c).fflags
  flagsSame : ∀ c, (c ≠ s.core.cur ∨ float = false ∨ s.core.interlocked = false) → (t.core.ctx c).fflags = (s.core.ctx c).fflags
  flights : t.core.flights = s.core.flights ∨ ∃ f v, s.core.interlocked = false ∧ t.core.flights = s.core.flights ++ [f] ∧
    f.ctx = s.core.cur ∧ f.puts = (if d.wbs then [] else [.reg s.core.cur d.reg v]) ∧ f.lt = d.lt ∧ (float = false → f.flags = 0)
  core : SameCore { s.core with flights := t.core.flights } t.core

theorem ScalarFrame.refl (d : Dst) (float : Bool) (s : State) : ScalarFrame d float s s where
  mem := rfl
  m := rfl
  others := rfl
  regs _ _ _ := rfl
  latches _ _ _ := rfl
  ctx _ := ⟨rfl, rfl, rfl, rfl, rfl, rfl⟩
  flagsStay _ := BitVec.and_self
  flagsSame _ _ := rfl
  flights := .inl rfl
  core := .refl _

theorem landReg_scalarFrame {float : Bool} (d : Dst) (s : State) (v : Word) (lat : Nat) {fl : Flags} (quiet : float = false → fl = 0) :
    ScalarFrame d float s (s.landReg d v lat fl) := by
  obtain ⟨mem, m, others, -, regs, latches, ctx, flights, core⟩ := landReg_frame s d v lat fl
  have flags (c : Ctx) := (ctx c).2.2.2.2.2.2
  refine
    { mem := mem, m := m, others := others, regs := regs, latches := latches, core := core, ctx := fun c => ?_, flagsStay := fun c => ?_,
      flagsSame := fun c same => ?_, flights := ?_ }
  · obtain ⟨view, round, wp, step, pins, monitor, -⟩ := ctx c
    exact ⟨view, round, wp, step, pins, monitor⟩
  · rw [flags c]
    split
    · exact BitVec.eq_of_getElem_eq fun i hi => by simpa using fun set => .inl set
    · exact BitVec.and_self
  · rw [flags c]
    split
    · next here =>
      obtain away | scalar | free := same
      · exact absurd here.1 away
      · rw [quiet scalar]
        exact BitVec.or_zero
      · exact absurd here.2 (by rw [free]; decide)
    · rfl
  · obtain ⟨-, same⟩ | ⟨free, f, more, here, puts, lt, flags⟩ := flights
    · exact .inl same
    · exact .inr ⟨f, v, free, more, here, puts, lt, fun scalar => flags.trans (quiet scalar)⟩

/-- What rests after the effect of the word keeps its frame. -/
theorem ScalarFrame.rests {d : Dst} {float : Bool} {s u t : State} (h : ScalarFrame d float s u) (rest : Rests u t) :
    ScalarFrame d float s t := by
  have flights : t.core.flights = u.core.flights := rest.core.2.1
  have flags (c : Ctx) : (t.core.ctx c).fflags = (u.core.ctx c).fflags := (rest.ctx c).2.2.2.1
  refine
    { mem := rest.mem.trans h.mem, m := rest.m.trans h.m, others := rest.others.trans h.others, regs := fun c n same => ?_,
      latches := fun c l same => ?_, ctx := fun c => ?_, flagsStay := fun c => by rw [flags c]; exact h.flagsStay c,
      flagsSame := fun c same => (flags c).trans (h.flagsSame c same), flights := by rw [flights]; exact h.flights,
      core := by rw [flights]; exact h.core.trans rest.core }
  · have x : (t.core.ctx c).get n = (u.core.ctx c).get n := by
      unfold Context.get
      rw [(rest.ctx c).1]
    exact x.trans (h.regs c n same)
  · have latch : (t.core.ctx c).latchBytes l = (u.core.ctx c).latchBytes l := by
      unfold Context.latchBytes
      rw [(rest.ctx c).2.1]
    exact latch.trans (h.latches c l same)
  · obtain ⟨-, -, view, -, round, wp, step, pins, monitor⟩ := rest.ctx c
    obtain ⟨view', round', wp', step', pins', monitor'⟩ := h.ctx c
    exact ⟨view.trans view', round.trans round', wp.trans wp', step.trans step', pins.trans pins', monitor.trans monitor'⟩

theorem scalarWord_frame {i : Instr} {d : Dst} {s t : State} (h : scalarDst i = some d) (formed : i.check = none) (hw : s.wlog = [])
    (run : exec i s = .next t) : ScalarFrame d (isFloat i) s t := by
  obtain rest | ⟨v, lat, fl, quiet, rest⟩ := (scalarDst_lands h s).ends formed hw run
  · exact (ScalarFrame.refl d _ s).rests rest
  · exact (landReg_scalarFrame d s v lat quiet).rests rest

/-- Settles O52: a scalar word passes with its one result or with none, or is held, and each of these keeps the frame. -/
theorem scalarWordFrame : Obligations.ScalarWordFrame := by
  unfold Obligations.ScalarWordFrame
  intro s t i d dst formed hw run
  have h := scalarWord_frame dst formed hw run
  obtain ⟨-, -, rs, allocs, -, -, task, wb, rings, chains, window, ckpt, journal, tlb, trace, traps, mode, seed, sel, per⟩ := h.core
  refine ⟨h.mem, h.m, h.others, h.regs, h.latches, fun c => ?_, h.flights, rs, wb, allocs, rings, fun ch => ?_, window, ckpt, journal, task,
    tlb, trace, traps, mode, seed, sel, per⟩
  · obtain ⟨view, round, wp, step, pins, monitor⟩ := h.ctx c
    exact ⟨view, round, wp, step, pins, monitor, h.flagsStay c, h.flagsSame c⟩
  · exact (chains ch).trans (by cases ch <;> rfl)

end Sys2Proof.Machine
end

section
/-! PROOFS. The special cases of DIV and REM (spec/21 R305). -/

namespace Sys2Proof.Machine

/-! ### Quotient and remainder -/

/-- The signed quotient is the one that truncates toward zero (21 R305). -/
theorem divValue_signed {a y : Word} (h : y ≠ 0) : divValue true a y = a.sdiv y := by
  rw [divValue_eq, if_neg h, if_pos rfl]
  apply BitVec.eq_of_toInt_eq
  rw [BitVec.toInt_ofInt, BitVec.toInt_sdiv]

theorem remValue_signed {a y : Word} (h : y ≠ 0) : remValue true a y = a.srem y := by
  rw [remValue_eq, if_neg h, if_pos rfl]
  apply BitVec.eq_of_toInt_eq
  rw [BitVec.toInt_ofInt, ← BitVec.toInt_srem, BitVec.toInt_bmod_cancel]

theorem divValue_unsigned {a y : Word} (h : y ≠ 0) : divValue false a y = a / y := by
  rw [divValue_eq, if_neg h, if_neg Bool.false_ne_true]

theorem remValue_unsigned {a y : Word} (h : y ≠ 0) : remValue false a y = a % y := by
  rw [remValue_eq, if_neg h, if_neg Bool.false_ne_true]

theorem toInt_ne_zero {y : Word} (h : y ≠ 0) : y.toInt ≠ 0 := fun e => h (BitVec.eq_of_toInt_eq e)

/-- A remainder that truncates is less than the divisor, and is 0 or of the sign of the dividend. -/
theorem tmod_bounds (a : Int) {y : Int} (h : y ≠ 0) : (a.tmod y).natAbs < y.natAbs ∧ (a.tmod y = 0 ∨ (a.tmod y < 0 ↔ a < 0)) := by
  constructor
  · rw [Int.natAbs_tmod]
    exact Nat.mod_lt _ (Int.natAbs_pos.mpr h)
  · obtain neg | nonneg := lt_or_ge a 0
    · have : 0 ≤ (-a).tmod y := Int.tmod_nonneg y (by omega)
      rw [Int.neg_tmod] at this
      omega
    · have := Int.tmod_nonneg y nonneg
      omega

/-- What R305 says of a quotient q and a remainder r. -/
def DivisionLaw (sg : Bool) (a y q r : Word) : Prop :=
  (y = 0 → q = 0xFFFFFFFFFFFFFFFF ∧ r = a) ∧
  (sg = true → a = 0x8000000000000000 → y = -1 → q = 0x8000000000000000) ∧
  (sg = true → y ≠ 0 → ¬(a = 0x8000000000000000 ∧ y = -1) → a.toInt = q.toInt * y.toInt + r.toInt ∧
    r.toInt.natAbs < y.toInt.natAbs ∧ (r = 0 ∨ (r.toInt < 0 ↔ a.toInt < 0))) ∧
  (sg = false → y ≠ 0 → a.toNat = q.toNat * y.toNat + r.toNat ∧ r.toNat < y.toNat)

theorem signed_division {a y : Word} (h : y ≠ 0) (fits : ¬(a = 0x8000000000000000 ∧ y = -1)) :
    a.toInt = (a.sdiv y).toInt * y.toInt + (a.srem y).toInt ∧ (a.srem y).toInt.natAbs < y.toInt.natAbs ∧
      (a.srem y = 0 ∨ ((a.srem y).toInt < 0 ↔ a.toInt < 0)) := by
  obtain ⟨small, sign⟩ := tmod_bounds a.toInt (toInt_ne_zero h)
  rw [BitVec.toInt_sdiv_of_ne_or_ne _ _ (not_and_or.mp fits), BitVec.toInt_srem]
  refine ⟨(Int.tdiv_mul_add_tmod a.toInt y.toInt).symm, small, sign.imp_left fun zero => ?_⟩
  exact BitVec.eq_of_toInt_eq (by rw [BitVec.toInt_srem, zero]; rfl)

theorem divisionLaw (sg : Bool) (a y : Word) : DivisionLaw sg a y (divValue sg a y) (remValue sg a y) := by
  refine ⟨?_, ?_, ?_, ?_⟩
  · rintro rfl
    exact ⟨rfl, rfl⟩
  · rintro rfl rfl rfl
    decide
  · rintro rfl h fits
    rw [divValue_signed h, remValue_signed h]
    exact signed_division h fits
  · rintro rfl h
    rw [divValue_unsigned h, remValue_unsigned h, BitVec.toNat_udiv, BitVec.toNat_umod]
    exact ⟨(Nat.div_add_mod' a.toNat y.toNat).symm, Nat.mod_lt _ (Nat.pos_of_ne_zero (toNat_ne_zero h))⟩

/-- Settles O56: both forms land the quotient and the remainder of one division. -/
theorem divisionCases : Obligations.DivisionCases := by
  unfold Obligations.DivisionCases
  intro s f m sg
  refine ⟨divValue sg (s.src f.a) (s.src f.b), remValue sg (s.src f.a) (s.src f.b), divValue sg (s.src m.a) (m.imm.signExtend 64),
    remValue sg (s.src m.a) (m.imm.signExtend 64), fun h => scalarRR_completes (fun _ => divValue sg) rfl h rfl,
    fun h => scalarRR_completes (fun _ => remValue sg) rfl h rfl,
    fun h => scalarRI_completes (fun _ => divValue sg) rfl h rfl,
    fun h => scalarRI_completes (fun _ => remValue sg) rfl h rfl, ?_⟩
  rintro a y q r (eq | eq)
  · cases eq
    exact divisionLaw sg (s.src f.a) (s.src f.b)
  · cases eq
    exact divisionLaw sg (s.src m.a) (m.imm.signExtend 64)

end Sys2Proof.Machine
end

section
/-! PROOFS. Example words (spec/20 R288, R300; spec/22 R339, R352, R359). -/

namespace Sys2Proof.Machine

/-- The shift count is the low 6 bits of a register. -/
theorem shiftCount_low (y : Word) : shiftCount y = (y.extractLsb' 0 6).toNat := by
  rw [shiftCount_eq, BitVec.extractLsb'_toNat, Nat.shiftRight_zero]

/-- So it is of a sign-extended immediate. -/
theorem shiftCount_immediate (v : BitVec 32) : shiftCount (v.signExtend 64) = (v.extractLsb' 0 6).toNat := by
  rw [shiftCount_low]
  congr 1
  refine BitVec.eq_of_getLsbD_eq fun i hi => ?_
  have : i < 32 := by omega
  have : i < 64 := by omega
  simp [BitVec.getElem_signExtend, *]

/-- CLZ counts the bits above the highest one that is set (20 R300). -/
theorem clzValue_highest {a : Word} {h : Nat} (set : a.getLsbD h = true) (clear : ∀ j, h < j → a.getLsbD j = false) :
    (clzValue a).toNat = 63 - h := by
  have ge : 2 ^ h ≤ a.toNat := Nat.ge_two_pow_of_testBit (by rw [BitVec.testBit_toNat]; exact set)
  have lt : a.toNat < 2 ^ (h + 1) := Nat.lt_pow_two_of_testBit _ fun j hj => by
    rw [BitVec.testBit_toNat]
    exact clear j hj
  have ne : a ≠ 0 := by
    rintro rfl
    exact absurd set (by simp)
  rw [clzValue_toNat ne, (Nat.log2_eq_iff (toNat_ne_zero ne)).mpr ⟨ge, lt⟩]

/-! ### Words that decode to nothing -/

/-- A word whose fields decode to nothing is refused. -/
theorem decodeWord_error {x : IWord} {e : DecodeError} (h : decodeRaw (x.extractLsb' 0 93) (Raw.unpack x) = .error e) :
    decodeWord x = .error e := by
  rw [decodeWord, decodeFields, h]

/-- A class S word decodes as its class does. -/
theorem decodeRaw_classS {x : IWord} (cls : x.extractLsb' 93 3 = 0) (rest : BitVec 93) :
    decodeRaw rest (Raw.unpack x) = decS (Raw.unpack x) := by
  rw [decodeRaw, show (Raw.unpack x).cls = 0 from cls]
  rfl

theorem decS_unassigned {r : Raw} (op : r.op = 0x10F ∨ r.op = 0x10E) : ∃ e, decS r = .error e := by
  unfold decS
  obtain op | op := op <;> rw [op] <;> exact ⟨_, rfl⟩

/-- A word of one source in which field B is not 0 is refused. -/
theorem decDA_error {r : Raw} (b : r.noB = false) : ∃ e, decDA r = .error e := by
  unfold decDA
  cases r.dst with
  | error e => exact ⟨e, rfl⟩
  | ok d =>
    cases decSrc r.als r.a with
    | error e => exact ⟨e, rfl⟩
    | ok a => rw [b]; exact ⟨_, rfl⟩

/-- Field B of a word, with its latch bit over it, is bits 47:36. -/
theorem fieldB_append (x : IWord) : x.extractLsb' 36 12 = bit1 (Raw.unpack x).bls ++ (Raw.unpack x).b := by
  refine BitVec.eq_of_getLsbD_eq fun i hi => ?_
  simp only [Raw.unpack, BitVec.getLsbD_append, BitVec.getLsbD_extractLsb', hi, decide_true, Bool.true_and]
  split
  · next low => rw [decide_eq_true low, Bool.true_and]
  · next high =>
    obtain rfl : i = 11 := by omega
    rw [bit1_getLsbD]

theorem noB_false {x : IWord} (h : x.extractLsb' 36 12 ≠ 0) : (Raw.unpack x).noB = false := by
  by_contra zero
  rw [Bool.not_eq_false, Raw.noB, Bool.and_eq_true, beq_iff_eq, Bool.not_eq_true'] at zero
  refine h ?_
  rw [fieldB_append, zero.1, zero.2]
  rfl

theorem decS_oneSource {r : Raw} (op : r.op = 0x00F ∨ r.op = 0x00E) (b : r.noB = false) : ∃ e, decS r = .error e := by
  obtain ⟨e, he⟩ := decDA_error b
  unfold decS
  obtain op | op := op <;> rw [op, he] <;> exact ⟨e, rfl⟩

/-! ### The examples -/

/-- Settles O57: the words by their shapes, the counts by the highest bit, the examples by the decoder. -/
theorem exampleWords : Obligations.ExampleWords := by
  unfold Obligations.ExampleWords
  intro g d w
  refine ⟨fun s f m o => ?_, fun a => ⟨popcValue_toNat a, fun zero => by rw [zero]; rfl, fun h _ => clzValue_highest⟩, ?_⟩
  · exact ⟨fun h => scalarRR_completes (fun _ a y => a - y) rfl h rfl, fun h => scalarRI_completes (fun _ a y => a - y) rfl h rfl,
      fun h => scalarRR_completes (fun _ a y => a &&& ~~~y) rfl h rfl, fun h => scalarRI_completes (fun _ a y => a &&& ~~~y) rfl h rfl,
      fun h => scalarRR_completes (fun _ => shlValue) rfl h (by rw [shlValue, shiftCount_low]),
      fun h => scalarRI_completes (fun _ => shlValue) rfl h (by rw [shlValue, shiftCount_immediate]), scalarR_completes rfl,
      scalarR_completes rfl⟩
  · refine ⟨by decide, by decide, by decide, by decide, by decide, rfl, rfl, rfl, rfl, rfl, fun x cls op => ?_, fun x cls op b => ?_,
      rfl, rfl, rfl, rfl, rfl⟩
    · obtain ⟨e, he⟩ := decS_unassigned (r := Raw.unpack x) op
      exact ⟨e, decodeWord_error ((decodeRaw_classS cls _).trans he)⟩
    · obtain ⟨e, he⟩ := decS_oneSource (r := Raw.unpack x) op (noB_false b)
      exact ⟨e, decodeWord_error ((decodeRaw_classS cls _).trans he)⟩

end Sys2Proof.Machine
end

section
/-! PROOFS. The operations of ATOM and the reductions of BSYNC (spec/20 R290, R295, R296). -/

namespace Sys2Proof.Machine

/-! ### ATOM (20 R290) -/

/-- A function of the smaller of two numbers under a signed reading. -/
theorem sgn_atomValue_smin (w old y : Nat) : sgn (atomValue .smin w old y) w = min (sgn old w) (sgn y w) := by
  unfold atomValue
  dsimp only
  split <;> omega

theorem sgn_atomValue_smax (w old y : Nat) : sgn (atomValue .smax w old y) w = max (sgn old w) (sgn y w) := by
  unfold atomValue
  dsimp only
  split <;> omega

theorem atomOp_reserved {c : BitVec 12} (h : 9 ≤ c.toNat) : AtomOp.ofCode c = none := by
  unfold AtomOp.ofCode
  split <;> first | omega | rfl

theorem decodeRaw_classM {x : IWord} (cls : x.extractLsb' 93 3 = 2) (rest : BitVec 93) :
    decodeRaw rest (Raw.unpack x) = decM (Raw.unpack x) := by
  rw [decodeRaw, show (Raw.unpack x).cls = 2 from cls]
  rfl

/-- The SUBOP of a class M word is its bits 11:0. -/
theorem MTail.sub_unpack (x : IWord) : (MTail.unpack (Raw.unpack x).tail).sub = x.extractLsb' 0 12 := by
  refine BitVec.eq_of_getLsbD_eq fun i hi => ?_
  simp [MTail.unpack, Raw.unpack, hi]

theorem decM_atom_reserved {r : Raw} (op : r.op = 5) (sub : AtomOp.ofCode (MTail.unpack r.tail).sub = none) :
    ∃ e, decM r = .error e := by
  unfold decM
  rw [op]
  dsimp only
  rw [sub]
  exact ⟨_, rfl⟩

/-! ### BSYNC (20 R295, R296) -/

theorem bsyncReduce_comm (op : BsyncOp) (a b : Word) : bsyncReduce op a b = bsyncReduce op b a := by
  cases op with
  | or => exact BitVec.or_comm a b
  | and => exact BitVec.and_comm a b
  | add => exact BitVec.add_comm a b
  | min | max =>
    apply BitVec.eq_of_toNat_eq
    unfold bsyncReduce
    dsimp only
    split <;> split <;> omega

theorem bsyncReduce_assoc (op : BsyncOp) (a b c : Word) :
    bsyncReduce op (bsyncReduce op a b) c = bsyncReduce op a (bsyncReduce op b c) := by
  cases op with
  | or => exact BitVec.or_assoc a b c
  | and => exact BitVec.and_assoc a b c
  | add => exact BitVec.add_assoc a b c
  | min | max =>
    apply BitVec.eq_of_toNat_eq
    unfold bsyncReduce
    dsimp only
    repeat' split
    all_goals omega

theorem bsyncReduce_min (a b : Word) : (bsyncReduce .min a b).toNat = min a.toNat b.toNat := by
  unfold bsyncReduce
  dsimp only
  split <;> omega

theorem bsyncReduce_max (a b : Word) : (bsyncReduce .max a b).toNat = max a.toNat b.toNat := by
  unfold bsyncReduce
  dsimp only
  split <;> omega

/-- Of two members on one module, the operands are reduced by the op of the one with the lower index (20 R296). -/
theorem Node.gather_two {n : Node} {x y : Member} {a b : Arrival} (free : Word) (mods : n.mods = 1) (two : n.staying = [x, y])
    (hx : x.arrived = some a) (hy : y.arrived = some b) (same : a.k = b.k) :
    (n.gather a.k free).map (·.val) = some (bsyncReduce (if y.idx < x.idx then b.op else a.op) a.val b.val) := by
  unfold Node.gather
  by_cases lower : y.idx < x.idx <;> simp [mods, two, hx, hy, same, lower]

/-- Settles O10. -/
theorem atomicAndBarrierOperations : Obligations.AtomicAndBarrierOperations := by
  unfold Obligations.AtomicAndBarrierOperations
  refine ⟨fun w old y _ _ _ => ?_, fun x cls op sub => ?_, fun op a b c => ⟨bsyncReduce_comm op a b, bsyncReduce_assoc op a b c⟩,
    fun a b => ?_, by decide, fun n x y a b free => Node.gather_two free⟩
  · exact ⟨rfl, rfl, fun i => Nat.testBit_and old y i, fun i => Nat.testBit_or old y i, fun i => Nat.testBit_xor old y i, rfl, rfl,
      sgn_atomValue_smin w old y, sgn_atomValue_smax w old y⟩
  · obtain ⟨e, he⟩ := decM_atom_reserved (r := Raw.unpack x) op (atomOp_reserved (by rw [MTail.sub_unpack]; exact sub))
    exact ⟨e, decodeWord_error ((decodeRaw_classM cls _).trans he)⟩
  · exact ⟨fun i _ => ⟨BitVec.getLsbD_or, BitVec.getLsbD_and⟩, bsyncReduce_min a b, bsyncReduce_max a b, BitVec.toNat_add a b⟩

end Sys2Proof.Machine
end

section
/-! PROOFS. The words of class M that access memory: LD and ST, ATOM and CAS (spec/20 R289, R298; spec/21 R319; spec/22 R357). -/

namespace Sys2Proof.Machine

/-! ### What an access leaves in flight -/

theorem acquireAt_like (s : State) (acq : Option Scope) (t : Target) : Like s (acquireAt s acq t) := by
  unfold acquireAt
  split
  · exact .refl s
  · exact s.modSight_like _

theorem State.takeFences_like (s : State) : Like s s.takeFences := s.modSight_like _

theorem releaseAt_like (s : State) (rel : Option Scope) (t : Target) (n : Nat) : Like s (releaseAt s rel t n) := by
  unfold releaseAt
  dsimp only
  split
  · split
    · exact s.takeFences_like
    · exact (modM_like s _).trans (State.takeFences_like _)
  · exact s.takeFences_like

theorem State.notified_like (s : State) (pa n : Nat) (v : Word) (learn : Option (List Known × Bool)) : Like s (s.notified pa n v learn) := by
  obtain ⟨_, _, eq⟩ := s.notified_eq pa n v learn
  rw [eq]
  exact ⟨rfl, rfl, rfl⟩

theorem State.notifyStore_like (s : State) (sp : Space) (p : Word) (n : Nat) (v : Word) : Like s (s.notifyStore sp p n v) := by
  unfold State.notifyStore
  split
  · refine Like.trans ?_ (State.notified_like ..)
    split
    · split
      · exact .refl s
      · exact modM_like s _
    · exact .refl s
  · exact .refl s

/-- An atomic access leaves what is in flight. -/
theorem memAtomic_like {s t : State} {sp : Space} {p : Word} {n : Nat} {sy : Sync} {f : Bytes → Option Bytes} {old : Bytes}
    (h : memAtomic s sp p n sy f = .ok (old, t)) : Like s t := by
  have pre : Like s (match checkSpace s s.core.cur sp p n { wr := true, align := true, race := false } none none 0 with
      | .ok (tg, s1) => acquireAt s1 sy.acq tg
      | .error _ => s) := by
    split
    · next checked => exact (checkSpace_only checked).like.trans (acquireAt_like ..)
    · exact .refl s
  unfold memAtomic at h
  dsimp only at h
  split at h
  · cases h
  · next checked =>
    have like := pre.trans (checkSpace_only checked).like
    split at h
    · cases h
    · split at h
      · cases h
        exact (like.trans (performWrite_like ..)).trans (releaseAt_like ..)
      · cases h
        exact like.trans (performRead_like ..)

/-! ### A word with a space -/

section
variable {i : Instr} {g : Guard} {sp : Space} {body : Body} {s u : State} (frame : exec i s = runWord i g (barScratch sp) body s)
  (ready : Ready i g s) (compute : sp = .scratch → s.core.hub = false) (runs : body s = .ok (.next u))
include frame ready compute runs

/-- A word of class M passes if what it leaves in flight has room. -/
theorem completes_access (room : s.core.interlocked = true ∨ u.core.inFlight s.core.cur ≤ Config.inFlightMax) : Completes i s u := by
  refine completes_next frame ready (fun hub => ?_) rfl (fun _ => rfl) runs room
  cases sp with
  | global => rfl
  | scratch => exact absurd hub (by rw [compute rfl]; decide)

theorem completes_access_like (like : Like s u) : Completes i s u := completes_access frame ready compute runs (like.plain ready.room)

end

/-- One that lands a scalar result. -/
theorem completes_access_landReg {i : Instr} {g : Guard} {sp : Space} {body : Body} {s t : State} {d : Dst} {v : Word} {lat : Nat}
    {far : Bool} (frame : exec i s = runWord i g (barScratch sp) body s) (ready : Ready i g s) (compute : sp = .scratch → s.core.hub = false)
    (runs : body s = .ok (.next (t.landReg d v lat 0 far))) (like : Like s t) :
    Completes i s (t.landReg d v lat 0 far) :=
  completes_access frame ready compute runs (like.after ready.room _ (resultsOf_dst ..))

/-! ### LD and ST -/

theorem memRead_plain {s s1 : State} {sp : Space} {p : Word} {n : Nat} {t : Target}
    (checked : checkSpace s s.core.cur sp p n { wr := false } s.who none 0 = .ok (t, s1)) (unwatched : watched s sp p n false = false) :
    memRead s sp p n false none 0 = .ok (readTarget s1 t, performRead s1 s1.who none t) := by
  unfold memRead
  dsimp only [Option.map]
  rw [checked]
  dsimp only
  rw [unwatched]
  rfl

theorem memWrite_plain {s s1 : State} {sp : Space} {p : Word} {bs : Bytes} {t : Target}
    (checked : checkSpace s s.core.cur sp p bs.length { wr := true } s.who none 0 = .ok (t, s1))
    (unwatched : watched s sp p bs.length true = false) :
    memWrite s sp p bs false none 0 = .ok (performWrite s1 s1.who s1.unchecked none bs t) := by
  unfold memWrite
  dsimp only [Option.map]
  rw [checked]
  dsimp only
  rw [unwatched]
  rfl

theorem ld_completes {s s1 : State} {l : LoadOp} {p : Word} {t : Target} (ready : Ready (.ld l) l.g s)
    (compute : l.space = .scratch → s.core.hub = false) (addr : mAddr s l.space (s.src l.a) l.off = .ok p)
    (checked : checkSpace s s.core.cur l.space p (sizeBytes l.size) { wr := false } s.who none 0 = .ok (t, s1))
    (unwatched : watched s l.space p (sizeBytes l.size) false = false) :
    Completes (.ld l) s ((performRead s1 s1.who none t).landReg l.d (extend l.sx (readTarget s1 t)) 8 0
      (outsideCore s l.space p (sizeBytes l.size))) := by
  have frame : exec (.ld l) s = execLd l s := rfl
  unfold execLd at frame
  have like := (checkSpace_only checked).like.trans (performRead_like s1 s1.who none t)
  refine completes_access_landReg frame ready compute ?_ like
  rw [addr]
  dsimp only
  rw [memRead_plain checked unwatched]

theorem st_completes {s s1 : State} {w : StoreOp} {p : Word} {t : Target} (ready : Ready (.st w) w.g s)
    (compute : w.space = .scratch → s.core.hub = false) (user : s.core.inHandler = false)
    (addr : mAddr s w.space (s.src w.a) w.off = .ok p)
    (checked : checkSpace s s.core.cur w.space p (sizeBytes w.size) { wr := true } s.who none 0 = .ok (t, s1))
    (unwatched : watched s w.space p (sizeBytes w.size) true = false) :
    Completes (.st w) s
      (((performWrite s1 s1.who s1.unchecked none (leBytes (sizeBytes w.size) (s.src w.b).toNat) t).linear w.space p).notifyStore
        w.space p (sizeBytes w.size) (s.src w.b)) := by
  have frame : exec (.st w) s = execSt w s := rfl
  unfold execSt at frame
  have long := leBytes_length (sizeBytes w.size) (s.src w.b).toNat
  refine completes_access_like frame ready compute ?_ ((((checkSpace_only checked).like.trans (performWrite_like ..)).trans
    (linear_like ..)).trans (State.notifyStore_like ..))
  rw [outwardAccess, outward_user user, storeBody, if_neg Bool.false_ne_true, addr]
  dsimp only
  rw [memWrite_plain (by rw [long]; exact checked) (by rw [long]; exact unwatched)]
  rfl

/-- Settles O7. -/
theorem loadAndStoreComplete : Obligations.LoadAndStoreComplete := by
  unfold Obligations.LoadAndStoreComplete
  intro s s1 l w p t
  exact ⟨ld_completes, st_completes⟩

/-! ### ATOM and CAS -/

theorem lowBits_eq (f : AtomOpF) (v : Word) : lowBits f v = v.toNat % 2 ^ (8 * sizeBytes f.size) := fld_zero ..

/-- What an atomic word does that nothing holds: one access, the notify page, its entry in record mode, and its result. -/
theorem atomicBody_next {s s1 s2 : State} {f : AtomOpF} {g : State → Nat → Option Nat} {p : Word} {old : Bytes} (live : recorded s = .none)
    (addr : mAddr s f.space (s.src f.a) f.off (sizeBytes f.size) = .ok p)
    (access : memAtomic s f.space p (sizeBytes f.size) (syncOf f.order f.scope) (fun o => (g s (leNat o)).map (leBytes (sizeBytes f.size))) =
      .ok (old, s1))
    (record : recordEntry ((g s (leNat old)).elim s1 (fun v => s1.notifyStore f.space p (sizeBytes f.size) (w64 v)))
      (some (w64 (leNat old))) 0 = .ok s2) :
    atomicBody f g s = .ok (.next (s2.syncDone.landReg f.d (w64 (leNat old)) 8 0 (outsideCore s f.space p (sizeBytes f.size)))) ∧
      Like s s2.syncDone := by
  constructor
  · unfold atomicBody
    rw [live]
    dsimp only
    rw [addr]
    dsimp only
    rw [access]
    dsimp only
    cases new : g s (leNat old) with
    | none | some =>
      rw [new] at record
      dsimp only [Option.elim] at record ⊢
      rw [record]
  · refine (memAtomic_like access).trans (Like.trans ?_ ((recordEntry_like record).trans (State.syncDone_like _)))
    cases g s (leNat old) with
    | none => exact .refl s1
    | some v => exact State.notifyStore_like ..

/-- Such a word completes. -/
theorem atomicWord_completes {i : Instr} {f : AtomOpF} {g : State → Nat → Option Nat} {s t : State} {v : Word} {far : Bool}
    (frame : exec i s = runWord i f.g (barScratch f.space) (atomicWord f g) s) (ready : Ready i f.g s)
    (compute : f.space = .scratch → s.core.hub = false) (user : s.core.inHandler = false) (unheld : Unheld s)
    (runs : atomicBody f g s = .ok (.next (t.landReg f.d v 8 0 far)) ∧ Like s t) : Completes i s (marked (t.landReg f.d v 8 0 far)) := by
  refine completes_access frame ready compute ?_ (runs.2.after ready.room _ (resultsOf_dst ..))
  rw [atomicWord, outward_user user]
  exact nonIdempotent_next unheld runs.1

/-- Settles O9. -/
theorem atomicsComplete : Obligations.AtomicsComplete := by
  unfold Obligations.AtomicsComplete
  intro s s1 s2 op c f p old n sy far compute user unheld live addr
  refine ⟨?_, ?_⟩
  · intro ready new access record
    have frame : exec (.atom op f) s = execAtom op f s := rfl
    unfold execAtom at frame
    simp only [lowBits_eq] at frame
    exact atomicWord_completes frame ready compute user unheld (atomicBody_next live addr access record)
  · intro ready new access record
    have frame : exec (.cas c f) s = execCas c f s := rfl
    unfold execCas at frame
    simp only [lowBits_eq] at frame
    refine atomicWord_completes frame ready compute user unheld (atomicBody_next (s1 := s1) live addr ?_ ?_)
    · rw [← access]
      congr 1
      funext o
      split <;> rfl
    · rw [← record]
      congr 1
      split <;> rfl

end Sys2Proof.Machine
end

section
/-! PROOFS. O8: a load that replay makes again stands among the reads of its task (spec/10 R181, R198). -/

namespace Sys2Proof.Machine

/-- A synchronising read of the word at logical PC 0 that the rebuild has set back. -/
def lostRead : ReadSeen := { ctx := none, ord := 0, sec := 0, lpc := 0, snaps := [], live := false }

/-- Replay comes to that word again: a task in merged running, whose page 1 stands in frame 2. -/
def replayedLoad : State := State.reset.modCore (fun k =>
  { k with
    task := some { placedTask with sight := { placedTask.sight with readSnaps := [lostRead] } }, merged := true, cur := .C, slot := .c1,
    mode := .u, tlb := [placedPage 0 1 2], phase := .replay (State.reset.pendOf .fault fltIllegal), ran := [(0, 0)],
    c := { k.c with x := k.c.x.set 6 0x1000 } })

/-- LDA of the 8 bytes at x6. -/
def acquiringLoad : LoadOp := { g := ⟨false, 0, 0⟩, d := ⟨5, false, 0⟩, a := .reg 6, size := .b64, space := .global, off := 0, sx := false }

/-- Which reads of its task are live. -/
def State.liveReads (s : State) : List Bool := ((s.core.task.map (·.sight.readSnaps)).getD []).map (·.live)

def liveReadsAfter (i : Instr) (s : State) : Option (List Bool) :=
  match exec i s with
  | .next t => some t.liveReads
  | _ => none

/-- The read of that LDA. -/
def loadRead (s : State) : Except Stop (Bytes × State) := memRead s .global 0x1000 8 true (some ⟨some .gang, none⟩) 0

/-- The effect that O8 states of it, with the bytes read and the state that the read leaves. -/
def statedLoad (s : State) (r : Bytes × State) : State :=
  (noted s [extend false r.1] r.2).syncDone.landReg acquiringLoad.d (extend false r.1) 8 0
    (s.journalHit.isNone && outsideCore s .global 0x1000 8)

theorem liveReadsAfter_of_next {i : Instr} {s t : State} (h : exec i s = .next t) : liveReadsAfter i s = some t.liveReads := by
  rw [liveReadsAfter, h]

/-- The word revives the read that it made before. -/
theorem replayedLoad_revives : liveReadsAfter (.lda .gang acquiringLoad) replayedLoad = some [true] := by decide +kernel

/-- The stated effect leaves it lost. -/
theorem replayedLoad_stated :
    (loadRead replayedLoad).toOption.map (fun r => (passed replayedLoad (statedLoad replayedLoad r)).liveReads) = some [false] := by
  decide +kernel

/-- Refutes O8: the statement has an LDA that replay runs again leave the synchronising reads of its task as they are. But replay makes
live again what the rebuild set back (R181, R198; R320): here the read of the word at logical PC 0 is live after the LDA there, and in the
statement it is not. -/
theorem not_acquireAndReleaseComplete : ¬ Obligations.AcquireAndReleaseComplete := by
  unfold Obligations.AcquireAndReleaseComplete
  intro h
  obtain ⟨⟨bs, s1⟩, read, lost⟩ := Option.map_eq_some_iff.mp replayedLoad_stated
  have reads : loadRead replayedLoad = .ok (bs, s1) := by
    revert read
    cases loadRead replayedLoad with
    | error _ => exact nofun
    | ok r => exact fun eq => congrArg Except.ok (Option.some.inj eq)
  obtain ⟨completes, -⟩ := h replayedLoad s1 .gang acquiringLoad ⟨⟨false, 0, 0⟩, .reg 0, .reg 0, .b64, .global, 0⟩ 0x1000 bs
  have stated := completes ⟨rfl, by decide, by decide +kernel, .inl rfl⟩ nofun (.inr ⟨rfl, .inl (by decide)⟩) (by decide +kernel) reads
  have live := (liveReadsAfter_of_next stated).symm.trans replayedLoad_revives
  have both : [false] = [true] := lost.symm.trans (Option.some.inj live)
  exact absurd both (by decide)

end Sys2Proof.Machine
end

section
/-! PROOFS. CFLUSH, TAGSET and TAGGET (spec/20 R299; spec/22 R363, R364). -/

namespace Sys2Proof.Machine

/-! ### Tags of granules -/

theorem find?_upsert_other {α : Type} (key : α → Nat) (x : α) {g : Nat} (other : key x ≠ g) (l : List α) :
    (upsert key x l).find? (fun p => key p == g) = l.find? (fun p => key p == g) := by
  have skip (r : List α) : (x :: r).find? (fun p => key p == g) = r.find? (fun p => key p == g) :=
    List.find?_cons_of_neg (by simpa using other)
  induction l with
  | nil => exact skip []
  | cons y r ih =>
    unfold upsert
    split
    · exact skip (y :: r)
    · split
      · next same => rw [skip, List.find?_cons_of_neg (by simpa [← same] using other)]
      · rw [List.find?_cons, List.find?_cons, ih]

/-- The tags of a store in which granules have been given one. -/
def putTags (tag : BitVec 4) (gs : List Nat) (l : List (Nat × BitVec 4)) : List (Nat × BitVec 4) :=
  gs.foldl (fun l g => upsert (·.1) (g, tag) l) l

theorem find?_putTags_other {tag : BitVec 4} {g : Nat} {gs : List Nat} (out : g ∉ gs) (l : List (Nat × BitVec 4)) :
    (putTags tag gs l).find? (fun p => p.1 == g) = l.find? (fun p => p.1 == g) := by
  induction gs generalizing l with
  | nil => rfl
  | cons x r ih =>
    rw [List.mem_cons, not_or] at out
    exact (ih out.2 _).trans (find?_upsert_other (·.1) (x, tag) (Ne.symm out.1) l)

theorem find?_putTags_mem {tag : BitVec 4} {g : Nat} {gs : List Nat} (among : g ∈ gs) (l : List (Nat × BitVec 4)) :
    (putTags tag gs l).find? (fun p => p.1 == g) = some (g, tag) := by
  induction gs generalizing l with
  | nil => exact absurd among List.not_mem_nil
  | cons x r ih =>
    by_cases later : g ∈ r
    · exact ih later _
    · obtain rfl := (List.mem_cons.mp among).resolve_right later
      exact (find?_putTags_other later _).trans (find?_upsert (·.1) (g, tag) l)

/-- The granules of n bytes at pa. -/
theorem mem_granules {g pa n : Nat} : g ∈ (granules pa n).map (·.1) ↔ pa / 32 ≤ g ∧ 32 * g < pa + n := by
  unfold granules
  simp only [List.map_map, List.mem_map, List.mem_range, Function.comp]
  constructor
  · rintro ⟨i, short, rfl⟩
    omega
  · rintro ⟨low, high⟩
    exact ⟨g - pa / 32, by omega, by omega⟩

/-- Tags of granules given. -/
def Module.putTags (m : Module) (tag : BitVec 4) (gs : List Nat) : Module := { m with gtags := Machine.putTags tag gs m.gtags }

theorem gtag_putTags_mem {m : Module} {tag : BitVec 4} {g : Nat} {gs : List Nat} (among : g ∈ gs) : gtag (m.putTags tag gs) g = tag := by
  unfold gtag Module.putTags
  dsimp only
  rw [find?_putTags_mem among]
  rfl

theorem gtag_putTags_other {m : Module} {tag : BitVec 4} {g : Nat} {gs : List Nat} (out : g ∉ gs) : gtag (m.putTags tag gs) g = gtag m g := by
  unfold gtag Module.putTags
  dsimp only
  rw [find?_putTags_other out]

/-! ### What is left in flight -/

theorem State.flushGlobal_like (s : State) (inv : Bool) (line : Nat) : Like s (s.flushGlobal inv line) :=
  rows_like s _ _

/-- What a word does at the end of its cycle is no result in flight. -/
theorem State.landLater_room {s : State} (room : Room s) (ps : List Put) :
    s.core.interlocked = true ∨ (s.landLater ps).core.inFlight s.core.cur ≤ Config.inFlightMax := by
  refine room.imp_right fun short => ?_
  have same : (s.landLater ps).core.inFlight s.core.cur = s.core.inFlight s.core.cur := by
    unfold State.landLater State.land Core.inFlight
    simp [List.filter_append]
  omega

/-! ### The words -/

section
variable {s s1 : State} {off : BitVec 12} {inv : Bool} {p : Word} {q : Piece} {ps : List Piece} {a : Alloc}

theorem cflush_global_completes {f : OpA} (ready : Ready (.cflush f .global off inv) f.g s) (addr : mAddr s .global (s.src f.a) off = .ok p)
    (checked : checkGlobal s s.root p 1 { wr := false, poison := false, tag := false, race := false } none none 0 = .ok (q :: ps, s1)) :
    Completes (.cflush f .global off inv) s (s1.flushGlobal inv (q.pa / 128)) := by
  have frame : exec (.cflush f .global off inv) s = execCflush f .global off inv s := rfl
  unfold execCflush at frame
  refine completes_access_like frame ready nofun ?_ ((checkGlobal_only checked).1.like.trans (State.flushGlobal_like ..))
  rw [addr]
  dsimp only
  rw [checked]
  rfl

theorem cflush_scratch_completes {f : OpA} (ready : Ready (.cflush f .scratch off inv) f.g s) (compute : s.core.hub = false)
    (addr : mAddr s .scratch (s.src f.a) off = .ok p) (checked : checkScratch12 s.core p 1 0 false = .ok a) :
    Completes (.cflush f .scratch off inv) s
      (if a.backed then s.modCore (fun k => modAlloc k a.id (flushLines k false inv (fun l => l.num == ptrOff p / 128))) else s) := by
  have frame : exec (.cflush f .scratch off inv) s = execCflush f .scratch off inv s := rfl
  unfold execCflush at frame
  refine completes_access_like frame ready (fun _ => compute) ?_ ?_
  · rw [addr]
    dsimp only
    rw [checked]
  · split
    · exact rows_like s _ _
    · exact .refl s

theorem tagset_global_completes {h : OpAB} {n : BitVec 12} (ready : Ready (.tagset h .global off n) h.g s) (user : s.core.inHandler = false)
    (addr : mAddr s .global (s.src h.a) off = .ok p) (aligned : p.toNat % 32 = 0)
    (checked : checkGlobal s s.root p (32 * (n.toNat + 1)) { wr := true, poison := false, tag := false, race := false } none none 0 =
      .ok ([q], s1)) (tagged : q.entry.tg = true) :
    Completes (.tagset h .global off n) s
      (s1.modM (fun m => m.putTags ((s.src h.b).extractLsb' 0 4) ((granules q.pa q.n).map (·.1)))) := by
  have frame : exec (.tagset h .global off n) s = execTagset h .global off n s := rfl
  unfold execTagset at frame
  refine completes_access_like frame ready nofun ?_ ((checkGlobal_only checked).1.like.trans (modM_like ..))
  rw [outwardAccess, outward_user user, addr]
  dsimp only
  have straight : ¬fld p.toNat 0 5 ≠ 0 := by
    rw [fld_zero]
    exact not_not.mpr aligned
  rw [if_neg straight, checked]
  dsimp only
  rw [List.filter_singleton, tagged, cond_true, List.flatMap_singleton]
  rfl

theorem tagset_scratch_completes {h : OpAB} {n : BitVec 12} (ready : Ready (.tagset h .scratch off n) h.g s) (compute : s.core.hub = false)
    (user : s.core.inHandler = false) (addr : mAddr s .scratch (s.src h.a) off = .ok p) (checked : checkScratch12 s.core p 1 0 false = .ok a) :
    Completes (.tagset h .scratch off n) s
      ((s.modCore (fun k => modAlloc k a.id (Alloc.note s.here.ord))).landLater [.tag a.id ((s.src h.b).extractLsb' 0 4)]) := by
  have frame : exec (.tagset h .scratch off n) s = execTagset h .scratch off n s := rfl
  unfold execTagset at frame
  have noted := modAlloc_like s a.id (Alloc.note s.here.ord)
  refine completes_access frame ready (fun _ => compute) ?_ ?_
  · rw [outwardAccess, outward_user user, addr]
    dsimp only
    rw [checked]
  · exact State.landLater_room (s := s.modCore (fun k => modAlloc k a.id (Alloc.note s.here.ord))) (noted.room ready.room) _

theorem tagget_global_completes {d : OpDA} (ready : Ready (.tagget d .global off) d.g s) (addr : mAddr s .global (s.src d.a) off = .ok p)
    (checked : checkGlobal s s.root p 1 { wr := false, poison := false, tag := false, race := false } none none 0 = .ok (q :: ps, s1)) :
    Completes (.tagget d .global off) s
      (s1.landReg d.d (if q.entry.tg then w64 (16 + (gtag s1.m (q.pa / 32)).toNat) else 0) 4 0 true) := by
  have frame : exec (.tagget d .global off) s = execTagget d .global off s := rfl
  unfold execTagget at frame
  refine completes_access_landReg frame ready nofun ?_ (checkGlobal_only checked).1.like
  rw [addr]
  dsimp only
  rw [checked]
  rfl

theorem tagget_scratch_completes {d : OpDA} (ready : Ready (.tagget d .scratch off) d.g s) (compute : s.core.hub = false)
    (addr : mAddr s .scratch (s.src d.a) off = .ok p) (checked : checkScratch12 s.core p 1 0 false = .ok a) :
    Completes (.tagget d .scratch off) s (s.landReg d.d (w64 (16 + a.tag.toNat)) 4) := by
  have frame : exec (.tagget d .scratch off) s = execTagget d .scratch off s := rfl
  unfold execTagget at frame
  refine completes_access_landReg frame ready (fun _ => compute) ?_ (.refl s)
  rw [addr]
  dsimp only
  rw [checked]

end

/-- Settles O12, word by word and space by space. -/
theorem tagAndFlushWordsComplete : Obligations.TagAndFlushWordsComplete := by
  unfold Obligations.TagAndFlushWordsComplete
  intro s s1 f h d sp off n inv p q ps a chk tag compute user
  refine ⟨cflush_global_completes, fun ready => cflush_scratch_completes ready compute, ?_, ?_, tagget_global_completes,
    fun ready => tagget_scratch_completes ready compute⟩
  · intro ready addr aligned checked tagged
    refine ⟨_, tagset_global_completes ready user addr aligned checked tagged, fun g low high => ?_, fun g out => ?_⟩
    · exact gtag_putTags_mem (mem_granules.mpr ⟨low, high⟩)
    · refine gtag_putTags_other fun among => ?_
      have := mem_granules.mp among
      omega
  · intro ready addr checked
    exact ⟨_, tagset_scratch_completes ready compute user addr checked, rfl, rfl⟩

end Sys2Proof.Machine
end

section
/-! PROOFS. Class V words and TTRN (spec/23 R371 to R403; spec/22 R369). -/

namespace Sys2Proof.Machine

/-! ### Operand checks -/

theorem badRow_none {words : List Nat} {o n : Nat} (sound : ∀ w ∈ words, 8 * w + 8 ≤ o ∨ o + n ≤ 8 * w) : badRow words o n = none := by
  unfold badRow
  rw [Option.map_eq_none_iff, List.find?_eq_none]
  intro w range bad
  obtain ⟨i, short, rfl⟩ := List.mem_map.mp range
  rw [List.mem_range] at short
  have := sound _ (List.contains_iff_mem.mp bad)
  omega

section
variable {s : State}

theorem checkReads_sound {n : Nat} {es : List VEl} (sound : Sound s n es) : checkReads s n es = .ok () := by
  unfold checkReads
  have none : es.findSome? (fun e => (badRow s.core.badRegs (s.elBase e) n).map (fun o => (s.elBase e, o))) = none :=
    List.findSome?_eq_none_iff.mpr fun e he => by rw [badRow_none (sound e he)]; rfl
  rw [none]

theorem checkEls_inView {es : List VEl} (inView : InView s es) : checkEls s es = .ok () := by
  unfold checkEls
  have kind : es.any (fun e => s.elKind e != 1) = false :=
    List.any_eq_false.mpr fun e he => by simp [(inView e he).1]
  have reach : es.find? (fun e => decide (Config.regSpace < s.elBase e + 256)) = none :=
    List.find?_eq_none.mpr fun e he => by simpa using (inView e he).2
  rw [kind, reach]
  rfl

theorem checkVec_ok {dst srcs : List VEl} (inView : InView s (dst ++ srcs)) (sound : Sound s 256 srcs) : checkVec s dst srcs = .ok () := by
  unfold checkVec
  rw [checkEls_inView inView]
  exact checkReads_sound sound

end

/-! ### A word of a compute core -/

/-- A vector result is one result. -/
theorem resultsOf_bytes (wbs : Bool) (o : Nat) (bs ms : Bytes) : resultsOf (if wbs then [] else [.bytes o bs ms]) = 1 := by
  cases wbs <;> rfl

section
variable {i : Instr} {g : Guard} {body : Body} {s t : State} (frame : exec i s = runWord i g { hub := true } body s) (ready : Ready i g s)
  (compute : s.core.hub = false)
include frame ready compute

/-- A word that is barred on a hub core alone passes if what it leaves in flight has room. -/
theorem completes_compute (runs : body s = .ok (.next t))
    (room : s.core.interlocked = true ∨ t.core.inFlight s.core.cur ≤ Config.inFlightMax) : Completes i s t :=
  completes_next frame ready (fun hub => absurd hub (by rw [compute]; decide)) rfl (fun _ => rfl) runs room

theorem completes_landBytes {d : VDst} {bs ms : Bytes} {lat : Nat} {fl : Flags} {far : Bool} (like : Like s t)
    (runs : body s = .ok (.next (t.landBytes d bs ms lat fl far))) : Completes i s (t.landBytes d bs ms lat fl far) :=
  completes_compute frame ready compute runs (like.after ready.room _ (resultsOf_bytes ..))

end

/-- The shape of the element-wise words completes. -/
theorem vecWord_completes {i : Instr} {g : Guard} {d : VDst} {srcs : List VSrc} {mask : BitVec 5} {f : Fmt} {lat : Nat} {s : State}
    (fn : State → List Bytes → Nat → Nat × Flags) (he : exec i s = vecWord i g d srcs mask f lat fn s) (ready : Ready i g s)
    (compute : s.core.hub = false) (inView : InView s (d.el :: srcs.flatMap vsrcEls)) (sound : Sound s 256 (srcs.flatMap vsrcEls)) :
    Completes i s (s.landLanes d f (overLanes s mask f (fn s (srcs.map s.vsrc))) lat) := by
  unfold vecWord at he
  refine completes_landBytes he ready compute (.refl s) ?_
  have checked : checkVec s [d.el] (srcs.flatMap vsrcEls) = .ok () := checkVec_ok inView sound
  rw [checked]
  rfl

section
variable {i : Instr} {lat : Nat} {s : State}

theorem vec1_completes {o : VOp1} (fn : RCtx → Nat → Nat → Nat × Flags) (he : exec i s = vec1 i o lat fn s) (compute : s.core.hub = false)
    (ready : Ready i o.g s) (reads : InView s (o.d.el :: vsrcEls o.a) ∧ Sound s 256 (vsrcEls o.a)) :
    Completes i s (lanes1 s o lat (fn (s.rctx o.rnd))) := by
  have els : [o.a].flatMap vsrcEls = vsrcEls o.a := List.flatMap_singleton ..
  have completes := vecWord_completes _ he ready compute (by rw [els]; exact reads.1) (by rw [els]; exact reads.2)
  exact completes

theorem vsrcEls_two (a b : VSrc) : [a, b].flatMap vsrcEls = vsrcEls a ++ vsrcEls b := by
  rw [List.flatMap_cons, List.flatMap_singleton]

theorem vec2_completes {o : VOp2} (fn : RCtx → Nat → Nat → Nat → Nat × Flags) (he : exec i s = vec2 i o lat fn s)
    (compute : s.core.hub = false) (ready : Ready i o.g s)
    (reads : InView s (o.d.el :: vsrcEls o.a ++ vsrcEls o.b) ∧ Sound s 256 (vsrcEls o.a ++ vsrcEls o.b)) :
    Completes i s (lanes2 s o lat (fn (s.rctx o.rnd))) := by
  have completes := vecWord_completes _ he ready compute (by rw [vsrcEls_two]; exact reads.1) (by rw [vsrcEls_two]; exact reads.2)
  exact completes

theorem vec3_completes {o : VOp3} (fn : RCtx → Nat → Nat → Nat → Nat → Nat × Flags) (he : exec i s = vec3 i o lat fn s)
    (compute : s.core.hub = false) (ready : Ready i o.g s)
    (reads : InView s (o.d.el :: vsrcEls o.a ++ vsrcEls o.b ++ vsrcEls o.c) ∧ Sound s 256 (vsrcEls o.a ++ vsrcEls o.b ++ vsrcEls o.c)) :
    Completes i s (lanes3 s o lat (fn (s.rctx o.rnd))) := by
  have els : [o.a, o.b, o.c].flatMap vsrcEls = vsrcEls o.a ++ vsrcEls o.b ++ vsrcEls o.c := by
    rw [List.flatMap_cons, vsrcEls_two, List.append_assoc]
  have completes := vecWord_completes _ he ready compute (by rw [els]; exact reads.1) (by rw [els]; exact reads.2)
  exact completes

end

/-- VPERM reads every lane of its first source before any is written (23 R392). -/
theorem vperm_completes {s : State} {h : VOp2} (compute : s.core.hub = false) (ready : Ready (.vperm h) h.g s)
    (reads : InView s (h.d.el :: vsrcEls h.a ++ vsrcEls h.b) ∧ Sound s 256 (vsrcEls h.a ++ vsrcEls h.b)) :
    Completes (.vperm h) s (lanes2 s h 3 (fun _ _ b => (lane h.fmt (s.vsrc h.a) (b % lanes h.fmt), 0))) := by
  have frame : exec (.vperm h) s = execVperm h s := rfl
  unfold execVperm at frame
  have completes := vecWord_completes _ frame ready compute (by rw [vsrcEls_two]; exact reads.1) (by rw [vsrcEls_two]; exact reads.2)
  exact completes

/-- Settles O14, word by word. -/
theorem vectorWordsComplete : Obligations.VectorWordsComplete := by
  unfold Obligations.VectorWordsComplete
  intro s f h w ar c w1 w2 w3 n2 compute
  exact ⟨vec1_completes (fun _ _ a => (absLane f.fmt a, 0)) rfl compute, vec1_completes (fun _ _ a => (negLane f.fmt a, 0)) rfl compute,
    vec1_completes (fun _ _ a => (a, 0)) rfl compute,
    vec2_completes (fun _ _ a b => (a &&& b, 0)) rfl compute, vec2_completes (fun _ _ a b => (a ||| b, 0)) rfl compute,
    vec2_completes (fun _ _ a b => (a ^^^ b, 0)) rfl compute, vec2_completes (fun _ _ a b => (shlLane h.fmt a b, 0)) rfl compute,
    vec2_completes (fun _ _ a b => (shrLane h.fmt ar a b, 0)) rfl compute, vperm_completes compute,
    vec3_completes (fun _ _ a b c => (if c % 2 = 1 then a else b, 0)) rfl compute,
    vec2_completes (fun _ _ a b => (pickLane h.fmt true ar a b, 0)) rfl compute,
    vec2_completes (fun _ _ a b => (pickLane h.fmt false ar a b, 0)) rfl compute,
    vec2_completes (fun _ _ a b => cmpLane h.fmt c a b) rfl compute⟩

/-- Settles O15, word by word. -/
theorem roundingVectorWordsComplete : Obligations.RoundingVectorWordsComplete := by
  unfold Obligations.RoundingVectorWordsComplete
  intro s f h w w1 w2 w3 rc rc2 rc3 n compute
  exact ⟨vec1_completes (fun rc j a => roundWith f.fmt rc j (exp2Ex (value f.fmt a))) rfl compute,
    vec1_completes (fun rc j a => roundWith f.fmt rc j (log2Ex (value f.fmt a))) rfl compute,
    vec1_completes (fun rc j a => roundWith f.fmt rc j (rcpEx (value f.fmt a))) rfl compute,
    vec1_completes (fun rc j a => roundWith f.fmt rc j (rsqEx (value f.fmt a))) rfl compute,
    vec3_completes (fun rc j a b c => roundWith w.fmt rc j (fmaEx rc.mode (value w.fmt a) (value w.fmt b) (value w.fmt c))) rfl compute,
    vec2_completes (fun rc j a b => roundWith h.fmt rc j (scaleEx (value h.fmt a) (sgn b h.fmt.bits))) rfl compute,
    vec2_completes (fun rc j a b => sumLane h.fmt rc j false a b) rfl compute,
    vec2_completes (fun rc j a b => sumLane h.fmt rc j true a b) rfl compute,
    vec2_completes (fun rc j a b => mulLane h.fmt rc j a b) rfl compute⟩

end Sys2Proof.Machine
end

section
/-! PROOFS. VBCAST, VCVT, VRED, VIEW, TTRN and the vector words of class M (spec/22 R369; spec/23 R377 to R401). -/

namespace Sys2Proof.Machine

/-! ### O16 -/

section
variable {s : State} (compute : s.core.hub = false)
include compute

theorem vbcast_completes {g : Guard} {d : VDst} {a : Src} {mask : BitVec 5} {fmt : Fmt} (ready : Ready (.vbcast g d a mask fmt) g s)
    (inView : InView s [d.el]) : Completes (.vbcast g d a mask fmt) s
      (s.landLanes d fmt (overLanes s mask fmt (fun _ => ((s.src a).toNat % 2 ^ fmt.bits, 0))) 2) := by
  have frame : exec (.vbcast g d a mask fmt) s = execVbcast g d a mask fmt s := rfl
  unfold execVbcast at frame
  have completes := vecWord_completes _ frame ready compute inView fun _ none => absurd none List.not_mem_nil
  exact completes

section
variable {part : BitVec 3} {fmt2 : Fmt} {f : VOp1} (ready : Ready (.vcvt part fmt2 f) f.g s) (inView : InView s (f.d.el :: vsrcEls f.a))
  (sound : Sound s 256 (vsrcEls f.a))
include ready inView sound

/-- Widening, and between formats of one width (23 R379). -/
theorem vcvt_wide_completes (wide : f.fmt.bits ≤ fmt2.bits) :
    Completes (.vcvt part fmt2 f) s (s.landLanes f.d fmt2 (overLanes s f.mask fmt2 (fun j =>
      let i := if fmt2.bits = f.fmt.bits then j else part.toNat * lanes fmt2 + j
      if i < 2048 / min f.fmt.bits fmt2.bits
      then convert f.fmt fmt2 (s.rctx f.rnd) j (leNat (s.vsrc f.a) / 2 ^ (f.fmt.bits * i) % 2 ^ f.fmt.bits)
      else (0, 0))) 4) := by
  have frame : exec (.vcvt part fmt2 f) s = execVcvt part fmt2 f s := rfl
  unfold execVcvt at frame
  refine completes_landBytes frame ready compute (.refl s) ?_
  rw [checkVec_ok inView sound]
  dsimp only
  rw [if_neg (Nat.not_lt.mpr wide)]
  rfl

/-- Narrowing (23 R379). -/
theorem vcvt_narrow_completes (narrow : fmt2.bits < f.fmt.bits) :
    let es := narrowElems s part.toNat f.fmt fmt2 f.mask (s.rctx f.rnd) (s.vsrc f.a)
    Completes (.vcvt part fmt2 f) s (s.landBytes f.d
      (leBytes 256 ((es.map (fun e => e.2.1 * 2 ^ (fmt2.bits * e.1))).foldl (· + ·) 0))
      (leBytes 256 ((es.map (fun e => (2 ^ fmt2.bits - 1) * 2 ^ (fmt2.bits * e.1))).foldl (· + ·) 0)) 4
      ((es.map (fun e => e.2.2)).foldl (· ||| ·) 0)) := by
  intro es
  have frame : exec (.vcvt part fmt2 f) s = execVcvt part fmt2 f s := rfl
  unfold execVcvt at frame
  refine completes_landBytes frame ready compute (.refl s) ?_
  rw [checkVec_ok inView sound]
  dsimp only
  rw [if_pos narrow]
  rfl

end

theorem vred_completes {op : VredOp} {sg : Bool} {g : Guard} {x : Dst} {va : VSrc} {mask : BitVec 5} {fmt : Fmt} {rnd : Rnd}
    (ready : Ready (.vred op sg g x va mask fmt rnd) g s) (inView : InView s (vsrcEls va)) (sound : Sound s 256 (vsrcEls va)) :
    let r := reduceLanes op sg fmt (s.rctx rnd) (((List.range (lanes fmt)).filter (enabled s mask fmt)).map (lane fmt (s.vsrc va)))
    Completes (.vred op sg g x va mask fmt rnd) s (s.landReg x (scalarOf fmt r.1) 6 r.2) := by
  intro r
  have frame : exec (.vred op sg g x va mask fmt rnd) s = execVred op sg g x va mask fmt rnd s := rfl
  unfold execVred at frame
  refine completes_compute frame ready compute ?_ (State.land_room ready.room _ (resultsOf_dst ..))
  rw [checkVec_ok (dst := []) (srcs := vsrcEls va) inView sound]
  rfl

theorem view_completes {g : Guard} {v : BitVec 3} {a : Src} {k : ViewKind} {fmt : Fmt} (ready : Ready (.view g v a k fmt) g s)
    (below : (s.src a).toNat < 2 ^ 19) (aligned : (s.src a).toNat % 256 = 0) :
    Completes (.view g v a k fmt) s (s.land { puts := [.view s.core.cur v
      (w64 (fmt.code.toNat * 2 ^ 22 + viewKindCode k * 2 ^ 20 + (s.src a).toNat))], lat := 1 }) := by
  have frame : exec (.view g v a k fmt) s = execView g v a k fmt s := rfl
  unfold execView at frame
  refine completes_compute frame ready compute ?_ (State.land_room ready.room _ rfl)
  have fits : ¬((s.src a).toNat / 2 ^ 19 ≠ 0 ∨ (s.src a).toNat % 256 ≠ 0) := by omega
  exact if_neg fits

theorem ttrn_completes {g : Guard} {e : VEl} {wbs : Bool} {e2 : VEl} {fmt : Fmt} (ready : Ready (.ttrn g e wbs e2 fmt) g s)
    (tiles : ∀ z ∈ [e, e2], (s.elKind z = 2 ∨ s.elKind z = 3) ∧ s.elBase z + 2048 * fmt.bits ≤ Config.regSpace)
    (sound : Sound s (2048 * fmt.bits) [e2]) :
    Completes (.ttrn g e wbs e2 fmt) s (s.land { puts := if wbs then [] else
      [.bytes (s.elBase e) (transpose (fmt.bits / 8) (s.core.rsRun (s.elBase e2) (2048 * fmt.bits)))
        (List.replicate (2048 * fmt.bits) 0xFF)], lat := 16 }) := by
  have frame : exec (.ttrn g e wbs e2 fmt) s = execTtrn g e wbs e2 fmt s := rfl
  unfold execTtrn at frame
  have kinds : [e, e2].any (fun z => s.elKind z != 2 && s.elKind z != 3) = false :=
    List.any_eq_false.mpr fun z hz => by
      obtain ⟨kind | kind, -⟩ := tiles z hz <;> simp [kind]
  have reach : [e, e2].find? (fun z => decide (Config.regSpace < s.elBase z + 2048 * fmt.bits)) = none :=
    List.find?_eq_none.mpr fun z hz => by simpa using (tiles z hz).2
  have checked : tileChecks s e e2 (2048 * fmt.bits) = .ok () := by
    unfold tileChecks tileReach
    rw [kinds, reach]
    exact checkReads_sound sound
  refine completes_compute frame ready compute ?_ (State.land_room ready.room _ (resultsOf_bytes ..))
  dsimp only
  rw [checked]

end

/-- Settles O16, word by word. -/
theorem otherVectorWordsComplete : Obligations.OtherVectorWordsComplete := by
  unfold Obligations.OtherVectorWordsComplete
  intro s g d a mask fmt fmt2 f part op sg x va rnd v k e e2 wbs compute
  exact ⟨vbcast_completes compute, vcvt_wide_completes compute, vcvt_narrow_completes compute, vred_completes compute,
    view_completes compute, ttrn_completes compute⟩

/-! ### Scratch accesses of lanes (23 R382, R384, R397, R401) -/

theorem gather_like {n : Nat} : ∀ {ps : List (Nat × Except Stop Word)} {s t : State} {l : List (Nat × Bytes)},
    gather s n ps = .ok (l, t) → Like s t := by
  intro ps
  induction ps with
  | nil => intro s t l h; cases h; exact .refl s
  | cons x r ih =>
    intro s t l h
    obtain ⟨j, p⟩ := x
    simp only [gather] at h
    split at h
    · cases h
    · split at h
      · cases h
      · next read =>
        split at h
        · cases h
        · next rest =>
          cases h
          exact (memRead_onlyRead read).calm.like.trans (ih rest)

theorem scatterCheck_like {n : Nat} : ∀ {ps : List (Nat × Except Stop Word × Bytes)} {s t : State} {l : List (Target × Bytes)},
    scatterCheck s n ps = .ok (l, t) → Like s t := by
  intro ps
  induction ps with
  | nil => intro s t l h; cases h; exact .refl s
  | cons x r ih =>
    intro s t l h
    obtain ⟨j, p, bs⟩ := x
    simp only [scatterCheck] at h
    split at h
    · cases h
    · split at h
      · cases h
      · next checked =>
        split at h
        · cases h
        · split at h
          · cases h
          · next rest =>
            cases h
            exact (checkScratch_only checked).like.trans (ih rest)

theorem writeLanes_like (l : List (Target × Bytes)) (s : State) : Like s (writeLanes s l) := by
  unfold writeLanes
  induction l generalizing s with
  | nil => exact .refl s
  | cons x r ih => exact (performWrite_like s ..).trans (ih _)

/-- Changes of the marks of double-bit errors alone are together one such change. -/
theorem foldl_marks_only {α : Type} {f : Core → α → Core} (marks : ∀ k x, ∃ b, f k x = { k with badScratch := b }) (l : List α) (k : Core) :
    ∃ b, l.foldl f k = { k with badScratch := b } := by
  induction l generalizing k with
  | nil => exact ⟨k.badScratch, rfl⟩
  | cons x r ih =>
    obtain ⟨b, first⟩ := marks k x
    obtain ⟨b', rest⟩ := ih (f k x)
    exact ⟨b', by rw [List.foldl_cons, rest, first]⟩

/-- The marks of double-bit errors of a core once a run of bytes has been written to an allocation. -/
def healRun (id : BitVec 8) (k : Core) (r : Nat × Bytes) : Core :=
  (cutAt 256 r.1 r.2.length).foldl (fun k x => k.healScratch id x.1 x.2) k

theorem healRun_only (id : BitVec 8) (k : Core) (r : Nat × Bytes) : ∃ b, healRun id k r = { k with badScratch := b } :=
  foldl_marks_only (α := Nat × Nat) (fun k x => healScratch_only k id x.1 x.2) _ k

theorem scatterWrite_stash (s : State) (id : BitVec 8) (off n : Nat) (ps : List Piece) (bs : Bytes) (r : List (Target × Bytes)) :
    scatterWrite s ((.stash id off n ps, bs) :: r) = (writeLanes s ((.stash id off n ps, bs) :: r)).modCore (fun k =>
      modAlloc ((laneRuns ((.stash id off n ps, bs) :: r)).foldl (healRun id) k) id (Alloc.unlayout s.here.ord)) := rfl

theorem scatterWrite_room {s : State} (room : Room s) (l : List (Target × Bytes)) :
    s.core.interlocked = true ∨ (scatterWrite s l).core.inFlight s.core.cur ≤ Config.inFlightMax := by
  match l with
  | (.priv id off n, bs) :: r =>
    have noted := modAlloc_like s id (fun a => if a.layout = 0 then a else a.note s.here.ord)
    exact State.landLater_room (s := s.modCore (fun k => modAlloc k id (fun a => if a.layout = 0 then a else a.note s.here.ord)))
      (noted.room room) _
  | (.stash id off n ps, bs) :: r =>
    rw [scatterWrite_stash]
    exact ((writeLanes_like _ s).trans (marked_like _ _ (fun k => foldl_marks_only (healRun_only id) _ k) id _)).plain room
  | (.glob ps, bs) :: r => exact (Like.refl s).plain room
  | [] => exact (Like.refl s).plain room

/-! ### O17 -/

section
variable {s s1 : State} {g : Guard} {d : VDst} {a : Src} {b c : VSrc} {off : BitVec 6} {mask : BitVec 5} {fmt : Fmt}
  {l : List (Nat × Bytes)} {w : List (Target × Bytes)} {p : Word} (compute : s.core.hub = false)
include compute

theorem vld_completes (ready : Ready (.vld g d a off mask fmt) g s) (inView : InView s [d.el])
    (addr : vAddr s (s.src a) (256 * off.toNat) 0 = .ok p)
    (reads : gather s (laneBytes fmt) (lanePtrs s mask fmt laneAddr p (fun j => j * laneBytes fmt)) = .ok (l, s1)) :
    Completes (.vld g d a off mask fmt) s (s1.landGathered d fmt l 8
      (lanesOutside s (laneBytes fmt) (lanePtrs s mask fmt laneAddr p (fun j => j * laneBytes fmt)))) := by
  have frame : exec (.vld g d a off mask fmt) s = execVld g d a off mask fmt s := rfl
  unfold execVld at frame
  refine completes_landBytes frame ready compute (gather_like reads) ?_
  rw [checkEls_inView inView, addr]
  dsimp only
  rw [reads]
  rfl

theorem vgath_completes (ready : Ready (.vgath g d a b mask fmt) g s) (inView : InView s (d.el :: vsrcEls b)) (sound : Sound s 256 (vsrcEls b))
    (reads : gather s (laneBytes fmt) (lanePtrs s mask fmt vAddr (s.src a) (lane fmt (s.vsrc b))) = .ok (l, s1)) :
    Completes (.vgath g d a b mask fmt) s (s1.landGathered d fmt l 12
      (lanesOutside s (laneBytes fmt) (lanePtrs s mask fmt vAddr (s.src a) (lane fmt (s.vsrc b))))) := by
  have frame : exec (.vgath g d a b mask fmt) s = execVgath g d a b mask fmt s := rfl
  unfold execVgath at frame
  refine completes_landBytes frame ready compute (gather_like reads) ?_
  have checked : checkVec s [d.el] (vsrcEls b) = .ok () := checkVec_ok inView sound
  rw [checked]
  dsimp only
  rw [reads]
  rfl

theorem scatterWrite_completes {i : Instr} {body : Body} {ps : List (Nat × Except Stop Word × Bytes)}
    (frame : exec i s = runWord i g { hub := true } body s) (ready : Ready i g s)
    (checked : scatterCheck s (laneBytes fmt) ps = .ok (w, s1)) (runs : body s = .ok (.next (scatterWrite s1 w))) :
    Completes i s (scatterWrite s1 w) := by
  obtain ⟨flights, cur, locks⟩ := scatterCheck_like checked
  refine completes_compute frame ready compute runs ?_
  rw [← cur, ← locks]
  exact scatterWrite_room (Like.room ⟨flights, cur, locks⟩ ready.room) w

theorem vst_completes (ready : Ready (.vst g a b off mask fmt) g s) (inView : InView s (vsrcEls b)) (sound : Sound s 256 (vsrcEls b))
    (addr : vAddr s (s.src a) (256 * off.toNat) 0 = .ok p)
    (checked : scatterCheck s (laneBytes fmt) ((lanePtrs s mask fmt laneAddr p (fun j => j * laneBytes fmt)).map
      (fun e => (e.1, e.2, leBytes (laneBytes fmt) (lane fmt (s.vsrc b) e.1)))) = .ok (w, s1)) :
    Completes (.vst g a b off mask fmt) s (scatterWrite s1 w) := by
  have frame : exec (.vst g a b off mask fmt) s = execVst g a b off mask fmt s := rfl
  unfold execVst at frame
  refine scatterWrite_completes compute frame ready checked ?_
  rw [checkVec_ok (dst := []) (srcs := vsrcEls b) inView sound, addr]
  dsimp only [storeLanes]
  rw [checked]

theorem vscat_completes (ready : Ready (.vscat g a b c mask fmt) g s) (inView : InView s (vsrcEls b ++ vsrcEls c))
    (sound : Sound s 256 (vsrcEls b ++ vsrcEls c))
    (checked : scatterCheck s (laneBytes fmt) ((lanePtrs s mask fmt vAddr (s.src a) (lane fmt (s.vsrc b))).map
      (fun e => (e.1, e.2, leBytes (laneBytes fmt) (lane fmt (s.vsrc c) e.1)))) = .ok (w, s1)) :
    Completes (.vscat g a b c mask fmt) s (scatterWrite s1 w) := by
  have frame : exec (.vscat g a b c mask fmt) s = execVscat g a b c mask fmt s := rfl
  unfold execVscat at frame
  refine scatterWrite_completes compute frame ready checked ?_
  rw [checkVec_ok (dst := []) (srcs := vsrcEls b ++ vsrcEls c) inView sound]
  dsimp only [storeLanes]
  rw [checked]

end

/-- Settles O17, word by word. -/
theorem vectorMemoryWordsComplete : Obligations.VectorMemoryWordsComplete := by
  unfold Obligations.VectorMemoryWordsComplete
  intro s s1 g d a b c off mask fmt l w p n near far compute
  exact ⟨vld_completes compute, vgath_completes compute, vst_completes compute, vscat_completes compute⟩

end Sys2Proof.Machine
end

section
/-! PROOFS. O25: transfers of control (spec/04 R78; spec/20 R297; spec/21 R316, R317; spec/22 R337, R343). -/

namespace Sys2Proof.Machine

/-! ### Where a word stands -/

/-- What says where the word at issue stands, and where it may transfer to, is in t as in s. -/
structure Stands (s t : State) : Prop where
  cur : t.core.cur = s.core.cur
  num : t.core.num = s.core.num
  merged : t.core.merged = s.core.merged
  task : t.core.task = s.core.task
  cyc : t.core.cyc = s.core.cyc
  trap : t.here.trap = s.here.trap
  secStart : t.here.secStart = s.here.secStart
  secEnd : t.here.secEnd = s.here.secEnd
  mem : t.mem = s.mem
  wlog : t.wlog = s.wlog

theorem Stands.refl (s : State) : Stands s s := ⟨rfl, rfl, rfl, rfl, rfl, rfl, rfl, rfl, rfl, rfl⟩

theorem Stands.trans {s t u : State} (h : Stands s t) (h' : Stands t u) : Stands s u :=
  ⟨h'.cur.trans h.cur, h'.num.trans h.num, h'.merged.trans h.merged, h'.task.trans h.task, h'.cyc.trans h.cyc, h'.trap.trans h.trap,
    h'.secStart.trans h.secStart, h'.secEnd.trans h.secEnd, h'.mem.trans h.mem, h'.wlog.trans h.wlog⟩

theorem State.modHere_here (s : State) (f : Context → Context) : (s.modHere f).here = f s.here := by
  show (s.core.modCtx s.core.cur f).ctx (s.core.modCtx s.core.cur f).cur = _
  rw [Core.modCtx_cur, Core.ctx_modCtx_same]
  rfl

theorem Stands.modHere {s : State} {f : Context → Context}
    (keeps : (f s.here).trap = s.here.trap ∧ (f s.here).secStart = s.here.secStart ∧ (f s.here).secEnd = s.here.secEnd) :
    Stands s (s.modHere f) := by
  obtain ⟨trap, start, stop⟩ := keeps
  constructor
  case trap | secStart | secEnd => rw [State.modHere_here]; assumption
  all_goals simp

theorem Stands.issued (u : State) (ord : Nat) (lpc : Word) : Stands u (u.issued ord lpc) := by
  obtain ⟨cur, -, -, -, merged, num, task, -⟩ := SameCore.issued u ord lpc
  have cyc : (u.issued ord lpc).core.cyc = u.core.cyc := by simp [State.issued]
  refine ⟨cur, num, merged, task, cyc, ?_, ?_, ?_, rfl, rfl⟩ <;> rw [State.here_issued] <;> rfl

theorem Stands.landReg (s : State) (d : Dst) (v : Word) (lat : Nat) : Stands s (s.landReg d v lat) := by
  cases locks : s.core.interlocked with
  | false =>
    have later : s.landReg d v lat = _ := State.land_later locks ..
    rw [later]
    refine ⟨rfl, rfl, rfl, rfl, rfl, ?_, ?_, ?_, rfl, rfl⟩ <;> cases cur : s.core.cur <;> simp [State.here, Core.ctx, State.modCore, cur]
  | true =>
    let f : Flight := s.flightOf (dstPuts s.core.cur d v) d.lt (leBytes 8 v.toNat) 0 lat
    have now : s.landReg d v lat = (if d.wbs then s else s.modHere (fun x => x.put d.reg v)).modHere (fun x => x.landed f) := by
      refine (State.land_now locks ..).trans ?_
      unfold dstPuts
      cases d.wbs with
      | true => rfl
      | false =>
        show s.modCore _ = _
        unfold State.modHere State.modCore
        simp only [Bool.false_eq_true, if_false, Core.modCtx_cur]
        rfl
    rw [now]
    refine Stands.trans ?_ (Stands.modHere ⟨rfl, rfl, rfl⟩)
    split
    · exact .refl s
    · exact .modHere ⟨Context.put_trap .., Context.put_secStart .., Context.put_secEnd ..⟩

/-! ### Where it may go -/

section
variable {s t : State} (h : Stands s t)
include h

theorem Stands.place : t.place = s.place := by
  unfold State.place Core.hub
  rw [h.num, h.trap, h.merged]

theorem Stands.toSlice (target : Word) : (t.here.toSlice target).isSome = (s.here.toSlice target).isSome := by
  unfold Context.toSlice
  rw [h.secStart, h.secEnd]
  split
  · split <;> rfl
  · rfl

theorem Stands.transferOk (target : Word) : t.transferOk target = s.transferOk target := by
  unfold State.transferOk
  rw [h.place, h.task, h.toSlice]

end

/-- A transfer within a slice changes where the context stands alone. -/
theorem Context.toSlice_some {k x : Context} {target : Word} (h : k.toSlice target = some x) : x.pc = target ∧ x.x = k.x := by
  unfold Context.toSlice at h
  split at h
  · split at h
    · cases h; exact ⟨rfl, rfl⟩
    · cases h
  · cases h; exact ⟨rfl, rfl⟩

/-- The context at issue stands at `target` in t, where it issues two cycles later; registers and memory are as in s. -/
structure Moved (s t : State) (target : Word) : Prop where
  pc : t.here.pc = target
  issueAt : t.here.issueAt = s.core.cyc + 2
  regs : ∀ c, (t.core.ctx c).x = (s.core.ctx c).x
  mem : t.mem = s.mem
  wlog : t.wlog = s.wlog

theorem Moved.modHere {s : State} {target : Word} {f : Context → Context} (moves : (f s.here).pc = target)
    (waits : (f s.here).issueAt = s.core.cyc + 2) (regs : (f s.here).x = s.here.x) : Moved s (s.modHere f) target := by
  refine ⟨by rw [State.modHere_here, moves], by rw [State.modHere_here, waits], fun c => ?_, rfl, rfl⟩
  rw [State.modHere_core, Core.ctx_modCtx]
  split
  · next same => subst same; exact regs
  · rfl

/-- Reaching a region of the plain image advances section counters alone. -/
theorem Moved.reach {s t : State} {target : Word} (h : Moved s t target) : Moved s t.reach target := by
  obtain ⟨wlog, -, -, -, mem, core⟩ := reach_only t
  refine ⟨?_, ?_, fun c => ?_, mem.trans h.mem, wlog.trans h.wlog⟩
  · rw [← h.pc]
    obtain same | ⟨-, more⟩ := core
    · unfold State.here; rw [same]
    · unfold State.here; rw [more, modAll_ctx]; rfl
  · rw [← h.issueAt]
    obtain same | ⟨-, more⟩ := core
    · unfold State.here; rw [same]
    · unfold State.here; rw [more, modAll_ctx]; rfl
  · rw [← h.regs c]
    obtain same | ⟨-, more⟩ := core
    · rw [same]
    · rw [more, modAll_ctx]

/-- A transfer that is allowed goes to its target (04 R78; 03 R52). -/
theorem State.transfer_moved {s : State} {target : Word} (allowed : s.transferOk target = true) (bad : Flt) :
    Moved s (s.transfer bad target) target := by
  unfold State.transferOk at allowed
  unfold State.transfer
  cases place : s.place with
  | flat => exact .modHere rfl rfl rfl
  | plain =>
    rw [place] at allowed
    cases task : s.core.task with
    | none => rw [task] at allowed; exact absurd allowed Bool.false_ne_true
    | some k =>
      rw [task] at allowed
      have inside : target.toNat % 12 = 0 ∧ target.toNat < 12 * k.img.pwords := by simpa using allowed
      dsimp only
      rw [if_pos inside]
      exact Moved.reach (.modHere rfl rfl rfl)
  | slice =>
    rw [place] at allowed
    obtain ⟨x, goes⟩ := Option.isSome_iff_exists.mp allowed
    dsimp only
    rw [goes]
    obtain ⟨pc, regs⟩ := Context.toSlice_some goes
    exact .modHere pc rfl regs

/-! ### The words -/

/-- A word whose body goes to an allowed target, after an effect u that leaves the word where it stands. -/
theorem exec_goto {i : Instr} {g : Guard} {body : Body} {s u : State} {target : Word} (frame : exec i s = runWord i g {} body s)
    (ready : Ready i g s) (runs : body s = .ok (.goto u target)) (stands : Stands s u)
    (room : s.core.interlocked = true ∨ u.core.inFlight s.core.cur ≤ Config.inFlightMax) (allowed : s.transferOk target = true) :
    ∃ t, exec i s = .next (settled s t) ∧ Moved (u.issued s.here.ord s.lpc) t target := by
  have fits : s.tooMany u = false := by
    unfold State.tooMany
    rcases room with locks | few
    · rw [locks]; rfl
    · rw [decide_eq_false (Nat.not_lt.mpr few), Bool.and_false]
  have goes : (u.issued s.here.ord s.lpc).transferOk target = true := by
    rw [(stands.trans (Stands.issued u ..)).transferOk, allowed]
  refine ⟨_, ?_, State.transfer_moved goes (fltIllegal.withWord i)⟩
  rw [frame, runWord_body ready (fun _ => rfl) rfl (fun _ => rfl), runs]
  unfold State.complete
  dsimp only
  rw [fits, if_neg Bool.false_ne_true, if_pos allowed]

theorem issued_regs (u : State) (ord : Nat) (lpc : Word) (c : Ctx) : ((u.issued ord lpc).core.ctx c).x = (u.core.ctx c).x := by
  rw [issued_ctx]
  split
  · next same => subst same; rfl
  · rfl

/-- Such a word transfers control; u has written no register but x[d]. -/
theorem goesTo_of_goto {i : Instr} {g : Guard} {body : Body} {s u : State} {target : Word} {d : BitVec 5}
    (frame : exec i s = runWord i g {} body s) (ready : Ready i g s) (runs : body s = .ok (.goto u target)) (stands : Stands s u)
    (room : s.core.interlocked = true ∨ u.core.inFlight s.core.cur ≤ Config.inFlightMax) (allowed : s.transferOk target = true)
    (regs : ∀ c n, (c ≠ s.core.cur ∨ n ≠ d) → (u.core.ctx c).get n = (s.core.ctx c).get n) : GoesTo i s target d := by
  obtain ⟨t, eq, moved⟩ := exec_goto frame ready runs stands room allowed
  have cyc : (u.issued s.here.ord s.lpc).core.cyc = s.core.cyc := (stands.trans (Stands.issued u ..)).cyc
  refine ⟨_, eq, moved.pc, moved.issueAt.trans (by rw [cyc]), fun c n other => ?_, ?_⟩
  · exact (Context.get_congr ((moved.regs c).trans (issued_regs ..)) n).trans (regs c n other)
  · exact settled_mem_of_quiet (moved.wlog.trans (stands.wlog.trans ready.between))

section
variable {s : State}

theorem plain_room (room : Room s) : s.core.interlocked = true ∨ s.core.inFlight s.core.cur ≤ Config.inFlightMax :=
  (Like.refl s).plain room

theorem jmp_goesTo {f : OpImm} (ready : Ready (.jmp f) f.g s) (allowed : s.transferOk (s.here.pc + f.imm.signExtend 64) = true) :
    GoesTo (.jmp f) s (s.here.pc + f.imm.signExtend 64) 0 := by
  have frame : exec (.jmp f) s = execJmp f s := rfl
  unfold execJmp at frame
  exact goesTo_of_goto frame ready rfl (.refl s) (plain_room ready.room) allowed fun _ _ _ => rfl

/-- A target in a register. -/
theorem goesTo_of_jumpTo {i : Instr} {a : OpA} (frame : exec i s = runWord i a.g {} (fun s => jumpTo s (s.src a.a)) s) (ready : Ready i a.g s)
    (aligned : (s.src a.a).toNat % 4 = 0) (allowed : s.transferOk (s.src a.a) = true) : GoesTo i s (s.src a.a) 0 := by
  have straight : ¬fld (s.src a.a).toNat 0 2 ≠ 0 := by
    rw [fld_zero]
    exact not_not.mpr aligned
  exact goesTo_of_goto frame ready (if_neg straight) (.refl s) (plain_room ready.room) allowed fun _ _ _ => rfl

theorem jmpr_goesTo {a : OpA} (ready : Ready (.jmpr a) a.g s) (aligned : (s.src a.a).toNat % 4 = 0)
    (allowed : s.transferOk (s.src a.a) = true) : GoesTo (.jmpr a) s (s.src a.a) 0 := by
  have frame : exec (.jmpr a) s = execJmpr a s := rfl
  unfold execJmpr at frame
  exact goesTo_of_jumpTo frame ready aligned allowed

theorem ret_goesTo {a : OpA} (ready : Ready (.ret a) a.g s) (aligned : (s.src a.a).toNat % 4 = 0)
    (allowed : s.transferOk (s.src a.a) = true) : GoesTo (.ret a) s (s.src a.a) 0 := by
  have frame : exec (.ret a) s = execRet a s := rfl
  unfold execRet at frame
  exact goesTo_of_jumpTo frame ready aligned allowed

theorem exec_call (c : OpDImm) (s : State) : exec (.call c) s = runWord (.call c) c.g {} (fun s =>
    .ok (.goto (s.landReg c.d (s.here.pc + 12) 1) (s.here.pc + imm64 c.imm))) s := rfl

theorem call_goesTo {c : OpDImm} (ready : Ready (.call c) c.g s) (allowed : s.transferOk (s.here.pc + c.imm.signExtend 64) = true) :
    GoesTo (.call c) s (s.here.pc + c.imm.signExtend 64) c.d.reg := by
  obtain ⟨-, -, -, -, regs, -⟩ := landReg_frame s c.d (s.here.pc + 12) 1 0
  exact goesTo_of_goto (exec_call c s) ready rfl (Stands.landReg ..) (State.land_room ready.room _ (resultsOf_dst ..)) allowed
    fun ctx n other => regs ctx n (other.imp_right .inl)

/-- CALL lands the place of the word that follows (20 R297). -/
theorem call_links {c : OpDImm} (ready : Ready (.call c) c.g s) (allowed : s.transferOk (s.here.pc + c.imm.signExtend 64) = true)
    (locks : s.core.interlocked = true) (writes : c.d.wbs = false) (named : c.d.reg ≠ 0) {t : State} (run : exec (.call c) s = .next t) :
    (t.core.ctx s.core.cur).get c.d.reg = s.here.pc + 12 := by
  obtain ⟨u, eq, moved⟩ := exec_goto (exec_call c s) ready rfl (Stands.landReg ..) (State.land_room ready.room _ (resultsOf_dst ..)) allowed
  rw [eq] at run
  injection run with run
  subst run
  obtain ⟨regs, -⟩ := landReg_now locks c.d (s.here.pc + 12) 1 0
  exact (Context.get_congr ((moved.regs s.core.cur).trans (issued_regs ..)) _).trans
    ((regs s.core.cur c.d.reg).trans (if_pos ⟨rfl, rfl, named, writes⟩))

theorem nop_completes {f : OpImm} (ready : Ready (.nop f) f.g s) : Completes (.nop f) s s := by
  have frame : exec (.nop f) s = execNop f s := rfl
  unfold execNop at frame
  exact completes_open_like frame ready rfl (.refl s)

end

/-- Settles O25, word by word. -/
theorem transfersComplete : Obligations.TransfersComplete := by
  unfold Obligations.TransfersComplete
  intro s f a c
  exact ⟨jmp_goesTo, jmpr_goesTo, ret_goesTo, fun ready allowed => ⟨call_goesTo ready allowed, fun locks writes named _ run =>
    call_links ready allowed locks writes named run⟩, nop_completes⟩

end Sys2Proof.Machine
end

section
/-! PROOFS. O29: BKPT (spec/20 R294). -/

namespace Sys2Proof.Machine

/-- A word that is not barred, and whose body has done everything. -/
theorem takes_of_took {i : Instr} {g : Guard} {b : Bars} {body : Body} {s t : State} (frame : exec i s = runWord i g b body s) (ready : Ready i g s)
    (hub : s.core.hub = true → b.hub = false) (mode : b.mode s.mode = false) (han : s.core.inHandler = true → b.handler s = false)
    (runs : body s = .ok (.took t)) : Takes i s t := by
  unfold Takes
  rw [frame, runWord_body ready hub mode han, runs]
  rfl

/-- One that nothing bars. -/
theorem takes_open {i : Instr} {g : Guard} {body : Body} {s t : State} (frame : exec i s = runWord i g {} body s) (ready : Ready i g s)
    (runs : body s = .ok (.took t)) : Takes i s t :=
  takes_of_took frame ready (fun _ => rfl) rfl (fun _ => rfl) runs

/-- An in-place trap stands at the context that it takes. -/
theorem Core.trapInPlace_trap (k : Core) (vector : Nat) :
    ((k.trapInPlace k.cur vector).ctx (k.trapInPlace k.cur vector).cur).trap.isSome = true := by
  unfold Core.trapInPlace
  dsimp only
  rw [Core.setCtx_cur, Core.ctx_setCtx_same]
  rfl

/-- The state behind a BKPT that stops. -/
def State.afterStop (s : State) (f : OpImm) : State := ((s.noteStop (f.imm.setWidth 64)).issued s.here.ord s.lpc).advance

/-- What a stop in the logical view asks for. -/
def State.breakPend (s : State) : Pend := s.pendOf (.stop true) { code := 0, addr := 0, lane := 0, aux := aux0 }

def Core.inPhase (p : Phase) (k : Core) : Core := { k with phase := p }

theorem exec_bkpt (f : OpImm) (s : State) : exec (.bkpt f) s = execBkpt f s := rfl

section
variable {s : State} {f : OpImm} (ready : Ready (.bkpt f) f.g s)
include ready

theorem bkpt_goesOn (passes : s.core.debugger = .none ∨ s.core.again = true) : Completes (.bkpt f) s s := by
  have frame := exec_bkpt f s
  unfold execBkpt at frame
  refine completes_open_like frame ready ?_ (.refl s)
  have none : (if s.core.again then .none else s.core.debugger) = Debugger.none := by
    obtain off | again := passes
    · rw [off, ite_self]
    · rw [again]; rfl
  dsimp only
  rw [none]

/-- The stop in the slice view: an in-place trap after the word. -/
theorem bkpt_traps (compute : s.core.hub = false) (view : s.core.debugger = .slice) (first : s.core.again = false) :
    exec (.bkpt f) s = .next (settled s ((s.afterStop f).modCore (fun k => k.trapInPlace k.cur 0x200))) := by
  have frame := exec_bkpt f s
  unfold execBkpt at frame
  refine takes_open frame ready ?_
  dsimp only
  rw [first, view, compute]
  rfl

/-- The stop of a merged task. -/
theorem bkpt_stops (view : s.core.debugger = .logical) (first : s.core.again = false) (plain : s.place = .plain) :
    exec (.bkpt f) s = .next (settled s ((s.afterStop f).modCore (Core.inPhase (s.core.stopPhase s.breakPend)))) := by
  have frame := exec_bkpt f s
  unfold execBkpt at frame
  refine takes_open frame ready ?_
  dsimp only
  rw [first, view, plain]
  rfl

/-- The stop of a sliced task, by a rebuild. -/
theorem bkpt_rebuilds (view : s.core.debugger = .logical) (first : s.core.again = false) (slice : s.place = .slice) :
    exec (.bkpt f) s = .next (settled s ((s.noteStop (f.imm.setWidth 64)).modCore (Core.inPhase (.pend s.breakPend)))) := by
  have frame := exec_bkpt f s
  unfold execBkpt at frame
  refine takes_open frame ready ?_
  dsimp only
  rw [first, view, slice]
  rfl

end

/-- Settles O29: by the view of the debugger, and the place of the word. -/
theorem breakpointCompletes : Obligations.BreakpointCompletes := by
  unfold Obligations.BreakpointCompletes
  intro s f ready compute
  have quiet : (passed s (s.noteStop (f.imm.setWidth 64))).mem = s.mem :=
    (passed_rests (s := s) (u := s.noteStop (f.imm.setWidth 64)) rfl ready.between).mem
  refine ⟨bkpt_goesOn ready, fun view first => ?_, fun view first plain => ?_, fun view first slice => ?_⟩
  · exact ⟨_, bkpt_traps ready compute view first, Core.trapInPlace_trap .., quiet⟩
  · refine ⟨_, bkpt_stops ready view first plain, ?_, ⟨_, _, rfl⟩, quiet⟩
    exact (passed_here_fields s (s.noteStop (f.imm.setWidth 64))).1.trans (Context.onward_fields _ _).1
  · exact ⟨_, bkpt_rebuilds ready view first slice, ⟨s.breakPend, rfl, rfl, rfl⟩, settled_mem_of_quiet ready.between⟩

end Sys2Proof.Machine
end

section
/-! PROOFS. O30: SREAD, SWRITE and TLBI (spec/22 R355, R362, R365). -/

namespace Sys2Proof.Machine

/-! ### A word with a mode -/

section
variable {i : Instr} {g : Guard} {m : Mode → Bool} {body : Body} {s u : State} (frame : exec i s = runWord i g { mode := m } body s)
  (ready : Ready i g s) (allowed : m s.mode = false) (runs : body s = .ok (.next u))
include frame ready allowed runs

theorem completes_inMode (room : s.core.interlocked = true ∨ u.core.inFlight s.core.cur ≤ Config.inFlightMax) : Completes i s u :=
  completes_next frame ready (fun _ => rfl) allowed (fun _ => rfl) runs room

end

/-- A result awaited in one register, or in none, finds room in flight. -/
theorem State.await_room {s u : State} (like : Like s u) (room : Room s) (d : Dst) (c : Ctx) (n : BitVec 5) (v : Word) (lat : Nat)
    (req : Option Nat) :
    s.core.interlocked = true ∨ (u.await d [.reg c n v] lat req).core.inFlight s.core.cur ≤ Config.inFlightMax := by
  have one : resultsOf (if d.wbs then [] else [Put.reg c n v]) = 1 := by cases d.wbs <;> rfl
  have fits := like.room room
  unfold Room at fits
  rw [like.2.1, like.2.2] at fits
  refine fits.imp_right fun few => ?_
  have more := State.await_inFlight u d [.reg c n v] lat req s.core.cur
  omega

/-! ### SREAD -/

section
variable {s s1 : State} {f : OpD} {num : BitVec 12}

theorem exec_sread (f : OpD) (num : BitVec 12) (s : State) : exec (.sread f num) s =
    runWord (.sread f num) f.g { mode := fun x => !sysReadable x num.toNat } (sreadBody f num.toNat) s := rfl

theorem sread_plain_completes (ready : Ready (.sread f num) f.g s) (readable : sysReadable s.mode num.toNat = true)
    (plain : sysJournalled num.toNat = false) : Completes (.sread f num) s (s.landReg f.d (sysValue s num.toNat) 4) := by
  refine completes_inMode (exec_sread f num s) ready (by rw [readable]; rfl) ?_ (State.land_room ready.room _ (resultsOf_dst ..))
  unfold sreadBody
  rw [plain]
  rfl

/-- The results of a journalled SREAD that no replay gives. -/
theorem sreadBody_journals (journalled' : sysJournalled num.toNat = true) (live : recorded s = .none) (journals : Journals s) {v : List Word}
    (value : (if num.toNat = 0x203 then [] else [sysValue s num.toNat]) = v) (record : recordEntry (noted s v s) v.head? 0 = .ok s1) :
    sreadBody f num.toNat s = (match v with
      | [] => .ok (.next (s1.await f.d [.reg s1.core.cur f.d.reg 0] 8 none))
      | v :: _ => .ok (.next (s1.landReg f.d v 4))) := by
  unfold sreadBody
  rw [journalled', live]
  dsimp only
  rw [journalled_journals (v := v) (t := s) journals (by rw [value]), Bool.not_true, if_neg Bool.false_ne_true]
  dsimp only
  rw [record]
  cases v <;> rfl

theorem sread_journalled_completes (ready : Ready (.sread f num) f.g s) (readable : sysReadable s.mode num.toNat = true)
    (journalled' : sysJournalled num.toNat = true) (value : num.toNat ≠ 0x203) (live : recorded s = .none) (journals : Journals s)
    (record : recordEntry (noted s [sysValue s num.toNat] s) (some (sysValue s num.toNat)) 0 = .ok s1) :
    Completes (.sread f num) s (s1.landReg f.d (sysValue s num.toNat) 4) :=
  completes_inMode (exec_sread f num s) ready (by rw [readable]; rfl)
    (sreadBody_journals journalled' live journals (if_neg value) record)
    (((noted_like s _ s).trans (recordEntry_like record)).after ready.room _ (resultsOf_dst ..))

/-- `perf.red` awaits its reduction tree (17 R260). -/
theorem sread_red_completes (ready : Ready (.sread f num) f.g s) (readable : sysReadable s.mode num.toNat = true)
    (red : num.toNat = 0x203) (live : recorded s = .none) (journals : Journals s) (record : recordEntry (noted s [] s) none 0 = .ok s1) :
    Completes (.sread f num) s (s1.await f.d [.reg s1.core.cur f.d.reg 0] 8 none) :=
  completes_inMode (exec_sread f num s) ready (by rw [readable]; rfl)
    (sreadBody_journals (by rw [red]; decide) live journals (if_pos red) record)
    (State.await_room ((noted_like s _ s).trans (recordEntry_like record)) ready.room ..)

end

/-! ### SWRITE and TLBI -/

theorem swrite_completes {s : State} {a : OpA} {num : BitVec 12} (ready : Ready (.swrite a num) a.g s)
    (writable : sysWritable s.mode num.toNat = true) : Completes (.swrite a num) s (s.landLater [.sys s.core.cur num (s.src a.a)]) := by
  have frame : exec (.swrite a num) s = execSwrite a num s := rfl
  unfold execSwrite at frame
  exact completes_inMode frame ready (by rw [writable]; rfl) rfl (State.landLater_room ready.room _)

/-- A core without the translations that a TLBI names. -/
def Core.invalidated (va root : Word) (n : Nat) (k : Core) : Core := { k with tlb := k.tlb.filter (fun e => !tlbiHits va root n e) }

/-- The module without them. -/
def State.invalidated (s : State) (va root : Word) (n : Nat) : State :=
  { s with core := s.core.invalidated va root n, others := s.others.map (fun p => (p.1, p.2.invalidated va root n)) }

theorem tlbi_completes {s : State} {h : OpAB} {n : BitVec 32} (ready : Ready (.tlbi h n) h.g s) (mode : s.mode ≠ .u) :
    Completes (.tlbi h n) s (s.invalidated (s.src h.a) (s.src h.b) n.toNat) := by
  have frame : exec (.tlbi h n) s = execTlbi h n s := rfl
  unfold execTlbi at frame
  exact completes_inMode frame ready (beq_eq_false_iff_ne.mpr mode) rfl
    (Like.plain (s := s) ⟨rfl, rfl, by unfold Core.interlocked; rfl⟩ ready.room)

theorem Core.mem_invalidated {k : Core} {va root : Word} {n : Nat} {e : TlbEntry} :
    e ∈ (k.invalidated va root n).tlb ↔ e ∈ k.tlb ∧ tlbiHits va root n e = false := by
  simp [Core.invalidated]

/-- Settles O30, word by word. -/
theorem systemWordsComplete : Obligations.SystemWordsComplete := by
  unfold Obligations.SystemWordsComplete
  intro s s1 f a h num n
  refine ⟨sread_plain_completes, sread_journalled_completes, sread_red_completes, swrite_completes, fun ready mode => ?_⟩
  refine ⟨_, tlbi_completes ready mode, rfl, rfl, fun e => Core.mem_invalidated, fun k among e held => ?_⟩
  obtain ⟨p, -, rfl⟩ := List.mem_map.mp among
  exact (Core.mem_invalidated.mp held).2

end Sys2Proof.Machine
end

section
/-! PROOFS. O26: EXIT and ABORT (spec/20 R280; spec/21 R308). -/

namespace Sys2Proof.Machine

/-! ### A task ends -/

/-- The task k of a core has ended with a status: it has left the core. -/
def Ended (k : Task) (status : Word) (t : State) : Prop :=
  t.core.task = none ∧ t.core.lastTask = some (k, status) ∧ k.num ∈ t.m.endedTasks

theorem State.endTask_ended {s : State} {k : Task} (task : s.core.task = some k) (status : Word) : Ended k status (s.endTask status) := by
  unfold State.endTask
  rw [task]
  exact ⟨rfl, rfl, List.mem_cons_self ..⟩

/-- A step that has ended a task leaves it ended. -/
theorem Ended.settled {k : Task} {status : Word} {s t : State} (h : Ended k status t) : Ended k status (settled s t) := h

/-! ### EXIT -/

theorem behindAppends_of {s : State} (drained' : Drained s) (appended : Appended s) (body : Except Stop Fin) : behindAppends s body = body :=
  (drained_of drained' _).trans (if_pos (Bool.or_eq_true_iff.mpr appended))

theorem Core.quiet_of {k : Core} (done : ∀ ch, (k.chain ch).counter = (k.chain ch).append) : k.quiet = true :=
  List.all_eq_true.mpr fun ch _ => beq_iff_eq.mpr (done ch)

theorem exit_ends {s : State} {g : Guard} {k : Task} (compute : s.core.hub = false) (task : s.core.task = some k)
    (ready : Ready (.exit g) g s) (user : s.core.inHandler = false) (drained' : Drained s) (appended : Appended s)
    (done : ∀ ch, (s.core.chain ch).counter = (s.core.chain ch).append) : ∃ t, exec (.exit g) s = .next t ∧ Ended k 0 t := by
  have frame : exec (.exit g) s = execExit g s := rfl
  unfold execExit at frame
  have runs := takes_of_body frame ready compute rfl user (u := (s.modCore (fun k => k.count 1 1)).endTask 0)
    (by rw [behindAppends_of drained' appended, Core.quiet_of done]; rfl)
  exact ⟨_, runs, (State.endTask_ended (s := s.modCore (fun k => k.count 1 1)) task 0).settled⟩

/-! ### ABORT -/

/-- No entry of any chain is issued to its engine. -/
def Core.Unbegun (k : Core) : Prop := ∀ ch, ∀ e ∈ (k.chain ch).entries, e.begun = false

theorem Core.Unbegun.idle {k : Core} (h : k.Unbegun) : k.busy = false :=
  List.any_eq_false.mpr fun ch _ => Bool.not_eq_true _ ▸ List.any_eq_false.mpr fun e among => Bool.not_eq_true _ ▸ h ch e among

/-- What withdrawing entries leaves: entries that stood there before, the task, the number of the core and its requests. -/
structure Withdrawn (s t : State) : Prop where
  entries : ∀ ch, ∀ e ∈ (t.core.chain ch).entries, e ∈ (s.core.chain ch).entries
  task : t.core.task = s.core.task
  num : t.core.num = s.core.num
  reqs : t.m.reqs = s.m.reqs

theorem Withdrawn.trans {s t u : State} (h : Withdrawn s t) (h' : Withdrawn t u) : Withdrawn s u :=
  ⟨fun ch e among => h.entries ch e (h'.entries ch e among), h'.task.trans h.task, h'.num.trans h.num, h'.reqs.trans h.reqs⟩

theorem State.cancelChain_withdrawn (s : State) (c : ChainId) : Withdrawn s (s.cancelChain c) := by
  refine ⟨fun ch e among => ?_, ?_, ?_, rfl⟩
  · by_cases same : ch = c
    · subst same
      change e ∈ ((s.core.modChain ch _).chain ch).entries at among
      rw [Core.chain_modChain_same] at among
      exact (List.mem_filter.mp among).1
    · cases c <;> cases ch <;> first | exact absurd rfl same | exact among
  · cases c <;> rfl
  · cases c <;> rfl

theorem State.cancelAll_withdrawn (s : State) : Withdrawn s s.cancelAll :=
  (((s.cancelChain_withdrawn _).trans (State.cancelChain_withdrawn _ _)).trans (State.cancelChain_withdrawn _ _)).trans
    (State.cancelChain_withdrawn _ _)

theorem dumpFor_abort (detail : Nat) : dumpFor (statusOf 0x42 detail) = [] := by
  unfold dumpFor
  exact if_pos (.inl (statusOf_code (code := 0x42) detail))

/-- The status of ABORT: its immediate stands above the code (20 R280). -/
theorem statusOf_abort (n : BitVec 32) : statusOf 0x42 n.toNat = 0x42 + (n.setWidth 64 <<< 32) := by
  apply BitVec.eq_of_toNat_eq
  have short := n.isLt
  rw [BitVec.toNat_add, BitVec.toNat_shiftLeft, BitVec.toNat_setWidth, Nat.shiftLeft_eq]
  show (66 % 256 + 2 ^ 32 * (n.toNat % 2 ^ 32)) % 2 ^ 64 = (66 + n.toNat % 2 ^ 64 * 2 ^ 32 % 2 ^ 64) % 2 ^ 64
  omega

/-- A task that is ending, with nothing left to wait for, has ended. -/
theorem State.settleEnd_ended {s : State} {k : Task} {status : Word} (ending : s.core.phase = .ending status []) (idle : s.core.busy = false)
    (performed : s.poolPending = false) (task : s.core.task = some k) : Ended k status s.settleEnd := by
  unfold State.settleEnd
  rw [ending]
  dsimp only
  rw [idle, performed]
  exact State.endTask_ended task status

/-- A task with no issued entry and no pool word ends at once. -/
theorem State.endSoon_ended {s : State} {k : Task} (task : s.core.task = some k) (unbegun : s.core.Unbegun)
    (answered : ∀ r ∈ s.m.reqs, r.core = s.core.num → r.answer ≠ none) {status : Word} (undumped : dumpFor status = []) :
    Ended k status (s.endSoon status) := by
  obtain ⟨entries, task', num, reqs⟩ := s.cancelAll_withdrawn
  have idle : s.cancelAll.core.busy = false := Core.Unbegun.idle fun ch e among => unbegun ch e (entries ch e among)
  have performed : s.cancelAll.poolPending = false := by
    refine List.any_eq_false.mpr fun r among => ?_
    rw [reqs] at among
    rw [num, Bool.and_eq_true, beq_iff_eq, Option.isNone_iff_eq_none]
    exact fun h => answered r among h.1 h.2
  unfold State.endSoon
  rw [task, Option.isNone_some, if_neg Bool.false_ne_true, undumped]
  exact State.settleEnd_ended rfl idle performed (task'.trans task)

theorem abort_ends {s : State} {f : OpImm} {k : Task} (compute : s.core.hub = false) (task : s.core.task = some k)
    (ready : Ready (.abort f) f.g s) (unbegun : s.core.Unbegun) (answered : ∀ r ∈ s.m.reqs, r.core = s.core.num → r.answer ≠ none) :
    ∃ t, exec (.abort f) s = .next t ∧ Ended k (0x42 + (f.imm.setWidth 64 <<< 32)) t := by
  have frame : exec (.abort f) s = execAbort f s := rfl
  unfold execAbort at frame
  refine ⟨_, takes_of_took frame ready (fun hub => absurd hub (by rw [compute]; decide)) rfl (fun _ => rfl) rfl, ?_⟩
  have ended := State.endSoon_ended (s := s.modCore (fun k => k.count 1 1)) task unbegun answered (dumpFor_abort f.imm.toNat)
  rw [← statusOf_abort]
  exact ended.settled

/-- Settles O26. -/
theorem endOfTask : Obligations.EndOfTask := by
  unfold Obligations.EndOfTask
  intro s g f k compute task
  exact ⟨exit_ends compute task, abort_ends compute task⟩

end Sys2Proof.Machine
end

section
/-! PROOFS. O28: ERET (spec/21 R307). -/

namespace Sys2Proof.Machine

/-- The device reads the same where it sees the same. -/
theorem SameView.devRead_eq {s t : State} (h : SameView s t) (root : Word) (va n : Nat) : devRead t root va n = devRead s root va n := by
  have pieces : readPieces t = readPieces s := by
    funext ps
    unfold readPieces
    simp only [h.physRun_eq]
  rw [devRead_barePieces, devRead_barePieces, h.barePieces_eq, pieces]

/-- The word at issue is counted. -/
def State.countedHere (s : State) : State := s.modCore (fun k => k.count 1 1)

theorem State.countedHere_view (s : State) : SameView s s.countedHere := ⟨rfl, rfl, rfl, rfl⟩

theorem exec_eret (g : Guard) (skip : Bool) (s : State) : exec (.eret g skip) s = execEret g skip s := rfl

/-- Reaching a region of the plain image leaves where C stands, its registers, and the phase (04 R92). -/
theorem State.reach_c (s : State) : s.reach.core.c.pc = s.core.c.pc ∧ s.reach.core.c.x = s.core.c.x ∧ s.reach.core.phase = s.core.phase ∧
    s.reach.wlog = s.wlog := by
  obtain ⟨wlog, -, -, -, -, same | ⟨-, more⟩⟩ := reach_only s
  · rw [same]; exact ⟨rfl, rfl, rfl, wlog⟩
  · rw [more]; exact ⟨rfl, rfl, rfl, wlog⟩

/-- The context of a task that has returned from its handler. -/
def Context.returned (k : Context) (x1 x2 pc : Word) (at' : Nat) : Context :=
  { ((k.put 1 x1).put 2 x2) with pc := pc, wait := none, issueAt := at' }

theorem Context.returned_get (k : Context) (x1 x2 pc : Word) (at' : Nat) :
    (k.returned x1 x2 pc at').get 1 = x1 ∧ (k.returned x1 x2 pc at').get 2 = x2 := by
  have regs (n : BitVec 5) : (k.returned x1 x2 pc at').get n = ((k.put 1 x1).put 2 x2).get n := Context.get_congr rfl n
  rw [regs, regs, Context.get_put, Context.get_put, Context.get_put]
  exact ⟨rfl, rfl⟩

/-- The task has returned from the handler of a fault, with what the fault record holds for x1 and x2. -/
def State.handlerLeft (s : State) (p : Pend) (skip : Bool) (x1 x2 : Word) : State :=
  s.modCore (fun k =>
    { k with phase := if skip then .run else .retry p, c := k.c.returned x1 x2 (if skip then p.lpc + 12 else p.lpc) (k.cyc + 2) })

theorem State.returnHandler_eq {s : State} {p : Pend} {k : Task} {skip : Bool} {b1 b2 : Bytes} (task : s.core.task = some k)
    (first : devRead s k.root (k.faultAddr.toNat + 96) 8 = some b1) (second : devRead s k.root (k.faultAddr.toNat + 104) 8 = some b2) :
    s.returnHandler p skip = (if skip then (s.handlerLeft p skip (w64 (leNat b1)) (w64 (leNat b2))).reach
      else s.handlerLeft p skip (w64 (leNat b1)) (w64 (leNat b2))) := by
  unfold State.returnHandler
  rw [task]
  dsimp only
  rw [first, second]
  rfl

section
variable {s : State} {g : Guard} {skip : Bool} (ready : Ready (.eret g skip) g s)
include ready

/-! ### From a task's handler -/

theorem eret_handler {p : Pend} {k : Task} {b1 b2 : Bytes} (untrapped : s.here.trap = none) (phase : s.core.phase = .handler p)
    (task : s.core.task = some k) (first : devRead s k.root (k.faultAddr.toNat + 96) 8 = some b1)
    (second : devRead s k.root (k.faultAddr.toNat + 104) 8 = some b2) :
    ∃ t, exec (.eret g skip) s = .next t ∧ t.core.c.pc = (if skip then p.lpc + 12 else p.lpc) ∧
      t.core.c.get 1 = w64 (leNat b1) ∧ t.core.c.get 2 = w64 (leNat b2) ∧
      t.core.phase = (if skip then .run else .retry p) ∧ t.mem = s.mem := by
  have frame := exec_eret g skip s
  unfold execEret at frame
  have runs := takes_open (t := s.countedHere.returnHandler p skip) frame ready (by dsimp only; rw [untrapped, phase]; rfl)
  rw [State.returnHandler_eq (s := s.countedHere) task ((s.countedHere_view.devRead_eq ..).trans first)
    ((s.countedHere_view.devRead_eq ..).trans second)] at runs
  obtain ⟨x1, x2⟩ := s.core.c.returned_get (w64 (leNat b1)) (w64 (leNat b2)) (if skip then p.lpc + 12 else p.lpc) (s.core.cyc + 2)
  refine ⟨_, runs, ?_⟩
  cases skip with
  | false => exact ⟨rfl, x1, x2, rfl, settled_mem_of_quiet ready.between⟩
  | true =>
    obtain ⟨pc, regs, phase', log⟩ := (s.countedHere.handlerLeft p true (w64 (leNat b1)) (w64 (leNat b2))).reach_c
    exact ⟨pc, (Context.get_congr regs 1).trans x1, (Context.get_congr regs 2).trans x2, phase',
      settled_mem_of_quiet (log.trans ready.between)⟩

/-! ### From a trap of a hub core -/

theorem eret_trap {pc : Word} {mode : Mode} {r : List (Word × Mode)} (phase : s.core.phase = .run) (hub : s.core.hub = true)
    (untrapped : s.here.trap = none) (traps : s.core.traps = (pc, mode) :: r) :
    ∃ t, exec (.eret g skip) s = .next t ∧ t.here.pc = (if skip then pc + 12 else pc) ∧ t.core.mode = mode ∧ t.core.traps = r ∧
      t.mem = s.mem := by
  have frame := exec_eret g skip s
  unfold execEret at frame
  refine ⟨_, takes_open (t := s.countedHere.popTrap pc mode r skip) frame ready ?_, ?_, ?_, ?_, settled_mem_of_quiet ready.between⟩
  · dsimp only
    rw [untrapped, phase, traps, hub]
    rfl
  · show (State.modHere _ _).here.pc = _
    rw [State.modHere_here]
  · show (Core.modCtx _ _ _).mode = mode
    rw [Core.modCtx_mode]
    rfl
  · show (Core.modCtx _ _ _).traps = r
    rw [Core.modCtx_traps]
    rfl

/-! ### From an in-place trap -/

end

/-- The context of an in-place trap after its return (03 R67). -/
def Context.afterTrap (k : Context) (x : InPlace) (skip late : Bool) (at' : Nat) : Context :=
  { k with trap := none, sbm := !x.list.isEmpty || late, issueAt := at', pass := !skip && (k.pass || x.watch),
           pc := if skip && !x.after then x.pc + 12 else x.pc }

theorem Core.returnTrap_ctx {k : Core} {c : Ctx} {x : InPlace} (skip : Bool) (trap : (k.ctx c).trap = some x) :
    let late := k.flights.any (fun f => f.ctx == c && f.late.isSome)
    let y := (k.ctx c).afterTrap x skip late (k.cyc + 2)
    (k.returnTrap c skip).ctx c = (if skip && !x.after && !k.merged && y.pc.toNat = y.secEnd then y.endSection else y) ∧
      (k.returnTrap c skip).cur = k.cur := by
  intro late y
  unfold Core.returnTrap
  dsimp only
  rw [trap]
  dsimp only
  rw [Core.ctx_setCtx_same, Core.setCtx_cur]
  exact ⟨rfl, rfl⟩

theorem Context.endSection_fields (k : Context) : k.endSection.pc = k.pc ∧ k.endSection.trap = k.trap ∧ k.endSection.sbm = k.sbm ∧
    k.endSection.secDone = k.secNo ∧ k.endSection.ended = (k.ended || k.last) ∧ k.endSection.hdr = (k.hdr || !k.last) := by
  unfold Context.endSection
  cases last : k.last <;> simp

/-- x stands where k stands, whatever its section. -/
def Context.Near (k x : Context) : Prop :=
  x.pc = k.pc ∧ x.trap = k.trap ∧ x.sbm = k.sbm ∧ x.secDone = k.secDone ∧ x.ended = k.ended ∧ x.hdr = k.hdr

/-- A word skipped at the return may reach a region of the plain image (04 R92). -/
theorem State.returnTrap_near {s : State} {skip : Bool} {z : Context} (left : (s.core.returnTrap s.core.cur skip).ctx s.core.cur = z)
    (cur : (s.core.returnTrap s.core.cur skip).cur = s.core.cur) :
    z.Near (s.returnTrap s.core.cur skip).here ∧ (s.returnTrap s.core.cur skip).wlog = s.wlog := by
  have here : (s.modCore (fun k => k.returnTrap s.core.cur skip)).here = z := by
    unfold State.here
    rw [State.modCore_core, cur, left]
  unfold State.returnTrap
  dsimp only
  split
  · obtain ⟨log, -, -, -, -, same | ⟨-, more⟩⟩ := reach_only (s.modCore (fun k => k.returnTrap s.core.cur skip))
    · rw [← here]
      unfold State.here
      rw [same]
      exact ⟨⟨rfl, rfl, rfl, rfl, rfl, rfl⟩, log⟩
    · rw [← here]
      unfold State.here
      rw [more, modAll_ctx]
      exact ⟨⟨rfl, rfl, rfl, rfl, rfl, rfl⟩, log⟩
  · rw [here]
    exact ⟨⟨rfl, rfl, rfl, rfl, rfl, rfl⟩, rfl⟩

theorem eret_inPlace {s : State} {g : Guard} {skip : Bool} {x : InPlace} (ready : Ready (.eret g skip) g s) (trap : s.here.trap = some x) :
    ∃ t, exec (.eret g skip) s = .next t ∧ t.here.pc = (if skip ∧ x.after = false then x.pc + 12 else x.pc) ∧ t.here.trap = none ∧
      t.here.sbm = (!x.list.isEmpty || s.core.flights.any (fun f => f.ctx == s.core.cur && f.late.isSome)) ∧ t.mem = s.mem ∧
      (skip = true → x.after = false → s.core.merged = false → (x.pc + 12).toNat = s.here.secEnd →
        t.here.secDone = s.here.secNo ∧ t.here.ended = (s.here.ended || s.here.last) ∧ t.here.hdr = (s.here.hdr || !s.here.last)) := by
  have frame := exec_eret g skip s
  unfold execEret at frame
  have runs := takes_open (t := s.countedHere.returnTrap s.core.cur skip) frame ready (by dsimp only; rw [trap]; rfl)
  refine ⟨_, runs, ?_⟩
  let y := s.here.afterTrap x skip (s.core.flights.any (fun f => f.ctx == s.core.cur && f.late.isSome)) (s.core.cyc + 2)
  let ends := skip && !x.after && !s.core.merged && y.pc.toNat = y.secEnd
  have counted : s.countedHere.core.ctx s.core.cur = s.here := Core.count_ctx ..
  obtain ⟨at', cur⟩ := Core.returnTrap_ctx (k := s.countedHere.core) (c := s.core.cur) skip (by rw [counted, trap])
  rw [counted] at at'
  have left : (s.countedHere.core.returnTrap s.core.cur skip).ctx s.core.cur = if ends then y.endSection else y := at'
  obtain ⟨⟨pc, untrapped, sbm, done, ended, hdr⟩, log⟩ := State.returnTrap_near (s := s.countedHere) left cur
  obtain ⟨pc', trap', sbm', done', ended', hdr'⟩ := y.endSection_fields
  refine ⟨pc.trans ?_, untrapped.trans ?_, sbm.trans ?_, settled_mem_of_quiet (log.trans ready.between), fun skips word sliced last => ?_⟩
  · have at'' : y.pc = if skip ∧ x.after = false then x.pc + 12 else x.pc := if_congr (by simp) rfl rfl
    rw [← at'']
    split
    · exact pc'
    · rfl
  · split
    · exact trap'
    · rfl
  · split
    · exact sbm'
    · rfl
  · have at'' : y.pc.toNat = y.secEnd := by
      show (if skip && !x.after then x.pc + 12 else x.pc).toNat = s.here.secEnd
      rw [skips, word]
      exact last
    have stops : ends = true := by simp only [ends, skips, word, sliced, at'', decide_true, Bool.not_false, Bool.and_self]
    rw [if_pos stops] at done ended hdr
    exact ⟨done.trans done', ended.trans ended', hdr.trans hdr'⟩

/-- Settles O28: from a task's handler, from a trap of a hub core, and from an in-place trap. -/
theorem returnFromException : Obligations.ReturnFromException := by
  unfold Obligations.ReturnFromException
  intro s g skip p k b1 b2 pc mode r x ready
  exact ⟨eret_handler ready, eret_trap ready, eret_inPlace ready⟩

end Sys2Proof.Machine
end

section
/-! PROOFS. O21: TLRD and WAITC (spec/22 R366; spec/23 R404). -/

namespace Sys2Proof.Machine

section
variable {i : Instr} {g : Guard} {body : Body} {s t : State} (frame : exec i s = runWord i g { hub := true } body s) (ready : Ready i g s)
  (compute : s.core.hub = false)
include frame ready compute

theorem completes_compute_like (runs : body s = .ok (.next t)) (like : Like s t) : Completes i s t :=
  completes_compute frame ready compute runs (like.plain ready.room)

theorem completes_compute_landReg {d : Dst} {v : Word} {lat : Nat} {fl : Flags} (like : Like s t)
    (runs : body s = .ok (.next (t.landReg d v lat fl))) : Completes i s (t.landReg d v lat fl) :=
  completes_compute frame ready compute runs (like.after ready.room _ (resultsOf_dst ..))

/-- A word that blocks stands where it stood, and its context waits on it (03 R65). -/
theorem blocks_here (runs : body s = .ok (.block s)) :
    ∃ t : State, exec i s = .next t ∧ t.here.pc = s.here.pc ∧ t.here.wait.isSome = true := by
  rw [runWord_body ready (fun hub => absurd hub (by rw [compute]; decide)) rfl (fun _ => rfl), runs] at frame
  refine ⟨_, frame, ?_⟩
  have here (u : State) : u.unbank.here = u.here := by
    unfold State.here
    cases cur : u.core.cur <;> simp [State.unbank, State.modCore, Core.ctx, cur]
  show (s.blockOn i).here.pc = s.here.pc ∧ (s.blockOn i).here.wait.isSome = true
  unfold State.blockOn
  rw [here, State.modHere_here]
  exact ⟨rfl, rfl⟩

end

section
variable {s : State} {ch : ChainId}

/-! ### TLRD -/

/-- The append number as a context reads it, or the counter (22 R366). -/
def Core.timeline (k : Core) (ch : ChainId) (appends : Bool) : Nat :=
  if appends then (k.chain ch).append -
    (if k.merged then 0 else ((k.chain ch).entries.filter (fun e => e.cyc == k.cyc && e.ctx != k.cur)).length)
  else (k.chain ch).counter

theorem tlrd_completes {appends : Bool} {f : OpD} (compute : s.core.hub = false) (ready : Ready (.tlrd ch appends f) f.g s)
    (journals : Journals s) : Completes (.tlrd ch appends f) s
      ((noted s [w64 (s.core.timeline ch appends)] s).landReg f.d (w64 (s.core.timeline ch appends)) 4) := by
  have frame : exec (.tlrd ch appends f) s = execTlrd ch appends f s := rfl
  unfold execTlrd at frame
  refine completes_compute_landReg frame ready compute (noted_like s _ s) ?_
  dsimp only
  rw [journalled_journals (v := [w64 (s.core.timeline ch appends)]) (t := s) journals rfl]
  rfl

/-! ### WAITC -/

/-- The entries up to n have been acquired (10 R182). -/
def State.acquiredUpTo (s : State) (ch : ChainId) (n : Nat) : State := s.modCore (fun k => k.acquired ch (fun m => decide (m ≤ n)))

theorem State.acquired_like (s : State) (ch : ChainId) (p : Nat → Bool) : Like s (s.modCore (fun k => k.acquired ch p)) := by
  cases ch <;> exact ⟨rfl, rfl, rfl⟩

variable {h : OpA}

theorem waitc_completes (compute : s.core.hub = false) (ready : Ready (.waitc ch h) h.g s) (drained' : Drained s)
    (reached : (s.src h.a).toNat ≤ (s.core.chain ch).counter) :
    Completes (.waitc ch h) s (s.modCore (fun k => k.acquired ch (fun n => decide (n ≤ (s.src h.a).toNat)))).syncDone := by
  have frame : exec (.waitc ch h) s = execWaitc ch h s := rfl
  unfold execWaitc at frame
  refine completes_compute_like frame ready compute ?_ ((s.acquired_like ch _).trans (State.syncDone_like _))
  rw [drained_of drained', if_pos reached]

theorem waitc_blocks (compute : s.core.hub = false) (ready : Ready (.waitc ch h) h.g s) (drained' : Drained s)
    (before : (s.core.chain ch).counter < (s.src h.a).toNat) :
    ∃ t : State, exec (.waitc ch h) s = .next t ∧ t.here.pc = s.here.pc ∧ t.here.wait.isSome = true := by
  have frame : exec (.waitc ch h) s = execWaitc ch h s := rfl
  unfold execWaitc at frame
  refine blocks_here frame ready compute ?_
  rw [drained_of drained', if_neg (Nat.not_le.mpr before)]

end

/-- Settles O21, word by word. -/
theorem timelineWordsComplete : Obligations.TimelineWordsComplete := by
  unfold Obligations.TimelineWordsComplete
  intro s ch f h compute
  refine ⟨tlrd_completes compute, fun ready journals merged => ?_, fun ready journals sliced => ?_, waitc_completes compute, waitc_blocks compute⟩
  · have completes := tlrd_completes compute ready journals
    have value : s.core.timeline ch true = (s.core.chain ch).append := by
      unfold Core.timeline
      rw [merged]
      rfl
    rwa [value] at completes
  · have completes := tlrd_completes compute ready journals
    have value : s.core.timeline ch true =
        (s.core.chain ch).append - ((s.core.chain ch).entries.filter (fun e => e.cyc == s.core.cyc && e.ctx != s.core.cur)).length := by
      unfold Core.timeline
      rw [sliced]
      rfl
    rwa [value] at completes

end Sys2Proof.Machine
end

section
/-! PROOFS. O22: SALLOC, SFREE, WIND and LIFE (spec/21 R322; spec/22 R346, R351; spec/23 R406). -/

namespace Sys2Proof.Machine

/-! ### A change of some elements of a list -/

section
variable {α : Type} {p q : α → Bool} {f : α → α}

theorem find?_mapIf_none (gone : ∀ x, p (f x) = false) (l : List α) : (mapIf p f l).find? p = none := by
  refine List.find?_eq_none.mpr fun y among => ?_
  obtain ⟨x, -, rfl⟩ := List.mem_map.mp among
  split
  · rw [gone x]; exact Bool.false_ne_true
  · assumption

theorem find?_mapIf_apart (apart : ∀ x, q x = true → p x = false ∧ p (f x) = false) (l : List α) :
    (mapIf q f l).find? p = l.find? p := by
  unfold mapIf
  induction l with
  | nil => rfl
  | cons x r ih =>
    rw [List.map_cons, List.find?_cons, List.find?_cons, ih]
    cases changed : q x with
    | false => rw [if_neg Bool.false_ne_true]
    | true =>
      obtain ⟨before, after⟩ := apart x changed
      rw [if_pos rfl, before, after]

end

/-! ### Allocations of a core -/

theorem Core.alloc_modAlloc_other {k : Core} {id i : BitVec 8} {f : Alloc → Alloc} (keeps : ∀ a, (f a).id = a.id) (other : i ≠ id) :
    (modAlloc k id f).alloc i = k.alloc i := by
  refine find?_mapIf_apart (fun a changed => ?_) _
  simp only [Bool.and_eq_true, beq_iff_eq] at changed
  obtain ⟨⟨named, -⟩, -⟩ := changed
  rw [keeps a, named, beq_false_of_ne (Ne.symm other)]
  exact ⟨rfl, rfl⟩

theorem checkScratch124_alloc {k : Core} {p : Word} {a : Alloc} (h : checkScratch124 k p = .ok a) : k.alloc a.id = some a := by
  unfold checkScratch124 at h
  split at h
  · cases h
  · split at h
    · cases h
    · next found =>
      split at h
      · cases h
      · cases h
        rw [beq_iff_eq.mp (Core.alloc_named found).1]
        exact found

theorem Core.alloc_unmap_other {k : Core} {id i : BitVec 8} (other : i ≠ id) (ord : Nat) : (k.unmap id ord).alloc i = k.alloc i :=
  Core.alloc_modAlloc_other (f := fun a => { (a.note ord) with window := none, lines := [], ahead := [] }) (fun _ => rfl) other

/-- Freeing an allocation (22 R351). -/
theorem Core.freeAlloc_frees {k : Core} {a : Alloc} (found : k.alloc a.id = some a) (ord : Nat) :
    (k.freeAlloc a.id ord).alloc a.id = none ∧ (∀ i, i ≠ a.id → (k.freeAlloc a.id ord).alloc i = k.alloc i) ∧
      (k.freeAlloc a.id ord).ringOf a.id = none := by
  unfold Core.alloc at found
  unfold Core.freeAlloc
  rw [found]
  dsimp only
  refine ⟨find?_mapIf_none (fun x => ?_) _, fun i other => ?_, find?_mapIf_none (fun r => ?_) _⟩
  · exact Bool.and_false _ ▸ Bool.false_and _
  · refine (Core.alloc_modAlloc_other (k := k.unmap a.id ord) (f := fun a => { a with freed := some ord }) (fun _ => rfl) other).trans ?_
    exact Core.alloc_unmap_other other ord
  · exact Bool.and_false _

/-- The expiry that WIND gives (23 R406). -/
theorem Core.applyPut_expiry_alloc {k : Core} {a : Alloc} (found : k.alloc a.id = some a) (t : Nat) :
    (k.applyPut (.expiry a.id t)).alloc a.id = some (a.wound k.nowAt t) := by
  refine Core.alloc_modAlloc found fun b => ?_
  unfold Alloc.wound
  cases b.backed <;> exact ⟨rfl, rfl, rfl⟩

theorem Alloc.wound_own {a : Alloc} (own : a.backed = false) (now t : Nat) :
    (a.wound now t).expiry = t ∧ (a.wound now t).expired = false := by
  unfold Alloc.wound
  rw [own]
  exact ⟨rfl, rfl⟩

theorem Alloc.wound_window {a : Alloc} (window : a.backed = true) {now t : Nat} {l : Line} (held : l ∈ (a.wound now t).lines) :
    l.expiry = t ∨ l ∈ a.lines ∧ l.lapsed now = true := by
  unfold Alloc.wound at held
  rw [window] at held
  obtain ⟨x, before, rfl⟩ := List.mem_map.mp held
  split
  · next lapsed => exact .inr ⟨before, lapsed⟩
  · exact .inl rfl

/-! ### The words -/

theorem State.makeAlloc_failed (s : State) (base : Word) (size : Nat) (bk z : Bool) : s.makeAlloc (-1) base size bk z = s :=
  if_pos (show (-1 : Word) = Config.allOnes by decide)

theorem State.makeAlloc_like (s : State) (p base : Word) (size : Nat) (bk z : Bool) : Like s (s.makeAlloc p base size bk z) := by
  unfold State.makeAlloc
  split
  · exact .refl s
  · exact ⟨rfl, rfl, by unfold Core.interlocked; rfl⟩

section
variable {s : State} (compute : s.core.hub = false)
include compute

theorem salloc_completes {g : Guard} {d : BitVec 5} {wbs bk z : Bool} {u : BitVec 20} {p base : Word} {t : State}
    (ready : Ready (.salloc g d wbs u bk z) g s) (journals : Journals s) (picks : pickAlloc s (4096 * u.toNat) = ([p, base], t)) (like : Like s t) :
    Completes (.salloc g d wbs u bk z) s (((noted s [p, base] t).makeAlloc p base (4096 * u.toNat) bk z).landPlain d wbs p 4) := by
  have frame : exec (.salloc g d wbs u bk z) s = execSalloc g d wbs u bk z s := rfl
  unfold execSalloc at frame
  refine completes_compute_landReg frame ready compute ((like.trans (noted_like ..)).trans (State.makeAlloc_like ..)) ?_
  dsimp only
  rw [journalled_journals (v := [p, base]) (t := t) journals (by rw [picks])]
  rfl

theorem sfree_completes {f : OpA} {a : Alloc} (ready : Ready (.sfree f) f.g s) (checked : checkScratch124 s.core (s.src f.a) = .ok a) :
    Completes (.sfree f) s (s.landLater [.free a.id s.here.ord]) := by
  have frame : exec (.sfree f) s = execSfree f s := rfl
  unfold execSfree at frame
  refine completes_compute frame ready compute ?_ (State.landLater_room ready.room _)
  rw [checked]

theorem wind_completes {h : OpAB} {a : Alloc} (ready : Ready (.wind h) h.g s) (checked : checkScratch124 s.core (s.src h.a) = .ok a)
    (fresh : a.backed = false → a.expired = false ∧ s.core.nowAt < a.expiry) :
    Completes (.wind h) s ((s.modCore (fun k => modAlloc k a.id (Alloc.note s.here.ord))).landLater
      [.expiry a.id (s.core.nowAt + min (s.src h.b).toNat 1600)]) := by
  have frame : exec (.wind h) s = execWind h s := rfl
  unfold execWind at frame
  have valid : (!a.backed && (a.expired || decide (a.expiry ≤ s.core.nowAt))) = false := by
    cases own : a.backed with
    | true => rfl
    | false =>
      obtain ⟨unexpired, before⟩ := fresh own
      rw [unexpired, decide_eq_false (Nat.not_le.mpr before)]
      rfl
  have noted := modAlloc_like s a.id (Alloc.note s.here.ord)
  refine completes_compute frame ready compute ?_
    (State.landLater_room (s := s.modCore (fun k => modAlloc k a.id (Alloc.note s.here.ord))) (noted.room ready.room) _)
  dsimp only
  rw [checked]
  dsimp only
  rw [valid]
  rfl

theorem life_completes {g : Guard} {d : BitVec 5} {wbs : Bool} {x : Src} {a : Alloc} (ready : Ready (.life g d wbs x) g s)
    (journals : Journals s) (checked : checkScratch124 s.core (s.src x) = .ok a) :
    let v := w64 (lifeOf s.core a (ptrOff (s.src x)) s.core.nowAt)
    Completes (.life g d wbs x) s ((noted s [v] s).landPlain d wbs v 4) := by
  intro v
  have frame : exec (.life g d wbs x) s = execLife g d wbs x s := rfl
  unfold execLife at frame
  refine completes_compute_landReg frame ready compute (noted_like ..) ?_
  dsimp only
  rw [checked]
  dsimp only
  rw [journalled_journals (v := [v]) (t := s) journals rfl]
  rfl

end

theorem pickAlloc_fits {s : State} {size id base : Nat} (free : freeId s.core = some id) (place : placeAlloc s.core size = some base) :
    pickAlloc s size = ([w64 ((pickTag s.core id s.draw.1).toNat * 2 ^ 60 + id * 2 ^ 24), w64 base], s.draw.2) := by
  unfold pickAlloc
  rw [free, place]

theorem pickAlloc_full {s : State} {size : Nat} (full : freeId s.core = none ∨ placeAlloc s.core size = none) :
    pickAlloc s size = ([-1, 0], s) := by
  unfold pickAlloc
  obtain none | none := full
  · rw [none]; rfl
  · rw [none]; cases freeId s.core <;> rfl

/-- Settles O22, word by word. -/
theorem allocationWordsComplete : Obligations.AllocationWordsComplete := by
  unfold Obligations.AllocationWordsComplete
  intro s g d wbs bk z u f h x a id base compute
  refine ⟨?_, ?_, ?_, ?_, ?_⟩
  · intro ready journals free place p
    exact salloc_completes compute ready journals (pickAlloc_fits free place) (modM_like ..)
  · intro ready journals full
    have completes := salloc_completes compute ready journals (pickAlloc_full full) (.refl s)
    rw [State.makeAlloc_failed] at completes
    exact completes
  · intro ready checked k
    refine ⟨sfree_completes compute ready checked, ?_⟩
    exact Core.freeAlloc_frees (checkScratch124_alloc checked) s.here.ord
  · intro ready checked fresh limit k
    refine ⟨wind_completes compute ready checked fresh, ?_⟩
    intro b left found
    have left := Option.some.inj (left.symm.trans (Core.applyPut_expiry_alloc found limit))
    rw [left]
    exact ⟨fun own => Alloc.wound_own own .., fun window l held => Alloc.wound_window window held⟩
  · exact life_completes compute

end Sys2Proof.Machine
end

section
/-! PROOFS. O23: SMAP, SUNMAP, LOCK and UNLOCK (spec/21 R323; spec/22 R354, R360; spec/23 R370). -/

namespace Sys2Proof.Machine

/-! ### Unmapping a window -/

theorem Core.alloc_unmap {k : Core} {a : Alloc} (found : k.alloc a.id = some a) (ord : Nat) :
    (k.unmap a.id ord).alloc a.id = some { (a.note ord) with window := none, lines := [], ahead := [] } :=
  Core.alloc_modAlloc (f := fun a => { (a.note ord) with window := none, lines := [], ahead := [] }) found fun _ => ⟨rfl, rfl, rfl⟩

theorem Core.unmap_pins {k : Core} {id : BitVec 8} {ord : Nat} {c : Ctx} {p : BitVec 8 × Nat} (pinned : p ∈ ((k.unmap id ord).ctx c).pins) :
    p.1 ≠ id := by
  unfold Core.unmap at pinned
  rw [Core.ctx_modAll] at pinned
  exact bne_iff_ne.mp (List.mem_filter.mp pinned).2

theorem State.unmap_like (s : State) (id : BitVec 8) (ord : Nat) : Like s (s.modCore (fun k => k.unmap id ord)) :=
  ⟨rfl, rfl, by unfold Core.interlocked; rfl⟩

/-! ### Pins -/

/-- The pins of the context at issue with those of a LOCK (21 R323). -/
def Context.pin (id : BitVec 8) (ls : List Nat) (c : Context) : Context :=
  { c with pins := c.pins ++ (ls.filter (fun l => !c.pins.contains (id, l))).map (fun l => (id, l)) }

theorem Context.mem_pin {id : BitVec 8} {ls : List Nat} {c : Context} {l : Nat} (among : l ∈ ls) : (id, l) ∈ (c.pin id ls).pins := by
  unfold Context.pin
  refine List.mem_append.mpr ?_
  by_cases before : (id, l) ∈ c.pins
  · exact .inl before
  · refine .inr (List.mem_map_of_mem (List.mem_filter.mpr ⟨among, ?_⟩))
    rw [List.contains_eq_mem, decide_eq_false before]
    rfl

/-- What a LOCK that answers 0 does to its core: it pins its lines and fills them (21 R323). -/
def Core.locked (a : Alloc) (ls : List Nat) (ps : List Piece) (now : Nat) (k : Core) : Core :=
  let k1 := k.modCtx k.cur (Context.pin a.id ls)
  modAlloc (k1.healFills a.id (128 * ls.headD 0) ps) a.id (fun a => touchLines k1 now false a (128 * ls.headD 0) ps)

section
variable (s : State) (a : Alloc) (ls : List Nat) (ps : List Piece) (now : Nat)

theorem State.locked_like : Like s (s.modCore (Core.locked a ls ps now)) :=
  (s.modHere_like (Context.pin a.id ls)).trans (marked_like (s.modHere (Context.pin a.id ls)) (fun k => k.healFills a.id (128 * ls.headD 0) ps)
    (fun k => healFills_only k ..) a.id (fun k a => touchLines k now false a (128 * ls.headD 0) ps))

theorem State.locked_here : (s.modCore (Core.locked a ls ps now)).here = s.here.pin a.id ls := by
  have filled : ∀ k : Core, ((k.healFills a.id (128 * ls.headD 0) ps).ctx (k.healFills a.id (128 * ls.headD 0) ps).cur) = k.ctx k.cur := fun k => by
    obtain ⟨b, only⟩ := healFills_only k a.id (128 * ls.headD 0) ps
    rw [only]
    cases k.cur <;> rfl
  have kept : ∀ (k : Core) (f : Alloc → Alloc), (modAlloc k a.id f).ctx (modAlloc k a.id f).cur = k.ctx k.cur := fun k f => by
    cases c : k.cur <;> exact congrArg _ c
  refine (kept ..).trans ((filled _).trans ?_)
  rw [Core.modCtx_cur, Core.ctx_modCtx_same]
  rfl

end

/-- What a LOCK with the status st leaves, before the status lands. -/
def State.lockEffect (s : State) (a : Alloc) (ls : List Nat) (ps : List Piece) (now st : Nat) : State :=
  if st = 0 then (s.snoopReads (some a.id) ps).modCore (Core.locked a ls ps now) else s

theorem State.lockEffect_like (s : State) (a : Alloc) (ls : List Nat) (ps : List Piece) (now st : Nat) : Like s (s.lockEffect a ls ps now st) := by
  unfold State.lockEffect
  split
  · exact (snoopReads_like ..).trans (State.locked_like ..)
  · exact .refl s

theorem linesOf_nonempty (off : Nat) {n : Nat} (some : n ≠ 0) : (linesOf off n).isEmpty = false := by
  unfold linesOf
  rw [List.isEmpty_eq_false_iff, Ne, List.map_eq_nil_iff, List.range_eq_nil]
  omega

theorem rangeLines_none (off : Nat) : rangeLines off 0 = [] := rfl

theorem rangeLines_some (off : Nat) {n : Nat} (some : n ≠ 0) : rangeLines off n = linesOf off n := if_neg some

/-! ### Dropping pins -/

section
variable {cs : List Ctx} {id : BitVec 8} {ls : List Nat}

theorem Core.mem_unpin {c : Ctx} {x : BitVec 8 × Nat} {k : Core} :
    x ∈ ((k.applyPut (.unpin cs id ls)).ctx c).pins ↔ x ∈ (k.ctx c).pins ∧ (c ∈ cs → ¬ (x.1 = id ∧ x.2 ∈ ls)) := by
  unfold Core.applyPut
  dsimp only
  induction cs generalizing k with
  | nil => simp
  | cons d r ih =>
    rw [List.foldl_cons, ih, Core.ctx_modCtx]
    by_cases same : c = d
    · subst same
      simp [and_assoc]
      tauto
    · simp [same]

theorem Core.unpin_allocs {k : Core} : (k.applyPut (.unpin cs id ls)).allocs = k.allocs := by
  unfold Core.applyPut
  dsimp only
  induction cs generalizing k with
  | nil => rfl
  | cons d r ih => rw [List.foldl_cons, ih, Core.modCtx_allocs]

end

/-! ### The words -/

section
variable {s : State} {a : Alloc} {w : Nat} (compute : s.core.hub = false)
include compute

theorem smap_completes {h : OpAB} {len : BitVec 32} (ready : Ready (.smap h len) h.g s) (checked : checkScratch124 s.core (s.src h.a) = .ok a)
    (window : a.backed = true) (long : a.size ≤ len.toNat) (space : (s.src h.b).toNat / 2 ^ 56 % 16 = 0) (aligned : (s.src h.b).toNat % 256 = 0) :
    Completes (.smap h len) s (s.modCore (fun k => modAlloc (k.unmap a.id s.here.ord) a.id (fun a =>
      { a with window := some ((s.src h.b).toNat % 2 ^ 56, len.toNat) }))) := by
  have frame : exec (.smap h len) s = execSmap h len s := rfl
  unfold execSmap at frame
  have low : ∀ n, fld (s.src h.b).toNat 0 n = (s.src h.b).toNat % 2 ^ n := fun n => by unfold fld; rw [Nat.pow_zero, Nat.div_one]
  refine completes_compute_like frame ready compute ?_ ((State.unmap_like ..).trans (modAlloc_like ..))
  dsimp only
  rw [checked]
  dsimp only
  have space : fld (s.src h.b).toNat 56 4 = 0 := space
  rw [window, decide_eq_false (Nat.not_lt.mpr long), low 8, low 56, space, show (s.src h.b).toNat % 2 ^ 8 = 0 from aligned]
  rfl

theorem sunmap_completes {f : OpA} (ready : Ready (.sunmap f) f.g s) (checked : checkScratch124 s.core (s.src f.a) = .ok a)
    (window : a.backed = true) : Completes (.sunmap f) s (s.modCore (fun k => k.unmap a.id s.here.ord)) := by
  have frame : exec (.sunmap f) s = execSunmap f s := rfl
  unfold execSunmap at frame
  refine completes_compute_like frame ready compute ?_ (State.unmap_like ..)
  dsimp only
  rw [checked]
  dsimp only
  rw [window]
  rfl

theorem lock_empty_completes {k : AluRR} (ready : Ready (.lock k) k.g s) (checked : checkRange s.core (s.src k.a) (s.src k.b) = .ok (a, w))
    (empty : s.src k.b = 0) : Completes (.lock k) s (s.landReg k.d 0 4) := by
  have frame : exec (.lock k) s = execLock k s := rfl
  unfold execLock at frame
  refine completes_compute_landReg frame ready compute (.refl s) ?_
  dsimp only
  rw [checked, empty]
  rfl

theorem lock_completes {k : AluRR} {ps : List Piece} {s1 : State} (ready : Ready (.lock k) k.g s)
    (checked : checkRange s.core (s.src k.a) (s.src k.b) = .ok (a, w)) (some : s.src k.b ≠ 0) :
    let ls := linesOf (ptrOff (s.src k.a)) (s.src k.b).toNat
    checkVirtual s s.root (s.src k.a) (w + 128 * ls.headD 0) (128 * ls.length)
      { wr := false, poison := false, tag := false, race := false } none none 0 = .ok (ps, s1) →
    Completes (.lock k) s ((s1.lockEffect a ls ps s.core.nowAt (lockStatus s.core a ls)).landReg k.d (w64 (lockStatus s.core a ls)) 4) := by
  intro ls reached
  have frame : exec (.lock k) s = execLock k s := rfl
  unfold execLock at frame
  have some : (s.src k.b).toNat ≠ 0 := fun none => some (BitVec.eq_of_toNat_eq none)
  refine completes_compute_landReg frame ready compute ((checkVirtual_only reached).1.like.trans (State.lockEffect_like ..)) ?_
  dsimp only
  rw [checked]
  dsimp only
  rw [rangeLines_some _ some, linesOf_nonempty _ some, if_neg Bool.false_ne_true, reached]
  rfl

theorem unlock_completes {h : OpAB} (ready : Ready (.unlock h) h.g s) (checked : checkRange s.core (s.src h.a) (s.src h.b) = .ok (a, w)) :
    Completes (.unlock h) s (s.landLater
      [.unpin (if s.core.merged then [.L, .C, .S] else [s.core.cur]) a.id (rangeLines (ptrOff (s.src h.a)) (s.src h.b).toNat)]) := by
  have frame : exec (.unlock h) s = execUnlock h s := rfl
  unfold execUnlock at frame
  refine completes_compute frame ready compute ?_ (State.landLater_room ready.room _)
  rw [checked]

end

theorem mem_reached {k : Core} {c : Ctx} (reached : k.merged = true ∨ c = k.cur) : c ∈ (if k.merged then [.L, .C, .S] else [k.cur] : List Ctx) := by
  split
  · cases c <;> decide
  · next sliced => exact List.mem_singleton.mpr (reached.resolve_left sliced)

/-- Settles O23, word by word. -/
theorem windowWordsComplete : Obligations.WindowWordsComplete := by
  unfold Obligations.WindowWordsComplete
  intro s s1 h len f k a w ps compute
  refine ⟨smap_completes compute, ?_, lock_empty_completes compute, ?_, ?_⟩
  · intro ready checked window
    refine ⟨_, sunmap_completes compute ready checked window, fun b left => ?_, fun c p => Core.unmap_pins, rfl⟩
    have left := Option.some.inj (left.symm.trans (Core.alloc_unmap (checkScratch124_alloc checked) s.here.ord))
    rw [left]
    exact ⟨rfl, rfl⟩
  · intro ready checked some ls reached
    refine ⟨_, lock_completes compute ready checked some reached, fun free l among => ?_, fun refused => if_neg refused⟩
    unfold State.lockEffect
    rw [if_pos free, State.locked_here]
    exact Context.mem_pin among
  · intro ready checked ls drop u
    refine ⟨unlock_completes compute ready checked, fun c l among reached pinned => ?_, fun c x pinned => ?_, fun c x pinned apart => ?_, Core.unpin_allocs⟩
    · exact (Core.mem_unpin.mp pinned).2 (mem_reached reached) ⟨rfl, among⟩
    · exact (Core.mem_unpin.mp pinned).1
    · exact Core.mem_unpin.mpr ⟨pinned, fun _ ⟨named, among⟩ => apart.elim (fun other => other named) (fun outside => outside among)⟩

end Sys2Proof.Machine
end

section
/-! PROOFS. O24: RINGI, AWAITF and RELS (spec/20 R291; spec/22 R341, R344). -/

namespace Sys2Proof.Machine

/-! ### Rings of a core -/

theorem Core.ring_num {k : Core} {n : Nat} {r : Ring} (found : k.ring n = some r) : r.num = n := by
  have named := List.find?_some found
  rw [Bool.and_eq_true] at named
  exact beq_iff_eq.mp named.1

theorem Core.ring_modRing {k : Core} {n : Nat} {r : Ring} {f : Ring → Ring} (found : k.ring n = some r)
    (keeps : ∀ r, (f r).num = r.num ∧ (f r).ended = r.ended) : (modRing k n f).ring n = some (f r) := by
  have one : (modRing k n f).ring n = (k.ring n).map f := find?_mapIf (fun r => by rw [(keeps r).1, (keeps r).2]) k.rings
  rw [one, found]
  rfl

/-- The number that RINGI gives is no ring's (08 R159). -/
theorem State.ringNumber_free {s : State} {n : Nat} (given : s.ringNumber = some n) : s.core.ring n = none := by
  have free : (!((s.core.rings.filter (fun r => r.ended.isNone)).map (·.num)).contains n) = true := by
    unfold State.ringNumber at given
    obtain own | ⟨-, least⟩ := Option.or_eq_some_iff.mp given
    · exact (Option.filter_eq_some_iff.mp own).2
    · unfold leastFree at least
      exact List.find?_some (p := fun k => !((s.core.rings.filter (fun r => r.ended.isNone)).map (·.num)).contains k) least
  refine List.find?_eq_none.mpr fun r among named => ?_
  rw [Bool.and_eq_true, beq_iff_eq] at named
  obtain ⟨rfl, open'⟩ := named
  rw [Bool.not_eq_true', List.contains_eq_mem, decide_eq_false_iff_not] at free
  exact free (List.mem_map_of_mem (List.mem_filter.mpr ⟨among, open'⟩))

theorem Core.ring_append {k : Core} {r : Ring} (free : k.ring r.num = none) (open' : r.ended = none) (log : List (Nat × Word × Nat × Nat)) :
    ({ k with rings := k.rings ++ [r], ringLog := log } : Core).ring r.num = some r := by
  unfold Core.ring at free ⊢
  rw [List.find?_append, free, Option.none_or, List.find?_cons, beq_self_eq_true, open']
  rfl

theorem State.syncDone_ring (s : State) (n : Nat) : s.syncDone.core.ring n = s.core.ring n := by
  obtain ⟨task, done⟩ := s.syncDone_core
  rw [done]
  rfl

theorem noted_ring (s : State) (v : List Word) (t : State) (n : Nat) : (noted s v t).core.ring n = t.core.ring n := by
  unfold noted
  split <;> rfl

theorem State.ringNumber_issue {s : State} (first : s.core.again = false) :
    s.ringNumber = leastFree ((s.core.rings.filter (fun r => r.ended.isNone)).map (·.num)) 8 := by
  unfold State.ringNumber
  have none : s.core.ringLog.find? (fun e => s.core.again && e.1 == s.here.ord && e.2.1 == s.lpc && e.2.2.1 == s.here.occ s.here.ord s.lpc) = none :=
    List.find?_eq_none.mpr fun e _ => by rw [first]; exact Bool.false_ne_true
  dsimp only
  rw [none]
  rfl

/-! ### RINGI -/

/-- The two fields of RINGI's operand (22 R344). -/
theorem ringi_fields {b sz ns : Nat} (operand : b = ns * 65536 + sz) (short : sz < 65536) (few : ns ≤ 64) :
    fld b 0 16 = sz ∧ fld b 16 7 = ns ∧ fld b 23 41 = 0 := by
  unfold fld
  omega

/-- The ring that RINGI starts, Free (08 R159). -/
def State.newRing (s : State) (a : Alloc) (p : Word) (n sz ns : Nat) : Ring :=
  { num := n, alloc := a.id, slotsz := sz, nslot := ns, rels := 0, filled := 0, pend := [], tag := ptrTag p, exps := [], fills := [],
    reader := .C, made := s.here.ord, ended := none, uid := s.core.freshRing }

/-- RINGI's effect: the ring, and its number on record for a replay (22 R347). -/
def State.addRing (s : State) (r : Ring) : State :=
  let log := (s.here.ord, s.lpc, s.here.occ s.here.ord s.lpc, r.num)
  s.modCore (fun k => { k with rings := k.rings ++ [r], ringLog := log :: k.ringLog.filter (· != log) })

theorem State.addRing_like (s : State) (r : Ring) : Like s (s.addRing r) := ⟨rfl, rfl, by unfold Core.interlocked; rfl⟩

/-- RELS frees the slot at RD (22 R341). -/
def Ring.freed (cur : Ctx) (r : Ring) : Ring :=
  { r with rels := r.rels + 1, filled := r.filled - 1, pend := r.pend.filter (fun p => p.pos != r.rels), reader := cur,
           fills := r.fills.filter (fun f => decide (r.rels < f.1)) }

/-- RELS's effect (22 R341). -/
def State.released (s : State) (r : Ring) : State :=
  (s.modCore (fun k => (modRing k r.num (Ring.freed s.core.cur)).releaseAhead r.num r.rd)).syncDone

theorem State.released_like (s : State) (r : Ring) : Like s (s.released r) :=
  Like.trans (t := s.modCore (fun k => (modRing k r.num (Ring.freed s.core.cur)).releaseAhead r.num r.rd))
    ⟨rfl, rfl, by unfold Core.interlocked; rfl⟩ (State.syncDone_like _)

section
variable {s : State} (compute : s.core.hub = false)
include compute

theorem ringi_completes {h : AluRR} {a : Alloc} {k sz ns : Nat} (ready : Ready (.ringi h) h.g s) (checked : checkScratch124 s.core (s.src h.a) = .ok a)
    (operand : (s.src h.b).toNat = ns * 65536 + sz) (slot : 1 ≤ sz) (short : sz < 65536) (two : 2 ≤ ns) (few : ns ≤ 64)
    (own : a.backed = false) (bare : s.core.ringOf a.id = none) (first : ptrOff (s.src h.a) = 0) (fits : ns * sz * 256 ≤ a.size)
    (given : s.ringNumber = some k) :
    Completes (.ringi h) s ((s.addRing (s.newRing a (s.src h.a) k sz ns)).landReg h.d (w64 k) 4) := by
  have frame : exec (.ringi h) s = execRingi h s := rfl
  unfold execRingi at frame
  obtain ⟨size, slots, rest⟩ := ringi_fields operand short few
  refine completes_compute_landReg frame ready compute (State.addRing_like ..) ?_
  dsimp only
  rw [checked, size, slots, rest]
  dsimp only
  rw [if_neg (by omega), own, bare, first, decide_eq_false (Nat.not_lt.mpr fits), given]
  rfl

/-! ### AWAITF and RELS -/

/-- AWAITF's effect: the slot's reader, and the fills it acquires (20 R291). -/
def State.awaited (s t : State) (r : Ring) : State :=
  (t.modCore (fun k => (modRing k r.num (fun r => { r with reader := s.core.cur })).acquired .tci
    (fun n => r.fills.contains (r.rels, n)))).syncDone

theorem awaitf_completes {n : BitVec 3} {f : OpD} {r : Ring} (ready : Ready (.awaitf n f) f.g s) (drained' : Drained s) (journals : Journals s)
    (found : s.core.ring n.toNat = some r) (filled : r.filled ≠ 0) :
    Completes (.awaitf n f) s ((s.awaited (noted s [r.pointer s.core] s) r).landReg f.d (r.pointer s.core) 4) := by
  have frame : exec (.awaitf n f) s = execAwaitf n f s := rfl
  unfold execAwaitf at frame
  have like : Like s (s.awaited (noted s [r.pointer s.core] s) r) :=
    ((noted_like s _ s).trans (Calm.modRing ..).like).trans ((State.acquired_like _ .tci _).trans (State.syncDone_like _))
  refine completes_compute_landReg frame ready compute like ?_
  dsimp only
  rw [drained_of drained', found]
  dsimp only
  rw [if_neg (fun none => filled none.1), journalled_journals (v := [r.pointer s.core]) (t := s) journals rfl]
  rfl

theorem rels_completes {g : Guard} {n : BitVec 3} {r : Ring} (ready : Ready (.rels g n) g s) (drained' : Drained s)
    (found : s.core.ring n.toNat = some r) (goes : r.filled ≠ 0 ∨ s.core.inReplay = true) : Completes (.rels g n) s (s.released r) := by
  have frame : exec (.rels g n) s = execRels g n s := rfl
  unfold execRels at frame
  refine completes_compute_like frame ready compute ?_ (State.released_like ..)
  have open' : ¬ (r.filled = 0 ∧ (!s.core.inReplay) = true) := fun ⟨bare, live⟩ =>
    goes.elim (fun filled => filled bare) (fun replay => by rw [replay] at live; exact Bool.false_ne_true live)
  rw [drained_of drained', found]
  dsimp only
  rw [if_neg open']
  rfl

theorem rels_blocks {g : Guard} {n : BitVec 3} {r : Ring} (ready : Ready (.rels g n) g s) (drained' : Drained s)
    (found : s.core.ring n.toNat = some r) (bare : r.filled = 0) (live : s.core.inReplay = false) :
    ∃ t : State, exec (.rels g n) s = .next t ∧ t.here.pc = s.here.pc ∧ t.here.wait.isSome = true := by
  have frame : exec (.rels g n) s = execRels g n s := rfl
  unfold execRels at frame
  refine blocks_here frame ready compute ?_
  rw [drained_of drained', found]
  dsimp only
  rw [if_pos ⟨bare, by rw [live]; rfl⟩]

end

theorem State.released_ring {s : State} {n : Nat} {r : Ring} (found : s.core.ring n = some r) :
    (s.released r).core.ring n = some (r.freed s.core.cur) := by
  unfold State.released
  obtain rfl := Core.ring_num found
  rw [State.syncDone_ring]
  exact Core.ring_modRing found fun _ => ⟨rfl, rfl⟩

theorem State.awaited_ring {s : State} {v : List Word} {n : Nat} {r : Ring} (found : s.core.ring n = some r) :
    (s.awaited (noted s v s) r).core.ring n = some { r with reader := s.core.cur } := by
  unfold State.awaited
  obtain rfl := Core.ring_num found
  rw [State.syncDone_ring]
  exact Core.ring_modRing (k := (noted s v s).core) (f := fun r => { r with reader := s.core.cur }) ((noted_ring ..).trans found) fun _ => ⟨rfl, rfl⟩

/-- Settles O24, word by word. -/
theorem ringWordsComplete : Obligations.RingWordsComplete := by
  unfold Obligations.RingWordsComplete
  intro s h f g n a r k sz ns compute
  refine ⟨?_, State.ringNumber_issue, ?_, ?_, ?_, rels_blocks compute⟩
  · intro ready checked operand slot short two few own bare first fits given
    refine ⟨_, ringi_completes compute ready checked operand slot short two few own bare first fits given,
      ⟨s.newRing a (s.src h.a) k sz ns, ?_, rfl, rfl, rfl, rfl, rfl, rfl⟩, rfl⟩
    exact Core.ring_append (r := s.newRing a (s.src h.a) k sz ns) (State.ringNumber_free given) rfl _
  · intro ready drained' journals found filled
    exact ⟨_, awaitf_completes compute ready drained' journals found filled, _, State.awaited_ring found, rfl, rfl⟩
  · intro ready drained' found filled
    exact ⟨_, rels_completes compute ready drained' found (.inl filled), _, State.released_ring found, rfl, rfl, rfl⟩
  · intro ready drained' found bare replay
    refine ⟨_, rels_completes compute ready drained' found (.inr replay), _, State.released_ring found, rfl, ?_, rfl⟩
    show r.filled - 1 = 0
    rw [bare]

end Sys2Proof.Machine
end

section
/-! PROOFS. O19: MMA, ACLR and ADRAIN (spec/20 R282, R285, R286; spec/21 R328). -/

namespace Sys2Proof.Machine

/-! ### A field that a body holds -/

theorem le_leBytes (before after : Bytes) {n v : Nat} (fits : v < 256 ^ n) : le (before ++ (leBytes n v ++ after)) before.length n = v := by
  have read : slice (before ++ (leBytes n v ++ after)) before.length n = leBytes n v := by
    unfold slice
    rw [List.drop_left, List.take_left' (leBytes_length n v), List.length_append, leBytes_length, Nat.sub_eq_zero_of_le (Nat.le_add_right ..),
      List.replicate_zero, List.append_nil]
  unfold le
  rw [read, leNat_leBytes, Nat.mod_eq_of_lt fits]

/-- A place in register space fits in four bytes. -/
theorem regSpace_fits {x : Nat} (inside : x ≤ Config.regSpace) : x < 256 ^ 4 :=
  Nat.lt_of_le_of_lt inside (by decide)

theorem aclrRanges_of {base n : Nat} (inside : base + 65536 * (n + 1) ≤ Config.regSpace) :
    aclrRanges (leBytes 4 base ++ leBytes 2 (n + 1)) = rangeOf .regs 0 base (base + 65536 * (n + 1) : Nat) true := by
  have fits := regSpace_fits inside
  have first : le (leBytes 4 base ++ leBytes 2 (n + 1)) 0 4 = base := le_leBytes [] _ (by omega)
  have count : le (leBytes 4 base ++ leBytes 2 (n + 1)) 4 2 = n + 1 := by
    have field := le_leBytes (leBytes 4 base) [] (n := 2) (v := n + 1) (by omega)
    rwa [List.append_nil, leBytes_length] at field
  unfold aclrRanges
  rw [first, count]

theorem adrainRanges_of {fmt : Fmt} {src dst : Nat} (rest : Bytes) (reads : src + 65536 ≤ Config.regSpace)
    (writes : dst + 2048 * fmt.bits ≤ Config.regSpace) :
    adrainRanges fmt (leBytes 4 src ++ (leBytes 4 dst ++ rest)) = rangeOf .regs 0 src (src + 65536 : Nat) false
      ++ rangeOf .regs 0 dst (dst + 2048 * fmt.bits : Nat) true := by
  have first : le (leBytes 4 src ++ (leBytes 4 dst ++ rest)) 0 4 = src := le_leBytes [] _ (regSpace_fits (by omega))
  have second : le (leBytes 4 src ++ (leBytes 4 dst ++ rest)) 4 4 = dst := by
    have field := le_leBytes (leBytes 4 src) rest (n := 4) (v := dst) (regSpace_fits (by omega))
    rwa [leBytes_length] at field
  unfold adrainRanges
  rw [first, second]

/-! ### The words -/

section
variable {s s1 s2 : State} (compute : s.core.hub = false)
include compute

section
variable {h : OpAB} (ready : Ready (.mma h) h.g s)
include ready

theorem mma_asks (held : s.here.held = none) (unwatched : watched s .global (s.src h.a) 112 false = false) (sliced : s.core.interlocked = false) :
    Completes (.mma h) s (s.askTemplate (.mma h) (s.src h.a)) := by
  have frame : exec (.mma h) s = execMma h s := rfl
  unfold execMma at frame
  exact completes_compute_like frame ready compute (withTemplate_sliced _ held unwatched sliced) (s.askTemplate_like ..)

theorem mma_held (held : s.here.held = none) (unwatched : watched s .global (s.src h.a) 112 false = false) (merged : s.core.interlocked = true)
    (missing : s.core.templateHere (.mma h) = false) : Takes (.mma h) s (s.askTemplate (.mma h) (s.src h.a)) := by
  have frame : exec (.mma h) s = execMma h s := rfl
  unfold execMma at frame
  exact takes_of_took frame ready (fun hub => absurd hub (by rw [compute]; decide)) rfl (fun _ => rfl)
    (withTemplate_merged _ held unwatched merged missing)

theorem mma_appends (template : HasTemplate (.mma h) (s.src h.a) s) (appends : MmaAppends h none s.withTemplateTaken s2) :
    Completes (.mma h) s s2 := by
  have frame : exec (.mma h) s = execMma h s := rfl
  unfold execMma at frame
  obtain ⟨runs, calm⟩ := mmaBody_next appends
  exact completes_compute_like frame ready compute ((withTemplate_has _ template).trans runs) (s.withTemplateTaken_calm.trans calm).like

end

/-- A word that appends to the matrix chain what it reads of registers alone. -/
theorem completes_appends {i : Instr} {g : Guard} {body : Bytes} {src : Word} {now : Prop} {kind : EntryKind} {ranges : Bytes → Word → List Range}
    {read : State → Reads} (frame : exec i s = runWord i g { hub := true } (appendWord .tmx kind ranges read) s) (ready : Ready i g s)
    (took : Took s s1 body src now) (still : now → s1 = s) (reads : now → read s = .ok (body, src, s1))
    (appends : appendEntry s1 .tmx { kind := kind, body := body, src := src, ranges := ranges body src } = .ok s2) : Completes i s s2 :=
  completes_compute_like frame ready compute (appendWord_next (heldOr_took took reads) appends)
    ((took.calm fun now => still now ▸ Calm.refl s).trans (appendEntry_calm appends)).like

theorem aclr_completes {g : Guard} {a : VEl} {n : BitVec 3} {body : Bytes} {src : Word} (ready : Ready (.aclr g a n) g s)
    (took : Took s s1 body src (s.elKind a = 3 ∧ (s.core.merged = true ∨ s.core.cur = .C) ∧
      s.elBase a + 65536 * (n.toNat + 1) ≤ Config.regSpace ∧ s1 = s ∧ src = 0 ∧ body = leBytes 4 (s.elBase a) ++ leBytes 2 (n.toNat + 1)))
    (appends : appendEntry s1 .tmx { kind := .aclr, body := body, src := src, ranges := aclrRanges body } = .ok s2) :
    Completes (.aclr g a n) s s2 := by
  have frame : exec (.aclr g a n) s = execAclr g a n s := rfl
  unfold execAclr at frame
  refine completes_appends compute frame ready took (fun ⟨_, _, _, same, _⟩ => same) ?_ appends
  rintro ⟨kind, slice, inside, rfl, rfl, rfl⟩
  dsimp only
  rw [kind, State.wrongSlice_false slice, if_neg (by simp), if_neg (Nat.not_lt.mpr inside)]

theorem adrain_completes {g : Guard} {a d : VEl} {fmt : Fmt} {rnd : Rnd} {body : Bytes} {src : Word} (ready : Ready (.adrain g d a fmt rnd) g s)
    (took : Took s s1 body src (s.elKind a = 3 ∧ (s.core.merged = true ∨ s.core.cur = .C) ∧
      (viewFmt (s.here.viewOf a.view) = 0 ∨ viewFmt (s.here.viewOf a.view) = 12) ∧ (s.elKind d = 1 ∨ s.elKind d = 2) ∧
      s.elBase a + 65536 ≤ Config.regSpace ∧ s.elBase d + 2048 * fmt.bits ≤ Config.regSpace ∧ s1 = s ∧ src = 0 ∧
      body = leBytes 4 (s.elBase a) ++ leBytes 4 (s.elBase d)
        ++ leBytes 1 (fmt.code.toNat + 16 * (s.here.mode rnd).code.toNat + (if viewFmt (s.here.viewOf a.view) = 12 then 128 else 0))
        ++ leBytes 7 0 ++ leBytes 8 s.core.seedNow.toNat ++ leBytes 8 s.lpc.toNat ++ leBytes 8 s.here.step.toNat))
    (appends : appendEntry s1 .tmx { kind := .adrain, body := body, src := src, ranges := adrainRanges fmt body } = .ok s2) :
    Completes (.adrain g d a fmt rnd) s s2 := by
  have frame : exec (.adrain g d a fmt rnd) s = execAdrain g d a fmt rnd s := rfl
  unfold execAdrain at frame
  refine completes_appends compute frame ready took (fun ⟨_, _, _, _, _, _, same, _⟩ => same) ?_ appends
  rintro ⟨kind, slice, view, dest, reads, writes, same, rfl, rfl⟩
  have plain : ¬ (s.elKind a ≠ 3 ∨ (viewFmt (s.here.viewOf a.view) ≠ 0 ∧ viewFmt (s.here.viewOf a.view) ≠ 12) ∨ s.wrongSlice .C = true) := by
    rw [State.wrongSlice_false slice]
    rintro (other | ⟨other, other'⟩ | wrong)
    · exact other kind
    · exact view.elim other other'
    · exact Bool.false_ne_true wrong
  dsimp only
  rw [if_neg plain, if_neg (fun ⟨other, other'⟩ => dest.elim other other'), if_neg (Nat.not_lt.mpr reads), if_neg (Nat.not_lt.mpr writes), same]

end

/-- Settles O19, word by word. -/
theorem matrixWordsComplete : Obligations.MatrixWordsComplete := by
  unfold Obligations.MatrixWordsComplete
  intro s s1 s2 h body src g a d n fmt rnd inC clear drain compute
  refine ⟨mma_asks compute, mma_held compute, mma_appends compute, aclr_completes compute, aclrRanges_of, adrain_completes compute, ?_⟩
  intro reads writes
  have ranges := adrainRanges_of (fmt := fmt)
    (leBytes 1 (fmt.code.toNat + 16 * (s.here.mode rnd).code.toNat + (if viewFmt (s.here.viewOf a.view) = 12 then 128 else 0))
      ++ (leBytes 7 0 ++ (leBytes 8 s.core.seedNow.toNat ++ (leBytes 8 s.lpc.toNat ++ leBytes 8 s.here.step.toNat)))) reads writes
  simp only [← List.append_assoc] at ranges
  exact ranges

end Sys2Proof.Machine
end

section
/-! PROOFS. O32: BSYNC (spec/20 R295, R296). -/

namespace Sys2Proof.Machine

/-! ### What the device reads does not depend on the nodes of the module -/

/-- s with other nodes, where `free` names are used up. -/
def State.withNodes (ns : List Node) (free : Nat) (s : State) : State := { s with m := { s.m with nodes := ns, free := free } }

section
variable (ns : List Node) (free : Nat)

theorem State.withNodes_physRun (s : State) (pa n : Nat) : (s.withNodes ns free).physRun pa n = s.physRun pa n := by
  induction n generalizing pa with
  | zero => rfl
  | succ n ih => exact congrArg (s.phys pa :: ·) (ih (pa + 1))

theorem walk_withNodes (s : State) (root : Word) (va : Nat) : walk (s.withNodes ns free) root va = walk s root va := rfl

end

/-- A change of the state that translations and physical reads do not see. -/
structure Unseen (f : State → State) : Prop where
  translate : ∀ (s : State) (root : Word) (va : Nat), translate (f s) root va = onwards f (translate s root va)
  physRun : ∀ (s : State) (pa n : Nat), (f s).physRun pa n = s.physRun pa n
  after : ∀ (s t : State) (x : Stop), Stop.after (f s) (f t) x = Stop.after s t x

theorem State.withNodes_unseen (ns : List Node) (free : Nat) : Unseen (State.withNodes ns free) where
  translate s root va := by
    have cache : (s.withNodes ns free).core.tlb = s.core.tlb := rfl
    unfold Machine.translate
    rw [walk_withNodes, cache]
    cases s.core.tlb.find? (fun e => e.root == root && e.vpage == va / 4096) with
    | some e => rfl
    | none => cases walk s root va <;> rfl
  physRun := State.withNodes_physRun ns free
  after _ _ x := by cases x <;> rfl

section
variable {f : State → State} (unseen : Unseen f)
include unseen

theorem Unseen.translateAll (root ptr : Word) (lane : Nat) (l : List (Nat × Nat)) (s : State) :
    translateAll (f s) root ptr false lane l = onwards f (translateAll s root ptr false lane l) := by
  induction l generalizing s with
  | nil => rfl
  | cons x r ih =>
    unfold Machine.translateAll
    rw [unseen.translate]
    cases Machine.translate s root x.1 with
    | error y => rfl
    | ok a =>
      simp only [onwards, Except.map, Bool.false_and, Bool.false_eq_true, if_false, ih]
      cases Machine.translateAll a.2 root ptr false lane r with
      | error y => exact congrArg Except.error (unseen.after s a.2 y)
      | ok b => rfl

theorem Unseen.checkParts (root ptr : Word) (lane : Nat) (l : List (List (Nat × Nat))) (s : State) :
    checkParts (f s) root ptr .bare none none lane l = onwards f (checkParts s root ptr .bare none none lane l) := by
  induction l generalizing s with
  | nil => rfl
  | cons p r ih =>
    unfold Machine.checkParts
    simp only [checkPieces_bare]
    rw [unseen.translateAll]
    cases Machine.translateAll s root ptr false lane p with
    | error y => rfl
    | ok a =>
      simp only [onwards, Except.map, ih]
      cases Machine.checkParts a.2 root ptr .bare none none lane r with
      | error y => exact congrArg Except.error (unseen.after s a.2 y)
      | ok b => rfl

theorem Unseen.barePieces (s : State) (root : Word) (va n : Nat) : (f s).barePieces root va n = s.barePieces root va n := by
  have checked : checkVirtual (f s) root 0 va n .bare none none 0 = onwards f (checkVirtual s root 0 va n .bare none none 0) :=
    unseen.checkParts root 0 0 _ s
  unfold State.barePieces
  rw [checked]
  cases checkVirtual s root 0 va n .bare none none 0 <;> rfl

theorem Unseen.devRead (s : State) (root : Word) (va n : Nat) : devRead (f s) root va n = devRead s root va n := by
  have read : readPieces (f s) = readPieces s := by
    funext ps
    unfold readPieces
    simp only [unseen.physRun]
  rw [devRead_barePieces, devRead_barePieces, unseen.barePieces, read]

end

/-! ### The logical PC -/

/-- A word stands at one logical PC in two states with one core but for what it does not look at, where the device reads alike. -/
structure StandsAlike (s t : State) : Prop where
  place : t.place = s.place
  task : t.core.task = s.core.task
  num : t.core.num = s.core.num
  cur : t.core.cur = s.core.cur
  here : t.here = s.here
  reads : ∀ root va n, devRead t root va n = devRead s root va n

section
variable {s t : State} (same : StandsAlike s t)
include same

theorem StandsAlike.root : t.root = s.root := by
  unfold State.root
  rw [same.task, same.num]

theorem StandsAlike.wordIndexGo (sl : Slice) (off n : Nat) : wordIndexGo t sl off n = wordIndexGo s sl off n := by
  induction n with
  | zero => rfl
  | succ n ih =>
    funext pos acc
    rw [Machine.wordIndexGo, Machine.wordIndexGo, same.reads, same.root, ih]

theorem StandsAlike.mapLpc (sl : Slice) (off : Nat) : mapLpc t sl off = mapLpc s sl off := by
  have index : wordIndex t sl off = wordIndex s sl off := congrFun (congrFun (same.wordIndexGo sl off _) 0) 0
  have read : devRead t s.root = devRead s s.root := funext fun va => funext fun n => same.reads s.root va n
  rw [Machine.mapLpc, Machine.mapLpc, index, same.root, read]

theorem StandsAlike.lpc : t.lpc = s.lpc := by
  have slice : t.sliceOf t.core.cur = s.sliceOf s.core.cur := by
    unfold State.sliceOf
    rw [same.task, same.cur]
  rw [State.lpc, State.lpc, same.place, slice, same.here, same.mapLpc]

end

theorem StandsAlike.journalHit {s t : State} (same : StandsAlike s t) (phase : t.core.phase = s.core.phase)
    (replayed : t.core.replayed = s.core.replayed) : t.journalHit = s.journalHit := by
  have replay : t.core.inReplay = s.core.inReplay := by unfold Core.inReplay; rw [phase]
  unfold State.journalHit
  rw [replay, replayed, same.here, same.lpc]

/-! ### The barrier -/

/-- The release of a BSYNC covers the copy-outs and SENDs appended before it (10 R182). -/
def State.bsyncCovered (s : State) : State := s.modCore (fun k => (k.acquired .tco (fun _ => true)).acquired .tsx (fun _ => true))

theorem State.bsyncCovered_view (s : State) : SameView s s.bsyncCovered := ⟨rfl, rfl, rfl, rfl⟩

theorem State.bsyncCovered_here (s : State) : s.bsyncCovered.here = s.here := by
  show s.bsyncCovered.core.ctx s.core.cur = s.core.ctx s.core.cur
  cases s.core.cur <;> rfl

/-- An arrival leaves the core as it is, and changes of the module its nodes and the names in use. -/
theorem State.arriveBsync_nodes (s : State) (t : Task) (k : Nat) (op : BsyncOp) (v : Word) :
    ∃ ns, s.arriveBsync t k op v = s.withNodes ns (s.m.free + 1) := ⟨_, rfl⟩

section
variable (s : State) (t : Task) (k : Nat) (op : BsyncOp) (v : Word)

theorem State.arriveBsync_core : (s.arriveBsync t k op v).core = s.core := rfl

theorem State.arrived_standsAlike : StandsAlike s (s.bsyncCovered.arriveBsync t k op v) where
  place := by
    unfold State.place
    rw [show (s.bsyncCovered.arriveBsync t k op v).here = s.here from s.bsyncCovered_here]
    rfl
  task := rfl
  num := rfl
  cur := rfl
  here := s.bsyncCovered_here
  reads root va n := by
    obtain ⟨ns, nodes⟩ := s.bsyncCovered.arriveBsync_nodes t k op v
    rw [nodes, (State.withNodes_unseen ns _).devRead]
    exact s.bsyncCovered_view.devRead_eq root va n

theorem State.arrived_like : Like s (s.bsyncCovered.arriveBsync t k op v) := ⟨rfl, rfl, by unfold Core.interlocked; rfl⟩

end

/-- What a task takes from what its gang has gathered (10 R181; 20 R295). -/
def Gathered.merge (g : Gathered) (t : Task) : Task :=
  { t with sight := mergeSnap (some t.agent) t.sight g.entries g.evicted, bsyncs := g.k }

/-- The state after a BSYNC that completes with what was gathered. -/
def State.bsynced (s : State) (d : Dst) (g : Gathered) : State := (noted s [g.val] (s.modTask g.merge)).syncDone.landBsync d g.val

theorem bsyncDone_eq {s : State} {d : Dst} {g : Gathered} (journals : Journals s) : bsyncDone s d g = .ok (.next (s.bsynced d g)) := by
  unfold bsyncDone
  dsimp only
  rw [journalled_journals (v := [g.val]) (t := s.modTask g.merge) journals rfl]
  rfl

/-- The results of a BSYNC, one in each context, find room: its context has drained (03 R63). -/
theorem State.bsynced_room {s t : State} {d : Dst} {g : Gathered} (drained' : Drained s) (like : Like s t) :
    s.core.interlocked = true ∨ (t.bsynced d g).core.inFlight s.core.cur ≤ Config.inFlightMax := by
  refine (Bool.eq_false_or_eq_true s.core.interlocked).imp_right fun sliced => ?_
  have like : Like s (noted t [g.val] (t.modTask g.merge)).syncDone :=
    (like.trans (modTask_like ..)).trans ((noted_like ..).trans (State.syncDone_like _))
  obtain ⟨flights, -, merged⟩ := like
  have empty : (noted t [g.val] (t.modTask g.merge)).syncDone.core.inFlight s.core.cur = 0 := by
    have quiet := Core.inFlight_drained (drained'.resolve_left (ne_true_of_eq_false sliced))
    unfold Core.inFlight at quiet ⊢
    rwa [flights]
  have landed := State.land_inFlight (noted t [g.val] (t.modTask g.merge)).syncDone
    { puts := if d.wbs then [] else [.reg .L d.reg g.val, .reg .C d.reg g.val, .reg .S d.reg g.val], lt := d.lt, cap := leBytes 8 g.val.toNat, lat := 4 }
    s.core.cur (merged.trans sliced)
  have three : resultsOf (if d.wbs then [] else [.reg .L d.reg g.val, .reg .C d.reg g.val, .reg .S d.reg g.val]) ≤ 3 := by
    cases d.wbs with
    | true => exact Nat.le_of_ble_eq_true rfl
    | false => exact Nat.le_of_ble_eq_true rfl
  rw [empty] at landed
  exact (landed.trans (Nat.add_le_add_left three 0)).trans (by decide)

section
variable {s : State} {op : BsyncOp} {f : OpDA} {k : Task} {n : Node} {g : Gathered} (ready : ReadyOnCore (.bsync op f) f.g s)
  (drained' : Drained s) (appended : Appended s)
include ready drained' appended

theorem bsync_completes {t : State} (like : Like s t) (runs : bsyncBody op f s = .ok (.next (t.bsynced f.d g))) :
    Completes (.bsync op f) s (t.bsynced f.d g) := by
  have frame : exec (.bsync op f) s = execBsync op f s := rfl
  unfold execBsync at frame
  exact completes_next frame ready.toReady (fun hub => absurd hub (by rw [ready.compute]; decide)) rfl
    (fun handler => absurd handler (by rw [ready.user]; decide)) ((behindAppends_of drained' appended _).trans runs)
    (State.bsynced_room drained' like)

end

section
variable {s : State} {op : BsyncOp} {f : OpDA} {k : Task} {n : Node} (task : s.core.task = some k) (gang : k.pool = false)
  (fresh : s.journalHit = none) (out : s.core.tco.counter = s.core.tco.append) (sent : s.core.tsx.counter = s.core.tsx.append)
  (node : s.m.taskNode k = some n)
include task gang fresh out sent node

theorem bsyncBody_node : bsyncBody op f s = (match n.gathered (k.bsyncs + 1) with
    | some g => bsyncDone s f.d g
    | none => if n.broken then .ok (.took (s.endSoon (statusOf 0x42 0xFFFFFFF1))) else
      match ((s.bsyncCovered.arriveBsync k (k.bsyncs + 1) op (s.src f.a)).m.taskNode k).bind (fun n => n.gathered (k.bsyncs + 1)) with
      | some g => bsyncDone (s.bsyncCovered.arriveBsync k (k.bsyncs + 1) op (s.src f.a)) f.d g
      | none => .ok (.block (s.bsyncCovered.arriveBsync k (k.bsyncs + 1) op (s.src f.a)))) := by
  unfold bsyncBody
  rw [task]
  dsimp only
  rw [gang, fresh, if_neg Bool.false_ne_true]
  dsimp only
  rw [if_neg (not_or.mpr ⟨not_not.mpr out, not_not.mpr sent⟩), node]
  dsimp only
  cases n.gathered (k.bsyncs + 1) <;> rfl

end

/-- Settles O32: what has been gathered before, and what this arrival completes. -/
theorem barrierWordCompletes : Obligations.BarrierWordCompletes := by
  unfold Obligations.BarrierWordCompletes
  intro s op f k n g ready drained' appended task gang fresh room out sent node merge covered came
  have journals : Journals s := .inr ⟨fresh, room⟩
  have body := bsyncBody_node (op := op) (f := f) task gang fresh out sent node
  refine ⟨fun gathered => ?_, fun missing whole gathered => ?_⟩
  · rw [gathered] at body
    exact bsync_completes ready drained' appended (.refl s) (body.trans (bsyncDone_eq journals))
  · have same := s.arrived_standsAlike k (k.bsyncs + 1) op (s.src f.a)
    have journals' : Journals came := .inr ⟨(same.journalHit rfl rfl).trans fresh, room⟩
    rw [missing, whole] at body
    dsimp only at body
    rw [if_neg Bool.false_ne_true, show ((s.bsyncCovered.arriveBsync k (k.bsyncs + 1) op (s.src f.a)).m.taskNode k).bind _ = some g from gathered] at body
    exact bsync_completes ready drained' appended (s.arrived_like ..) (body.trans (bsyncDone_eq journals'))

end Sys2Proof.Machine
end

section
/-! PROOFS. O48: the five services (spec/11 R201; spec/13 R219; spec/17 R266; spec/18 R274; spec/22 R361). -/

namespace Sys2Proof.Machine

/-! ### The frame of a service -/

/-- A service has answered its caller. -/
def State.answered (u : State) (num : BitVec 32) (x1 : Word) : State := u.modCore (fun k => { k with svc := some (num, some (x1, none)) })

section
variable {i : Instr} {s t : State} {num : BitVec 32} {body : Service} {x1 : Word} (frame : exec i s = runService num body s)
  (between : s.wlog = []) (called : s.core.svc = some (num, none))
include frame between called

theorem takes_answered (answers : body s s.core.svcCtx = .ok (x1, t)) : Takes i s (t.answered num x1) := by
  unfold Takes
  rw [frame]
  unfold runService
  rw [runEvent_eq between, called]
  dsimp only
  rw [if_neg (not_not.mpr rfl), answers]
  rfl

/-- A service that writes nothing. -/
theorem answers_quietly (answers : body s s.core.svcCtx = .ok (x1, t)) (still : t.wlog = s.wlog) :
    ∃ u, exec i s = .next u ∧ u.core.svc = some (num, some (x1, none)) ∧ u.m = t.m ∧ u.mem = s.mem :=
  ⟨_, takes_answered frame between called answers, rfl, rfl, settled_mem_of_quiet (still.trans between)⟩

end

/-! ### What a service reads -/

theorem snoopReads_kept (keep : Option (BitVec 8)) (ps : List Piece) (s : State) :
    (s.snoopReads keep ps).m = s.m ∧ (s.snoopReads keep ps).wlog = s.wlog := by
  unfold State.snoopReads
  induction ps generalizing s with
  | nil => exact ⟨rfl, rfl⟩
  | cons p r ih => exact ih (s.snoop false keep p.pa p.n)

theorem State.modSight_kept (s : State) (f : Sight → Sight) : (s.modSight f).m = s.m ∧ (s.modSight f).wlog = s.wlog := by
  unfold State.modSight
  split <;> exact ⟨rfl, rfl⟩

theorem svcCheck_kept {s t : State} {p : Word} {n : Nat} {wr : Bool} {ps : List Piece} (h : svcCheck s p n wr = .ok (ps, t)) :
    t.m = s.m ∧ t.wlog = s.wlog := by
  unfold svcCheck at h
  split at h
  · next checked =>
    obtain ⟨tlb, perf, rfl⟩ := (checkGlobal_only checked).1
    cases h
    exact ⟨rfl, rfl⟩
  · cases h

theorem svcRead_kept {s t : State} {p : Word} {n : Nat} {acquire : Bool} {b : Bytes} (h : svcRead s p n acquire = .ok (b, t)) :
    t.m = s.m ∧ t.wlog = s.wlog := by
  unfold svcRead at h
  split at h
  · next ps u checked =>
    obtain ⟨m, wlog⟩ := svcCheck_kept checked
    obtain ⟨m', wlog'⟩ := snoopReads_kept none ps u
    cases h
    split
    · obtain ⟨m'', wlog''⟩ := State.modSight_kept (u.snoopReads none ps) _
      exact ⟨m''.trans (m'.trans m), wlog''.trans (wlog'.trans wlog)⟩
    · exact ⟨m'.trans m, wlog'.trans wlog⟩
  · cases h

/-! ### Queue repair -/

section
variable {s s1 s2 s3 s4 : State} {b e : Bytes} (between : s.wlog = [])
include between

theorem repairQueue_repairs (called : s.core.svc = some (0x21, none)) (state : svcRead s (s.core.svcCtx.get 1 + 8) 8 true = .ok (b, s1))
    (one : leNat b = 1) (eseq : svcRead s1 (s.core.svcCtx.get 1 + 16) 8 = .ok (e, s2))
    (next : svcWrite s2 (s.core.svcCtx.get 1 + 24) (leBytes 8 ((leNat e + 1) % 2 ^ 64)) = .ok s3)
    (cleared : svcWrite s3 (s.core.svcCtx.get 1 + 8) (leBytes 8 0) true = .ok s4) : Takes .svcRepairQueue s (s4.answered 0x21 0) := by
  have frame : exec .svcRepairQueue s = execSvcRepairQueue s := rfl
  unfold execSvcRepairQueue at frame
  refine takes_answered frame between called ?_
  dsimp only
  rw [state]
  dsimp only
  rw [if_neg (not_not.mpr one), eseq]
  dsimp only
  rw [next]
  dsimp only
  rw [cleared]
  rfl

theorem repairQueue_refuses (called : s.core.svc = some (0x21, none)) (state : svcRead s (s.core.svcCtx.get 1 + 8) 8 true = .ok (b, s1))
    (other : leNat b ≠ 1) :
    ∃ u, exec .svcRepairQueue s = .next u ∧ u.core.svc = some (0x21, some (1, none)) ∧ u.m = s1.m ∧ u.mem = s.mem := by
  have frame : exec .svcRepairQueue s = execSvcRepairQueue s := rfl
  unfold execSvcRepairQueue at frame
  refine answers_quietly frame between called ?_ (svcRead_kept state).2
  dsimp only
  rw [state]
  dsimp only
  rw [if_pos other]

end

/-! ### Pools -/

/-- What a good grant makes (13 R219). -/
theorem newPool_fields (m : Module) (tenant : Nat) (dies : List Nat) (b : Bytes) (n0 g0 : Nat) :
    let p := newPool m tenant dies b n0 g0
    p.q = le b 0 8 % 2 ^ 11 ∧ p.age = bitOf (le b 0 8) 22 ∧ p.shift = le b 0 8 / 2 ^ 16 % 64 ∧ p.caps = le b 16 8 ∧
      p.sramq = le b 12 4 ∧ p.tenant = tenant ∧ p.shards.map (·.die) = dies ∧ ∀ x ∈ p.shards, x.elems = [] := by
  refine ⟨fld_zero .., rfl, rfl, rfl, rfl, rfl, ?_, fun x among => ?_⟩
  · show (dies.map freshShard).map (·.die) = dies
    rw [List.map_map]
    exact List.map_id dies
  · obtain ⟨d, -, rfl⟩ := List.mem_map.mp among
    rfl

/-- The pool that a grant record makes at this point (13 R219, R220). -/
def State.grantedPool (s : State) (b : Bytes) : Pool :=
  newPool s.m s.tenant s.m.diesIn b (Config.freeWord (s.m.free + 1)).toNat (Config.freeWord (s.m.free + 2)).toNat

/-- A pool is made (13 R219). -/
def State.addPool (s : State) (p : Pool) : State :=
  s.modM (fun m => { m with pools := m.pools ++ [p], gens := (p.num, p.gen) :: m.gens, free := m.free + 3 })

/-- No pool is made. -/
def State.noPool (s : State) : State := s.modM (fun m => { m with free := m.free + 3 })

/-- A pool can be made but for its backing region. -/
def State.canPool (s : State) (b : Bytes) : Bool :=
  grantOk b && decide (s.m.pools.length < Config.pools) && !s.m.diesIn.isEmpty &&
    s.m.diesIn.all (fun d => decide (s.m.sramUsed d + le b 12 4 ≤ Config.poolSram))

section
variable {s s1 : State} {b : Bytes} (between : s.wlog = []) (called : s.core.svc = some (0x30, none))
  (grant : svcRead s (s.core.svcCtx.get 1) 64 = .ok (b, s1))
include between called grant

theorem createPool_answers {x1 : Word} {t : State}
    (decided : (if s.canPool b && (Config.freeWord s.m.free).getLsbD 0 then ((s.grantedPool b).handle, s1.addPool (s.grantedPool b))
      else (Config.allOnes, s1.noPool)) = (x1, t)) (still : t.wlog = s1.wlog) :
    ∃ u, exec .svcCreatePool s = .next u ∧ u.core.svc = some (0x30, some (x1, none)) ∧ u.m = t.m ∧ u.mem = s.mem := by
  have frame : exec .svcCreatePool s = execSvcCreatePool s := rfl
  unfold execSvcCreatePool at frame
  refine answers_quietly frame between called ?_ (still.trans (svcRead_kept grant).2)
  dsimp only
  rw [grant]
  dsimp only
  rw [← decided]
  exact (apply_ite Except.ok _ _ _).symm

theorem createPool_makes (can : s.canPool b = true) (backed : (Config.freeWord s.m.free).getLsbD 0 = true) :
    ∃ u, exec .svcCreatePool s = .next u ∧ u.core.svc = some (0x30, some ((s.grantedPool b).handle, none)) ∧
      u.m.pools = s.m.pools ++ [s.grantedPool b] ∧ u.mem = s.mem := by
  obtain ⟨u, runs, svc, m, mem⟩ := createPool_answers between called grant (x1 := (s.grantedPool b).handle) (t := s1.addPool (s.grantedPool b))
    (by rw [can, backed]; rfl) rfl
  refine ⟨u, runs, svc, ?_, mem⟩
  rw [m]
  exact congrArg (fun m : Module => m.pools ++ [s.grantedPool b]) (svcRead_kept grant).1

theorem createPool_refuses (cannot : (s.canPool b && (Config.freeWord s.m.free).getLsbD 0) = false) :
    ∃ u, exec .svcCreatePool s = .next u ∧ u.core.svc = some (0x30, some (-1, none)) ∧ u.m.pools = s.m.pools ∧ u.mem = s.mem := by
  obtain ⟨u, runs, svc, m, mem⟩ := createPool_answers between called grant (x1 := Config.allOnes) (t := s1.noPool) (by rw [cannot]; rfl) rfl
  refine ⟨u, runs, svc, ?_, mem⟩
  rw [m]
  show s1.m.pools = s.m.pools
  rw [(svcRead_kept grant).1]

end

/-- A pool is destroyed: its elements are gone, and operations in flight fail (13 R237). -/
def Module.withoutPool (m : Module) (n : Nat) : Module :=
  { m with pools := m.pools.filter (fun x => x.num != n), reqs := mapIf (fun r => r.pool == n) (Req.fail 0x11) m.reqs }

theorem Module.pool_withoutPool (m : Module) (n : Nat) : (m.withoutPool n).pool n = none := by
  refine List.find?_eq_none.mpr fun p among named => ?_
  exact bne_iff_ne.mp (List.mem_filter.mp among).2 (beq_iff_eq.mp named)

theorem destroyPool_removes {s : State} {p : Pool} (between : s.wlog = []) (called : s.core.svc = some (0x31, none))
    (named : poolOf s (s.core.svcCtx.get 1) = some p) :
    ∃ t, exec .svcDestroyPool s = .next t ∧ t.core.svc = some (0x31, some (0, none)) ∧ t.m.pool p.num = none ∧ t.mem = s.mem := by
  have frame : exec .svcDestroyPool s = execSvcDestroyPool s := rfl
  unfold execSvcDestroyPool at frame
  obtain ⟨u, runs, svc, m, mem⟩ := answers_quietly frame between called (x1 := 0)
    (t := s.modM (fun m => m.withoutPool p.num)) (by dsimp only; rw [named]; rfl) rfl
  refine ⟨u, runs, svc, ?_, mem⟩
  rw [m]
  exact s.m.pool_withoutPool p.num

/-! ### Launch records and the report -/

theorem notOne_ne (w : Word) : notOne w ≠ 1 := by
  unfold notOne
  split
  · decide
  · assumption

/-- The packet that the two halves of a word name (17 R266). -/
theorem word_halves (w : Word) : fld w.toNat 32 32 = w.toNat / 2 ^ 32 ∧ fld w.toNat 0 32 = w.toNat % 2 ^ 32 :=
  ⟨Nat.mod_eq_of_lt (by have := w.isLt; omega), fld_zero ..⟩

section
variable {s s1 : State} (between : s.wlog = [])
include between

theorem launchRecord_copies {r : LaunchRec} (called : s.core.svc = some (0x40, none)) (copied : svcWrite s (s.core.svcCtx.get 2) (pad r.bytes 64) = .ok s1)
    (kept : s.m.launches.find? (fun r => r.q == (s.core.svcCtx.get 1).toNat / 2 ^ 32 && r.idx % 2 ^ 32 == (s.core.svcCtx.get 1).toNat % 2 ^ 32) = some r) :
    Takes .svcLaunchRecord s ((s1.modM (fun m => { m with free := m.free + 1 })).answered 0x40 (notOne (Config.freeWord s.m.free))) := by
  have frame : exec .svcLaunchRecord s = execSvcLaunchRecord s := rfl
  unfold execSvcLaunchRecord at frame
  obtain ⟨queue, index⟩ := word_halves (s.core.svcCtx.get 1)
  refine takes_answered frame between called ?_
  dsimp only
  rw [queue, index, kept]
  dsimp only
  rw [copied]
  rfl

theorem launchRecord_refuses (called : s.core.svc = some (0x40, none))
    (gone : ∀ r ∈ s.m.launches, ¬(r.q = (s.core.svcCtx.get 1).toNat / 2 ^ 32 ∧ r.idx % 2 ^ 32 = (s.core.svcCtx.get 1).toNat % 2 ^ 32)) :
    ∃ u, exec .svcLaunchRecord s = .next u ∧ u.core.svc = some (0x40, some (1, none)) ∧ u.m = s.m ∧ u.mem = s.mem := by
  have frame : exec .svcLaunchRecord s = execSvcLaunchRecord s := rfl
  unfold execSvcLaunchRecord at frame
  obtain ⟨queue, index⟩ := word_halves (s.core.svcCtx.get 1)
  have none : s.m.launches.find? (fun r => r.q == (s.core.svcCtx.get 1).toNat / 2 ^ 32 && r.idx % 2 ^ 32 == (s.core.svcCtx.get 1).toNat % 2 ^ 32) = none := by
    refine List.find?_eq_none.mpr fun r among named => gone r among ?_
    rwa [Bool.and_eq_true, beq_iff_eq, beq_iff_eq] at named
  refine answers_quietly frame between called ?_ rfl
  dsimp only
  rw [queue, index, none]

theorem attestation_reports {s2 : State} {b : Bytes} (called : s.core.svc = some (0x50, none)) (ready : s.m.stage = 8)
    (nonce : svcRead s (s.core.svcCtx.get 1) 32 = .ok (b, s1)) (written : svcWrite s1 (s.core.svcCtx.get 2) (s.m.report b) = .ok s2) :
    Takes .svcAttestation s (s2.answered 0x50 (w64 (s.m.report b).length)) := by
  have frame : exec .svcAttestation s = execSvcAttestation s := rfl
  unfold execSvcAttestation at frame
  refine takes_answered frame between called ?_
  dsimp only
  rw [if_neg (not_not.mpr ready), nonce]
  dsimp only
  rw [written]
  rfl

end

theorem State.canPool_of {s : State} {b : Bytes} (ok : grantOk b = true) (few : s.m.pools.length < Config.pools) (some : s.m.diesIn ≠ [])
    (room : ∀ d ∈ s.m.diesIn, s.m.sramUsed d + le b 12 4 ≤ Config.poolSram) : s.canPool b = true := by
  unfold State.canPool
  rw [ok, decide_eq_true few, List.isEmpty_eq_false_iff.mpr some, List.all_eq_true.mpr fun d among => decide_eq_true (room d among)]
  rfl

/-- Settles O48, service by service. -/
theorem serviceEvents : Obligations.ServiceEvents := by
  unfold Obligations.ServiceEvents
  intro s s1 s2 s3 s4 b e p r between k answered
  refine ⟨repairQueue_repairs between, ?_, ?_, ?_, destroyPool_removes between, ?_, ?_, attestation_reports between⟩
  · intro called state other
    obtain ⟨u, runs, svc, -, mem⟩ := repairQueue_refuses between called state other
    exact ⟨u, runs, svc, mem⟩
  · intro called grant ok few some room
    have can := State.canPool_of ok few some room
    have fields := newPool_fields s.m s.tenant s.m.diesIn b (Config.freeWord (s.m.free + 1)).toNat (Config.freeWord (s.m.free + 2)).toNat
    cases backed : (Config.freeWord s.m.free).getLsbD 0 with
    | true =>
      obtain ⟨u, runs, svc, pools, mem⟩ := createPool_makes between called grant can backed
      exact ⟨u, s.grantedPool b, runs, mem, fields, .inl ⟨pools, svc⟩⟩
    | false =>
      obtain ⟨u, runs, svc, pools, mem⟩ := createPool_refuses between called grant (by rw [can, backed]; rfl)
      exact ⟨u, s.grantedPool b, runs, mem, fields, .inr ⟨pools, svc⟩⟩
  · intro called grant bad
    have cannot : (s.canPool b && (Config.freeWord s.m.free).getLsbD 0) = false := by
      unfold State.canPool
      rw [bad]
      rfl
    obtain ⟨u, runs, svc, pools, mem⟩ := createPool_refuses between called grant cannot
    exact ⟨u, runs, svc, pools, mem⟩
  · intro called copied kept
    exact ⟨_, notOne_ne _, launchRecord_copies between called copied kept⟩
  · intro called gone
    obtain ⟨u, runs, svc, -, mem⟩ := launchRecord_refuses between called gone
    exact ⟨u, runs, svc, mem⟩

end Sys2Proof.Machine
end

section
/-! PROOFS. O13: what LD and ST leave as it is (spec/07 R132, R133; spec/21 R318, R319; spec/22 R356, R357). -/

namespace Sys2Proof.Machine

/-! ### Allocations under an access -/

/-- y is x but for its bytes, its lines and what its step keeps for an undo. -/
structure Alloc.Kept (x y : Alloc) : Prop where
  base : y.base = x.base
  size : y.size = x.size
  tag : y.tag = x.tag
  window : y.window = x.window
  expiry : y.expiry = x.expiry

theorem Alloc.Kept.trans {x y z : Alloc} (h : x.Kept y) (h' : y.Kept z) : x.Kept z :=
  ⟨h'.base.trans h.base, h'.size.trans h.size, h'.tag.trans h.tag, h'.window.trans h.window, h'.expiry.trans h.expiry⟩

/-- The allocations of k stand in l, with their bytes changed as g says. -/
def Core.Becomes (g : BitVec 8 → (Nat → Byte) → Nat → Byte) (k l : Core) : Prop :=
  ∀ id x, k.alloc id = some x → ∃ y, l.alloc id = some y ∧ x.Kept y ∧ y.byte = g id x.byte

/-- With their bytes as they are. -/
abbrev Core.Stays (k l : Core) : Prop := Core.Becomes (fun _ b => b) k l

section
variable {g h : BitVec 8 → (Nat → Byte) → Nat → Byte} {k l m : Core}

theorem Core.Becomes.trans (first : Core.Becomes g k l) (then' : Core.Becomes h l m) : Core.Becomes (fun id b => h id (g id b)) k m := by
  intro id x found
  obtain ⟨y, found, kept, bytes⟩ := first id x found
  obtain ⟨z, found, kept', bytes'⟩ := then' id y found
  exact ⟨z, found, kept.trans kept', bytes'.trans (congrArg (h id) bytes)⟩

theorem Core.Stays.of_allocs (same : l.allocs = k.allocs) : Core.Stays k l := by
  intro id x found
  refine ⟨x, ?_, ⟨rfl, rfl, rfl, rfl, rfl⟩, rfl⟩
  unfold Core.alloc at found ⊢
  rwa [same]

theorem Core.Stays.of_map {f : Alloc → Alloc} (lines : ∀ x, ∃ ls, f x = { x with lines := ls }) (updated : l.allocs = k.allocs.map f) :
    Core.Stays k l := by
  have keeps := KeepsBytes.lines lines
  intro id x found
  refine ⟨f x, (Core.alloc_map keeps.1 updated id).trans (by rw [found]; rfl), ?_, keeps.2 x⟩
  obtain ⟨ls, same⟩ := lines x
  rw [same]
  exact ⟨rfl, rfl, rfl, rfl, rfl⟩

/-- An update of the allocation of one id. -/
theorem Core.Becomes.modAlloc {i : BitVec 8} {f : Alloc → Alloc} (keeps : KeepsName f) (kept : ∀ x : Alloc, x.Kept (f x))
    (bytes : ∀ x : Alloc, (f x).byte = g i x.byte) (others : ∀ id, id ≠ i → ∀ b, g id b = b) : Core.Becomes g k (modAlloc k i f) := by
  intro id x found
  by_cases named : id = i
  · subst named
    exact ⟨f x, Core.alloc_modAlloc found keeps, kept x, bytes x⟩
  · exact ⟨x, (Core.alloc_modAlloc_other (fun a => (keeps a).1) named).trans found, ⟨rfl, rfl, rfl, rfl, rfl⟩, (others id named x.byte).symm⟩

/-- One of its lines alone, after one of the marks of double-bit errors. -/
theorem Core.Stays.modAlloc_lines {i : BitVec 8} {f : Alloc → Alloc} (marks : l.allocs = k.allocs) (lines : ∀ x, ∃ ls, f x = { x with lines := ls }) :
    Core.Stays k (modAlloc l i f) := by
  refine .of_map (f := fun x => if x.id == i && x.freed.isNone && x.parked.isNone then f x else x) (fun x => ?_) ?_
  · split
    · exact lines x
    · exact ⟨x.lines, rfl⟩
  · rw [← marks]
    rfl

end

theorem writePieces_stays (who : Option Who) (un : Bool) (keep : Option (BitVec 8)) (sy : Option (Nat × Nat)) (ps : List Piece) :
    ∀ (s : State) (bs : Bytes), Core.Stays s.core (writePieces s who un keep sy ps bs).core := by
  induction ps with
  | nil => exact fun s _ => .of_allocs rfl
  | cons p r ih =>
    intro s bs
    have saw : Core.Stays s.core ((s.physWriteRun p.pa (bs.take p.n)).sawWrite p.pa p.n keep).core := by
      refine .of_map (f := fun a => if keep = some a.id ∧ a.parked.isNone then a else a.takeBack true (linesOf p.pa p.n)) (fun x => ?_) ?_
      · split
        · exact ⟨x.lines, rfl⟩
        · exact ⟨_, rfl⟩
      · show ((s.physWriteRun p.pa (bs.take p.n)).core.allocs).map _ = _
        rw [State.physWriteRun_core]
    unfold writePieces
    refine saw.trans (Core.Becomes.trans (Core.Stays.of_allocs ?_) (ih _ _))
    split
    · split <;> split <;> rfl
    · split <;> split <;> rfl

/-- What a write of bs at a target does to the bytes of allocations. -/
def Target.stored (bs : Bytes) : Target → BitVec 8 → (Nat → Byte) → Nat → Byte
  | .priv i off _, id, b => fun o => if id = i ∧ off ≤ o ∧ o < off + bs.length then bs.getD (o - off) 0 else b o
  | _, _, b => b

/-- An allocation without a window, with bs stored (07 R141). -/
def Alloc.stored (off n : Nat) (bs : Bytes) (a : Alloc) : Alloc := { (clearRows a off n) with data := a.data.putRun off bs }

section
variable (x : Alloc) (off n : Nat) (bs : Bytes)

theorem Alloc.stored_eq : ∃ c, x.stored off n bs = { x with cleared := c, data := x.data.putRun off bs } := by
  unfold Alloc.stored clearRows
  split <;> exact ⟨_, rfl⟩

theorem Alloc.byte_stored (o : Nat) :
    (x.stored off n bs).byte o = if off ≤ o ∧ o < off + bs.length then bs.getD (o - off) 0 else x.byte o := by
  obtain ⟨c, same⟩ := x.stored_eq off n bs
  rw [same]
  unfold Alloc.byte
  dsimp only
  rw [Cells.find_putRun]
  by_cases inside : off ≤ o ∧ o < off + bs.length
  · rw [if_pos inside, if_pos inside]
  · rw [if_neg inside, if_neg inside]

end

theorem performWrite_becomes (s : State) (who : Option Who) (un : Bool) (sy : Option (Nat × Nat)) (bs : Bytes) (t : Target) :
    Core.Becomes (t.stored bs) s.core (performWrite s who un sy bs t).core := by
  cases t with
  | glob ps => exact writePieces_stays who un none sy ps s bs
  | stash id off n ps =>
    refine (writePieces_stays who un (some id) sy ps s bs).trans (Core.Stays.modAlloc_lines ?_
      (touchLines_lines (writePieces s who un (some id) sy ps bs).core s.core.nowAt true off ps))
    obtain ⟨b, fills⟩ := healFills_only (writePieces s who un (some id) sy ps bs).core id off ps
    obtain ⟨b', heals⟩ := healScratch_only ((writePieces s who un (some id) sy ps bs).core.healFills id off ps) id off bs.length
    rw [heals, fills]
  | priv i off n =>
    obtain ⟨b, heals⟩ := healScratch_only s.core i off n
    refine Core.Becomes.trans (Core.Stays.of_allocs (by rw [heals])) (Core.Becomes.modAlloc (k := s.core.healScratch i off n)
      (f := Alloc.stored off n bs) (fun x => ?_) (fun x => ?_) (fun x => ?_) (fun id other b => ?_))
    · obtain ⟨c, same⟩ := x.stored_eq off n bs
      rw [same]
      exact ⟨rfl, rfl, rfl⟩
    · obtain ⟨c, same⟩ := x.stored_eq off n bs
      rw [same]
      exact ⟨rfl, rfl, rfl, rfl, rfl⟩
    · funext o
      show _ = if i = i ∧ off ≤ o ∧ o < off + bs.length then bs.getD (o - off) 0 else x.byte o
      rw [x.byte_stored off n bs o]
      simp only [eq_self, true_and]
    · funext o
      exact if_neg (fun h => other h.1)

theorem Alloc.unlayout_kept (ord : Nat) (x : Alloc) :
    ((x.unlayout ord).id = x.id ∧ (x.unlayout ord).freed = x.freed ∧ (x.unlayout ord).parked = x.parked) ∧ x.Kept (x.unlayout ord) ∧
      (x.unlayout ord).byte = x.byte := by
  unfold Alloc.unlayout
  split <;> exact ⟨⟨rfl, rfl, rfl⟩, ⟨rfl, rfl, rfl, rfl, rfl⟩, rfl⟩

theorem State.linear_stays (s : State) (sp : Space) (p : Word) : Core.Stays s.core (s.linear sp p).core := by
  cases sp with
  | global => exact .of_allocs rfl
  | scratch =>
    exact Core.Becomes.modAlloc (fun x => (x.unlayout_kept s.here.ord).1) (fun x => (x.unlayout_kept s.here.ord).2.1)
      (fun x => (x.unlayout_kept s.here.ord).2.2) (fun _ _ _ => rfl)

/-! ### Where a checked access lies -/

/-- Every piece lies in the frame of its translation. -/
def InFrames (ps : List Piece) : Prop := ∀ q ∈ ps, q.pa / 4096 = q.entry.frame

theorem checkVirtual_inFrames {s t : State} {root ptr : Word} {va n : Nat} {c : Chk} {who : Option Who} {sy : Option Nat} {lane : Nat}
    {ps : List Piece} (h : checkVirtual s root ptr va n c who sy lane = .ok (ps, t)) : InFrames ps := by
  intro q among
  obtain ⟨v, place, -⟩ := (checkVirtual_only h).2.2 q among
  omega

section
variable {sl : Ctx} {p : Word} {a : Alloc} {c : Chk} {who : Option Who} {sy : Option Nat} {lane : Nat}

theorem checkRow_inFrames {s t : State} {off n : Nat} {ps : List Piece} (h : checkRow s sl p a off n c who sy lane = .ok (ps, t)) : InFrames ps := by
  unfold checkRow at h
  split at h
  · cases h
  · split at h
    · cases h
    · split at h
      · cases h
      · split at h
        · cases h
        · dsimp only at h
          split at h
          · cases h
          · next met =>
            split at h
            · cases h
            · cases h
              split at met
              · exact checkVirtual_inFrames met
              · split at met
                · cases met
                · cases met
                  exact fun q among => absurd among List.not_mem_nil

theorem checkRows_inFrames : ∀ {l : List (Nat × Nat)} {s t : State} {ps : List Piece},
    checkRows s sl p a c who sy lane l = .ok (ps, t) → InFrames ps := by
  intro l
  induction l with
  | nil => intro s t ps h; cases h; exact fun q among => absurd among List.not_mem_nil
  | cons x r ih =>
    intro s t ps h
    simp only [checkRows] at h
    split at h
    · cases h
    · next row =>
      split at h
      · cases h
      · next rest =>
        cases h
        exact fun q among => (List.mem_append.mp among).elim (checkRow_inFrames row q) (ih rest q)

/-- What a checked access to scratch names. -/
theorem checkScratch_named {s t : State} {n : Nat} {tg : Target} (h : checkScratch s sl p n c who sy lane = .ok (tg, t)) :
    InFrames tg.pieces ∧ ∀ i off m, tg = .priv i off m → off = ptrOff p ∧ m = n := by
  unfold checkScratch at h
  split at h
  · cases h
  · split at h
    · cases h
    · split at h
      · cases h
      · split at h
        · cases h
        · next rows =>
          cases h
          split
          · exact ⟨checkRows_inFrames rows, fun _ _ _ priv => by cases priv⟩
          · exact ⟨fun q among => absurd among List.not_mem_nil, fun _ _ _ priv => by cases priv; exact ⟨rfl, rfl⟩⟩

theorem checkSpace_named {s t : State} {sp : Space} {n : Nat} {tg : Target} (h : checkSpace s sl sp p n c who sy lane = .ok (tg, t)) :
    InFrames tg.pieces ∧ ∀ i off m, tg = .priv i off m → off = ptrOff p ∧ m = n := by
  unfold checkSpace at h
  split at h
  · split at h
    · cases h
    · next checked =>
      cases h
      refine ⟨fun q among => ?_, fun _ _ _ priv => by cases priv⟩
      obtain ⟨v, place, -⟩ := (checkGlobal_only checked).2.2 q among
      omega
  · exact checkScratch_named h

/-- A global access lies in its granules as its pointer does. -/
theorem checkSpace_global_at {s t : State} {n : Nat} {tg : Target} (h : checkSpace s sl .global p n c who sy lane = .ok (tg, t)) {i y : Nat}
    (at' : tg.places[i]? = some y) : y % 4096 = (p.toNat + i) % 4096 := by
  unfold checkSpace at h
  dsimp only at h
  split at h
  · cases h
  · next ps _ checked =>
    cases h
    have follows := congrArg (fun l => l[i]?) (checkGlobal_follows checked)
    have at' : (placesOf ps)[i]? = some y := at'
    rw [List.getElem?_map, List.getElem?_map, at'] at follows
    obtain ⟨z, found, place⟩ := Option.map_eq_some_iff.mp follows.symm
    obtain ⟨inside, rfl⟩ := List.getElem?_eq_some_iff.mp found
    rw [List.getElem_range', fld_zero] at place
    have place : (p.toNat % 2 ^ 56 + 1 * i) % 4096 = y % 4096 := place
    omega

end

theorem Target.Reaches.length {s : State} {n : Nat} {tg : Target} (h : tg.Reaches s n) (shared : ∀ id off, tg ≠ .priv id off n) :
    tg.places.length = n := by
  cases tg with
  | glob ps => obtain ⟨v, follows⟩ := h; exact follows.length
  | stash id off m ps => obtain ⟨v, follows⟩ := h; exact follows.length
  | priv id off m => obtain ⟨rfl, -⟩ := h; exact absurd rfl (shared id off)

/-! ### Contexts and the core under an access -/

/-- What LD and ST leave of the core, their result aside. -/
structure CoreRests (s t : State) : Prop where
  rs : t.core.rs = s.core.rs
  trace : t.core.trace = s.core.trace
  task : t.core.task = s.core.task
  seed : t.core.seed = s.core.seed

theorem CoreRests.seedNow {s t : State} (h : CoreRests s t) : t.core.seedNow = s.core.seedNow := by
  unfold Core.seedNow
  rw [h.task, h.seed]

theorem CoreRests.trans {s t u : State} (h : CoreRests s t) (h' : CoreRests t u) : CoreRests s u :=
  ⟨h'.rs.trans h.rs, h'.trace.trans h.trace, h'.task.trans h.task, h'.seed.trans h.seed⟩

theorem Accessed.coreRests {s t : State} (h : Accessed s t) : CoreRests s t ∧ t.core.flights = s.core.flights ∧ t.core.cur = s.core.cur ∧
    t.core.merged = s.core.merged := by
  obtain ⟨⟨l, c, x, al, tlb, pf, bad, -, -, -, hk⟩, -⟩ := h
  exact ⟨⟨by rw [hk], by rw [hk], by rw [hk], by rw [hk]⟩, by rw [hk], by rw [hk], by rw [hk]⟩

/-- An access changes of a context its monitor alone. -/
theorem Accessed.ctx {s t : State} (h : Accessed s t) (c : Ctx) : ∃ m, t.core.ctx c = { s.core.ctx c with monitor := m } := by
  obtain ⟨⟨l, c', x, al, tlb, pf, bad, hl, hc, hx, hk⟩, -⟩ := h
  rw [hk]
  cases c
  · exact hl
  · exact hc
  · exact hx

theorem SameCore.coreRests {u t : State} (h : SameCore u.core t.core) : CoreRests u t := by
  obtain ⟨-, -, rs, -, -, -, task, -, -, -, -, -, -, -, trace, -, -, seed, -, -⟩ := h
  exact ⟨rs, trace, task, seed⟩

theorem passed_sameCore (s u : State) : SameCore u.core (passed s u).core := (SameCore.issued u _ _).trans (SameCore.advance _)

theorem passed_mem (s u : State) : (passed s u).mem = s.mem.commit u.wlog := by
  obtain ⟨reachLog, -⟩ := reach_only ((u.issued s.here.ord s.lpc).modHere (fun k =>
    let k1 := { k with pc := k.pc + 12 }
    if (u.issued s.here.ord s.lpc).place = .slice ∧ k1.pc.toNat = k.secEnd then k1.endSection else k1))
  exact congrArg s.mem.commit reachLog

/-! ### LD -/

/-- What a scalar result without flags leaves, in flight or landed. -/
theorem landReg_rests (t : State) (d : Dst) (v : Word) (lat : Nat) (far : Bool) :
    let u := t.landReg d v lat 0 far
    u.mem = t.mem ∧ u.wlog = t.wlog ∧ CoreRests t u ∧
      (∀ c n, ¬(c = t.core.cur ∧ n = d.reg ∧ d.wbs = false) → (u.core.ctx c).get n = (t.core.ctx c).get n) ∧
      ∀ c, (u.core.ctx c).fflags = (t.core.ctx c).fflags ∧ (u.core.ctx c).round = (t.core.ctx c).round ∧ (u.core.ctx c).view = (t.core.ctx c).view := by
  cases far with
  | true =>
    have flies : t.landReg d v lat 0 true = t.modCore (fun k => { k with flights := (t.landReg d v lat 0 true).core.flights }) := by
      have add : ∃ fs, t.landReg d v lat 0 true = t.modCore (fun k => { k with flights := fs }) :=
        ⟨_, if_neg (by rw [Bool.not_true, Bool.and_false]; exact Bool.false_ne_true)⟩
      obtain ⟨fs, same⟩ := add
      rw [same]
      rfl
    rw [flies]
    exact ⟨rfl, rfl, ⟨rfl, rfl, rfl, rfl⟩, fun c n _ => by cases c <;> rfl, fun c => by cases c <;> exact ⟨rfl, rfl, rfl⟩⟩
  | false =>
    obtain ⟨mem, -, -, wlog, regs, -, rest, -, core⟩ := landReg_frame t d v lat 0
    have core : SameCore { t.core with flights := (t.landReg d v lat 0).core.flights } (t.landReg d v lat 0).core := core
    refine ⟨mem, wlog, ?_, fun c n other => regs c n ?_, fun c => ?_⟩
    · obtain ⟨rs, trace, task, seed⟩ := SameCore.coreRests (u := t.modCore (fun k => { k with flights := (t.landReg d v lat 0).core.flights })) core
      exact ⟨rs, trace, task, seed⟩
    · by_cases ctx : c = t.core.cur
      · by_cases reg : n = d.reg
        · exact .inr (.inr (.inr (.inl (Bool.eq_true_of_not_eq_false fun lands => other ⟨ctx, reg, lands⟩))))
        · exact .inr (.inl reg)
      · exact .inl ctx
    · obtain ⟨view, round, -, -, -, -, flags⟩ := rest c
      refine ⟨flags.trans ?_, round, view⟩
      split
      · exact BitVec.or_zero
      · rfl

theorem ld_frame {s s1 t : State} {l : LoadOp} {p : Word} {tg : Target} (ready : Ready (.ld l) l.g s)
    (compute : l.space = .scratch → s.core.hub = false) (addr : mAddr s l.space (s.src l.a) l.off = .ok p)
    (checked : checkSpace s s.core.cur l.space p (sizeBytes l.size) { wr := false } s.who none 0 = .ok (tg, s1))
    (unwatched : watched s l.space p (sizeBytes l.size) false = false) (run : exec (.ld l) s = .next t) :
    t.mem = s.mem ∧ CoreRests s t ∧
      (∀ c n, ¬(c = s.core.cur ∧ n = l.d.reg ∧ l.d.wbs = false) → (t.core.ctx c).get n = (s.core.ctx c).get n) ∧
      ∀ c, (t.core.ctx c).fflags = (s.core.ctx c).fflags ∧ (t.core.ctx c).round = (s.core.ctx c).round ∧ (t.core.ctx c).view = (s.core.ctx c).view := by
  have completes := ld_completes ready compute addr checked unwatched
  unfold Completes at completes
  rw [completes] at run
  obtain rfl := Host.Outcome.next.inj run
  have reads : OnlyRead s (performRead s1 s1.who none tg) := (checkSpace_only checked).onlyRead.trans (performRead_onlyRead ..)
  obtain ⟨rests, -, cur, -⟩ := reads.coreRests
  obtain ⟨mem, wlog, lands, regs, ctx⟩ := landReg_rests (performRead s1 s1.who none tg) l.d (extend l.sx (readTarget s1 tg)) 8
    (outsideCore s l.space p (sizeBytes l.size))
  obtain ⟨mem', -, -, core, ctx'⟩ := passed_rests (s := s) (mem.trans reads.mem) (wlog.trans (reads.wlog.trans ready.between))
  refine ⟨mem'.trans (mem.trans reads.mem), (rests.trans lands).trans core.coreRests, fun c n other => ?_, fun c => ?_⟩
  · refine (Context.get_congr (ctx' c).1 n).trans ((regs c n ?_).trans (reads.get c n))
    rwa [cur]
  · obtain ⟨-, -, view', flags', round', -⟩ := ctx' c
    obtain ⟨flags, round, view⟩ := ctx c
    obtain ⟨m, monitor⟩ := reads.ctx c
    rw [monitor] at flags round view
    exact ⟨flags'.trans flags, round'.trans round, view'.trans view⟩

/-! ### ST -/

theorem OnlyTlb.allocs {s t : State} (h : OnlyTlb s t) : t.core.allocs = s.core.allocs := by
  obtain ⟨l, p, rfl⟩ := h
  rfl

theorem State.notifyStore_rests (s : State) (sp : Space) (p : Word) (n : Nat) (v : Word) :
    (s.notifyStore sp p n v).core = s.core ∧ (s.notifyStore sp p n v).mem = s.mem ∧ (s.notifyStore sp p n v).wlog = s.wlog := by
  unfold State.notifyStore
  split
  · next e _ _ =>
    dsimp only
    generalize (s.m.notifyPage.filter _).map _ = register
    have mine : ∀ t : State, t.core = s.core → t.mem = s.mem → t.wlog = s.wlog → ∀ pa learn,
        (t.notified pa n v learn).core = s.core ∧ (t.notified pa n v learn).mem = s.mem ∧ (t.notified pa n v learn).wlog = s.wlog := by
      intro t core mem wlog pa learn
      obtain ⟨qs, acts, same⟩ := t.notified_eq pa n v learn
      rw [same]
      exact ⟨core, mem, wlog⟩
    cases register with
    | none => exact mine s rfl rfl rfl ..
    | some q =>
      dsimp only
      split
      · exact mine s rfl rfl rfl ..
      · exact mine (s.modM _) rfl rfl rfl ..
  · exact ⟨rfl, rfl, rfl⟩

/-- A store of v whose checks have passed, before the notify page sees it. -/
def State.storedLinear (s : State) (w : StoreOp) (p v : Word) (tg : Target) : State :=
  (performWrite s s.who s.unchecked none (leBytes (sizeBytes w.size) v.toNat) tg).linear w.space p

/-- The effect of an ST whose checks have passed. -/
def State.storedAt (s : State) (w : StoreOp) (p v : Word) (tg : Target) : State :=
  (s.storedLinear w p v tg).notifyStore w.space p (sizeBytes w.size) v

section
variable (s : State) (w : StoreOp) (p v : Word) (tg : Target)

theorem State.linear_accessed (sp : Space) : Accessed s (s.linear sp p) := by
  cases sp with
  | global => exact .refl _
  | scratch => exact Accessed.modAlloc (s := s) (g := fun k => k) (fun k => ⟨k.badScratch, rfl⟩) (ptrId p) (fun _ => Alloc.unlayout s.here.ord)

theorem State.storedAt_accessed : Accessed s (s.storedAt w p v tg) := by
  obtain ⟨core, mem, -⟩ := (s.storedLinear w p v tg).notifyStore_rests w.space p (sizeBytes w.size) v
  exact ((performWrite_accessed ..).trans (State.linear_accessed ..)).trans (.outside core mem)

theorem State.storedAt_becomes :
    Core.Becomes (tg.stored (leBytes (sizeBytes w.size) v.toNat)) s.core (s.storedAt w p v tg).core := by
  obtain ⟨core, -, -⟩ := (s.storedLinear w p v tg).notifyStore_rests w.space p (sizeBytes w.size) v
  unfold State.storedAt
  rw [core]
  exact (performWrite_becomes s s.who s.unchecked none (leBytes (sizeBytes w.size) v.toNat) tg).trans
    ((performWrite s s.who s.unchecked none (leBytes (sizeBytes w.size) v.toNat) tg).linear_stays w.space p)

theorem State.storedAt_commit (c : Cells) :
    c.commit (s.storedAt w p v tg).wlog = putPieces (c.commit s.wlog) tg.pieces (leBytes (sizeBytes w.size) v.toNat) := by
  obtain ⟨-, -, wlog⟩ := (s.storedLinear w p v tg).notifyStore_rests w.space p (sizeBytes w.size) v
  unfold State.storedAt
  rw [wlog]
  refine Eq.trans ?_ (commit_performWrite c s s.who s.unchecked none (leBytes (sizeBytes w.size) v.toNat) tg)
  unfold State.storedLinear
  cases w.space <;> rfl

end

/-- ST completes outside a handler, and in one where it stores to the fault record (15 R244). -/
theorem st_stores {s s1 : State} {w : StoreOp} {p : Word} {tg : Target} (ready : Ready (.st w) w.g s)
    (compute : w.space = .scratch → s.core.hub = false)
    (allowed : w.space = .global → s.core.inHandler = true → inRecord s p (sizeBytes w.size) = true)
    (addr : mAddr s w.space (s.src w.a) w.off = .ok p)
    (checked : checkSpace s s.core.cur w.space p (sizeBytes w.size) { wr := true } s.who none 0 = .ok (tg, s1))
    (unwatched : watched s w.space p (sizeBytes w.size) true = false) : Completes (.st w) s (s1.storedAt w p (s.src w.b) tg) := by
  have frame : exec (.st w) s = execSt w s := rfl
  unfold execSt at frame
  have long := leBytes_length (sizeBytes w.size) (s.src w.b).toNat
  have open' : (s.core.inHandler && (w.space == .global && !inRecord s (s.src w.a + w.off.signExtend 64) (sizeBytes w.size))) = false := by
    cases handler : s.core.inHandler with
    | false => rfl
    | true =>
      cases space : w.space with
      | scratch => rfl
      | global =>
        rw [space] at addr
        unfold mAddr globalAdd at addr
        dsimp only at addr
        split at addr
        · cases addr
        · rw [Except.ok.inj addr, allowed space handler]
          rfl
  refine completes_access_like frame ready compute ?_ ((checkSpace_only checked).like.trans (s1.storedAt_accessed w p (s.src w.b) tg).calm.like)
  unfold outwardAccess outward
  rw [open', if_neg Bool.false_ne_true]
  dsimp only
  rw [storeBody, if_neg Bool.false_ne_true, addr]
  dsimp only
  rw [memWrite_plain (by rw [long]; exact checked) (by rw [long]; exact unwatched)]
  rfl

/-- The low bytes of a word. -/
theorem leBytes_getD_extract {n i : Nat} (inside : i < n) (v : Word) : (leBytes n v.toNat).getD i 0 = v.extractLsb' (8 * i) 8 := by
  rw [leBytes_getD inside]
  refine BitVec.eq_of_toNat_eq ?_
  rw [BitVec.toNat_ofNat, BitVec.extractLsb'_toNat, Nat.shiftRight_eq_div_pow]

theorem sizeBytes_small (z : Size) : sizeBytes z ≤ 4096 := by
  cases z <;> decide

theorem Target.Reaches.index_lt {s : State} {n : Nat} {tg : Target} (h : tg.Reaches s n) {i y : Nat} (at' : tg.places[i]? = some y) : i < n := by
  obtain ⟨inside, -⟩ := List.getElem?_eq_some_iff.mp at'
  cases tg with
  | glob ps => rwa [h.length fun _ _ => nofun] at inside
  | stash id off m ps => rwa [h.length fun _ _ => nofun] at inside
  | priv id off m => cases at'

/-- What a store of n bytes at a pointer does to a byte of an allocation. -/
theorem Target.stored_byte {tg : Target} {p v : Word} {n : Nat} (named : ∀ i off m, tg = .priv i off m → off = ptrOff p ∧ m = n)
    (id : BitVec 8) (b : Nat → Byte) (o : Nat) : tg.stored (leBytes n v.toNat) id b o =
      if tg = .priv id (ptrOff p) n ∧ ptrOff p ≤ o ∧ o < ptrOff p + n then v.extractLsb' (8 * (o - ptrOff p)) 8 else b o := by
  cases tg with
  | glob ps => exact (if_neg fun h => nomatch h.1).symm
  | stash i off m ps => exact (if_neg fun h => nomatch h.1).symm
  | priv i off m =>
    obtain ⟨rfl, rfl⟩ := named i off m rfl
    unfold Target.stored
    dsimp only
    rw [leBytes_length]
    by_cases inside : id = i ∧ ptrOff p ≤ o ∧ o < ptrOff p + m
    · obtain ⟨rfl, low, high⟩ := inside
      rw [if_pos ⟨rfl, low, high⟩, if_pos ⟨rfl, low, high⟩, leBytes_getD_extract (by omega)]
    · rw [if_neg inside, if_neg fun h => inside ⟨(Target.priv.inj h.1).1.symm, h.2⟩]

/-- Settles O13: a load by what a read leaves, a store by its bytes, its allocations and its contexts. -/
theorem loadAndStoreFrame : Obligations.LoadAndStoreFrame := by
  unfold Obligations.LoadAndStoreFrame
  intro s s1 t l w p tg inv
  obtain ⟨wf, -⟩ := inv
  constructor
  · intro ready compute addr checked unwatched run
    obtain ⟨mem, core, regs, ctx⟩ := ld_frame ready compute addr checked unwatched run
    exact ⟨fun a => by rw [mem], regs, ctx, core.rs, core.trace, core.seedNow⟩
  · intro ready compute allowed addr checked unwatched run n
    have completes := st_stores ready compute allowed addr checked unwatched
    unfold Completes at completes
    rw [completes] at run
    obtain rfl := Host.Outcome.next.inj run
    have tlb := (checkSpace_only checked).onlyRead
    have reaches := checkSpace_reaches checked
    obtain ⟨frames, named⟩ := checkSpace_named checked
    have accessed : Accessed s (s1.storedAt w p (s.src w.b) tg) := tlb.toAccessed.trans (s1.storedAt_accessed w p (s.src w.b) tg)
    have stored : (passed s (s1.storedAt w p (s.src w.b) tg)).mem = putPieces s.mem tg.pieces (leBytes n (s.src w.b).toNat) := by
      rw [passed_mem, State.storedAt_commit, tlb.wlog, ready.between]
      rfl
    have same := passed_sameCore s (s1.storedAt w p (s.src w.b) tg)
    obtain ⟨rests, flights, -, -⟩ := accessed.coreRests
    have core := rests.trans same.coreRests
    refine ⟨fun a out => ?_, reaches.length, fun i a at' => ⟨?_, fun space => ?_⟩, frames, fun id x found => ?_, fun c m => ?_, fun c => ?_,
      core.rs, core.trace, core.seedNow, same.2.1.trans flights⟩
    · rw [stored]
      exact get_putPieces_other wf _ out
    · rw [stored, reaches.get_putPieces (sizeBytes_small w.size) wf (leBytes_length ..) at', leBytes_getD_extract (reaches.index_lt at')]
    · rw [space] at checked
      exact checkSpace_global_at checked at'
    · have becomes := ((Core.Stays.of_allocs (checkSpace_only checked).allocs).trans (s1.storedAt_becomes w p (s.src w.b) tg)).trans
        (Core.Stays.of_allocs same.2.2.2.1)
      obtain ⟨y, found, kept, bytes⟩ := becomes id x found
      exact ⟨y, found, kept.base, kept.size, kept.tag, kept.window, kept.expiry,
        fun o => (congrFun bytes o).trans (Target.stored_byte named id x.byte o)⟩
    · exact (Context.get_congr (passed_ctx s (s1.storedAt w p (s.src w.b) tg) c).1 m).trans (accessed.get c m)
    · obtain ⟨-, latch, view, fflags, round, -⟩ := passed_ctx s (s1.storedAt w p (s.src w.b) tg) c
      obtain ⟨m, monitor⟩ := accessed.ctx c
      rw [monitor] at latch view fflags round
      exact ⟨fflags, round, view, latch⟩

end Sys2Proof.Machine
end
